-- ==== Sys2Proof/Word.lean ====
section
/-! DEFINITION. The word types of the module: a byte of any space and the 64-bit word of a register. -/

namespace Sys2Proof

/-- One byte of an address space. -/
abbrev Byte := BitVec 8

/-- One 64-bit register of BAR0, or one 64-bit word of a record. -/
abbrev Word := BitVec 64

end Sys2Proof
end

