-- ==== Sys2Proof/Machine/Bits.lean ====
section
/-! DEFINITION. Bit fields, byte order, saturation and signed reading of the numbers the registers and records hold. -/

namespace Sys2Proof.Machine

/-- Bits [hi:lo] of a natural number. -/
def natBits (n hi lo : Nat) : Nat := (n >>> lo) % 2 ^ (hi + 1 - lo)

/-- Field [hi:lo] of a register word. -/
def fieldOf (w : Word) (hi lo : Nat) : Nat := natBits w.toNat hi lo

/-- A register word with field [hi:lo] replaced by `v` (taken modulo the field's width). -/
def withField (w : Word) (hi lo v : Nat) : Word :=
  let m := 2 ^ (hi + 1 - lo)
  BitVec.ofNat 64 (w.toNat - (natBits w.toNat hi lo) * 2 ^ lo + (v % m) * 2 ^ lo)

/-- One bit of a natural number. -/
def natBit (n k : Nat) : Bool := natBits n k k == 1

/-- One bit of a register word. -/
def bitOf (w : Word) (k : Nat) : Bool := natBit w.toNat k

/-- 1 for true, 0 for false. -/
def b2n (b : Bool) : Nat := if b then 1 else 0

/-- A natural number below 2^w read as two's complement. -/
def signedOf (w n : Nat) : Int := if n < 2 ^ (w - 1) then (n : Int) else (n : Int) - (2 ^ w : Nat)

/-- An integer written modulo 2^w. -/
def wrapInt (w : Nat) (z : Int) : Nat := (z % (2 ^ w : Nat)).toNat

/-- `n + k`, stopping at the largest number of `w` bits. -/
def satAdd (w n k : Nat) : Nat := if n + k < 2 ^ w then n + k else 2 ^ w - 1

/-- The number that bytes spell, least significant byte first (R42). -/
def leNat : List Byte → Nat
  | [] => 0
  | b :: t => b.toNat + 256 * leNat t

/-- The `k` low bytes of a number, least significant byte first (R42). -/
def leBytes : Nat → Nat → List Byte
  | 0, _ => []
  | k + 1, n => BitVec.ofNat 8 n :: leBytes k (n / 256)

/-- The numbers `start`, `start + step`, … of a run of `n`. -/
def strideList (start step : Nat) : Nat → List Nat
  | 0 => []
  | n + 1 => start :: strideList (start + step) step n

/-- `start, start + 1, …` of length `n`. -/
def upFrom (start n : Nat) : List Nat := strideList start 1 n

/-- n / d rounded up. -/
def ceilDiv (n d : Nat) : Nat := if d = 0 then 0 else (n + d - 1) / d

/-- A list cut into runs of `k` (the last may be shorter). -/
def chunksOf {α : Type} (k : Nat) : Nat → List α → List (List α)
  | 0, _ => []
  | _ + 1, [] => []
  | fuel + 1, l => l.take k :: chunksOf k fuel (l.drop k)

/-- floor(log2 n), 0 for n = 0. -/
def log2Floor (n : Nat) : Nat := n.log2

/-- Smallest e with n ≤ 2^e (0 for n ≤ 1). -/
def log2Ceil (n : Nat) : Nat := if n ≤ 1 then 0 else (n - 1).log2 + 1

/-- An element of a list by index, with a value for an index past its end. -/
def nth {α : Type} (l : List α) (k : Nat) (d : α) : α := l.getD k d

/-- A list with the element at an index replaced (unchanged past its end). -/
def setNth {α : Type} (l : List α) (k : Nat) (v : α) : List α := l.set k v

/-- Repeat a state change over a list of numbers. -/
def overList {σ α : Type} (f : α → σ → σ) : List α → σ → σ
  | [], s => s
  | x :: t, s => overList f t (f x s)

/-- Repeat a state change that also yields a result over a list. -/
def collect {σ α β : Type} (f : α → σ → σ × β) : List α → σ → σ × List β
  | [], s => (s, [])
  | x :: t, s =>
    let (s1, y) := f x s
    let (s2, ys) := collect f t s1
    (s2, y :: ys)

/-- Difference of two 32-bit indexes or slot counts (R262, R309). -/
def diff32 (a b : Nat) : Nat := (a + 2 ^ 32 - b % 2 ^ 32) % 2 ^ 32

end Sys2Proof.Machine
end

