-- ==== Sys2Proof/Machine/Codes.lean ====
section
/-! DEFINITION. The check codes of the module: the (36,32) Reed-Solomon code of a stack word (R141, R142), the (72,64) code of an
SRAM word (R165), the path CRC (R148), CRC-32 (R82) and the billet CRC-64 (R332). Symbols and words are natural numbers. -/

namespace Sys2Proof.Machine

/-- Multiplication by α = 0x02 in GF(2^8) on 0x11D (R141). -/
def gfDouble (a : Nat) : Nat := if a < 128 then 2 * a else (2 * a) ^^^ 0x11D

/-- Multiplication in GF(2^8) by a constant given as its bits, least significant first. -/
def gfMulBits : List Bool → Nat → Nat
  | [], _ => 0
  | b :: t, a => (if b then a else 0) ^^^ gfMulBits t (gfDouble a)

/-- Multiplication in GF(2^8) (R141). -/
def gfMul (a b : Nat) : Nat := gfMulBits ((List.range 8).map (natBit b)) a

/-- α^j applied to a symbol, j times. -/
def gfAlpha : Nat → Nat → Nat
  | 0, a => a
  | j + 1, a => gfAlpha j (gfDouble a)

/-- One step of division by g(x) = x^4 + 0x0F x^3 + 0x36 x^2 + 0x78 x + 0x40 (R141); the remainder is (r0, r1, r2, r3). -/
def rsStep (r : Nat × Nat × Nat × Nat) (c : Nat) : Nat × Nat × Nat × Nat :=
  let f := c ^^^ r.2.2.2
  (gfMul f 0x40, r.1 ^^^ gfMul f 0x78, r.2.1 ^^^ gfMul f 0x36, r.2.2.1 ^^^ gfMul f 0x0F)

/-- The four check symbols c_0 … c_3 of the 32 data bytes of a word (R142). -/
def rsEncode (data : List Byte) : List Nat :=
  let r := data.reverse.foldl (fun r b => rsStep r b.toNat) (0, 0, 0, 0)
  [r.1, r.2.1, r.2.2.1, r.2.2.2]

/-- The codeword c_0 … c_35 of check symbols and data (R142). -/
def rsWord (chk : List Nat) (data : List Byte) : List Nat := chk ++ data.map (·.toNat)

/-- Syndrome S_j = c(α^j) (R142), by Horner's rule from c_35 down. -/
def rsSyndrome (c : List Nat) (j : Nat) : Nat := c.reverse.foldl (fun a x => gfAlpha j a ^^^ x) 0

/-- The four syndromes of a codeword. -/
def rsSyndromes (c : List Nat) : List Nat := (List.range 4).map (rsSyndrome c)

/-- The position i, from `i` up, with S_j = e α^(i j) for j = 0 … 3, given e α^(i j) at the current i (R143). -/
def rsLocate (syn : List Nat) : Nat → Nat → List Nat → Option Nat
  | 0, _, _ => none
  | fuel + 1, i, cur =>
    if cur = syn then some i
    else rsLocate syn fuel (i + 1) ((List.range 4).zipWith (fun j v => gfAlpha j v) cur)

/-- The classes a decoder puts a word into (R143). -/
inductive WordClass where
  | invalid | clean | poison
  /-- One symbol or bit at this position was put right. -/
  | corrected (pos : Nat)
  | uncorrectable
  deriving DecidableEq, Repr

/-- The syndrome that marks a poisoned word (R143). -/
def poisonSyndrome : List Nat := [0, 0, 0, 1]

/-- Class and data of a valid stored word (R143, classes 2 to 5). -/
def rsDecode (chk : List Nat) (data : List Byte) : WordClass × List Byte :=
  let syn := rsSyndromes (rsWord chk data)
  let e := nth syn 0 0
  if syn = [0, 0, 0, 0] then (.clean, data)
  else if syn = poisonSyndrome then (.poison, data)
  else if e = 0 then (.uncorrectable, data)
  else match rsLocate syn 36 0 [e, e, e, e] with
    | some p =>
      (.corrected p,
        if p < 4 then data
        else setNth data (p - 4) (BitVec.ofNat 8 ((nth data (p - 4) 0).toNat ^^^ e)))
    | none => (.uncorrectable, data)

/-- The check symbols whose codeword's remainder at the syndromes is (0,0,0,1): the unique weight on c_0 … c_3 that adds the
poison syndrome (R152). The four symbols solve the Vandermonde system of α^0 … α^3. -/
def poisonOffset : List Nat := [0x79, 0x92, 0x49, 0xA2]

/-- Check symbols that mark the given data as poison (R152). -/
def rsPoison (data : List Byte) : List Nat := (rsEncode data).zipWith (· ^^^ ·) poisonOffset

/-- Number of ones among the 8 low bits. -/
def weight8 (n : Nat) : Nat := (List.range 8).foldl (fun a k => a + natBits n k k) 0

/-- The columns of the 64 data bits of the SRAM code (R165). -/
def sramColumns : List Nat :=
  (List.range 256).filter (fun n => weight8 n == 3) ++ [0x1F, 0x2F, 0x37, 0x3B, 0x3D, 0x3E, 0x4F, 0x57]

/-- Check bits of an 8-byte SRAM word (R165). -/
def sramCheckFrom : List Nat → Nat → Nat
  | [], _ => 0
  | c :: t, w => (if w % 2 = 1 then c else 0) ^^^ sramCheckFrom t (w / 2)

/-- Check bits of an 8-byte SRAM word given as a number (R165). -/
def sramEncode (w : Nat) : Nat := sramCheckFrom sramColumns w

/-- Class and value of an SRAM word that is valid and not poisoned (R165). -/
def sramDecode (chk w : Nat) : WordClass × Nat :=
  let syn := chk ^^^ sramEncode w
  if syn = 0 then (.clean, w)
  else match (sramColumns ++ (List.range 8).map (2 ^ ·)).findIdx? (· == syn) with
    | some p => (.corrected p, if p < 64 then w ^^^ 2 ^ p else w)
    | none => (.uncorrectable, w)

/-- One bit-serial step of a CRC of width `w` with polynomial `poly`, most significant bit first. -/
def crcBitStep (w poly : Nat) (r : Nat) (bit : Nat) : Nat :=
  let top := natBits r (w - 1) (w - 1) ^^^ bit
  let r2 := (2 * r) % 2 ^ w
  if top = 1 then r2 ^^^ poly else r2

/-- A CRC over bytes, most significant bit of each byte first, no reflection. -/
def crcMsb (w poly : Nat) (init : Nat) (data : List Byte) : Nat :=
  data.foldl (fun r b => (List.range 8).foldl (fun r k => crcBitStep w poly r (natBits b.toNat (7 - k) (7 - k))) r) init

/-- The path CRC of a piece of up to 32 bytes: x^16 + x^12 + x^5 + 1 from 0xFFFF, padded with zero bytes (R148). -/
def pathCrc (data : List Byte) : Nat :=
  crcMsb 16 0x1021 0xFFFF (data ++ List.replicate (32 - data.length) 0)

/-- One bit-serial step of a reflected CRC. -/
def crcLsbStep (poly : Nat) (r : Nat) (bit : Nat) : Nat :=
  if (r % 2) ^^^ bit = 1 then (r / 2) ^^^ poly else r / 2

/-- A reflected CRC over bytes, least significant bit of each byte first. -/
def crcLsb (poly init : Nat) (data : List Byte) : Nat :=
  data.foldl (fun r b => (List.range 8).foldl (fun r k => crcLsbStep poly r (natBits b.toNat k k)) r) init

/-- CRC-32 with the IEEE 802.3 polynomial, in its usual reflected form with initial value and final XOR all ones (R82). -/
def crc32 (data : List Byte) : Nat := crcLsb 0xEDB88320 0xFFFFFFFF data ^^^ 0xFFFFFFFF

/-- CRC-64/XZ: the reflected ECMA-182 polynomial with initial value and final XOR all ones (R332). -/
def crc64 (data : List Byte) : Nat :=
  crcLsb 0xC96C5795D7870F42 0xFFFFFFFFFFFFFFFF data ^^^ 0xFFFFFFFFFFFFFFFF

/-- CRC-64/XZ carried on from an earlier value of it (R332). -/
def crc64From (prev : Nat) (data : List Byte) : Nat :=
  crcLsb 0xC96C5795D7870F42 (prev ^^^ 0xFFFFFFFFFFFFFFFF) data ^^^ 0xFFFFFFFFFFFFFFFF

end Sys2Proof.Machine
end

