-- ==== Sys2Proof/Machine/Formats.lean ====
section
/-! DEFINITION. Exact values, the twelve element formats and the conversion of an exact value to a stored bit pattern
(spec/02_number_formats_and_layout.md, R34 to R55; rounding R44, R78, R79). -/

namespace Sys2Proof.Machine

/-- An exact value: (-1)^neg * num / den * 2^exp, an infinity, or a NaN (payloads are not carried, R39). `den` is never 0. -/
inductive ExNum where
  | nan
  | inf (neg : Bool)
  | fin (neg : Bool) (num den : Nat) (exp : Int)
  deriving DecidableEq, Repr

/-- The element formats of R34. -/
inductive Fmt where
  | fp32 | fp16 | bf16 | e4m3 | e5m2 | e3m2 | e2m3 | e2m1 | int8 | int4 | int32 | ue8m0
  deriving DecidableEq, Repr

/-- The format a 4-bit code names; reserved codes name none (R34, R35). -/
def fmtOf : Nat → Option Fmt
  | 0x0 => some .fp32 | 0x1 => some .fp16 | 0x2 => some .bf16 | 0x3 => some .e4m3 | 0x4 => some .e5m2
  | 0x5 => some .e3m2 | 0x6 => some .e2m3 | 0x7 => some .e2m1 | 0x8 => some .int8 | 0x9 => some .int4
  | 0xA => some .int32 | 0xB => some .ue8m0 | _ => none

/-- Bits per element (R34). -/
def fmtBits : Fmt → Nat
  | .fp32 | .int32 => 32
  | .fp16 | .bf16 => 16
  | .e4m3 | .e5m2 | .int8 | .ue8m0 => 8
  | .e3m2 | .e2m3 => 6
  | .e2m1 | .int4 => 4

/-- Exponent bits, mantissa bits and bias of a floating-point format (R36); none for the others. -/
def fmtFloat : Fmt → Option (Nat × Nat × Nat)
  | .fp32 => some (8, 23, 127) | .fp16 => some (5, 10, 15) | .bf16 => some (8, 7, 127)
  | .e4m3 => some (4, 3, 7) | .e5m2 => some (5, 2, 15) | .e3m2 => some (3, 2, 3)
  | .e2m3 => some (2, 3, 1) | .e2m1 => some (2, 1, 1)
  | .int8 | .int4 | .int32 | .ue8m0 => none

/-- Has the format infinities (R34)? -/
def fmtHasInf : Fmt → Bool
  | .fp32 | .fp16 | .bf16 | .e5m2 => true
  | _ => false

/-- Has the format a NaN (R34)? -/
def fmtHasNan : Fmt → Bool
  | .fp32 | .fp16 | .bf16 | .e4m3 | .e5m2 | .ue8m0 => true
  | _ => false

/-- The encoding of the largest finite magnitude, sign bit clear (R36). -/
def fmtMaxCode : Fmt → Nat
  | .fp32 => 0x7F7FFFFF | .fp16 => 0x7BFF | .bf16 => 0x7F7F | .e4m3 => 0x7E | .e5m2 => 0x7B
  | .e3m2 => 31 | .e2m3 => 31 | .e2m1 => 7 | .int8 => 127 | .int4 => 7 | .int32 => 2147483647 | .ue8m0 => 0xFE

/-- The canonical NaN a unit writes (R39); 0 where the format has none. -/
def fmtNanCode : Fmt → Nat
  | .fp32 => 0x7FC00000 | .fp16 => 0x7E00 | .bf16 => 0x7FC0 | .e4m3 => 0x7F | .e5m2 => 0x7E | .ue8m0 => 0xFF
  | _ => 0

/-- +infinity's encoding in the formats that have one (R36). -/
def fmtInfCode : Fmt → Nat
  | .fp32 => 0x7F800000 | .fp16 => 0x7C00 | .bf16 => 0x7F80 | .e5m2 => 0x7C
  | _ => 0

/-- Is the format one of the integers of R40? -/
def fmtIsInt : Fmt → Bool
  | .int8 | .int4 | .int32 => true
  | _ => false

/-- +0. -/
def numZero : ExNum := .fin false 0 1 0

/-- An integer as an exact value. -/
def numOfInt (z : Int) : ExNum := .fin (z < 0) z.natAbs 1 0

/-- z * 2^e as an exact value. -/
def numOfScaled (z : Int) (e : Int) : ExNum := .fin (z < 0) z.natAbs 1 e

/-- A finite value of magnitude zero, of either sign. -/
def numIsZero : ExNum → Bool
  | .fin _ 0 _ _ => true
  | _ => false

/-- Is the value finite? -/
def numIsFin : ExNum → Bool
  | .fin _ _ _ _ => true
  | _ => false

/-- Sign of a value; a NaN has none. -/
def numNeg : ExNum → Bool
  | .nan => false
  | .inf n => n
  | .fin n _ _ _ => n

/-- The value with its sign turned. -/
def numFlip : ExNum → ExNum
  | .nan => .nan
  | .inf n => .inf (!n)
  | .fin n a d e => .fin (!n) a d e

/-- The magnitude of a value. -/
def numAbs : ExNum → ExNum
  | .nan => .nan
  | .inf _ => .inf false
  | .fin _ a d e => .fin false a d e

/-- a * 2^k for an integer k that is not negative. -/
def shiftUp (a : Nat) (k : Int) : Nat := a * 2 ^ k.toNat

/-- Exact product, IEEE special cases (infinity times zero is NaN). -/
def numMul : ExNum → ExNum → ExNum
  | .nan, _ => .nan
  | _, .nan => .nan
  | .inf s, .inf t => .inf (s != t)
  | .inf s, .fin t a _ _ => if a = 0 then .nan else .inf (s != t)
  | .fin s a _ _, .inf t => if a = 0 then .nan else .inf (s != t)
  | .fin s a d e, .fin t b c f => .fin (s != t) (a * b) (d * c) (e + f)

/-- Exact quotient, IEEE special cases (0/0 and infinity/infinity are NaN, x/0 is infinite). -/
def numDiv : ExNum → ExNum → ExNum
  | .nan, _ => .nan
  | _, .nan => .nan
  | .inf _, .inf _ => .nan
  | .inf s, .fin t _ _ _ => .inf (s != t)
  | .fin s _ _ _, .inf t => .fin (s != t) 0 1 0
  | .fin s a d e, .fin t b c f =>
    if b = 0 then (if a = 0 then .nan else .inf (s != t))
    else .fin (s != t) (a * c) (d * b) (e - f)

/-- The signed numerator of a finite value over the common denominator `den * 2^(-lo)`. -/
def numScaled (s : Bool) (a : Nat) (e lo : Int) : Int :=
  let m : Int := shiftUp a (e - lo)
  if s then -m else m

/-- Exact sum; an exact zero sum of two zeros of one sign keeps it, any other zero sum is +0 (IEEE, round to nearest). -/
def numAdd : ExNum → ExNum → ExNum
  | .nan, _ => .nan
  | _, .nan => .nan
  | .inf s, .inf t => if s = t then .inf s else .nan
  | .inf s, .fin _ _ _ _ => .inf s
  | .fin _ _ _ _, .inf t => .inf t
  | .fin s a d e, .fin t b c f =>
    let lo := min e f
    let z := numScaled s (a * c) e lo + numScaled t (b * d) f lo
    if z = 0 then .fin (s && t) 0 1 0 else .fin (z < 0) z.natAbs (d * c) lo

/-- Comparison of two finite values on the number line; false when either is NaN. Infinities compare as usual. -/
def numLt : ExNum → ExNum → Bool
  | .nan, _ => false
  | _, .nan => false
  | .inf s, .inf t => s && !t
  | .inf s, .fin _ _ _ _ => s
  | .fin _ _ _ _, .inf t => !t
  | .fin s a d e, .fin t b c f =>
    let lo := min e f
    decide (numScaled s (a * c) e lo < numScaled t (b * d) f lo)

/-- x ≤ y, false when either is NaN. -/
def numLe (x y : ExNum) : Bool :=
  match x, y with
  | .nan, _ => false
  | _, .nan => false
  | _, _ => !numLt y x

/-- floor(log2) of the positive magnitude num/den * 2^exp. -/
def magLog2 (num den : Nat) (exp : Int) : Int :=
  let e : Int := (log2Floor num : Int) - (log2Floor den : Int)
  let up := if 0 ≤ e then decide (shiftUp den e ≤ num) else decide (den ≤ shiftUp num (-e))
  exp + (if up then e else e - 1)

/-- Smallest integer c with num/den * 2^exp ≤ 2^c, for a positive magnitude. -/
def magCeilLog2 (num den : Nat) (exp : Int) : Int :=
  let f := magLog2 num den exp
  let k := f - exp
  let exact := if 0 ≤ k then decide (shiftUp den k = num) else decide (den = shiftUp num (-k))
  if exact then f else f + 1

/-- floor(num/den * 2^exp) of a signed finite value. -/
def numFloorAt (neg : Bool) (num den : Nat) (exp : Int) : Int :=
  let n : Int := shiftUp num exp
  let d : Int := (shiftUp den (-exp) : Nat)
  if neg then -((n + d - 1) / d) else n / d

/-- Rounding modes: nearest even, or stochastic with the 24-bit draw u of R79. -/
inductive Rnd where
  | rne
  | sr (u : Nat)
  deriving DecidableEq, Repr

/-- A magnitude rounded to a whole number of quanta 2^q (R44, R79). -/
def roundQuanta (r : Rnd) (neg : Bool) (num den : Nat) (exp q : Int) : Nat :=
  let n := shiftUp num (exp - q)
  let d := shiftUp den (q - exp)
  let k := n / d
  let m := n % d
  if m = 0 then k
  else match r with
    | .rne => if 2 * m > d ∨ (2 * m = d ∧ k % 2 = 1) then k + 1 else k
    | .sr u =>
      if neg then (if (d - m) * 2 ^ 24 > u * d then k else k + 1)
      else (if m * 2 ^ 24 > u * d then k + 1 else k)

/-- The four bits of the exception summary (R48). -/
def excSat : Nat := 1
def excInfsat : Nat := 2
def excNanq : Nat := 4
def excNanlost : Nat := 8

/-- Conversion of an exact value to a floating-point format (R44 to R46): the code and the exception bits. -/
def convFloat (f : Fmt) (E M bias : Nat) (ovf : Bool) (r : Rnd) (x : ExNum) : Nat × Nat :=
  let signBit (neg : Bool) := if neg then 2 ^ (E + M) else 0
  match x with
  | .nan => if fmtHasNan f then (fmtNanCode f, excNanq) else (0, excNanlost)
  | .inf neg =>
    if fmtHasInf f then (signBit neg + fmtInfCode f, 0)
    else if f = .e4m3 && ovf then (fmtNanCode f, excNanq)
    else (signBit neg + fmtMaxCode f, excInfsat)
  | .fin neg num den exp =>
    if num = 0 then (signBit neg, 0)
    else
      let qmin : Int := 1 - (bias : Int) - (M : Int)
      let q := max qmin (magLog2 num den exp - (M : Int))
      let k := roundQuanta r neg num den exp q
      let code := (q - qmin).toNat * 2 ^ M + k
      if code ≤ fmtMaxCode f then (signBit neg + code, 0)
      else if !ovf then (signBit neg + fmtMaxCode f, excSat)
      else if fmtHasInf f then (signBit neg + fmtInfCode f, 0)
      else if f = .e4m3 then (fmtNanCode f, excNanq)
      else (signBit neg + fmtMaxCode f, excSat)

/-- Conversion to a two's-complement format of `w` bits (R45, R46). -/
def convInt (w : Nat) (r : Rnd) (x : ExNum) : Nat × Nat :=
  let hi : Nat := 2 ^ (w - 1) - 1
  let lo : Nat := 2 ^ (w - 1)
  match x with
  | .nan => (0, excNanlost)
  | .inf neg => (if neg then lo else hi, excInfsat)
  | .fin neg num den exp =>
    let k := roundQuanta r neg num den exp 0
    if neg then (if k ≤ lo then ((2 ^ w - k) % 2 ^ w, 0) else (lo, excSat))
    else (if k ≤ hi then (k, 0) else (hi, excSat))

/-- Conversion to UE8M0 (R47): the power of two at or below the magnitude, whatever the rounding mode. -/
def convScale (x : ExNum) : Nat × Nat :=
  match x with
  | .nan => (0xFF, excNanq)
  | .inf _ => (0xFE, excInfsat)
  | .fin _ num den exp =>
    if num = 0 then (0, 0)
    else
      let e := magLog2 num den exp
      if e < -127 then (0, 0)
      else if e > 127 then (0xFE, excSat)
      else ((e + 127).toNat, 0)

/-- Conversion of an exact value to a format (R44 to R47): its code and the exception bits it sets (R48). -/
def convert (f : Fmt) (ovf : Bool) (r : Rnd) (x : ExNum) : Nat × Nat :=
  match fmtFloat f with
  | some (E, M, bias) => convFloat f E M bias ovf r x
  | none => if f = .ue8m0 then convScale x else convInt (fmtBits f) r x

/-- The value of a float code (R36). -/
def floatValue (f : Fmt) (E M bias : Nat) (code : Nat) : ExNum :=
  let neg := natBit code (E + M)
  let mag := code % 2 ^ (E + M)
  let e := mag / 2 ^ M
  let m := mag % 2 ^ M
  if fmtHasInf f && mag = fmtInfCode f then .inf neg
  else if fmtHasInf f && fmtInfCode f < mag then .nan
  else if f = .e4m3 && mag = 0x7F then .nan
  else if e = 0 then .fin neg m 1 (1 - (bias : Int) - (M : Int))
  else .fin neg (2 ^ M + m) 1 ((e : Int) - (bias : Int) - (M : Int))

/-- The value of an element code in its own format (R36, R40, R41). -/
def elemValue (f : Fmt) (code : Nat) : ExNum :=
  match fmtFloat f with
  | some (E, M, bias) => floatValue f E M bias code
  | none =>
    if f = .ue8m0 then (if code = 0xFF then .nan else .fin false 1 1 ((code : Int) - 127))
    else numOfInt (signedOf (fmtBits f) code)

/-- Block arrangements (R49). -/
inductive Arr where
  | plain | mx32 | nb16
  deriving DecidableEq, Repr

/-- The arrangement a 2-bit code names (R49). -/
def arrOf : Nat → Option Arr
  | 0 => some .plain | 1 => some .mx32 | 2 => some .nb16 | _ => none

/-- Block length (R49); a plain element is its own block (R70). -/
def arrBlock : Arr → Nat
  | .plain => 1 | .mx32 => 32 | .nb16 => 16

/-- The formats that may be stored in blocks (R49). -/
def fmtBlockable : Fmt → Bool
  | .e4m3 | .e5m2 | .e3m2 | .e2m3 | .e2m1 | .int8 | .int4 => true
  | _ => false

/-- The implicit exponent of an integer element in an MX32 block (R51). -/
def mxIntExp : Fmt → Int
  | .int8 => -6 | .int4 => -2 | _ => 0

/-- Value of an element of a block, given the block's scale byte (R51 to R53). -/
def blockValue (a : Arr) (f : Fmt) (scale code : Nat) : ExNum :=
  let v := elemValue f code
  match a with
  | .plain => v
  | .mx32 =>
    match elemValue .ue8m0 scale, v with
    | .nan, _ => .nan
    | _, .nan => .nan
    | _, .inf n => .inf n
    | .inf _, _ => .nan
    | .fin _ _ _ x, .fin n m d e => .fin n m d (e + x + mxIntExp f)
  | .nb16 =>
    match elemValue .e4m3 scale, v with
    | .nan, _ => .nan
    | _, .nan => .nan
    | s, .inf n => .inf (numNeg s != n)
    | s, w => numMul s w

/-- emax of R54. -/
def fmtEmax : Fmt → Int
  | .e4m3 => 8 | .e5m2 => 15 | .e3m2 => 4 | .e2m3 => 2 | .e2m1 => 2 | _ => 0

/-- maxval of R55, as numerator and power of two. -/
def fmtMaxval : Fmt → Nat × Int
  | .e4m3 => (448, 0) | .e5m2 => (57344, 0) | .e3m2 => (28, 0) | .e2m3 => (15, -1) | .e2m1 => (6, 0)
  | .int8 => (127, 0) | .int4 => (7, 0) | _ => (1, 0)

/-- The largest magnitude among finite inputs (R54, R55). -/
def amaxOf (xs : List ExNum) : ExNum :=
  xs.foldl (fun m x => if numIsFin x && numLt m (numAbs x) then numAbs x else m) numZero

/-- Does a block of this element format have to be written with the NaN scale (R53)? -/
def blockNeedsNan (f : Fmt) (xs : List ExNum) : Bool :=
  xs.any (fun x => match x with
    | .nan => !fmtHasNan f
    | .inf _ => !fmtHasInf f
    | .fin _ _ _ _ => false)

/-- Conversion of every element of a block after division by its scale. -/
def convAll (f : Fmt) (ovf : Bool) (g : ExNum → ExNum) : List ExNum → List Rnd → List Nat × Nat
  | [], _ => ([], 0)
  | x :: t, rs =>
    let (c, e) := convert f ovf (rs.headD .rne) (g x)
    let (cs, es) := convAll f ovf g t rs.tail
    (c :: cs, e ||| es)

/-- Smallest positive E4M3 encoding whose value is at least `x`, between 2^-9 and 448 (R55). -/
def e4m3Ceil (x : ExNum) : Nat :=
  match (upFrom 1 0x7E).find? (fun c => numLe x (elemValue .e4m3 c)) with
  | some c => c
  | none => 0x7E

/-- A block quantised: scale byte, element codes and exception bits (R53 to R55). -/
def quantBlock (a : Arr) (f : Fmt) (ovf : Bool) (rs : List Rnd) (xs : List ExNum) : Nat × List Nat × Nat :=
  let zeros := xs.map (fun _ => 0)
  let amax := amaxOf xs
  match a with
  | .plain =>
    let (cs, e) := convAll f ovf id xs rs
    (0, cs, e)
  | .mx32 =>
    if blockNeedsNan f xs then (0xFF, zeros, excNanq)
    else
      let sc : Nat := match amax with
        | .fin _ num den exp =>
          if num = 0 then 0
          else (max (-127) (min 127 (magLog2 num den exp - fmtEmax f)) + 127).toNat
        | _ => 0
      let x : Int := (sc : Int) - 127
      let (cs, e) := convAll f ovf
        (fun v => match v with
          | .fin n m d ex => .fin n m d (ex - x - mxIntExp f)
          | w => w) xs rs
      (sc, cs, e)
  | .nb16 =>
    if blockNeedsNan f xs then (0x7F, zeros, excNanq)
    else if numIsZero amax then
      let (cs, e) := convAll f ovf id xs rs
      (0, cs, e)
    else
      let mv := fmtMaxval f
      let sc := e4m3Ceil (numDiv amax (.fin false mv.1 1 mv.2))
      let (cs, e) := convAll f ovf (fun v => numDiv v (elemValue .e4m3 sc)) xs rs
      (sc, cs, e)

/-- The part f of the bound exponent that comes from the element format of a block (R70). -/
def boundFmt (a : Arr) : Fmt → Int
  | .e4m3 => 9 | .e5m2 => 16 | .e3m2 => 5 | .e2m3 => 3 | .e2m1 => 3
  | .int8 => if a = .mx32 then 1 else 7
  | .int4 => if a = .mx32 then 1 else 3
  | _ => 0

/-- Bound exponent of a plain element: none when it is zero, NaN or infinite (R70). -/
def boundPlain (f : Fmt) (code : Nat) : Option Int :=
  match elemValue f code with
  | .fin _ num den exp =>
    if num = 0 then none
    else match f with
      | .fp32 | .fp16 | .bf16 | .int32 | .ue8m0 => some (magCeilLog2 num den exp)
      | _ => some (boundFmt .plain f)
  | _ => none

/-- Bound exponent of a block, from its scale alone; none for a NaN scale or a zero NB16 scale (R70). -/
def boundBlock (a : Arr) (f : Fmt) (scale : Nat) : Option Int :=
  match a with
  | .plain => none
  | .mx32 => if scale = 0xFF then none else some ((scale : Int) - 127 + boundFmt a f)
  | .nb16 =>
    match elemValue .e4m3 scale with
    | .fin _ num den exp => if num = 0 then none else some (magCeilLog2 num den exp + boundFmt a f)
    | _ => none

/-- The larger of two bound exponents, where a missing one counts for nothing (R71). -/
def boundMax : Option Int → Option Int → Option Int
  | none, y => y
  | x, none => x
  | some x, some y => some (max x y)

/-- mix of R78. -/
def mix64 (z : Nat) : Nat :=
  let m := 2 ^ 64
  let z1 := ((z ^^^ (z >>> 30)) * 0xBF58476D1CE4E5B9) % m
  let z2 := ((z1 ^^^ (z1 >>> 27)) * 0x94D049BB133111EB) % m
  z2 ^^^ (z2 >>> 31)

/-- sr_draw of R78. -/
def srDraw (tensorId pos : Nat) : Nat :=
  let m := 2 ^ 64
  mix64 ((mix64 ((tensorId * 2 ^ 32) % m) + pos * 0x9E3779B97F4A7C15) % m)

/-- The rounding of one element: u is bits [63:40] of the draw (R79). -/
def rndAt (stochastic : Bool) (tensorId pos : Nat) : Rnd :=
  if stochastic then .sr (srDraw tensorId pos / 2 ^ 40) else .rne

end Sys2Proof.Machine
end

