-- ==== Sys2Proof/Machine/Flags.lean ====
section
/-! DEFINITION. The anchored accumulator and its three flags, the exit from it, the exponential and the FP32 operations
(spec/03_anchored_accumulation_and_determinism.md, R69 to R81, R84). -/

namespace Sys2Proof.Machine

/-- A partial dot product: the 128-bit integer of R74 and the flags of R76, with the poison mark of R156. -/
structure Accum where
  val    : BitVec 128 := 0
  nan    : Bool := false
  pinf   : Bool := false
  ninf   : Bool := false
  poison : Bool := false
  deriving DecidableEq, Repr

/-- The empty sum. -/
def accZero : Accum := {}

/-- The accumulator's integer. -/
def accInt (a : Accum) : Int := a.val.toInt

/-- One product added in frame A: its flag, or floor(p / 2^(A-96)) added exactly (R74, R76). -/
def accAdd (anchor : Int) (p : ExNum) (a : Accum) : Accum :=
  match p with
  | .nan => { a with nan := true }
  | .inf false => { a with pinf := true }
  | .inf true => { a with ninf := true }
  | .fin neg num den exp =>
    { a with val := a.val + BitVec.ofInt 128 (numFloorAt neg num den (exp - (anchor - 96))) }

/-- One term x * w added in frame A (R69, R74, R76). -/
def accTerm (anchor : Int) (x w : ExNum) (a : Accum) : Accum := accAdd anchor (numMul x w) a

/-- The terms of two operand rows added in frame A. -/
def accDot (anchor : Int) : List ExNum → List ExNum → Accum → Accum
  | x :: xs, w :: ws, a => accDot anchor xs ws (accTerm anchor x w a)
  | _, _, a => a

/-- Two partials at one anchor combined: the exact sum, flags ORed (R76, R84). -/
def accJoin (a b : Accum) : Accum :=
  { val := a.val + b.val, nan := a.nan || b.nan, pinf := a.pinf || b.pinf, ninf := a.ninf || b.ninf,
    poison := a.poison || b.poison }

/-- The exact value a partial leaves as, in frame A (R76, R77): NaN, an infinity, or sum * 2^(A-96); zero is +0. -/
def accValue (anchor : Int) (a : Accum) : ExNum :=
  if a.nan || (a.pinf && a.ninf) then .nan
  else if a.pinf then .inf false
  else if a.ninf then .inf true
  else numOfScaled (accInt a) (anchor - 96)

/-- L of R81, times 2^52. -/
def expL : Nat := 0x0017_1547_652B_82FE

/-- c1, c2, c3 of R81, times 2^48. -/
def expC1 : Nat := 195103586505167
def expC2 : Nat := 67617750451595
def expC3 : Nat := 15623017693776

/-- Largest n below 2^bits (bits counted down from the top) with n^256 ≤ t. -/
def root256 (t : Nat) : Nat → Nat → Nat
  | 0, n => n
  | b + 1, n =>
    let n' := n + 2 ^ b
    root256 t b (if n' ^ 256 ≤ t then n' else n)

/-- tab[j] of R81 times 2^48: 2^(j/256) to nearest (no tie can occur but at j = 0, which is exact). -/
def expTab (j : Nat) : Nat :=
  let n := root256 (2 ^ (48 * 256 + j)) 50 0
  if (2 * n + 1) ^ 256 ≤ 2 ^ (49 * 256 + j) then n + 1 else n

/-- exp(x) before conversion (R80). A value above every max finite is given as 2^400; the caller converts. -/
def expValue (x : ExNum) : ExNum :=
  match x with
  | .nan => .nan
  | .inf true => numZero
  | .inf false => .fin false 1 1 400
  | .fin neg num den exp =>
    if numLt (numOfInt 200) x then .fin false 1 1 400
    else if numLt x (numOfInt (-200)) then numZero
    else
      let k := roundQuanta .rne neg (num * expL) den (exp - 52) (-32)
      let t : Int := if neg then -(k : Int) else k
      let n := t / 2 ^ 32
      let f := (t % 2 ^ 32).toNat
      let j := f / 2 ^ 24
      let r := (f % 2 ^ 24) * 2 ^ 16
      let u3 := r * expC3 / 2 ^ 48
      let u2 := r * (expC2 + u3) / 2 ^ 48
      let p := 2 ^ 48 + r * (expC1 + u2) / 2 ^ 48
      let m := expTab j * p / 2 ^ 48
      .fin false m 1 (n - 48)

/-- A value rounded to FP32 under nearest even with ovf = 1, read back as an exact value. -/
def roundFp32 (x : ExNum) : ExNum := elemValue .fp32 (convert .fp32 true .rne x).1

/-- One level of the FP32 tree of R84: neighbours summed and rounded, an unpaired last entry passed up. -/
def treeLevel : List ExNum → List ExNum
  | x :: y :: t => roundFp32 (numAdd x y) :: treeLevel t
  | l => l

/-- The FP32 tree over leaf values (R84). -/
def fp32Tree : Nat → List ExNum → ExNum
  | 0, l => l.headD numZero
  | fuel + 1, l => if l.length ≤ 1 then l.headD numZero else fp32Tree fuel (treeLevel l)

/-- Leaves combined by a plan's form: 0 ACC128, 1 FP32 tree (R84). -/
def combineLeaves (form : Nat) (anchor : Int) (leaves : List Accum) : ExNum :=
  if form = 0 then accValue anchor (leaves.foldl accJoin accZero)
  else fp32Tree 7 (leaves.map (fun a => roundFp32 (accValue anchor a)))

/-- Integer square root: the largest r with r*r ≤ n. -/
def isqrtStep (n : Nat) : Nat → Nat → Nat
  | 0, r => r
  | b + 1, r =>
    let r' := r + 2 ^ b
    isqrtStep n b (if r' * r' ≤ n then r' else r)

/-- The square root of a value, kept to 80 bits with a sticky half unit below them, which no rounding to 24 bits with a
24-bit draw can tell from the exact root. A negative nonzero value gives NaN; -0 gives -0. -/
def numSqrt (x : ExNum) : ExNum :=
  match x with
  | .nan => .nan
  | .inf false => .inf false
  | .inf true => .nan
  | .fin neg num den exp =>
    if num = 0 then .fin neg 0 1 0
    else if neg then .nan
    else
      -- num/den * 2^exp = N / 2^(2s) with N about 2^160 wide
      let e := magLog2 num den exp
      let s : Int := 80 - e / 2
      let sh := 2 * s + exp
      let n := shiftUp num sh / shiftUp den (-sh)
      let exact := decide (n * shiftUp den (-sh) = shiftUp num sh)
      let r := isqrtStep n 90 0
      if exact && r * r = n then .fin false r 1 (-s) else .fin false (2 * r + 1) 1 (-s - 1)

end Sys2Proof.Machine
end

