-- ==== Sys2Proof/Machine/Sparse.lean ====
section
/-! DEFINITION. Sparse tables: a list of (key, value) pairs in one canonical form, keys strictly rising and no entry equal
to what an unlisted key reads as. Every memory, register file and record table of the machine is one of these. -/

namespace Sys2Proof.Machine

/-- What a table holds at a key; an unlisted key reads as `d`. -/
def tabGet {α : Type} (d : α) : List (Nat × α) → Nat → α
  | [], _ => d
  | (k', v) :: t, k => if k = k' then v else tabGet d t k

/-- A table with the value at a key replaced; writing the default removes the entry. -/
def tabSet {α : Type} [DecidableEq α] (d : α) : List (Nat × α) → Nat → α → List (Nat × α)
  | [], k, v => if v = d then [] else [(k, v)]
  | (k', v') :: t, k, v =>
    if k < k' then (if v = d then (k', v') :: t else (k, v) :: (k', v') :: t)
    else if k = k' then (if v = d then t else (k, v) :: t)
    else (k', v') :: tabSet d t k v

/-- The canonical form: keys strictly rising above `lo` (when given) and no entry equal to the default of its key. -/
def tabOk {α : Type} [DecidableEq α] (d : Nat → α) : Option Nat → List (Nat × α) → Bool
  | _, [] => true
  | lo, (k, v) :: t =>
    (match lo with | none => true | some l => decide (l < k)) && decide (v ≠ d k) && tabOk d (some k) t

/-- The canonical form of a whole table. -/
def tabWf {α : Type} [DecidableEq α] (d : Nat → α) (l : List (Nat × α)) : Bool := tabOk d none l

/-- Store a run of values at consecutive keys. -/
def tabSetRun {α : Type} [DecidableEq α] (d : α) (m : List (Nat × α)) (k : Nat) : List α → List (Nat × α)
  | [] => m
  | v :: t => tabSetRun d (tabSet d m k v) (k + 1) t

/-- Read `n` values at consecutive keys. -/
def tabGetRun {α : Type} (d : α) (m : List (Nat × α)) (k : Nat) : Nat → List α
  | 0 => []
  | n + 1 => tabGet d m k :: tabGetRun d m (k + 1) n

end Sys2Proof.Machine
end

