-- ==== Sys2Proof/Machine/Types.lean ====
section
/-! DEFINITION. The plain record types that commands and State share: byte with poison mark, agents, accesses, outputs. -/

namespace Sys2Proof.Machine

/-- A byte read from or written to a space, with the poison mark it carries (R153, R154). -/
abbrev PByte := Byte × Bool

/-- Who makes an access: the source code of R436/R487, the tag it carries, and whether it is a computing unit, whose command
latches one event at its end instead of one for each read (R156). -/
structure Who where
  src     : Nat
  tag     : Nat
  compute : Bool := false
  deriving DecidableEq, Repr

/-- A stored-data event met by a read of a computing command that has not latched yet, with the agent that read (R156, R487). -/
structure Found where
  kind  : Nat
  space : Nat
  addr  : Nat
  src   : Nat
  deriving DecidableEq, Repr

/-- The operations of an AMO (R104; the RISC-V set). -/
inductive AmoOp where
  | swap | add | xor | and | or | min | max | minu | maxu
  deriving DecidableEq, Repr

/-- What the wires did to an access on its way, as an operand of the access (R146 to R148). [DESIGN CHOICE, log 7] [DESIGN CHOICE, log 159] -/
structure LinkErr where
  /-- the path CRC fails -/
  crcBad  : Bool := false
  /-- transmissions of the burst that the layer refused, or reads of a word that came over the channel Uncorrectable -/
  bad     : Nat := 0
  /-- the words of the access that were refused in the last transmission, or that came over Uncorrectable -/
  words   : List Nat := []
  /-- (word, lane) of each bit that the layer put right on a write -/
  fixed   : List (Nat × Nat) := []
  deriving DecidableEq, Repr

/-- What an access names, with what the wires do to the access. -/
structure OnWire (α : Type) where
  at_  : α
  link : LinkErr := {}
  deriving DecidableEq, Repr

/-- A cluster whose Bellows moves pieces, as many as the list is long, each with what the wires do to it (R231). -/
structure PieceRun where
  cluster : Fin 16
  pieces  : List LinkErr
  deriving DecidableEq, Repr

/-- A core's fence.full: none for the standard FENCE and FENCE.TSO, else the immediate of a custom-0 instruction with funct3 0 (R103). -/
structure FenceWord where
  core : Fin 68
  imm  : Option (BitVec 12)
  deriving DecidableEq, Repr

/-- Whose maximum an anchor exchange brings: a partner's, or this module's own, with where the overall maximum is wanted (R71). -/
inductive AnchorSource where
  | partner (pid : Fin 255)
  | own (space : Fin 16) (addr : Nat)
  deriving DecidableEq, Repr

/-- What the check of an adapter image comes to: a bad image, no room, or the image's tensors, each with its descriptor and the offset
and bytes of its data in the image (R298, R361). -/
inductive AdapterEnd where
  | bad
  | full
  | placed (ts : List (List Nat × Nat × Nat))
  deriving DecidableEq, Repr

/-- A burst or a 32-byte access of a mover, as it reaches the PoC (R121, R122, R146, R147). -/
structure PathReq where
  narrow  : Bool
  who     : Who
  /-- the source of R102: Tongs channel 64 · engine + channel, or 2,048 + cluster for a Bellows -/
  source  : Nat
  addr    : Nat
  write   : Bool
  data    : List PByte
  len     : Nat
  link    : LinkErr := {}
  deriving DecidableEq, Repr

/-- A fault record before it is numbered and timed (R281). -/
structure FaultRec where
  code   : Nat
  hearth : Nat
  tag    : Nat := 0
  state  : Nat := 0
  src    : Nat := 0
  progress : Nat := 0
  addr   : Nat := 0
  d0     : Nat := 0
  d1     : Nat := 0
  d2     : Nat := 0
  qid    : Nat := 0xFFFFFFFF
  deriving DecidableEq, Repr

/-- What a posted write completes when its ordering point performs it: nothing, the journal entry of a command (queue, index), or
a numbered fault record. -/
inductive PostNote where
  | plain
  | journal (q idx : Nat)
  | fault (f : FaultRec) (seq : Nat)
  deriving DecidableEq, Repr

/-- A Tuyere frame (R373). `msg` stands for the payload of a MSG frame, whose layout is the group protocol's own. -/
structure Frame where
  ty      : Nat
  op      : Nat := 0
  src     : Nat := 0
  dst     : Nat := 0
  psn     : Nat := 0
  ackOk   : Bool := false
  ack     : Nat := 0
  conn    : Nat := 0
  addr    : Nat := 0
  len     : Nat := 0
  status  : Nat := 0
  tag     : Nat := 0
  /-- poison marks, one per SM word from addr rounded down to 32 -/
  pmap    : List Bool := []
  data    : List Byte := []
  msg     : List Nat := []
  /-- when it was last sent -/
  sent    : Nat := 0
  again   : Bool := false
  /-- on a WRITE that has been received: numbers of the 32-byte pieces whose path CRC fails on the way to the PoC (R148) -/
  crcBad  : List Nat := []
  deriving DecidableEq, Repr

/-- An access that an ordering point may have to hold and serve later (R109, R132, R151, R158). -/
inductive Access where
  /-- ordinary load of 2^lg bytes, zero- or sign-extended into rd -/
  | load (core addr lg : Nat) (zext : Bool) (rd : Nat) (e : LinkErr)
  | loadV (core addr rd : Nat) (e : LinkErr)
  | store (core addr lg value : Nat) (e : LinkErr)
  | amo (core : Nat) (op : AmoOp) (addr lg value rd : Nat) (aq : Bool) (e : LinkErr)
  | lr (core addr lg rd : Nat) (aq : Bool) (e : LinkErr)
  | sc (core addr lg value rd : Nat) (aq : Bool) (e : LinkErr)
  /-- host read of a 64-byte line at an SM address; `want` is the tracker state asked for: 0 none, 1 S, 2 A -/
  | hostRead (addr want : Nat) (e : LinkErr)
  | hostWrite (addr : Nat) (data : List Byte) (poisoned : Bool) (e : LinkErr)
  | path (r : PathReq)
  /-- a write that a part of the module has posted and goes on from: its source of R102, its data, and what it completes -/
  | post (who : Who) (source addr : Nat) (data : List PByte) (note : PostNote)
  /-- a WRITE, READ_REQ or FLAG frame of a partner, as the port issues it (R375) -/
  | frame (pid : Nat) (f : Frame)
  deriving DecidableEq, Repr

/-- An access waiting at the ordering point of a stack. -/
structure Held where
  stack : Nat
  acc   : Access
  deriving DecidableEq, Repr

/-- A back-invalidation snoop in flight (R109): the line, and whether it asks for data (BISnpData) or invalidates. -/
structure Snoop where
  line : Nat
  data : Bool
  /-- when the snoop was sent, for the limit of R389 -/
  sent : Nat
  /-- the host-coherence fault of this snoop has been raised -/
  late : Bool := false
  deriving DecidableEq, Repr

/-- A host-tracker entry (R109, R111): 0 no entry, 1 state S, 2 state A; `age` orders entries, oldest first. -/
structure Track where
  st  : Nat := 0
  age : Nat := 0
  deriving DecidableEq, Repr

/-- A LR reservation: the core holding it and the 64-byte line (R104). -/
structure Resv where
  core : Nat
  line : Nat
  deriving DecidableEq, Repr

/-- A WAIT that has reached the head of its queue (R276 to R278). -/
structure Wait where
  on     : Bool := false
  idx    : Nat := 0
  addr   : Nat := 0
  value  : Nat := 0
  eq     : Bool := false
  tmo    : Nat := 0
  tcont  : Bool := false
  /-- module timebase when the WAIT was taken -/
  start  : Nat := 0
  /-- a watch is registered (else the flag is polled) -/
  watch  : Bool := false
  /-- the condition has been met by a value the watch evaluated -/
  hit    : Bool := false
  /-- the flag read as poison -/
  bad    : Bool := false
  deriving DecidableEq, Repr

/-- A command taken from a queue and not yet passed by `done` (R270). -/
structure QCmd where
  idx   : Nat
  slots : Nat
  tag   : Nat
  cls   : Nat
  ord   : Nat
  jrnl  : Bool := false
  deriving DecidableEq, Repr

/-- A queue of the module: words 0 to 2 of its entry as read at enable, and the live indices (R268). -/
structure Queue where
  ringBase  : Nat := 0
  jrnlBase  : Nat := 0
  ringSpace : Nat := 0
  jrnlSpace : Nat := 0
  lg        : Nat := 0
  /-- consumer kind (R259); 0 disabled -/
  ckind     : Nat := 0
  stamp     : Bool := false
  ckey      : Nat := 0
  prod      : Nat := 0
  taken     : Nat := 0
  done      : Nat := 0
  /-- stopped under R271 -/
  stopped   : Bool := false
  gen       : Nat := 0
  run       : List QCmd := []
  /-- qstate as last written to the queue table -/
  shown     : Nat := 0
  deriving DecidableEq, Repr

/-- A hearth's own condition (R20); what it reports is computed. Before startup step 6 every hearth is in RESET (`State.up`). -/
structure Hearth where
  reset    : Bool := false
  faulted  : Bool := false
  halted   : Bool := false
  running  : Bool := false
  /-- FAULTED by CHANNEL_FAILURE, which no hearth reset clears (R136, R437) -/
  dead     : Bool := false
  lastTag  : Nat := 0
  deriving DecidableEq, Repr

/-- A command whose last act is a sequenced frame that the partner has yet to acknowledge (R275). -/
structure PmWait where
  pid  : Nat
  psn  : Nat
  qid  : Nat
  idx  : Nat
  tag  : Nat
  deriving DecidableEq, Repr

/-- The transport and HELLO state of one partner id (R369 to R374), beside its TUY_PT_ registers. -/
structure Link where
  sendPsn  : Nat := 0
  unacked  : List Frame := []
  queued   : List Frame := []
  recvNext : Nat := 0
  ahead    : List Frame := []
  gapSince : Nat := 0
  sinceAck : Nat := 0
  firstUnacked : Nat := 0
  port     : Nat := 0
  /-- an ATTACH of ours is out with this connection number -/
  asking   : Bool := false
  askConn  : Nat := 0
  /-- fields of the last HELLO (R369) -/
  inGroup  : Bool := false
  isLead   : Bool := false
  gmodules : Nat := 0
  gself    : Nat := 0
  glead    : Nat := 0
  gproto   : Nat := 0
  ggen     : Nat := 0
  /-- when a HELLO last arrived from the recorded serial, and from another one claiming the id -/
  heard    : Nat := 0
  rival    : Nat := 0
  rivalAt  : Nat := 0
  deriving DecidableEq, Repr

/-- The group this module is in (R28, R377) and the group command in progress. -/
structure Group where
  gen      : Nat := 0
  modules  : Nat := 1
  self     : Nat := 0
  /-- partner ids by position -/
  members  : List Nat := []
  lead     : Nat := 0xFF
  ggen     : Nat := 0
  /-- entries to restore when a PREPARE is abandoned -/
  oldModules : Nat := 1
  oldSelf    : Nat := 0
  oldMembers : List Nat := []
  oldLead    : Nat := 0xFF
  oldGgen    : Nat := 0
  prepared : Bool := false
  /-- the lead's GROUP_FORM or GROUP_DISSOLVE: 0 none, 1 prepare sent, 2 commit sent -/
  phase    : Nat := 0
  forming  : Bool := false
  opTag    : Nat := 0
  want     : List Nat := []
  replied  : List Nat := []
  failed   : Nat := 0
  /-- status word index 0 as the lead's last HELLO gave it (R32, R379) -/
  mirror   : Nat := 0
  leadLost : Bool := false
  /-- on the lead: the module status word that each member last reported, by position; on a member: the one it last sent (R20, R32) -/
  status   : List (Nat × Nat) := []
  told     : Nat := 0
  deriving DecidableEq, Repr

/-- The configuration-space state of the PCIe function (R388, R391, R393, R395). -/
structure Cfg where
  bme     : Bool := false
  mse     : Bool := false
  d3hot   : Bool := false
  msixEn  : Bool := false
  msixMask : Bool := false
  hdmBase : Nat := 0
  hdmSize : Nat := 0
  biEn    : Bool := false
  hdmOn   : Bool := false
  hdmErr  : Bool := false
  /-- AER non-fatal status, sticky (R396): Unsupported Request as completer, poisoned TLP received, completion timeout -/
  aerUr      : Bool := false
  aerPoison  : Bool := false
  aerTimeout : Bool := false
  /-- AER correctable status and AER fatal status, sticky (R396): link and FEC errors corrected; data-link or flit errors -/
  aerCorr    : Bool := false
  aerFatal   : Bool := false
  /-- BAR4 was served when an FLR began, and is throughout it (R394) -/
  flrMem  : Bool := false
  cacheEn : Bool := false
  memEn   : Bool := false
  /-- the link is in the PCIe Loopback state (R455) -/
  loopback : Bool := false
  deriving DecidableEq, Repr

/-- The identity registers of configuration space and the sizes its BAR pairs request (R384, R385). -/
structure Identity where
  vendor    : Nat
  device    : Nat
  revision  : Nat
  classCode : Nat
  subVendor : Nat
  subId     : Nat
  /-- value of the Device Serial Number capability -/
  serial    : Nat
  /-- requested size of BAR0, BAR2 and BAR4, in bytes, with whether the window is prefetchable -/
  bars      : List (Nat × Bool)
  deriving DecidableEq, Repr

/-- A range of SM that a Swage command reads or writes (R110). -/
structure Range where
  start : Nat
  len   : Nat
  write : Bool
  deriving DecidableEq, Repr

/-- One item of a work table with its length-table entry (R198, R199). -/
structure Item where
  entry   : Nat
  set     : Nat
  head    : Nat
  list    : Nat
  len     : Nat
  lo      : Nat
  session : Nat
  valid   : Bool
  deriving DecidableEq, Repr

/-- A billet queued for a unit (R201). -/
structure QBillet where
  slot  : Nat
  unit  : Nat
  item  : Nat
  index : Nat
  base  : Nat
  deriving DecidableEq, Repr

/-- A partial of one row of one billet, as the merge unit holds it (R203, R204). -/
structure PartRec where
  item   : Nat
  row    : Nat
  m      : Nat
  sigma  : Nat
  nu     : List Nat
  nan    : Bool
  poison : Bool
  deriving DecidableEq, Repr

/-- The maxima and flags a site sends for every (item, row) (R204 step 2), or its abort (R205). -/
structure PeerMax where
  site  : Nat
  xkey  : Nat
  items : Nat
  rows  : Nat
  d     : Nat
  /-- m (FP32 code), nan, poison of (item, row) at item * rows + row -/
  vals  : List (Nat × Bool × Bool)
  abort : Bool := false
  deriving DecidableEq, Repr

/-- The command a swage dispatcher holds and what its merge unit has gathered (R169, R182, R204). -/
structure StackRun where
  /-- SWG_DSP_STAT.state: 0 IDLE, 1 RECALL, 3 RUNNING, 4 MERGE (for attention: waiting in the exchange), 6 STOPPING -/
  phase   : Nat := 0
  qid     : Nat := 0
  idx     : Nat := 0
  tag     : Nat := 0
  cmd     : List Nat := []
  /-- registers 0 to 55 of every unit's command register area, as last broadcast (R169 step 4, R173) -/
  area    : List Nat := []
  /-- 0 matrix-vector, 1 attention, 2 cache write -/
  kind    : Nat := 0
  ranges  : List Range := []
  rb      : List PByte := []
  anchors : List (Option Int) := []
  items   : List Item := []
  layer   : Nat := 0
  billets : List QBillet := []
  /-- A_q of row r of item j at j * 8 + r -/
  qanch   : List (Option Int) := []
  merge   : List (Nat × Accum) := []
  parts   : List PartRec := []
  wroteSm : Bool := false
  written : List Nat := []
  exc     : Nat := 0
  found   : List Found := []
  anchorPoison : Bool := false
  /-- sites that have taken this site's maxima (R205) -/
  sent    : List Nat := []
  start   : Nat := 0
  deriving DecidableEq, Repr

/-- The working state of one Swage unit (R166, R181). `live` false stands for the state every unit starts a command in. -/
structure SwgUnit where
  live   : Bool := false
  isDone : Bool := false
  pc     : Nat := 0
  loops  : List Nat := [0, 0, 0, 0]
  /-- cursor of each stream, as a position in the unit's owned rows -/
  cursor : List Nat := [0, 0, 0, 0, 0, 0, 0, 0]
  acc    : List (Nat × Accum) := []
  /-- score file: FP32 code and poison -/
  sf     : List (Nat × (Nat × Bool)) := []
  m      : List Nat := List.replicate 8 0xFF800000
  n      : List Bool := List.replicate 8 false
  /-- poison met by a row's scores or values in the current billet -/
  rowBad : List Bool := List.replicate 8 false
  /-- batch row last named by LENL; a billet-list stream's cursor is its position in that row's queue -/
  set    : Nat := 0
  lenl   : Bool := false
  /-- slots of billets whose header has been checked (R202) -/
  seen   : List Nat := []
  lastCnt : Nat := 0
  exc    : Nat := 0
  prog   : Nat := 0
  /-- by 8-byte word of RB and of SF: its stored (72,64) check bits XORed with those of the word it holds (R165, R166) -/
  rbSyn  : List (Nat × Byte) := []
  sfSyn  : List (Nat × Byte) := []
  deriving DecidableEq, Repr

/-- Counters a unit keeps from one command to the next (R173, registers 60 to 63). -/
structure UnitCount where
  rdbytes : Nat := 0
  busy    : Nat := 0
  macs    : Nat := 0
  paused  : Nat := 0
  offered : Nat := 0
  deriving DecidableEq, Repr

/-- A valid-bit clear in progress (R151). -/
structure VClear where
  on      : Bool := false
  started : Bool := false
  first   : Nat := 0
  count   : Nat := 0
  slice   : Bool := false
  channel : Nat := 0
  layer   : Nat := 0
  /-- Prefen asked for it, to free a billet -/
  own     : Bool := false
  deriving DecidableEq, Repr

/-- A row move in progress (R158). -/
structure RMove where
  on    : Bool := false
  row   : Nat := 0
  channel : Nat := 0
  layer : Nat := 0
  bg    : Nat := 0
  bank  : Nat := 0
  entry : Nat := 0
  spare : Nat := 0
  /-- the unit that held the row's bank has offered a yield point since go -/
  yielded : Bool := false
  deriving DecidableEq, Repr

/-- A control word in a queue of a core or of a Bellows (R212, R220). -/
structure EngWord where
  w0 : Nat
  w1 : Nat
  w2 : Nat
  w3 : Nat
  tag   : Nat
  /-- when it reached the head of its queue, for the limit of R226 -/
  since : Nat := 0
  /-- its writes have been made; it waits to complete -/
  ran   : Bool := false
  exc   : Nat := 0
  prog  : Nat := 0
  deriving DecidableEq, Repr

/-- The queues and done counters of a core: matrix, vector, move, and the Bellows port (R212). -/
structure CoreSt where
  mat : List EngWord := []
  vec : List EngWord := []
  mov : List EngWord := []
  cnt : List Nat := [0, 0, 0, 0]
  deriving DecidableEq, Repr

/-- An entry of an accumulator bank (R212, R214): its anchor (none for 0x8000) and its terms since the last clear. -/
structure BankEntry where
  acc     : Accum := {}
  anchor  : Option Int := none
  written : Bool := false
  terms   : Nat := 0
  deriving DecidableEq, Repr

/-- An accumulator bank: the anchors its entries took at the last clear, and the entries written since. -/
structure Bank where
  cleared : Bool := false
  xa : List (Option Int) := []
  wa : List (Option Int) := []
  cells : List (Nat × Option BankEntry) := []
  /-- by word 4 * (64 m + n) + k of entry (m, n): its stored (72,64) check bits XORed with those of the word it holds (R165, R212) -/
  syn : List (Nat × Byte) := []
  deriving DecidableEq, Repr

/-- A push that stalls (R235): the word, the cores whose queues have not accepted it, and which path it takes. -/
structure Push where
  word    : EngWord
  mask    : Nat
  bellows : Bool
  tagged  : Bool := false
  deriving DecidableEq, Repr

/-- A cluster's Bellows and push ports (R230, R232, R235). -/
structure Cluster where
  bq      : List EngWord := []
  /-- words a RUN fetched, issued before the rest of the queue -/
  fetched : List EngWord := []
  /-- LOAD and STORE words in progress -/
  moving  : List EngWord := []
  bdone   : Nat := 0
  push    : Option Push := none
  w0 : Nat := 0
  w1 : Nat := 0
  w2 : Nat := 0
  /-- stopped by a fault of R229 -/
  stopped : Bool := false
  deriving DecidableEq, Repr

/-- A PM read that a Tongs channel awaits: partner, psn of the request, address and length; `back` for a read-back (R251). -/
structure PmRead where
  pid  : Nat
  psn  : Nat
  addr : Nat
  len  : Nat
  back : Bool
  deriving DecidableEq, Repr

/-- A Tongs channel: the command it runs and its pending abort (R251, R256). -/
structure Chan where
  busy  : Bool := false
  qid   : Nat := 0
  idx   : Nat := 0
  tag   : Nat := 0
  /-- the 24 words of the body -/
  cmd   : List Nat := []
  /-- units whose writes have all been issued -/
  units : Nat := 0
  /-- of the next unit: the run and the byte of it that the next piece begins at, and the origin that its list record names -/
  seg   : Nat := 0
  pos   : Nat := 0
  org   : Option (Nat × Nat × Nat × Nat) := none
  wrote : Bool := false
  /-- the last aligned 8 bytes written at each destination instance, oldest instance first (R251) -/
  lastW : List (Nat × Nat) := []
  /-- of those, the local ones whose read-backs have not returned -/
  backs : List Nat := []
  /-- the command has stopped with this status at this address, and waits for what it wrote to be acknowledged (R66, R254) -/
  stop  : Option (Nat × Nat) := none
  /-- steps 4 to 7 of R251 -/
  completing : Bool := false
  stalled : Bool := false
  asked : List PmRead := []
  inbox : List (Nat × PByte) := []
  /-- (unit, partner, psn) of WRITE frames not yet acknowledged -/
  pmOut : List (Nat × Nat × Nat) := []
  abort : Option Nat := none
  last  : Option Nat := none
  deriving DecidableEq, Repr

/-- Where a Prefen command comes from, as an operand of its row (R347, R357). -/
inductive CmdSrc where
  | mailbox (m : Fin 16)
  | queue (q : BitVec 20)
  deriving DecidableEq, Repr

/-- Who waits for the answer of a command that Prefen has taken: a mailbox, or a command of a queue. -/
inductive Caller where
  | mailbox (m : Nat)
  | queue (q idx tag : Nat)
  deriving DecidableEq, Repr

/-- A mailbox beside its registers (R347): a doorbell not yet taken, and the request Prefen copied. -/
structure Mbox where
  rung    : Bool := false
  rungSeq : Nat := 0
  /-- arrival order of the doorbell (R348) -/
  order   : Nat := 0
  /-- a request was copied and its opcode has not acted yet -/
  taken   : Bool := false
  req     : List Nat := []
  deriving DecidableEq, Repr

/-- A registered result ring or the event ring (R306, R365). -/
structure Ring where
  on        : Bool := false
  base      : Nat := 0
  consAddr  : Nat := 0
  space     : Nat := 0
  consSpace : Nat := 0
  lg        : Nat := 0
  hpath     : Nat := 0
  irq       : Bool := false
  msix      : Nat := 0
  next      : Nat := 0
  /-- consumer index as last read -/
  cons      : Nat := 0
  deriving DecidableEq, Repr

/-- An entry of the event ring before it is numbered (R365). -/
structure Event where
  time   : Nat := 0
  kind   : Nat
  late   : Bool := false
  status : Nat := 0
  tag    : Nat := 0
  addr   : Nat := 0
  info0  : Nat := 0
  info1  : Nat := 0
  deriving DecidableEq, Repr

/-- A result entry that waits to be written (R307, R395). -/
structure RingOut where
  ring : Nat
  body : List Byte
  /-- the entry raises the ring's vector: it is the last of its step -/
  last : Bool
  /-- tag of the request whose final entry this is -/
  final : Option Nat
  deriving DecidableEq, Repr

/-- A billet that this module holds for a session (R192 to R196). -/
structure Billet where
  layer  : Nat
  head   : Nat
  index  : Nat
  base   : Nat
  isSealed : Bool := false
  deriving DecidableEq, Repr

/-- A session (R284). -/
structure Session where
  id      : Nat
  len     : Nat := 0
  k0      : Nat := 0
  k1      : Nat := 0
  aslot   : Nat := 0xFFFF
  aver    : Nat := 0
  step    : Nat := 0
  build   : Nat := 0
  slot    : Nat := 0
  /-- start stack t (R196) and address of the billet root (R197) -/
  start   : Nat := 0
  root    : Nat := 0
  billets : List Billet := []
  /-- stack-local billet lists: (layer * heads + head) * 20 + stack, and address (R197) -/
  lists   : List (Nat × Nat) := []
  sealedCrc : Nat := 0
  parked  : Bool := false
  /-- group.modules at park -/
  modules : Nat := 1
  imported : Bool := false
  /-- not selected for steps: a park has been accepted -/
  parking : Bool := false
  closing : Bool := false
  /-- a retired request asked for the session to be closed, which waits for the session's other requests (R293) -/
  closeDue : Bool := false
  deriving DecidableEq, Repr

/-- A generation request (R288, R291). -/
structure Request where
  tag      : Nat
  session  : Nat
  /-- state code of R291 -/
  state    : Nat := 1
  /-- the state before HELD -/
  before   : Nat := 0
  aslot    : Nat := 0xFFFF
  aver     : Nat := 0
  follow   : Bool := false
  express  : Bool := false
  spec     : Bool := false
  close    : Bool := false
  ring     : Nat := 0
  maxNew   : Nat := 0
  generated : Nat := 0
  promptAt : Nat := 0
  promptLeft : Nat := 0
  /-- tokens of the whole prompt, which choose the express path (R209) -/
  promptLen : Nat := 0
  stop     : List Nat := []
  sblock   : List Byte := []
  qid      : Nat := 0
  /-- number of the last step that held it (0: none), for the order of R295 -/
  lastStep : Nat := 0
  lateCancel : Bool := false
  /-- outcome code of R291 and status, once terminal -/
  outcome  : Nat := 0
  status   : Nat := 0
  endStep  : Nat := 0
  /-- index of its final entry, once written -/
  finalAt  : Option Nat := none
  lostBillets : Bool := false
  deriving DecidableEq, Repr

/-- A CANCEL or ABORT of a request that has been stamped with a step number (R302). -/
structure Cancel where
  caller : Caller
  target : Nat
  c      : Nat
  deriving DecidableEq, Repr

/-- A row or chunk of a step (R295, R324). -/
structure StepRow where
  req     : Nat
  session : Nat
  len     : Nat
  /-- prompt tokens of a chunk; 0 for a decode row -/
  chunk   : Nat := 0
  /-- the row samples: a decode row, or the chunk that ends its prompt -/
  samples : Bool := true
  drafts  : List Nat := []
  k0      : Nat := 0
  k1      : Nat := 0
  sblock  : List Byte := []
  aslot   : Nat := 0xFFFF
  aver    : Nat := 0
  switched : Bool := false
  oldVer  : Option Nat := none
  /-- (j, token) as Spark returned them -/
  toks    : List (Nat × Nat) := []
  invalid : Bool := false
  deriving DecidableEq, Repr

/-- The step in flight (R294, R297), with what poison recovery needs (R440 to R443). -/
structure Step where
  on      : Bool := false
  num     : Nat := 0
  build   : Nat := 0
  rows    : List StepRow := []
  /-- (queue, slot index, tag) of the commands issued for it -/
  cmds    : List (Nat × Nat × Nat) := []
  /-- positions of members that reported their share committed -/
  acked   : List Nat := []
  tainted : Bool := false
  /-- origins: member position, space, address, and whether the latch overflowed -/
  origins : List (Nat × Nat × Nat × Bool) := []
  /-- sessions whose cache members have lost (R440) -/
  lost    : List Nat := []
  execs   : Nat := 1
  /-- (member, address) repaired for this step -/
  repaired : List (Nat × Nat) := []
  /-- the step is to be executed again, and its commands have not been issued anew -/
  again   : Bool := false
  /-- sessions of the step that failed under R440 and are left out of its execution again -/
  dropped : List Nat := []
  deriving DecidableEq, Repr

/-- A tensor record of a manifest (R360): descriptor words, golden copy, bytes and CRC. -/
structure Tensor where
  desc   : List Nat
  golden : Nat
  bytes  : Nat
  crc    : Nat
  /-- space of the golden copy; an adapter's, which lies in its image, has no CRC of its own -/
  space  : Nat := 5
  ofImage : Bool := false
  deriving DecidableEq, Repr

/-- A reduction plan of the build (R82), with the leaves that this module holds of it (R85, R378). -/
structure Plan where
  id    : Nat
  form  : Nat
  width : Nat
  axis  : Nat
  leaf  : Nat
  first : Nat
  count : Nat
  deriving DecidableEq, Repr

/-- A model build (R359, R360): state 0 NONE, 1 LOADING, 2 LOADED. -/
structure Build where
  state   : Nat := 0
  id      : Nat := 0
  vocab   : Nat := 0
  layers  : Nat := 0
  heads   : Nat := 0
  d       : Nat := 0
  fmt     : Nat := 0
  exact   : Bool := false
  space   : Nat := 5
  tensors : List Tensor := []
  plans   : List Plan := []
  deriving DecidableEq, Repr

/-- A resident adapter version (R298): number, its image, and its tensors as placed, with their anchors (R73). -/
structure Version where
  num   : Nat
  image : Nat
  space : Nat
  bytes : Nat
  tensors : List Tensor := []
  deriving DecidableEq, Repr

/-- An adapter slot: resident versions, oldest first, and the number the newest published one had. -/
structure Adapter where
  versions : List Version := []
  current  : Nat := 0
  deriving DecidableEq, Repr

/-- An async operation accepted and not finished (R356), or a park (R335): its opcode, tag, payload words and caller; the
positions of the members yet to report; what it has placed. -/
structure AsyncOp where
  op      : Nat
  tag     : Nat
  words   : List Nat
  caller  : Option Caller := none
  awaits  : List Nat := []
  failed  : Nat := 0
  accepted : Bool := true
  /-- session that an import has placed, and the request it carries -/
  placed  : Option Session := none
  held    : Option Request := none
  /-- build that a model load has checked and placed, not yet current -/
  built   : Option Build := none
  /-- a group PREPARE has been answered by every member; COMMIT is out -/
  second  : Bool := false
  crcS : Nat := 0
  crcO : Nat := 0
  numS : Nat := 0
  numO : Nat := 0
  deriving DecidableEq, Repr

/-- What a member's report is about (R32, R297, R335, R339, R340, R377). -/
inductive AckOf where
  /-- its share of step `num`, with the stored-data origins that tainted it, as (space, address, overflow), and the sessions whose
  cache they lost -/
  | step (num : Nat) (origins : List (Nat × Nat × Bool)) (lost : List Nat)
  /-- its share of a forwarded command -/
  | command (tag : Nat)
  /-- its part of a park, export or import: status, XORs of contributions and counts of billets -/
  | op (tag status crcS crcO numS numO : Nat)
  /-- a hearth reset ended its share of step `num`, which is to be executed again (R89, R447) -/
  | again (num : Nat)
  /-- its answer to PREPARE, or its confirmation of COMMIT: 0 success -/
  | group (status : Nat)
  /-- the status word of its module hearth (R20, R32) -/
  | status (word : Nat)
  deriving DecidableEq, Repr

/-- A share of a group command, as the lead forwards it (R32). -/
inductive FwdCmd where
  | close (tag session : Nat)
  | resume (tag session : Nat)
  | load (tag : Nat) (b : Build)
  | unload (tag : Nat)
  /-- export: the member's billets into their records of an image (R339 steps 2 and 3) -/
  | copyOut (tag session space addr : Nat)
  /-- import: the member's billets out of an image; `bytes` is the image where it lies beyond this module (R340 steps 2 and 3) -/
  | copyIn (tag session space addr start : Nat) (bytes : List Byte)
  /-- the import commits: the member writes its ingot (R340 step 5) -/
  | importWrite (tag session : Nat)
  /-- the import failed: what the member allocated is freed -/
  | importDrop (session : Nat)
  /-- the commit record of a step: each session with its new L, and whether its request ended CANCELLED (R195, R297) -/
  | committed (rows : List (Nat × Nat × Bool))
  deriving DecidableEq, Repr

/-- A row that a Spark unit is sampling (R313, R322): where its logits lie, and what the members have sent. -/
structure SparkRow where
  anvil : Nat
  unit  : Nat
  row   : Nat
  j     : Nat
  space : Nat
  addr  : Nat
  fmt   : Nat
  dest  : Nat
  /-- (member, FP32 code of its maximum, invalid) -/
  maxes : List (Nat × Nat × Bool) := []
  /-- (member, S_g, candidates as (id, FP32 logit code)) -/
  sums  : List (Nat × Nat × List (Nat × Nat)) := []
  second : Bool := false
  deriving DecidableEq, Repr

/-- The exchange of one row's anchor over a split axis (R71): what each hearth found, by group position, and where the overall maximum
goes on this module. -/
structure AnchorRow where
  key   : Nat
  vals  : List (Nat × Nat) := []
  place : Option (Nat × Nat) := none
  deriving DecidableEq, Repr

/-- A firmware image of the SPI flash (R353): `ok` says that its signature verifies, `eng` that it does so with the engineering key (R2). -/
structure Image where
  ok    : Bool := false
  build : Nat := 0
  sec   : Nat := 0
  eng   : Bool := false
  minor : Nat := 0
  patch : Nat := 0
  deriving DecidableEq, Repr

/-- What Prefen keeps on the Smith cores. -/
structure Prefen where
  mbox     : List (Nat × Mbox) := []
  arrivals : Nat := 0
  sessions : List (Nat × Session) := []
  requests : List Request := []
  cancels  : List Cancel := []
  step     : Step := {}
  /-- number of the last step stamped in this run of numbers -/
  lastStep : Nat := 0
  rings    : List (Nat × Ring) := []
  ringOut  : List RingOut := []
  evRing   : Ring := {}
  evHeld   : List Event := []
  evLost   : Nat := 0
  /-- how many of the held events go out before EVENTS_LOST -/
  evLostAt : Nat := 0
  build    : Build := {}
  /-- a load in progress has been accepted -/
  loading  : Bool := false
  adapters : List (Nat × Adapter) := []
  /-- slice-mode clears of freed billets that are not done, oldest first: base and pieces (R151, R196) -/
  clears   : List (Nat × Nat) := []
  ops      : List AsyncOp := []
  sparks   : List SparkRow := []
  /-- SM address of the ingot table, and the park count of each slot -/
  ingotTable : Nat := 0
  parkCount : List (Nat × Nat) := []
  /-- anchor exchanges of the step in flight (R71) -/
  anchors  : List AnchorRow := []
  /-- the group holds since this time after a partner loss (R444), or a member since the lead's departure (R445) -/
  holdSince : Option Nat := none
  /-- when the module entered sleep (R343) -/
  sleptAt  : Nat := 0
  deriving DecidableEq, Repr

/-- One Ember channel: its last four raw samples, newest first, its filter state, how long it has held one code, the range of
the other channels' filter states meanwhile, and consecutive rounds outside its rail's window (R421, R422, R428). -/
structure EmbCh where
  on      : Bool := false
  samples : List Int := []
  y       : Int := 0
  same    : Nat := 0
  lo      : Int := 0
  hi      : Int := 0
  off     : Nat := 0
  deriving DecidableEq, Repr

/-- An entry of Ember's non-volatile shutdown log (R429). -/
structure EmbLog where
  cause : Nat
  time  : Nat
  temps : List Int
  deriving DecidableEq, Repr

/-- What Ember keeps beside its registers (R415 to R430, R473, R480). -/
structure Ember where
  /-- Ember's own supply is up and it has booted -/
  on       : Bool := false
  chans    : List (Nat × EmbCh) := []
  /-- input power of the last 8 rounds and of the last 1,024, newest first, in microwatts -/
  power    : List Nat := []
  /-- input energy since start, in picojoules -/
  energy   : Nat := 0
  /-- consecutive rounds below 255 V and above 420 V -/
  under    : Nat := 0
  above    : Nat := 0
  /-- pairs of regions that the skew hold holds (R411) -/
  skew     : List (Nat × Nat) := []
  /-- regions held for having every channel flagged (R423) -/
  blind    : List Nat := []
  flowHold : Bool := false
  /-- consecutive rounds below flow_min, per plate; at or above it, both; below 300 mL/min, per plate -/
  lowA     : Nat := 0
  lowB     : Nat := 0
  flowOk   : Nat := 0
  stopA    : Nat := 0
  stopB    : Nat := 0
  /-- consecutive rounds of good flow and no leak (R451 step 2) -/
  good     : Nat := 0
  /-- state with hold of regions 0 to 23 as decided at the last round end, and as applied -/
  decided  : List Nat := []
  applied  : List Nat := []
  /-- effective clock and its reasons for each cluster, as decided -/
  clocks   : List (Nat × Nat) := []
  /-- clock that each quadrant rail supports now, in 50 MHz units; 0 while off -/
  rails    : List (Nat × Nat) := []
  latch    : Bool := false
  log      : List EmbLog := []
  /-- anti-rollback count (R353) -/
  rollback : Nat := 0
  /-- the interlock loop of J1 is open (R473) -/
  open_    : Bool := false
  /-- latched bits of STATUS_WORD, STATUS_INPUT and STATUS_TEMPERATURE (R419) -/
  inUnder  : Bool := false
  inOver   : Bool := false
  warnTemp : Bool := false
  faultTemp : Bool := false
  limited  : Bool := false
  /-- strap value sampled at boot (R480) -/
  strap    : Nat := 7
  deriving DecidableEq, Repr

/-- Startup, pins, JTAG, flash and Quench (R451 to R468). -/
structure Board where
  /-- the last startup step done: 0 none, 1 Ember runs, 2 converters on, 4 Prefen loaded, 6 hearths released -/
  boot     : Nat := 0
  /-- the startup in progress is a warm one -/
  warm     : Bool := false
  /-- PERST_N and QUENCH_N are asserted -/
  perst    : Bool := true
  quenchN  : Bool := false
  /-- common clocking is strapped, as sampled at step 3 (R481) -/
  common   : Bool := false
  /-- instruction of each TAP: Hood, A0 to A3 -/
  ir       : List Nat := []
  /-- data of the last REGACC read -/
  regacc   : Word := 0
  /-- boundary registers as last preloaded -/
  boundary : List (Nat × Nat) := []
  /-- image bytes ready for ROSHIFT -/
  shift    : List Byte := []
  /-- bytes of the SPI flash that SPIPROG has programmed, blocks of 64 KiB that it has erased, and the free value that says what
  every other byte holds -/
  spi      : List (Nat × Option Byte) := []
  erased   : List Nat := []
  spiEpoch : Nat := 0
  /-- the boot ROM has not looked at the images since SPIPROG last wrote the flash, or since manufacture -/
  spiNew   : Bool := true
  /-- status array at the freeze (R463) -/
  snapshot : List (Nat × Nat) := []
  /-- stacks that this freeze has put into self-refresh; the site's own STK_SR_CTL stands still (R133, R463) -/
  quiet    : List Nat := []
  /-- the free value that says what the islands' state chains hold in this freeze (R469) -/
  chainAt  : Nat := 0
  /-- number of the section after which a read-out's image is to end -/
  roStop   : Option Nat := none
  /-- QCH_RO_CTL, QCH_RO_ADDR and QCH_RO_LEN as the go of the read-out found them (R467) -/
  roGo     : List Nat := []
  /-- commands that the read-out engine has carried out (R25, R26) -/
  roTag    : Nat := 0
  /-- resets that wait for a release or for the operations of R486: 0 FLR, 1 hot reset, 2 link-down, 3 MODULE_RESET answered -/
  waiting  : List Nat := []
  /-- Anvils whose UCIe test runs (R458) -/
  ucieRun  : List Nat := []
  deriving DecidableEq, Repr

/-- How software lowers an event counter (R400): a core's belcnt, which acts on the counter its belsel names, or BEL_EVSUB. -/
inductive CountWrite where
  | belcnt (core : Fin 68)
  | evsub (b : Fin 5) (src : Fin 1024)
  deriving DecidableEq, Repr

/-- How software sets software latches (R404, R406): a core's belsetp, which names one source of its Bell, or a word of BEL_SETP. -/
inductive PendWrite where
  | belsetp (core : Fin 68) (src : Fin 1024)
  | setp (b : Fin 5) (w : Fin 16) (mask : Word)
  deriving DecidableEq, Repr

/-- Who writes a register (R11, R234, R461). -/
inductive RegAgent where
  | host
  | smith (k : Fin 4)
  | hammer (core : Fin 64)
  | jtag
  deriving DecidableEq, Repr

/-- What a register write names: an offset of BAR0, with a half for a 4-byte write (true the upper one), an offset that is no
multiple of 8 being an unaligned write (R387); belsel of a core; the Memory Space Enable bit and the MSI-X control bits (enable, function mask) of configuration space. [DEDUCED, log 134] -/
inductive RegDest where
  | bar (off : BitVec 22) (half : Option Bool)
  | belsel (core : Fin 68)
  | memorySpace
  | msixControl
  deriving DecidableEq, Repr

/-- What training finds on a channel, as an operand of startup (R134): lanes that fail, data lanes 0 to 255 and spares 256 to 263,
and whether its check fails twice. [DESIGN CHOICE, log 120] -/
structure ChanTrain where
  stack   : Fin 20
  channel : Fin 32
  lanes   : List (Fin 264)
  fails   : Bool
  deriving DecidableEq, Repr

/-- A section of the read-out image (R469): kind, flags, index, address field, payload. -/
structure RoSection where
  kind  : Nat
  flags : Nat
  index : Nat
  addr  : Nat
  data  : List Byte
  deriving DecidableEq, Repr

end Sys2Proof.Machine
end

