-- ==== Sys2Proof/Syntax.lean ====
section
/-! DEFINITION. The commands of the block: one constructor for each row of spec/opcode_table.json, in the table's
order. The operands say where the event happens and what it carries; the numbered rule of the row stands in each docstring. -/

namespace Sys2Proof

open Sys2Proof.Machine

/-- One command to the module: a bus access, an engine's next action, a frame or an event from outside. -/
inductive Instr where
  /-- CORE_LOAD (R100): A Hammer or Smith core runs an ordinary load, which may hit its data cache or be served at the ordering point. -/
  | coreLoad (core : Fin 68) (addr : OnWire Word) (lg : Fin 4) (zext : Bool) (rd : Fin 32)
  /-- CORE_STORE (R100): A Hammer or Smith core runs a store, which goes write-through to its ordering point and updates any cached line. -/
  | coreStore (core : Fin 68) (addr : OnWire Word) (lg : Fin 4) (v : Word)
  /-- LD_V (R101): A volatile load reads 8 aligned bytes at the PoC and replaces a cached copy of the line. -/
  | ldV (core : Fin 68) (addr : OnWire Word) (rd : Fin 32)
  /-- FENCE_ACQ (R103): The core waits for earlier loads and atomics to return, then flash-invalidates its data cache. -/
  | fenceAcq (core : Fin 68)
  /-- FENCE_REL (R103): The core holds later stores, atomics and pushes until earlier loads have returned and earlier writes are acknowledged. -/
  | fenceRel (core : Fin 68)
  /-- FENCE_FULL (R103): The core performs fence.rel then fence.acq; the standard FENCE and FENCE.TSO act the same way. -/
  | fenceFull (f : FenceWord)
  /-- FENCE_I (R103): The core invalidates its instruction cache only. -/
  | fenceI (core : Fin 68)
  /-- ATOMIC_MEMORY_OPERATION (R104): An AMO is performed at the PoC of an SM line, invalidates the core's cached copy and adds fences for aq and rl. -/
  | atomicMemoryOperation (core : Fin 68) (op : AmoOp) (addr : OnWire Word) (dbl : Bool) (v : Word) (rd : Fin 32) (aq : Bool) (rl : Bool)
  /-- LOAD_RESERVED (R104): An LR sets a reservation on the 64-byte line at the PoC. -/
  | loadReserved (core : Fin 68) (addr : OnWire Word) (dbl : Bool) (rd : Fin 32) (aq : Bool) (rl : Bool)
  /-- STORE_CONDITIONAL (R104): An SC writes only if the line's reservation has not been cleared by a write. -/
  | storeConditional (core : Fin 68) (addr : OnWire Word) (dbl : Bool) (v : Word) (rd : Fin 32) (aq : Bool) (rl : Bool)
  /-- HOST_SM_READ (R109): A host CXL.mem read through BAR4 is served at the PoC on the narrow port, with tracker state granted or withheld. -/
  | hostSmRead (o : OnWire (BitVec 40)) (want : Fin 3)
  /-- HOST_SM_WRITE (R389): A host CXL.mem write through BAR4 is checked by path CRC and written at the PoC. -/
  | hostSmWrite (o : BitVec 40) (data : List Byte) (poisoned : Bool) (e : LinkErr)
  /-- BACK_INVALIDATE_RESPONSE (R109): The host's BIRsp arrives and the held access proceeds on current data, with the tracker entry removed or downgraded. -/
  | backInvalidateResponse (line : BitVec 44) (data : Option (List Byte)) (keep : Bool)
  /-- HOST_COHERENCE_TIMEOUT (R389): A snoop unanswered for 10 ms raises the host-coherence fault while the PoC keeps holding the access. -/
  | hostCoherenceTimeout (line : BitVec 44)
  /-- H2D_SNOOP (R383): A CXL.cache host-to-device snoop is answered RspIMiss. -/
  | h2dSnoop
  /-- HTRK_RECALL_ALL (R112): A write of STK_HTRK_CTL.recall_all recalls every tracked line of the stack. -/
  | htrkRecallAll (n : Fin 20)
  /-- MAIN_PATH_BURST (R121): A 256-byte run from one Tongs channel or Bellows is served at the PoC as one main-path burst. -/
  | mainPathBurst (r : PathReq)
  /-- NARROW_PORT_ACCESS (R124): A 32-byte access is served on the narrow port without waiting for a yield point. -/
  | narrowPortAccess (r : PathReq)
  /-- YIELD_POINT (R125): A busy Swage unit offers a yield point when its interval count expires, pausing to let queued main-path bursts, postponed refresh, remap moves and scrub be served. -/
  | yieldPoint (n : Fin 20) (u : Fin 512)
  /-- REFRESH_COMMAND (R129): The site issues a per-bank refresh of 4 rows, postponing it when the bank is held by a Swage unit. -/
  | refreshCommand (n : Fin 20) (ch : Fin 32) (ly : Fin 16) (bg : Fin 4) (bank : Fin 4) (bankHeld : Bool)
  /-- LANE_RECENTRE (R135): Every 100 ms the site re-centres each lane's sampling point and increments retrains. -/
  | laneRecentre (n : Fin 20) (ch : Fin 32)
  /-- SR_REQUEST (R131): Setting STK_SR_CTL.req asks for self-refresh entry, which is refused unless the stack is idle and its channels are usable. -/
  | srRequest (n : Fin 20)
  /-- SR_EXIT_REQUEST (R131): Clearing STK_SR_CTL.req asks the stack to leave self-refresh. -/
  | srExitRequest (n : Fin 20)
  /-- SR_ENTRY_DONE (R131): Self-refresh entry completes and the stack state becomes SELF_REFRESH. -/
  | srEntryDone (n : Fin 20)
  /-- SR_EXIT_DONE (R132): Self-refresh exit completes and the waiting accesses are served. -/
  | srExitDone (n : Fin 20)
  /-- SR_IDLE_REENTRY (R132): With req still 1, the stack re-enters self-refresh after idle_us without access, if the entry conditions hold. -/
  | srIdleReentry (n : Fin 20)
  /-- TG_START (R139): A start of STK_TG_CTL begins a traffic-generator run if the stack is in RESET or HALTED, else sets refused. -/
  | tgStart (n : Fin 20) (ch : Fin 32) (v : Word)
  /-- TG_STOP (R140): A stop of STK_TG_CTL ends the run after the current burst. -/
  | tgStop (n : Fin 20) (ch : Fin 32) (ran : Nat) (bad : List Nat)
  /-- TG_RUN_DONE (R140): The traffic-generator run ends after its burst count and sets done. -/
  | tgRunDone (n : Fin 20) (ch : Fin 32) (bad : List Nat)
  /-- VALID_BIT_CLEAR (R151): A go of STK_VB_CTL requests a valid-bit clear in block or slice mode, refused while busy. -/
  | validBitClear (n : Fin 20) (v : Word)
  /-- VALID_BIT_CLEAR_START (R151): Once no accepted Swage command overlaps the rows, the clear starts and its rows count as cleared for later accesses. -/
  | validBitClearStart (n : Fin 20)
  /-- VALID_BIT_CLEAR_DONE (R151): The last row of the range is cleared and busy returns to 0. -/
  | validBitClearDone (n : Fin 20)
  /-- ERR_INFO_CLEAR (R162): Writing 1 to STK_ERR_INFO.valid or ANV_ERR_INFO.valid clears the latch so that the next event can latch. -/
  | errInfoClear (b : Fin 24) (overflow : Bool)
  /-- STORED_ERROR_SERVICE (R163): Prefen records a latched event, posts a STORED_ERROR event and clears valid. -/
  | storedErrorService (b : Fin 24)
  /-- REMAP_MOVE (R158): A go of STK_RMAP_CTL starts moving a row to a spare, holding accesses to the row, or is refused. -/
  | remapMove (n : Fin 20) (v : Word)
  /-- REMAP_MOVE_DONE (R158): The row is copied to the spare, the entry is set valid and held accesses are released. -/
  | remapMoveDone (n : Fin 20)
  /-- SCRUB_ROW (R160): Paced patrol scrub decodes each word of the next valid row and corrects it or rewrites it as poison. -/
  | scrubRow (n : Fin 20) (ch : Fin 32) (ly : Fin 16)
  /-- SCRUB_START (R160): A start of STK_SCRUB_CTL begins a scrub pass at once if none is in progress. -/
  | scrubStart (n : Fin 20)
  /-- ECC_RAW_READ (R164): A test-mode raw read loads a word's data, check symbols and valid bit without decoding. -/
  | eccRawRead (b : Fin 24) (v : Word)
  /-- ECC_RAW_WRITE (R164): A test-mode raw write stores data and check symbols as given and sets the valid bit. -/
  | eccRawWrite (b : Fin 24) (v : Word)
  /-- ECC_DECODED_READ (R164): A test-mode decoded read classifies a word under the ordinary rules, with counting and latching. -/
  | eccDecodedRead (b : Fin 24) (v : Word)
  /-- ECC_ENCODED_WRITE (R164): A test-mode encoded write stores data with check symbols from the encoder. -/
  | eccEncodedWrite (b : Fin 24) (v : Word)
  /-- SWAGE_COMMAND_TAKE (R169): The swage dispatcher takes the head command of the next ACTIVE queue, checks it and recalls host lines in its ranges. -/
  | swageCommandTake (n : Fin 20)
  /-- SWAGE_PROLOGUE (R169): Once earlier writes are acknowledged and no hold applies, the dispatcher broadcasts the registers, delivers S1 and starts every unit. -/
  | swagePrologue (n : Fin 20)
  /-- SWAGE_NOP (R180): The micro-instruction NOP does nothing. -/
  | swageNop (n : Fin 20) (u : Fin 512)
  /-- END (R180): The unit commits its share and releases its column path. -/
  | endCmd (n : Fin 20) (u : Fin 512)
  /-- YLD (R180): The unit offers a yield point whatever its interval. -/
  | yld (n : Fin 20) (u : Fin 512)
  /-- SETL (R180): The unit loads a loop counter with a count. -/
  | setl (n : Fin 20) (u : Fin 512)
  /-- LOOP (R180): The unit decrements a loop counter and branches while it is nonzero. -/
  | loop (n : Fin 20) (u : Fin 512)
  /-- OWNL (R180): The unit loads a counter with its owned rows of a stream and moves the cursor to the first. -/
  | ownl (n : Fin 20) (u : Fin 512)
  /-- LENL (R202): The unit loads a counter with its queued billets for a batch row of a billet-list stream. -/
  | lenl (n : Fin 20) (u : Fin 512)
  /-- SKIP (R180): The unit moves a stream cursor forward by a count of rows. -/
  | skip (n : Fin 20) (u : Fin 512)
  /-- ACLR (R180): The unit clears a range of accumulator entries and their flags. -/
  | aclr (n : Fin 20) (u : Fin 512)
  /-- MVM (R182): The unit accumulates products of its owned weight elements with row-buffer rows in the anchored frame. -/
  | mvm (n : Fin 20) (u : Fin 512)
  /-- PSND (R180): The unit sends accumulators to the merge unit keyed by row, clears them and moves the stream on. -/
  | psnd (n : Fin 20) (u : Fin 512)
  /-- CWR (R202): The unit writes a row-buffer row, converted, at its cursor position and moves on. -/
  | cwr (n : Fin 20) (u : Fin 512)
  /-- DOTS (R180): The unit writes FP32 dot products of position vectors with query rows into the score file. -/
  | dots (n : Fin 20) (u : Fin 512)
  /-- MCLR (R180): The unit resets max registers and their nan flags. -/
  | mclr (n : Fin 20) (u : Fin 512)
  /-- SMAX (R180): The unit updates row maxima over finite scores and sets nan flags on non-finite ones. -/
  | smax (n : Fin 20) (u : Fin 512)
  /-- SEXP (R180): The unit replaces scores by exp(score minus max) and sums them into accumulators. -/
  | sexp (n : Fin 20) (u : Fin 512)
  /-- SWAGE_VACC (R180): The unit accumulates weighted value vectors into accumulator entries. -/
  | swageVacc (n : Fin 20) (u : Fin 512)
  /-- PART (R202): The unit sends each row's per-billet partial to the merge unit and moves to its next queued billet. -/
  | part (n : Fin 20) (u : Fin 512)
  /-- SWAGE_MERGE (R182): After every unit reaches END the merge unit converts and writes outputs, and the stack journals the command and pulses. -/
  | swageMerge (n : Fin 20)
  /-- MERGE_EXCHANGE_RECEIVE (R205): A site receives another site's maxima and flags under an xkey. -/
  | mergeExchangeReceive (n : Fin 20) (src : Fin 20)
  /-- MERGE_ABORT (R205): A site receives an abort under its xkey, discards its records and ends NOT_STARTED with MERGE_ABORT. -/
  | mergeAbort (n : Fin 20)
  /-- ATTENTION_MERGE (R204): Once every peer has sent, the site forms its totals, writes raw records and journals the attention command. -/
  | attentionMerge (n : Fin 20)
  /-- SWAGE_TIMEOUT (R177): The share run time passes limit_us before the last END and the Swage timeout fault stops the command. -/
  | swageTimeout (n : Fin 20)
  /-- MP_WRITE (R178): A Smith write to SWG_MP broadcasts a micro-program word to all units when permitted. -/
  | mpWrite (n : Fin 20) (i : Fin 256) (v : Word)
  /-- MP_WEN_WRITE (R178): A write of mp_wen enables or disables micro-program writes, refused while a command is busy. -/
  | mpWenWrite (n : Fin 20) (b : Bool)
  /-- MMA (R214): The matrix engine adds exact products of X and W rows into an accumulator bank. -/
  | mma (a : Fin 4) (c : Fin 16) (k : Fin 16)
  /-- ENGINE_NOP (R220): A control word with op 0x00 does nothing in its engine. -/
  | engineNop (a : Fin 4) (c : Fin 16) (k : Fin 16) (eng : Fin 4)
  /-- VADD (R217): The vector engine adds elementwise in binary32. -/
  | vadd (a : Fin 4) (c : Fin 16) (k : Fin 16)
  /-- VSUB (R217): The vector engine subtracts elementwise in binary32. -/
  | vsub (a : Fin 4) (c : Fin 16) (k : Fin 16)
  /-- VMUL (R217): The vector engine multiplies elementwise in binary32. -/
  | vmul (a : Fin 4) (c : Fin 16) (k : Fin 16)
  /-- VDIV (R217): The vector engine divides elementwise in binary32. -/
  | vdiv (a : Fin 4) (c : Fin 16) (k : Fin 16)
  /-- VMAX (R217): The vector engine takes elementwise maxima. -/
  | vmax (a : Fin 4) (c : Fin 16) (k : Fin 16)
  /-- VMIN (R217): The vector engine takes elementwise minima. -/
  | vmin (a : Fin 4) (c : Fin 16) (k : Fin 16)
  /-- VSQRT (R217): The vector engine takes elementwise square roots. -/
  | vsqrt (a : Fin 4) (c : Fin 16) (k : Fin 16)
  /-- VEXP (R217): The vector engine computes exp of A or of A minus B under the fixed procedure. -/
  | vexp (a : Fin 4) (c : Fin 16) (k : Fin 16)
  /-- VSCL (R217): The vector engine computes A times s0 plus s1 as one fused multiply-add. -/
  | vscl (a : Fin 4) (c : Fin 16) (k : Fin 16)
  /-- VCVT (R217): The vector engine converts the exact value of A once. -/
  | vcvt (a : Fin 4) (c : Fin 16) (k : Fin 16)
  /-- VFILL (R217): The vector engine writes a 4-byte pattern over every row. -/
  | vfill (a : Fin 4) (c : Fin 16) (k : Fin 16)
  /-- VRSUM (R217): The vector engine writes the exact sum of each row. -/
  | vrsum (a : Fin 4) (c : Fin 16) (k : Fin 16)
  /-- VRMAXF (R217): The vector engine writes each row's largest element, or NaN if any is non-finite. -/
  | vrmaxf (a : Fin 4) (c : Fin 16) (k : Fin 16)
  /-- VAMAX (R217): The vector engine updates per-row maxima of bound exponents. -/
  | vamax (a : Fin 4) (c : Fin 16) (k : Fin 16)
  /-- VIMAX (R217): The vector engine takes maxima of int16 arrays. -/
  | vimax (a : Fin 4) (c : Fin 16) (k : Fin 16)
  /-- VACC (R217): The vector engine adds exact dot products into raw records in a given frame. -/
  | vacc (a : Fin 4) (c : Fin 16) (k : Fin 16)
  /-- ACVT (R217): The vector engine converts accumulator-bank entries to elements. -/
  | acvt (a : Fin 4) (c : Fin 16) (k : Fin 16)
  /-- ARAW (R217): The vector engine writes accumulator-bank entries as raw records. -/
  | araw (a : Fin 4) (c : Fin 16) (k : Fin 16)
  /-- RACC (R217): The vector engine adds raw records exactly and ORs their flags. -/
  | racc (a : Fin 4) (c : Fin 16) (k : Fin 16)
  /-- RCVT (R217): The vector engine converts raw records to elements. -/
  | rcvt (a : Fin 4) (c : Fin 16) (k : Fin 16)
  /-- AQUO (R217): The vector engine writes attention outputs as exact quotients under the edge-case table. -/
  | aquo (a : Fin 4) (c : Fin 16) (k : Fin 16)
  /-- MCPY (R219): The move engine copies a tensor within the scratchpad, repacking layouts. -/
  | mcpy (a : Fin 4) (c : Fin 16) (k : Fin 16)
  /-- MTRN (R219): The move engine transposes plain elements within the scratchpad. -/
  | mtrn (a : Fin 4) (c : Fin 16) (k : Fin 16)
  /-- LOAD (R231): Bellows copies remote rows into the scratchpads of masked cores. -/
  | load (a : Fin 4) (c : PieceRun)
  /-- STORE (R231): Bellows copies rows from masked scratchpads to remote memory. -/
  | store (a : Fin 4) (c : PieceRun)
  /-- RUN (R232): Bellows fetches up to 4,096 control words from DB or SM and issues them in place. -/
  | run (a : Fin 4) (c : Fin 16)
  /-- BAR (R232): Bellows holds its stream until the named counters meet the wait. -/
  | bar (a : Fin 4) (c : Fin 16)
  /-- BELLOWS_RELEASE (R230): Bellows releases an engine word with its tag into the queues of every masked core in one cycle. -/
  | bellowsRelease (a : Fin 4) (c : Fin 16)
  /-- DIRECT_PUSH (R235): A write of ANV_PUSH_W3D pushes the assembled control word into each masked core's engine queue. -/
  | directPush (a : Fin 4) (c : Fin 16) (v : Word)
  /-- BELLOWS_PUSH (R235): A write of ANV_PUSH_W3B pushes the assembled control word into the Bellows queue. -/
  | bellowsPush (a : Fin 4) (c : Fin 16) (v : Word)
  /-- WORD_COMPLETE (R225): A control word's writes are acknowledged; the done counter increments and any requested pulse and trace are made. -/
  | wordComplete (a : Fin 4) (c : Fin 16) (k : Fin 16) (eng : Fin 4)
  /-- ENGINE_WAIT_TIMEOUT (R226): A word waits longer than wait_ms and stops its cluster with the engine-wait timeout fault. -/
  | engineWaitTimeout (a : Fin 4) (c : Fin 16) (k : Fin 16) (eng : Fin 4)
  /-- PUSH_STALL_TIMEOUT (R235): A push stalls longer than wait_ms and raises the engine-wait timeout fault. -/
  | pushStallTimeout (a : Fin 4) (c : Fin 16)
  /-- CL_TAG_READ (R237): A read of ANV_CL_TAG returns the next cluster tag and advances the sequence. -/
  | clTagRead (a : Fin 4) (c : Fin 16)
  /-- HAMMER_RUN (R234): Writing ANV_CL_CTL.hmr_run releases the Hammer core to ANV_CL_BOOT or holds it in reset. -/
  | hammerRun (a : Fin 4) (c : Fin 16) (run : Bool)
  /-- CLUSTER_HALT (R242): Writing ANV_CL_CTL.halt stops Bellows issue after the current word and stalls pushes. -/
  | clusterHalt (a : Fin 4) (c : Fin 16) (h : Bool)
  /-- TRACE_ENABLE (R241): Writing ANV_TRC_CTL.en enables the trace ring and clears drops, unless the ring would pass the end of DB. -/
  | traceEnable (a : Fin 4) (en : Bool)
  /-- TONGS_COPY (R248): A Tongs channel takes and checks a copy command and moves source rows to the destination. -/
  | tongsCopy (e : Fin 24) (c : Fin 64) (es : List (LinkErr × LinkErr))
  /-- TONGS_GATHER (R248): A Tongs channel gathers the tiles named by a coordinate list into a rank-3 destination. -/
  | tongsGather (e : Fin 24) (c : Fin 64) (es : List (LinkErr × LinkErr))
  /-- TONGS_SCATTER (R248): A Tongs channel scatters tiles into the places a coordinate list names. -/
  | tongsScatter (e : Fin 24) (c : Fin 64) (es : List (LinkErr × LinkErr))
  /-- TONGS_COMMIT (R251): Read-backs return or the last write leaves; the channel journals DONE and delivers its event. -/
  | tongsCommit (e : Fin 24) (c : Fin 64)
  /-- TONGS_ABORT (R256): A write of TNG_CH_ABORT aborts the named command or holds the abort pending. -/
  | tongsAbort (e : Fin 24) (c : Fin 64) (tag : BitVec 32)
  /-- CHANNEL_BIND (R245): A write of TNG_CH_CTL binds or unbinds a channel to a queue, ignored while active or if the queue is bound elsewhere. -/
  | channelBind (e : Fin 24) (c : Fin 64) (v : Word)
  /-- TONGS_HALT (R255): Setting TNG_ENG_CTL.halt stops every channel from taking new commands. -/
  | tongsHalt (e : Fin 24) (h : Bool)
  /-- HOST_ACCESS_ERROR (R255): The host aborts or fails an HM access and the command stops with the host-access fault. -/
  | hostAccessError (e : Fin 24) (c : Fin 64) (addr : Nat)
  /-- HM_COMPLETION_TIMEOUT (R381): A non-posted request to the host goes unanswered for 50 ms. -/
  | hmCompletionTimeout (e : Fin 24) (c : Fin 64) (addr : Nat)
  /-- DOORBELL (R266): A doorbell write updates a queue's producer index, or is ignored or raises queue overflow. -/
  | doorbell (q : BitVec 20) (v : BitVec 32)
  /-- QADV_TAKEN (R274): A QSC_QADV write with which = 0 advances taken of a Prefen or cluster queue. -/
  | qadvTaken (core : Fin 68) (q : BitVec 20) (v : BitVec 32)
  /-- QADV_DONE (R274): A QSC_QADV write with which = 1 advances done. -/
  | qadvDone (core : Fin 68) (q : BitVec 20) (v : BitVec 32)
  /-- QUEUE_NOP (R261): A NOP command is taken and journaled. -/
  | queueNop (q : BitVec 20)
  /-- FLAG_ADD (R275): A FLAG ADD command adds its value to a flag at its PoC. -/
  | flagAdd (q : BitVec 20)
  /-- FLAG_SET (R275): A FLAG SET command sets a flag at its PoC. -/
  | flagSet (q : BitVec 20)
  /-- WAIT_GE (R276): A WAIT_GE at the head of a queue registers a watch and holds the queue until the flag reaches the value. -/
  | waitGe (q : BitVec 20)
  /-- WAIT_EQ (R276): A WAIT_EQ at the head of a queue registers a watch and holds the queue until the flag equals the value. -/
  | waitEq (q : BitVec 20)
  /-- WAIT_SATISFIED (R277): A watched flag write meets the condition and the WAIT is journaled DONE. -/
  | waitSatisfied (q : BitVec 20)
  /-- WAIT_POLL (R277): With the watch table full, the flag is read every 16 µs and the value evaluated. -/
  | waitPoll (q : BitVec 20)
  /-- WAIT_TIMEOUT_EXPIRY (R278): A WAIT reaches its timeout and ends DONE or NOT_STARTED with WAIT_TIMEOUT. -/
  | waitTimeoutExpiry (q : BitVec 20)
  /-- WAIT_CENSUS (R279): Every 64 µs the scheduler builds the wait graph and looks for cycles. -/
  | waitCensus
  /-- QUEUE_TABLE_WRITEBACK (R268): The scheduler writes live queue words back to the table at least every 64 µs. -/
  | queueTableWriteback (q : BitVec 20)
  /-- FAULT_RING_CONSUME (R437): A write of QSC_FLT_CONS serves fault records and clears the fault bits they held. -/
  | faultRingConsume (v : BitVec 32)
  /-- GENERATE (R289): Prefen checks and admits a generation request, copies its prompt and pins its adapter. -/
  | generate (q : BitVec 20)
  /-- CANCEL (R302): Prefen stamps a cancel with a step number and resolves it at that step's commit or at once. -/
  | cancel (q : BitVec 20)
  /-- ABORT (R305): Prefen aborts a named operation or request against its commit point. -/
  | abort (src : CmdSrc)
  /-- STEP_STAMP (R295): Prefen selects rows and chunks, stamps the next step number and forwards the step. -/
  | stepStamp (cmds : List (Nat × Nat × Nat)) (tables : List Nat)
  /-- STEP_COMMIT (R297): Once every command is DONE and every token returned, Prefen writes the commit record with the new lengths. -/
  | stepCommit
  /-- REQUEST_RETIRE (R293): Once the consumer index passes its final entry, a terminal request releases its pin and tag and may close its session. -/
  | requestRetire (tag : BitVec 32)
  /-- SPARK_SAMPLE (R318): A Spark unit filters a row's logits and draws its token and probability. -/
  | sparkSample (a : Fin 4) (u : Fin 4) (row : Nat) (j : Fin 8) (space : Fin 16) (addr : Nat) (fmt : Fin 16) (dest : Nat)
  /-- SPARK_MAX_EXCHANGE (R322): A member receives another member's slice maximum and invalid flag. -/
  | sparkMaxExchange (pid : Fin 255) (row : Nat) (j : Fin 8) (m : BitVec 32) (invalid : Bool)
  /-- SPARK_CANDIDATE_EXCHANGE (R322): A member receives another member's slice sum and candidates and, when all are in, chooses the token. -/
  | sparkCandidateExchange (pid : Fin 255) (row : Nat) (j : Fin 8) (sum : BitVec 128) (cands : List (Nat × Nat))
  /-- ANCHOR_EXCHANGE (R71): A hearth receives the row-anchor maxima of the other parts of a split axis. -/
  | anchorExchange (src : AnchorSource) (key : Nat) (anchor : BitVec 16)
  /-- GROUP_PULSE (R23): The lead receives a member's module-hearth pulse and increments group counter 2. -/
  | groupPulse (pid : Fin 255)
  /-- FORWARDED_COMMAND (R32): A member receives its share of a group command from the lead. -/
  | forwardedCommand (f : FwdCmd)
  /-- STEP_FORWARD (R297): A member receives a step from the lead and runs its share. -/
  | stepForward (num : Nat) (rows : List StepRow) (cmds : List (Nat × Nat × Nat)) (tables : List Nat)
  /-- MEMBER_ACK (R32): The lead receives a member's report that it committed its share. -/
  | memberAck (pid : Fin 255) (what : AckOf)
  /-- PARK (R335): Prefen takes a PARK command for a session. -/
  | park (src : CmdSrc)
  /-- PARK_ACCEPT (R335): At the first point with no step, seal or cancel pending, Prefen holds the request and forwards the park. -/
  | parkAccept (sid : BitVec 32)
  /-- PARK_FORWARD (R335): A member writes and confirms its ingot and acknowledges the lead. -/
  | parkForward (tag : Nat) (sid : BitVec 32) (len : Nat) (step : Nat) (held : Option Request)
  /-- RESUME (R337): Prefen checks a parked session's ingots and returns it to service. -/
  | resume (src : CmdSrc)
  /-- CLOSE (R362): Prefen closes a session, freeing its billets, slot and pin. -/
  | close (src : CmdSrc)
  /-- EXPORT (R339): Prefen accepts an export of a parked session and has members copy billets into an image. -/
  | exportCmd (src : CmdSrc)
  /-- EXPORT_COMMIT (R339): After every member's copy is done, the lead writes the image's commit word. -/
  | exportCommit (tag : BitVec 32)
  /-- IMPORT (R340): Prefen checks an image and has members allocate and copy its billets. -/
  | importCmd (src : CmdSrc) (far : List Byte)
  /-- IMPORT_COMMIT (R340): After CRCs match, members and then the lead write PARKED ingots, or the import is undone. -/
  | importCommit (tag : BitVec 32)
  /-- BILLET_CRC (R334): A go of STK_CRC_CTL starts the CRC-64 of a billet, or is refused. -/
  | billetCrc (n : Fin 20) (v : Word)
  /-- BILLET_CRC_DONE (R334): The billet CRC completes into STK_CRC_VAL, or ends refused on poison. -/
  | billetCrcDone (n : Fin 20)
  /-- SLEEP (R343): Prefen puts every stack into self-refresh, stops the Anvil islands and hands the module to Ember. -/
  | sleep (m : Fin 16)
  /-- SLEEP_ENTERED (R417): The rails are off and the module is in SLEEP. -/
  | sleepEntered
  /-- WAKE (R417): A mailbox doorbell or Prefen-queue doorbell makes Ember ramp the rails and start the islands. -/
  | wake
  /-- WAKE_DONE (R417): Prefen clears self-refresh requests and scratchpad valid bits and takes the waking command. -/
  | wakeDone
  /-- MAILBOX_DOORBELL (R347): A write of SMC_MB_DB submits a mailbox command, or is ignored with overrun or refused. -/
  | mailboxDoorbell (m : Fin 16) (v : Word)
  /-- MAILBOX_TAKE (R347): Prefen copies the request area, sets BUSY and runs the common checks. -/
  | mailboxTake (m : Fin 16)
  /-- HOST_IF_WRITE (R351): A write of SMC_HOST_IF runs the ready handshake, setting ack or nak. -/
  | hostIfWrite (v : Word)
  /-- MB_NOP (R358): The mailbox NOP opcode answers with no payload. -/
  | mbNop (m : Fin 16)
  /-- VERSION (R358): Prefen returns release, stepping, part and serial number. -/
  | version (m : Fin 16)
  /-- HEARTH_TABLE (R358): Prefen returns entries of one unchanged version of the hearth table. -/
  | hearthTable (m : Fin 16)
  /-- EVENT_RING (R365): Prefen registers or replaces the event ring and moves held events to it. -/
  | eventRing (m : Fin 16)
  /-- MODEL_LOAD (R359): Prefen accepts a model load and starts checking and copying the manifest. -/
  | modelLoad (m : Fin 16)
  /-- MODEL_LOAD_COMMIT (R360): After copies, anchors and micro-programs are checked, the build becomes current. -/
  | modelLoadCommit (tag : BitVec 32) (mp : List (Fin 20 × Fin 256 × Word))
  /-- MODEL_UNLOAD (R359): Prefen unloads the build when no session remains. -/
  | modelUnload (m : Fin 16)
  /-- MODEL_QUERY (R359): Prefen returns the build id, state and model shape. -/
  | modelQuery (m : Fin 16)
  /-- ADAPTER_LOAD (R361): Prefen accepts an adapter image into a slot and loads it. -/
  | adapterLoad (m : Fin 16)
  /-- ADAPTER_PUBLISH (R298): The loaded adapter version becomes current. -/
  | adapterPublish (tag : BitVec 32) (result : AdapterEnd)
  /-- ADAPTER_REMOVE (R361): Prefen removes an adapter slot unless a version is pinned. -/
  | adapterRemove (m : Fin 16)
  /-- ADAPTER_QUERY (R361): Prefen returns a slot's versions and pin counts. -/
  | adapterQuery (m : Fin 16)
  /-- QUEUE_ENABLE (R269): Prefen checks and enables a queue, resetting its indices and binding a Tongs channel. -/
  | queueEnable (m : Fin 16)
  /-- QUEUE_DISABLE (R269): Prefen disables an IDLE or STOPPED queue. -/
  | queueDisable (m : Fin 16)
  /-- QUEUE_RESUME (R271): Prefen resumes a stopped queue from taken. -/
  | queueResume (m : Fin 16)
  /-- QUEUE_FLUSH (R271): Prefen journals commands up to prod as FLUSHED and leaves the queue stopped. -/
  | queueFlush (m : Fin 16)
  /-- RING_REGISTER (R306): Prefen checks and registers a result ring. -/
  | ringRegister (m : Fin 16)
  /-- RING_UNREGISTER (R361): Prefen unregisters a result ring that no request names. -/
  | ringUnregister (m : Fin 16)
  /-- SESSION_QUERY (R362): Prefen returns a session's length, state, slot and pins. -/
  | sessionQuery (m : Fin 16)
  /-- REQUEST_QUERY (R362): Prefen returns a request's session, state and progress. -/
  | requestQuery (m : Fin 16)
  /-- GROUP_FORM (R377): The lead checks the partners and sends PREPARE to form a group. -/
  | groupForm (m : Fin 16)
  /-- GROUP_DISSOLVE (R379): The lead dissolves the group by PREPARE and COMMIT, restoring groups of one. -/
  | groupDissolve (m : Fin 16)
  /-- GROUP_QUERY (R363): Prefen returns the group size, position and member ids. -/
  | groupQuery (m : Fin 16)
  /-- GROUP_PREPARE (R377): A member checks it is free and makes table.generation odd with the new entries, then replies. -/
  | groupPrepare (pid : Fin 255) (members : List Nat)
  /-- GROUP_COMMIT (R377): A member makes table.generation even and confirms. -/
  | groupCommit (pid : Fin 255) (ggen : Nat)
  /-- GROUP_ABANDON (R377): A member restores its previous hearth-table entries. -/
  | groupAbandon (pid : Fin 255)
  /-- GROUP_LEAVE (R379): A reattaching member of a dissolved group restores a group of one. -/
  | groupLeave (pid : Fin 255)
  /-- MODULE_RESET (R449): Consumers stop, taken commands are journaled MODULE_RESET, then the blocks are reset. -/
  | moduleReset (m : Fin 16)
  /-- HEARTH_RESET_ENTER (R364): A hearth is placed in RESET, stopping its work under its chapter's rules. -/
  | hearthResetEnter (m : Fin 16)
  /-- HEARTH_RESET_LEAVE (R364): A hearth is released from RESET and takes commands within 10 µs. -/
  | hearthResetLeave (m : Fin 16)
  /-- ECC_TEST_READ (R490): ECC_TEST op 0 returns a word's class, position and corrected data. -/
  | eccTestRead (m : Fin 16)
  /-- ECC_TEST_ADD (R490): ECC_TEST op 1 corrupts one symbol or bit of a word. -/
  | eccTestAdd (m : Fin 16)
  /-- ECC_TEST_ADD_TWO (R490): ECC_TEST op 2 corrupts two adjacent positions. -/
  | eccTestAddTwo (m : Fin 16)
  /-- ECC_TEST_POISON (R490): ECC_TEST op 3 writes a word as poison. -/
  | eccTestPoison (m : Fin 16)
  /-- ECC_TEST_ZERO (R490): ECC_TEST op 4 writes a zero word with fresh check bits. -/
  | eccTestZero (m : Fin 16)
  /-- FW_UPDATE (R353): Prefen writes a verified firmware image into the slot that is not running. -/
  | fwUpdate (m : Fin 16) (image : Image)
  /-- HELLO_SEND (R369): Every 1 ms each UP port sends a HELLO to the group address. -/
  | helloSend
  /-- HELLO_RECEIVE (R371): A HELLO is received, updating port bits and starting attachment or a conflict. -/
  | helloReceive (p : Fin 12) (f : Frame)
  /-- ATTACH (R371): An ATTACH is received; the module resets sequence numbers, marks the partner PRESENT and answers ATTACH_ACK. -/
  | attach (p : Fin 12) (f : Frame)
  /-- ATTACH_ACK (R371): An ATTACH_ACK with the current connection number marks the partner PRESENT. -/
  | attachAck (p : Fin 12) (f : Frame)
  /-- BYE (R372): A BYE is received and the partner departs. -/
  | bye (p : Fin 12) (f : Frame)
  /-- ACK (R374): An acknowledgement releases acknowledged frames from retransmission. -/
  | ack (p : Fin 12) (f : Frame)
  /-- NAK (R374): A NAK causes retransmission of the missing frame or reports an address fault. -/
  | nak (p : Fin 12) (f : Frame)
  /-- WRITE (R375): A delivered WRITE frame is performed at the receiver's PoC in psn order. -/
  | write (p : Fin 12) (f : Frame)
  /-- READ_REQ (R375): A delivered READ_REQ is served after earlier writes, or refused when reads are forbidden. -/
  | readReq (p : Fin 12) (f : Frame)
  /-- READ_RSP (R373): A read response returns data, with poison marked, to the requester. -/
  | readRsp (p : Fin 12) (f : Frame)
  /-- FLAG (R375): A delivered FLAG frame adds to or sets a flag at the receiver. -/
  | flag (p : Fin 12) (f : Frame)
  /-- PARTNER_DEPARTURE (R372): Eight ticks pass with no HELLO and the partner becomes GONE. -/
  | partnerDeparture (pid : Fin 255)
  /-- RETRANSMIT_TIMEOUT (R374): A frame unacknowledged for 50 µs is retransmitted. -/
  | retransmitTimeout (pid : Fin 255)
  /-- ACK_TIMER (R374): 4 µs after receipt an acknowledgement is sent. -/
  | ackTimer (pid : Fin 255)
  /-- NAK_TIMER (R374): A gap persisting for 8 µs causes a NAK. -/
  | nakTimer (pid : Fin 255)
  /-- CONFLICT_EXPIRY (R371): A CONFLICT entry returns to ABSENT after 8 ms without a competing HELLO. -/
  | conflictExpiry (pid : Fin 255)
  /-- PORT_LINK_CHANGE (R372): A Tuyere port link comes up or goes down. -/
  | portLinkChange (p : Fin 12) (link : Fin 4)
  /-- PORT_ENABLE_WRITE (R372): A write of TUY_PORT_CTL.en trains or stops a port, sending BYE when the last hearing port is cleared. -/
  | portEnableWrite (p : Fin 12) (v : Word)
  /-- TUY_CTL_WRITE (R380): A write of TUY_CTL sets the partner id and tags, ignored unless every port is off and no group exists. -/
  | tuyCtlWrite (v : Word)
  /-- PARTNER_LOSS_HOLD_EXPIRY (R444): 60 s pass without the member returning and every request of the group fails. -/
  | partnerLossHoldExpiry
  /-- LEAD_LOSS_EXPIRY (R445): 60 s pass without the lead returning and the member restores a group of one. -/
  | leadLossExpiry
  /-- POISON_RECOVERY (R440): When a tainted step's commands finish, Prefen finds each poison origin, repairs or fails requests, and re-executes the step. -/
  | poisonRecovery
  /-- FLR (R394): A function-level reset drains HM accesses, runs the module reset and resets configuration space. -/
  | flr
  /-- HOT_RESET (R395): A hot reset or link-down other than by PERST_N is handled as an FLR. -/
  | hotReset (down : Bool)
  /-- PERST_ASSERT (R453): Assertion of PERST_N starts a warm reset, after BYE on every port. -/
  | perstAssert
  /-- PERST_DEASSERT (R453): Deassertion of PERST_N lets startup run from step 3 or start link training. -/
  | perstDeassert
  /-- BUS_MASTER_DISABLE (R395): Clearing Bus Master Enable stops HM accesses and holds result entries in HM. -/
  | busMasterDisable
  /-- MEMORY_SPACE_DISABLE (R395): Clearing Memory Space Enable makes the BARs complete as Unsupported Request. -/
  | memorySpaceDisable
  /-- LINK_RECOVERY (R395): The host link enters Recovery and resumes unchanged. -/
  | linkRecovery
  /-- D3HOT_ENTRY (R393): In D3hot the function decodes configuration space only and holds MSI-X raises. -/
  | d3hotEntry
  /-- HDM_DECODER_COMMIT (R388): The host commits HDM decoder 0, refused unless it matches the BAR4 window with back-invalidation. -/
  | hdmDecoderCommit (base : Word) (size : Word) (bar4 : Word) (db : Bool) (bi : Bool)
  /-- MSIX_UNMASK (R391): When the masks clear, a pending MSI-X message is sent. -/
  | msixUnmask (v : Option (Fin 2048))
  /-- HOST_LOOP_START (R457): A start of HST_LOOP runs a host-port loop-back under test hold, else sets refused. -/
  | hostLoopStart (v : Word)
  /-- HOST_LOOP_STOP (R457): A stop of HST_LOOP ends the loop-back run. -/
  | hostLoopStop (v : Word) (errs : BitVec 32) (lanes : BitVec 16)
  /-- BELL_CLAIM (R403): A read of belclaim claims the highest-priority pending source for the target, or returns none. -/
  | bellClaim (core : Fin 68) (rd : Fin 32)
  /-- BELL_COMPLETE (R403): A write of beldone completes an ACTIVE source owned by this target. -/
  | bellComplete (core : Fin 68) (src : Fin 1024)
  /-- COUNTER_SUBTRACT (R400): A write of belcnt or BEL_EVSUB subtracts from an event counter, stopping at 0. -/
  | counterSubtract (w : CountWrite) (v : BitVec 32)
  /-- SET_PENDING (R404): A write of belsetp or BEL_SETP sets a source's software latch. -/
  | setPending (p : PendWrite)
  /-- CLEAR_PENDING (R404): A write of BEL_CLRP clears unclaimed software latches. -/
  | clearPending (b : Fin 5) (w : Fin 16) (mask : Word)
  /-- SOURCE_LEVEL_CHANGE (R402): A Bell source level changes and the source's state moves. -/
  | sourceLevelChange (b : Fin 5) (src : Fin 1024)
  /-- BELL_SOURCE_WRITE (R403): A write of BEL_SRC changes enable, priority or target, and an enable of a pending source counts as an arrival. -/
  | bellSourceWrite (b : Fin 5) (src : Fin 1024) (v : Word)
  /-- COALESCE_TIMEOUT (R405): The coalescing timer reaches time_us and the target line is raised. -/
  | coalesceTimeout (b : Fin 5) (t : Fin 16)
  /-- EMBER_ROUND (R420): Every 1.024 ms Ember samples and filters channels and decides states, holds, power limit and shutdown. -/
  | emberRound (raw : List Int) (protection : Bool)
  /-- THROTTLE_APPLY (R426): Ember applies decided state, clock and duty changes within 50 µs. -/
  | throttleApply
  /-- RAIL_RAMP_DONE (R414): A quadrant rail reaches its target and the islands switch clock or start. -/
  | railRampDone (q : Fin 16)
  /-- FAST_POWER_LIMIT (R418): The bus converter's limit acts and Ember sets p to 27 within 50 µs. -/
  | fastPowerLimit
  /-- HARDWARE_TRIP (R428): An analog comparator at 125 °C latches a shutdown without a clock. -/
  | hardwareTrip
  /-- LATCH_RELEASE (R430): Input below 40 V for 5 s releases the shutdown latch. -/
  | latchRelease
  /-- CONVERTERS_RESTART (R415): Input back in range for 50 ms turns the main converters on and startup resumes. -/
  | convertersRestart
  /-- INTERLOCK_OPEN (R473): The J1 interlock loop opens and the converters turn off within 100 µs. -/
  | interlockOpen
  /-- INTERLOCK_CLOSE (R473): The interlock loop closes and the 50 ms qualification starts. -/
  | interlockClose
  /-- SENSOR_FLAG_CLEAR (R422): A W1C write to EMB_FLAG clears a channel flag and resets its filter. -/
  | sensorFlagClear (k : Fin 256)
  /-- CLEAR_FAULTS (R419): The PMBus command clears latched status bits whose cause has passed. -/
  | clearFaults
  /-- COEFFICIENTS (R419): The PMBus command returns the DIRECT-format coefficients. -/
  | coefficients (cmd : Fin 256)
  /-- STATUS_WORD (R419): The PMBus command returns the status word. -/
  | statusWord
  /-- STATUS_INPUT (R419): The PMBus command returns input status. -/
  | statusInput
  /-- STATUS_TEMPERATURE (R419): The PMBus command returns temperature status. -/
  | statusTemperature
  /-- READ_EIN (R419): The PMBus command returns the input energy accumulator. -/
  | readEin
  /-- READ_VIN (R419): The PMBus command returns input voltage. -/
  | readVin
  /-- READ_IIN (R419): The PMBus command returns input current. -/
  | readIin
  /-- READ_PIN (R419): The PMBus command returns input power. -/
  | readPin
  /-- READ_TEMPERATURE_1 (R419): The PMBus command returns the hottest stack temperature. -/
  | readTemperature1
  /-- READ_TEMPERATURE_2 (R419): The PMBus command returns the hottest Anvil temperature. -/
  | readTemperature2
  /-- READ_TEMPERATURE_3 (R419): The PMBus command returns the coolant outlet temperature. -/
  | readTemperature3
  /-- PMBUS_REVISION (R419): The PMBus command returns revision 0x33. -/
  | pmbusRevision
  /-- FRU_READ (R480): An SMBus read returns the FRU record. -/
  | fruRead (off : Fin 256) (n : Fin 256)
  /-- EMBER_BOOT (R451): 50 ms after the input reaches 260 V Ember boots, reads its log and samples the straps. -/
  | emberBoot (strap : Fin 8)
  /-- MAIN_CONVERTERS_ON (R451): After 16 rounds of good flow and no leak Ember brings up the converters and rails. -/
  | mainConvertersOn (railsOk : Bool)
  /-- HOOD_BOOT (R451): The Hood boot ROM tests SRAM, verifies an image and starts Prefen. -/
  | hoodBoot (a : Image) (b : Image) (common : Bool)
  /-- PREFEN_STARTUP (R451): Prefen trains UCIe and stack channels, initialises valid bits and releases the hearths. -/
  | prefenStartup (ucieOk : Bool) (chans : List ChanTrain)
  /-- TEST_HOLD_WRITE (R456): A JTAG write of QCH_TEST.hold holds startup after step 4 or lets it continue. -/
  | testHoldWrite (hold : Bool)
  /-- UCIE_TEST_START (R458): A start of ANV_UCIE_TEST runs a UCIe loop-back under test hold, else refused. -/
  | ucieTestStart (a : Fin 4) (v : Word)
  /-- UCIE_TEST_DONE (R458): The UCIe loop-back run ends and sets done. -/
  | ucieTestDone (a : Fin 4) (errs : BitVec 32)
  /-- EXTEST (R461): The JTAG instruction selects the boundary register for external test. -/
  | extest (tap : Fin 5) (v : Word)
  /-- IDCODE (R461): The JTAG instruction selects the 32-bit IDCODE. -/
  | idcode (tap : Fin 5)
  /-- SAMPLE_PRELOAD (R461): The JTAG instruction samples or preloads the boundary register. -/
  | samplePreload (tap : Fin 5) (v : Word)
  /-- REGACC (R461): Each update performs one 8-byte BAR0 access with Smith rights. -/
  | regacc (write : Bool) (off : BitVec 22) (data : Word)
  /-- ROSHIFT (R461): Each capture and shift delivers the next 8 bytes of the read-out image. -/
  | roshift
  /-- SPIPROG_READ (R461): SPIPROG op 0 reads the SPI flash. -/
  | spiprogRead (addr : BitVec 32)
  /-- SPIPROG_PROGRAM (R461): SPIPROG op 1 programs a flash page. -/
  | spiprogProgram (addr : BitVec 32) (data : BitVec 32)
  /-- SPIPROG_ERASE (R461): SPIPROG op 2 erases 64 KiB of flash. -/
  | spiprogErase (addr : BitVec 32)
  /-- BYPASS (R461): The JTAG instruction selects the 1-bit bypass register. -/
  | bypass (tap : Fin 5) (code : Fin 256)
  /-- QUENCH_PIN_CHANGE (R462): QUENCH_N is asserted or deasserted, requesting or ending a freeze. -/
  | quenchPinChange (asserted : Bool)
  /-- FREEZE_WRITE (R462): A write of QCH_CTL.freeze requests or ends a freeze. -/
  | freezeWrite (v : Word)
  /-- QUENCH_FREEZE (R463): The controller stops the timebase, snapshots status and stops every island at a handshake-idle point. -/
  | quenchFreeze
  /-- QUENCH_RELEASE (R465): With no freeze source and no read-out, stacks leave self-refresh and islands restart in order. -/
  | quenchRelease (ns : Word)
  /-- READOUT_GO (R468): A go of QCH_RO_CTL starts a read-out of the frozen state, or is refused. -/
  | readoutGo (v : Word)
  /-- READOUT_STOP (R467): A stop of QCH_RO_CTL ends the image after the current section. -/
  | readoutStop (sec : Nat)
  /-- READOUT_DONE (R468): The zero-length read after the end section returns and done is set. -/
  | readoutDone
  /-- REGISTER_WRITE (R11): A write to a register with no row of its own acts by its access code. -/
  | registerWrite (who : RegAgent) (d : RegDest) (v : Word)
  /-- FOREIGN_FRAME (R367): A frame with a bad FCS, a foreign EtherType or destination, or an undefined type is discarded and counted in TUY_PORT_ERR. -/
  | foreignFrame (p : Fin 12) (kind : Fin 3)
  /-- HOST_LINK_UP (R382): Host link training completes and HST_LINK_STAT.state becomes UP_PCIE or UP_CXL, which also decides whether CXL.cache and CXL.mem run. -/
  | hostLinkUp (rate : Fin 7) (width : Fin 32) (flit : Bool) (cache : Bool) (mem : Bool)
  /-- PCIE_LOOPBACK (R455): The host moves the link into, or out of, the PCIe Loopback state, and the module acts as far-end retimed loopback slave with no traffic carried. -/
  | pcieLoopback (enter : Bool)
  /-- BUS_MASTER_ENABLE (R395): Setting Bus Master Enable again lets Prefen write its held result and event entries to HM, and lets HM accesses resume. -/
  | busMasterEnable
  /-- D3HOT_EXIT (R393): A return from D3hot to D0 restores BAR decoding and sends the MSI-X raises held while in D3hot, keeping every register. -/
  | d3hotExit
  /-- STANDBY_SUPPLY_LOSS (R415): The input falls below Ember's 180 V standby range, so Ember stops, and its state is restarted at the next boot. -/
  | standbySupplyLoss
  deriving DecidableEq, Repr

end Sys2Proof
end

