-- ==== Sys2Proof/Decode.lean ====
section
/-! DEFINITION. The module is commanded by register accesses, frames and events, and spec/opcode_table.json gives no row a word:
no word spells a command. -/

namespace Sys2Proof

/-- The command that the table's bits spell: none, since no row of the table has bits. -/
def decodeTableWord (_nbits _w : Nat) : Option Instr := none

end Sys2Proof
end

