-- ==== Sys2Proof/Config.lean ====
section
/-! DEFINITION. The values the spec leaves open: constants with no body, of which nothing can be proved. Each is applied to the
operands it depends on or to the counter `free` of State, which a step that uses one reads and advances. -/

namespace Sys2Proof.Config

/-- Which line a full data cache gives up for a new one (the replacement of R100 is not stated). -/
opaque cacheVictim : Nat → Nat

/-- SCLK cycles a Swage unit spends on one micro-instruction (R188 gives limits, not counts). -/
opaque unitCycles : Nat → Nat

/-- Which Smith core stamps a tag of Prefen's own (R26 gives each its issuer code, R356 does not say which core serves). -/
opaque smithCore : Nat → Nat

/-- Which Hood Tongs engine copies for Prefen (R26 gives each its issuer code; no rule says which one Prefen uses). -/
opaque hoodEngine : Nat → Nat

/-- Where Prefen places something in SM that no rule places: the ingot table, a billet's rows in its slice, a copy of a prompt. -/
opaque place : Nat → Nat

/-- Whether a command of a cluster queue had a write reach an ordering point (its low bit): only the program of its Hammer core
knows (R274, R449). -/
opaque started : Nat → Nat

/-- Value register of an illegal-instruction exception (R406 names the exception, not what mtval holds). -/
opaque trapValue : Nat → Nat

/-- A fresh connection number (R371 does not say how one is drawn). -/
opaque connection : Nat → Nat
/-- The port on which a MSG of a partner arrives, which no row names (R374: the sender spreads its frames). -/
opaque msgPort : Nat → Nat

/-- Which errors the host link met as it entered Recovery, corrected ones and uncorrectable ones, and on which lanes (R396, R397 name
them, not when they are met). -/
opaque linkCorrected : Nat → Bool
opaque linkFatal : Nat → Bool
opaque linkLanes : Nat → BitVec 16

/-- Whether the write path of an Anvil's trace ring is full when a record arrives (R240 says what happens then, not when). -/
opaque tracePathFull : Nat → Bool

/-- Serial number of this module, as VERSION and HELLO return it, and whether it is an engineering sample UW-C20-960S
(R358, R369). [DESIGN CHOICE, log 152] -/
opaque serial : BitVec 64
opaque sample : Bool

/-- Full scale of a voltage, current or flow channel of Ember (R422 leaves it to the channel). -/
opaque fullScale : Nat → Int

/-- Calibrated target of a rail, in millivolts: channel, and for a quadrant rail its highest effective clock (R414, R428). -/
opaque railTarget : Nat → Nat → Int

/-- A converter's or rail's own protection acts: which is not in what a round samples (R428 cause 0x06). -/
opaque pmbusCode : Nat → Int → Nat

/-- The COEFFICIENTS answer for a command (R419 gives no m, b or R). [DESIGN CHOICE, log 74] -/
opaque pmbusCoefficients : Nat → Nat

/-- Bytes of the FRU record (R480 gives its fields, not its bytes). -/
opaque fruByte : Nat → Nat

/-- A byte of the SPI flash that SPIPROG has neither programmed nor erased since Prefen last wrote the flash, and one programmed
without an erase before (R461 gives the operations, not the layout or the device): free value, address. -/
opaque flashByte : Nat → Nat → BitVec 8

/-- The boundary register as a capture finds it (R461 says what it covers, not its cells): free value. -/
opaque boundary : Nat → Nat

/-- Data of a read that the spec serves without saying what it returns: free value, byte. -/
opaque unstated : Nat → Nat → BitVec 8

/-- State chain of an island: its length in bits, and its bytes (R469: the layout is published per stepping, with other tools). -/
opaque chainLen : Nat → Nat
opaque chainByte : Nat → Nat → Nat → BitVec 8

end Sys2Proof.Config
end

