-- ==== Sys2Proof/Machine/State.lean ====
section
/-! DEFINITION. The state of the module as plain data: everything the spec gives it, the outputs of its ports, and the queue of
commands that wait. Tables are sparse: strictly rising keys, and no entry equal to what an unlisted key reads as. -/

namespace Sys2Proof.Machine

/-- The addressed memories of the module and of the host (R91 to R99, R149, R152), keyed by `cellKey`: data bytes,
stored check symbols, copies of the poison mark of a word, and copies of the valid bit of a row or block. -/
structure Memory where
  cells  : List (Nat × Byte) := []
  chk    : List (Nat × Byte) := []
  poison : List (Nat × BitVec 3) := []
  valid  : List (Nat × BitVec 3) := []
  deriving DecidableEq, Repr

/-- What the module's ports send, oldest first, and what a read returns to whoever asked. -/
inductive Out where
  /-- an MSI-X write (R391) -/
  | msix (vec addr data : Nat)
  /-- a fabric frame (R373) -/
  | frame (port : Nat) (f : Frame)
  /-- BISnpInv (R109) -/
  | snoopInv (line : Nat)
  /-- BISnpData (R109) -/
  | snoopData (line : Nat)
  /-- completion of a host read -/
  | hostData (bytes : List Byte) (poisoned : Bool)
  /-- completion of a host write -/
  | hostDone (addr : Nat)
  /-- answer to a CXL.cache snoop (R383) -/
  | rspIMiss
  /-- value of a register read -/
  | regData (value : Nat)
  /-- answer to a PMBus read (R419) -/
  | pmbus (command : Nat) (value : Nat)
  /-- bytes of an SMBus read -/
  | smbus (bytes : List Byte)
  /-- bits shifted out of a TAP -/
  | tdo (tap value : Nat)
  /-- data of a main-path or narrow-port read -/
  | pathData (bytes : List Byte) (poisoned : List Bool)
  deriving DecidableEq, Repr

/-- The reasons for which a step could stop the machine. Every stop that the spec describes leaves the module in a state that it
defines, so no command answers a fault. -/
inductive Fault where
  /-- Raised by nothing; safe. -/
  | unreachable
  deriving DecidableEq, Repr

/-- The reasons for which a command could have no meaning. Every command of the table has one, so no command is refused. -/
inductive Refusal where
  /-- The answer that an arm of `exec` would give to a command without a meaning; no arm gives it; safe. -/
  | notModelled (mnemonic : String)
  deriving DecidableEq, Repr

/-- The module (R1 to R20). A register word lives in `regs` at its BAR0 offset; what has no BAR0 address has a field of its own. -/
structure State where
  /-- module timebase, nanoseconds (R238) -/
  time     : Nat
  /-- timebase at which SCLK started (for SWG_DSP_CYCLES) -/
  sclkFrom : Nat
  /-- the model's own counter: the index of the next free value -/
  free     : Nat
  /-- register words of BAR0, by offset (R97 and the register tables) -/
  regs     : List (Nat × Word)
  /-- scratchpads, die buffers, crucible buffers, stack memory and host memory -/
  mem      : Memory
  /-- SM ranges that Prefen's row in hand could not reach yet (R109); empty between rows [DESIGN CHOICE, log 169] -/
  blocked  : List Range
  /-- stored-data events of the computing command in flight, not latched yet (R156) -/
  found    : List Found
  /-- when each lane was last corrected, newest first, by (stack, channel, lane) (R135) -/
  lanes    : List (Nat × List Nat)
  /-- lanes that reached 16 corrections within one second and are not repaired yet, by (stack, channel, lane) (R135) -/
  laneDue  : List (Nat × Bool)
  /-- spare lanes that failed training, a bit each, by (stack, channel) (R134) -/
  spareBad : List (Nat × Nat)
  /-- Prefen has released the hearths (R451 step 8) -/
  up       : Bool
  /-- hearth tree, by hearth index (R22) -/
  hearths  : List (Nat × Hearth)
  /-- next sequence number of each tag issuer (R26) -/
  tags     : List (Nat × Nat)
  /-- hearths of the fault records not consumed -/
  fltHearths : List Nat
  /-- next sequence number of a fault record (R281) -/
  fltSeq   : Nat
  /-- command queues, by queue id (R259) -/
  queues   : List (Nat × Queue)
  /-- registered WAITs, by queue id (R276) -/
  waits    : List (Nat × Wait)
  /-- WAITs on partner memory -/
  pmWait   : List PmWait
  /-- queue last served on each stack, plus 1 -/
  lastQ    : List (Nat × Nat)
  /-- deadlock cycles already reported: each party, with when its WAIT or its command began to wait (R280) -/
  cycles   : List (List (Nat × Nat))
  /-- integer registers of the cores, by core · 32 + register -/
  xregs    : List (Nat × Word)
  /-- core is in user mode -/
  umode    : List (Nat × Bool)
  /-- mcause of each core -/
  mcause   : List (Nat × Word)
  /-- mtval of each core -/
  mtval    : List (Nat × Word)
  /-- tag CSR of each core -/
  coreTag  : List (Nat × Nat)
  /-- pc at release of each core -/
  corePc   : List (Nat × Word)
  /-- BELSEL of each core -/
  belsel   : List (Nat × Nat)
  /-- vector and matrix state of each Hammer core -/
  cores    : List (Nat × CoreSt)
  /-- operand banks -/
  banks    : List (Nat × Bank)
  /-- clusters of four Hammer cores -/
  clusters : List (Nat × Cluster)
  /-- data-cache lines, by (core, line) -/
  dcache   : List (Nat × List Byte)
  /-- instruction-cache lines, by (core, line) [DEDUCED, log 24] -/
  icache   : List (Nat × List Byte)
  /-- LR reservations (R104) -/
  resv     : List Resv
  /-- host tracker entries, by line (R109) -/
  tracker  : List (Nat × Track)
  /-- age of the youngest tracker entry -/
  trackAge : Nat
  /-- back-invalidate snoops out -/
  snoops   : List Snoop
  /-- age below which recall_all recalls, by stack (R112) -/
  recalls  : List (Nat × Nat)
  /-- accesses that an ordering point holds, oldest first -/
  held     : List Held
  /-- path accesses that wait at the PoC, for a yield point or behind an earlier one (R122, R125) -/
  burstQ   : List PathReq
  /-- slices that a mover's burst waits for (R125) -/
  asks     : List (Nat × Bool)
  /-- slices whose unit has offered a yield point and run no micro-instruction since: 1 it offered, 2 it paused (R125, R176, R185) -/
  yielded  : List (Nat × Nat)
  /-- stacks that an access reached while they entered self-refresh (R132) -/
  srWant   : List (Nat × Bool)
  /-- refreshes postponed, by bank (R130) -/
  postponed : List (Nat × Nat)
  /-- next address of each scrub (R160) -/
  scrubPos : List (Nat × Nat)
  /-- addresses of words found Corrected, with their times (R159) -/
  corrLog  : List (Nat × Nat)
  /-- rows that Prefen remaps once the move of their stack has ended, by an address in each (R158, R159) -/
  remapDue : List Nat
  /-- remap entries in flash -/
  flashRemap : List (Nat × Word)
  /-- the layers' copies of the remap registers, by register offset (R157) -/
  layerRemap : List (Nat × Word)
  /-- command in each Swage site -/
  runs     : List (Nat × StackRun)
  /-- Swage units -/
  units    : List (Nat × SwgUnit)
  /-- yield counts of the units (R125) -/
  unitCnt  : List (Nat × UnitCount)
  /-- attention exchange, by stack -/
  exch     : List (Nat × List PeerMax)
  /-- micro-program image last broadcast to a stack's units, by stack · 256 + address (R178) [DESIGN CHOICE, log 29] -/
  mpStore  : List (Nat × Word)
  /-- its check bits -/
  mpChk    : List (Nat × Byte)
  /-- words and check bits of a unit's own store that differ from what was broadcast, by (stack · 512 + unit) · 256 + address (R166, R178) -/
  mpOwn    : List (Nat × Option (Word × Byte))
  /-- Tongs channels -/
  chans    : List (Nat × Chan)
  /-- channel that each Tongs engine serves, and the bytes it has moved in this round (R246) -/
  tngTurn  : List (Nat × (Nat × Nat))
  /-- valid-clear runs (R150) -/
  vclear   : List (Nat × VClear)
  /-- base and d16 of the billet CRC in progress, by stack (R334) -/
  crcJobs  : List (Nat × (Nat × Nat))
  /-- remap moves (R158) -/
  rmove    : List (Nat × RMove)
  /-- fabric streams, by partner id (R374) -/
  links    : List (Nat × Link)
  /-- group membership (R377) -/
  group    : Group
  /-- PCIe and CXL configuration space -/
  cfg      : Cfg
  /-- Prefen: sessions, requests, the step, rings and operations -/
  prefen   : Prefen
  /-- firmware images in flash, by slot -/
  flash    : List (Nat × Image)
  /-- slot of the image that runs -/
  runSlot  : Nat
  /-- Ember -/
  ember    : Ember
  /-- board: startup, test, Quench and read-out -/
  board    : Board
  /-- outputs, oldest first [DEDUCED, log 153] -/
  out      : List Out
  /-- commands that wait, first in, first out -/
  pending  : List Instr
  deriving DecidableEq, Repr

/-- The module before Ember boots, at a cold start (R446, R451): every register at its reset value, every memory empty. [DESIGN CHOICE, log 3] [DEDUCED, log 6] -/
def State.reset : State :=
  { time := 0, sclkFrom := 0, free := 0, regs := [], mem := {}, blocked := [], found := [], lanes := [], laneDue := [], spareBad := [], up := false, hearths := [], tags := [],
    fltHearths := [], fltSeq := 0, queues := [], waits := [], pmWait := [], lastQ := [], cycles := [], xregs := [], umode := [],
    mcause := [], mtval := [], coreTag := [], corePc := [], belsel := [], cores := [], banks := [], clusters := [], dcache := [], icache := [],
    resv := [], tracker := [], trackAge := 0, snoops := [], recalls := [], held := [], burstQ := [], asks := [], yielded := [], srWant := [], postponed := [], scrubPos := [],
    corrLog := [], remapDue := [], flashRemap := [], layerRemap := [], runs := [], units := [], unitCnt := [], exch := [], mpStore := [], mpChk := [], mpOwn := [], chans := [], tngTurn := [],
    vclear := [], crcJobs := [], rmove := [], links := [], group := {}, cfg := {}, prefen := {}, flash := [], runSlot := 0, ember := {},
    board := {}, out := [], pending := [] }

end Sys2Proof.Machine
end

