-- ==== Sys2Proof/Machine/Regs.lean ====
section
/-! DEFINITION. The register file of BAR0: where each register block lies and plain access to a register and its fields.
What a register holds after reset is `regReset`; the meaning of a read or a write from outside is in RegRead.lean and
RegWrite.lean. -/

namespace Sys2Proof.Machine

/-- Register of stack Cnn at an offset of its block (R137). -/
def stkReg (n off : Nat) : Nat := 0x00200000 + n * 0x10000 + off
/-- Register of channel ch of stack Cnn (R138). -/
def chReg (n ch off : Nat) : Nat := stkReg n (0x1000 + 0x100 * ch + off)
/-- Register of Anvil a (R241). -/
def anvReg (a off : Nat) : Nat := 0x00340000 + a * 0x10000 + off
/-- Register of Tongs engine e (R258). -/
def tngReg (e off : Nat) : Nat := 0x00380000 + e * 0x2000 + off
/-- Register of the queue scheduler (R283). -/
def qscReg (off : Nat) : Nat := 0x003B0000 + off
/-- Register of a Bell: 0 the Hood's, 1 + a Anvil a's (R398). -/
def belReg (b off : Nat) : Nat := 0x00180000 + b * 0x10000 + off
/-- Register of Ember (R432). -/
def embReg (off : Nat) : Nat := 0x001D0000 + off
/-- Register of Quench (R467). -/
def qchReg (off : Nat) : Nat := 0x001E0000 + off
/-- Register of the Tuyere block (R380). -/
def tuyReg (off : Nat) : Nat := 0x003F0000 + off
/-- Register of the host port (R397). -/
def hstReg (off : Nat) : Nat := 0x00010000 + off
/-- Word of mailbox m (R345). -/
def mbReg (m off : Nat) : Nat := 0x00100000 + m * 0x1000 + off
/-- Register of the Prefen status block (R350). -/
def smcReg (off : Nat) : Nat := 0x00110000 + off

/-- Reset value by offset in a channel block (R138, R140). -/
def chReset (o : Nat) : Nat :=
  if o = 0x20 then 0x4 else if o = 0x28 then 0xFFFF0000 else if o = 0x30 then 1
  else if o = 0x38 then 0xFF800000 else 0

/-- Reset value by offset in a stack-site block (R137, R161, R177). -/
def stkReset (o : Nat) : Nat :=
  if o = 0x10 then 0x80 else if o = 0x20 then 0x03E800000000 else if o = 0x28 then 0x01000800
  else if o = 0x200 then 0x1800 else if o = 0x800 then 0x186A000000000
  else if 0x1000 ≤ o ∧ o < 0x3000 then chReset (o % 0x100) else 0

/-- Reset value by offset in a Bell block (R407). -/
def belReset (o : Nat) : Nat :=
  if 0x3000 ≤ o ∧ o < 0x3200 ∧ o % 0x20 = 0 then 0x100000001
  else if 0x4000 ≤ o ∧ o < 0x6000 then 0x100000000 else 0

/-- Reset value by offset in the scheduler's block (R283). -/
def qscReset (o : Nat) : Nat := if o = 0x30 then 0xC else 0

/-- Reset value by offset in an Anvil block (R241). -/
def anvReset (o : Nat) : Nat := if 0x1000 ≤ o ∧ o < 0x2000 ∧ o % 0x100 = 0 then 0x0064000000000000 else 0

/-- Reset value by offset in a Tongs engine's block (R258). -/
def tngReset (o : Nat) : Nat := if 0x1000 ≤ o ∧ o % 0x40 = 0 then 0x0014000000000000 else 0

/-- Reset value by offset in the Tuyere block (R380). -/
def tuyReset (o : Nat) : Nat :=
  if o = 0 then 0x00FF000000000000 else if 0x100 ≤ o ∧ o < 0x400 ∧ o % 0x40 = 8 then 0x0FF0000000000000 else 0

/-- Reset value by offset in Ember's block (R432). -/
def embReset (o : Nat) : Nat :=
  if o = 0 then 2 ^ 60 else if o = 8 then 0x0FA007D000000000 else if 0x200 ≤ o ∧ o < 0x400 then 0x2000000020 else 0

/-- Reset value by offset in the Quench block (R467). -/
def qchReset (o : Nat) : Nat := if o = 0 then 2 else if o = 0x20 then 0xFFFFF000000000B0 else 0

/-- The reset value of every register of BAR0, as its chapter's table gives it. [PRESUMED, log 154] -/
def regReset (off : Nat) : Word :=
  BitVec.ofNat 64 <|
    if 0x00200000 ≤ off ∧ off < 0x00340000 then stkReset (off % 0x10000)
    else if 0x00180000 ≤ off ∧ off < 0x001D0000 then belReset (off % 0x10000)
    else if 0x00340000 ≤ off ∧ off < 0x00380000 then anvReset (off % 0x10000)
    else if 0x00380000 ≤ off ∧ off < 0x003B0000 then tngReset (off % 0x2000)
    else if 0x003F0000 ≤ off ∧ off < 0x00400000 then tuyReset (off % 0x10000)
    else if 0x003B0000 ≤ off ∧ off < 0x003B0080 then qscReset (off % 0x10000)
    else if 0x001D0000 ≤ off ∧ off < 0x001E0000 then embReset (off % 0x10000)
    else if 0x001E0000 ≤ off ∧ off < 0x001F0000 then qchReset (off % 0x10000)
    else if off = 0x00110000 then 0x0004000000000000
    else if 0x00140000 ≤ off ∧ off < 0x00148000 ∧ off % 16 = 8 then 0x100000000
    else 0

/-- A register's value. -/
def rg (s : State) (off : Nat) : Word := tabGet (regReset off) s.regs off

/-- The state with a register replaced. -/
def setRg (off : Nat) (v : Word) (s : State) : State := { s with regs := tabSet (regReset off) s.regs off v }

/-- Field [hi:lo] of a register. -/
def rf (s : State) (off hi lo : Nat) : Nat := fieldOf (rg s off) hi lo

/-- The state with a register's field replaced. -/
def setRf (off hi lo v : Nat) (s : State) : State := setRg off (withField (rg s off) hi lo v) s

/-- A field counted up by `k`, wrapping at its width. [DEDUCED, log 147] -/
def bumpRf (off hi lo k : Nat) (s : State) : State := setRf off hi lo (rf s off hi lo + k) s

/-- A field counted up by `k`, stopping at its largest value. -/
def satRf (off hi lo k : Nat) (s : State) : State := setRf off hi lo (satAdd (hi + 1 - lo) (rf s off hi lo) k) s

/-- Registers returned to their reset values. -/
def resetRegs (offs : List Nat) (s : State) : State := overList (fun o s => setRg o (regReset o) s) offs s

/-- Every register whose offset satisfies `p` returned to its reset value. -/
def resetRegsIf (p : Nat → Bool) (s : State) : State := { s with regs := s.regs.filter (fun r => !p r.1) }

end Sys2Proof.Machine
end

