-- ==== Sys2Proof/Machine/Ops.lean ====
section
/-! DEFINITION. The named operations over memory: address spaces (R90 to R93, R119), remap (R157), valid bits (R149, R150), the
stored codes on every read and write (R141 to R155, R165) and their counters and latches (R162). Every reader and writer of the
machine goes through `memRead` and `memWrite`. -/

namespace Sys2Proof.Machine

/-! ### Address spaces -/

/-- Bytes of one stack (R92). -/
def stackBytes : Nat := 0xC00000000
/-- Bytes of one scratchpad, die buffer and crucible buffer (R90). -/
def spBytes : Nat := 0xC0000
def dbBytes : Nat := 0x4800000
def cbBytes : Nat := 0x1800000

/-- Stack number of an SM address (R91, R119). -/
def smStack (a : Nat) : Nat := a / 2 ^ 36
/-- Channel, layer, bank group, bank and row of an SM address (R119). -/
def smChannel (a : Nat) : Nat := natBits a 15 11
def smLayer (a : Nat) : Nat := natBits a 19 16
def smGroup (a : Nat) : Nat := natBits a 21 20
def smBank (a : Nat) : Nat := natBits a 23 22
def smRow (a : Nat) : Nat := natBits a 35 24

/-- Does an address of the given form name `n` bytes inside one instance of its space (R91, R92)? PM is judged by the SM
address at the partner; whether the partner is present is asked where the access is made. -/
def rangeOk (space addr n : Nat) : Bool :=
  match space with
  | 1 => addr < 2 ^ 42 && natBits addr 31 20 == 0 && addr % 2 ^ 32 + n ≤ spBytes
  | 2 => addr < 2 ^ 34 && natBits addr 31 27 == 0 && addr % 2 ^ 32 + n ≤ dbBytes
  | 3 => addr < 2 ^ 37 && addr / 2 ^ 32 ≤ 19 && natBits addr 31 25 == 0 && addr % 2 ^ 32 + n ≤ cbBytes
  | 4 => smStack addr < 20 && addr % 2 ^ 36 + n ≤ stackBytes
  | 5 => addr + n ≤ 2 ^ 64
  | 6 => addr < 2 ^ 56 && natBits addr 47 44 == 0 && smStack (addr % 2 ^ 44) < 20
         && addr % 2 ^ 36 + n ≤ stackBytes
  | _ => false

/-- Key of a byte in the one memory table: the space code above the R91 address. -/
def cellKey (space addr : Nat) : Nat := space * 2 ^ 64 + addr

/-- Register of the error counters, event address and event information of the block that guards an address (R162, R165). -/
def errCntReg (space addr : Nat) : Nat :=
  match space with
  | 1 => anvReg (addr / 2 ^ 40) 0x200
  | 2 => anvReg (addr / 2 ^ 32) 0x200
  | 3 => stkReg (addr / 2 ^ 32) 0x208
  | _ => stkReg (smStack addr) 0x208
def errAddrReg (space addr : Nat) : Nat :=
  match space with
  | 1 => anvReg (addr / 2 ^ 40) 0x218
  | 2 => anvReg (addr / 2 ^ 32) 0x218
  | 3 => stkReg (addr / 2 ^ 32) 0x218
  | _ => stkReg (smStack addr) 0x218
def errInfoReg (space addr : Nat) : Nat := errAddrReg space addr + 8

/-! ### Events of the stored code -/

/-- Latch an event, or set overflow when one is latched already (R162). -/
def latchEvent (kind space addr : Nat) (who : Who) (s : State) : State :=
  let ri := errInfoReg space addr
  if bitOf (rg s ri) 0 then setRf ri 1 1 1 s
  else
    setRg ri (BitVec.ofNat 64
      ((who.tag % 2 ^ 32) * 2 ^ 32 + (who.src % 16) * 2 ^ 28 + (kind % 16) * 2 ^ 24 + (space % 16) * 2 ^ 20 + 1))
      (setRg (errAddrReg space addr) (BitVec.ofNat 64 addr) s)

/-- An event met by an access: latched at once, or, where a read of a computing command met it, kept for the one latch of that
command (R156). The poison-merge event of a write is its own (R155). -/
def meetEvent (kind space addr : Nat) (who : Who) (s : State) : State :=
  if who.compute && kind != 4 then { s with found := s.found ++ [⟨kind, space, addr, who.src⟩] }
  else latchEvent kind space addr who s

/-- The one event of a computing command: uncorrectable-found where a read found it, else poison-consumed, with the agent that
read as its source (R156, R487). -/
def latchFound (who : Who) (s : State) : State :=
  let s' := { s with found := [] }
  match s.found.find? (fun f => f.kind == 0) with
  | some f => latchEvent 0 f.space f.addr ⟨f.src, who.tag, false⟩ s'
  | none => match s.found with
    | f :: _ => latchEvent f.kind f.space f.addr ⟨f.src, who.tag, false⟩ s'
    | [] => s'

/-- One word or valid-bit copy put right (R162). -/
def countCorr (space addr : Nat) (s : State) : State := bumpRf (errCntReg space addr) 31 0 1 s
/-- One SM word found Corrected: counted, and known to Prefen's remap decisions (R159, R162). [DEDUCED, log 45] -/
def wordCorr (a : Nat) (s : State) : State := countCorr 4 a { s with corrLog := s.corrLog ++ [(a, s.time)] }
def countPoisonRd (space addr : Nat) (s : State) : State := satRf (errCntReg space addr) 47 32 1 s
def countUncorr (space addr : Nat) (s : State) : State := satRf (errCntReg space addr) 63 48 1 s
/-- Burst resends and re-reads of a stack (R146, R147). -/
def countRetries (n k : Nat) (s : State) : State := satRf (stkReg n 0x210) 47 32 k s

/-- A lane that has been corrected 16 times within one second (R135). -/
def laneWorn (l : List Nat) : Bool := l.length == 16 && l.getD 0 0 - l.getD 15 0 ≤ 1000000000

/-- A flipped bit on a data lane of a channel, at the present time; a lane that reaches 16 within one second is due for repair (R135). -/
def countLane (n ch lane : Nat) (s : State) : State :=
  let key := (n * 32 + ch) * 256 + lane
  let l := (s.time :: tabGet [] s.lanes key).take 16
  { s with lanes := tabSet [] s.lanes key l,
           laneDue := if laneWorn l then tabSet false s.laneDue key true else s.laneDue }

/-- The lanes of the flipped bits of one symbol (R142: byte k rides on lanes 8k to 8k + 7). -/
def countSymbol (n ch byte diff : Nat) (s : State) : State :=
  overList (fun b s => if natBit diff b then countLane n ch (8 * byte + b) s else s) (List.range 8) s

/-! ### Rows, remap and valid bits -/

/-- Register that holds remap entries e and its neighbour of a channel, and entry e of its value (R157). -/
def rmapReg (n ch e : Nat) : Nat := stkReg n (0x400 + 0x20 * ch + 8 * (e / 2))
def rmapOf (w : Word) (e : Nat) : Nat := if e % 2 = 0 then w.toNat % 2 ^ 32 else w.toNat / 2 ^ 32

/-- Remap entry e of a channel: in the site's table, and in the layers' copy of it (R157). -/
def rmapEntry (s : State) (n ch e : Nat) : Nat := rmapOf (rg s (rmapReg n ch e)) e
def rmapCopy (s : State) (n ch e : Nat) : Nat := rmapOf (tabGet 0 s.layerRemap (rmapReg n ch e)) e

/-- A remap register written, in the site's table and in the layers' copy (R157, R158). -/
def setRmapReg (r : Nat) (v : Word) (s : State) : State :=
  setRg r v { s with layerRemap := tabSet 0 s.layerRemap r v }

/-- Does a valid remap entry name the row of an SM address (R157)? -/
def rmapHits (ent a : Nat) : Bool :=
  natBit ent 31 && natBits ent 30 27 == smLayer a && natBits ent 26 25 == smGroup a
    && natBits ent 24 23 == smBank a && natBits ent 22 11 == smRow a

/-- Where the row of an SM address is held under a table of remap entries: its own row, or a spare row, numbered 3,072 + spare
beyond the addressable rows of the bank (R157). -/
def physBy (ent : Nat → Nat) (a : Nat) : Nat :=
  match (List.range 8).find? (fun e => rmapHits (ent e) a) with
  | some e => a - smRow a * 2 ^ 24 + (3072 + natBits (ent e) 10 10) * 2 ^ 24
  | none => a

/-- Where an SM address is held by the site's table, and by the layer's copy of it (R157). [DESIGN CHOICE, log 11] -/
def smPhys (s : State) (a : Nat) : Nat := physBy (rmapEntry s (smStack a) (smChannel a)) a
def layerPhys (s : State) (a : Nat) : Nat := physBy (rmapCopy s (smStack a) (smChannel a)) a

/-- Majority of three copies (R149, R165). -/
def majority (v : BitVec 3) : Bool := 2 ≤ natBits v.toNat 0 0 + natBits v.toNat 1 1 + natBits v.toNat 2 2

/-- Three equal copies of a bit. -/
def copies (b : Bool) : BitVec 3 := if b then 7 else 0

/-- Bytes guarded by one valid bit: a 2 KiB row of SM (R149), a 4 KiB block of an SRAM (R165). -/
def validSpan (space : Nat) : Nat := if space = 4 then 2048 else 4096

/-- Key of the valid bit that guards a (physical) address. -/
def validKey (space pa : Nat) : Nat := cellKey space (pa / validSpan space * validSpan space)

/-- Is the row or block of a (physical) address valid? -/
def isValid (s : State) (space pa : Nat) : Bool := majority (tabGet 0 s.mem.valid (validKey space pa))

/-- Set the three valid-bit copies of a row or block. -/
def setValid (space pa : Nat) (b : Bool) (s : State) : State :=
  { s with mem := { s.mem with valid := tabSet 0 s.mem.valid (validKey space pa) (copies b) } }

/-- A valid-bit copy that disagrees with the majority is rewritten and counted (R149). -/
def fixValid (space a pa : Nat) (s : State) : State :=
  let v := tabGet 0 s.mem.valid (validKey space pa)
  if v = copies (majority v) then s else countCorr space a (setValid space pa (majority v) s)

/-- Erase a run of keys: their bytes, check symbols and poison copies read as zero afterwards. -/
def wipeRun (key n : Nat) (s : State) : State :=
  let keep (k : Nat) : Bool := k < key || key + n ≤ k
  { s with mem := { s.mem with cells := s.mem.cells.filter (fun e => keep e.1), chk := s.mem.chk.filter (fun e => keep e.1),
                               poison := s.mem.poison.filter (fun e => keep e.1) } }

/-- The zero fill and valid bit that the first write to an invalid row or block brings (R150, R165). -/
def fillRow (space a pa : Nat) (s : State) : State :=
  let s := fixValid space a pa s
  if isValid s space pa then s
  else setValid space pa true (wipeRun (validKey space pa) (validSpan space) s)

/-! ### Words of stack memory -/

/-- Stored bytes of a run of keys. [DESIGN CHOICE, log 10] -/
def rawBytes (s : State) (space pa n : Nat) : List Byte := tabGetRun 0 s.mem.cells (cellKey space pa) n

/-- Stored check symbols c_0 … c_3 of the SM word at a physical address. -/
def rawChk (s : State) (pa : Nat) : List Nat := (tabGetRun 0 s.mem.chk (cellKey 4 pa) 4).map (·.toNat)

/-- Data and check symbols of an SM word stored as given. -/
def rawStore (pa : Nat) (data : List Byte) (chk : List Nat) (s : State) : State :=
  { s with mem := { s.mem with
      cells := tabSetRun 0 s.mem.cells (cellKey 4 pa) data
      chk := tabSetRun 0 s.mem.chk (cellKey 4 pa) (chk.map (BitVec.ofNat 8)) } }

/-- Class and data of the SM word at a physical address (R143). -/
def smDecode (s : State) (pa : Nat) : WordClass × List Byte :=
  if isValid s 4 pa then rsDecode (rawChk s pa) (rawBytes s 4 pa 32) else (.invalid, List.replicate 32 0)

/-- A word rewritten as poison and counted (R152). -/
def rewritePoison (a pa : Nat) (data : List Byte) (s : State) : State :=
  countUncorr 4 a (rawStore pa data (rsPoison data) s)

/-- A watched flag's value meets a WAIT's condition (R276). -/
def waitMet (w : Wait) (f : Nat) : Bool :=
  if w.eq then f == w.value else (f + 2 ^ 64 - w.value) % 2 ^ 64 < 2 ^ 63

/-- Does a WAIT watch the SM word at an address, and has its watch not fired (R277)? -/
def watches (a : Nat) (w : Wait) : Bool := w.on && w.watch && !w.hit && !w.bad && w.addr / 32 * 32 == a

/-- The tag of the command of queue q that a WAIT is. -/
def waitTag (s : State) (q : Nat) (w : Wait) : Nat :=
  (((tabGet ({} : Queue) s.queues q).run.find? (fun c => c.idx == w.idx)).map (·.tag)).getD 0

/-- What every write to an SM word does beside the word: reservations of its line fall (R104), and watches on it see the value
left, or that it reads as poison, which latches a poison-consumed event with the WAIT's tag (R277). -/
def afterWrite (a : Nat) (data : List Byte) (poisoned : Bool) (s : State) : State :=
  let look (e : Nat × Wait) : Nat × Wait :=
    let w := e.2
    if !watches a w then e
    else if poisoned then (e.1, { w with bad := true })
    else if waitMet w (leNat ((data.drop (w.addr - a)).take 8)) then (e.1, { w with hit := true }) else e
  let t := { s with resv := s.resv.filter (fun r => r.line != a / 64 * 64), waits := s.waits.map look }
  if poisoned then
    overList (fun (e : Nat × Wait) t => latchEvent 1 4 a ⟨0xE, waitTag s e.1 e.2, false⟩ (countPoisonRd 4 a t))
      (s.waits.filter (fun e => watches a e.2)) t
  else t

/-- A whole SM word written at its (addressed) place: fill, check symbols from the layer encoder, or poison (R145, R150, R152). -/
def smStore (a : Nat) (data : List Byte) (poisoned : Bool) (s : State) : State :=
  let pa := smPhys s a
  let s := fillRow 4 a pa s
  afterWrite a data poisoned (rawStore pa data (if poisoned then rsPoison data else rsEncode data) s)

/-- A read of the SM word at an aligned address, in the layer (`inBank`) or at the site: its 32 bytes and whether it is
poisoned, with the counting, latching and rewriting of R143, R147, R152, R153. [DEDUCED, log 14] -/
def smReadWord (who : Who) (inBank : Bool) (a : Nat) (s : State) : State × (List Byte × Bool) :=
  let pa := if inBank then layerPhys s a else smPhys s a
  let s := fixValid 4 a pa s
  match smDecode s pa with
  | (.invalid, d) => (s, (d, false))
  | (.clean, d) => (s, (d, false))
  | (.poison, d) => (meetEvent 1 4 a who s, (d, true))
  | (.corrected p, d) =>
    let s := wordCorr a s
    if inBank ∨ p < 4 then (s, (d, false))
    else
      let k := p - 4
      let diff := (nth d k 0).toNat ^^^ (nth (rawBytes s 4 pa 32) k 0).toNat
      (countSymbol (smStack a) (smChannel a) k diff s, (d, false))
  | (.uncorrectable, d) =>
    let s := if inBank then s else countRetries (smStack a) 2 s
    (meetEvent 0 4 a who (rewritePoison a pa d s), (d, true))

/-- Bytes of a word with a run replaced from a position. -/
def mergeBytes (old : List Byte) (off : Nat) (new : List Byte) : List Byte :=
  old.take off ++ new ++ old.drop (off + new.length)

/-- A write of bytes inside one aligned SM word: a whole word, or a merge at the bank, discarded where the word is poisoned; as
poison where a byte of it is (R154, R155). [DEDUCED, log 13] -/
def smWriteWord (who : Who) (a off : Nat) (bs : List PByte) (s : State) : State :=
  let new := bs.map (·.1)
  let bad := bs.any (·.2)
  let pa := smPhys s a
  let s := fixValid 4 a pa s
  if bs.length = 32 then smStore a new bad s
  else
    match smDecode s pa with
    | (.poison, _) => meetEvent 4 4 a who s
    | (.uncorrectable, d) => meetEvent 0 4 a who (rewritePoison a pa d s)
    | (.corrected _, d) => smStore a (mergeBytes d off new) bad (wordCorr a s)
    | (_, d) => smStore a (mergeBytes d off new) bad s

/-! ### Words of the SRAMs and of host memory -/

/-- Check bits of an SRAM word given as they are stored. -/
def setSramWord (space a w chk : Nat) (pois : BitVec 3) (s : State) : State :=
  { s with mem := { s.mem with
      cells := tabSetRun 0 s.mem.cells (cellKey space a) (leBytes 8 w)
      chk := tabSet 0 s.mem.chk (cellKey space a) (BitVec.ofNat 8 chk)
      poison := tabSet 0 s.mem.poison (cellKey space a) pois } }

/-- Class and value of the SRAM word at an aligned address (R165). -/
def sramRead (s : State) (space a : Nat) : WordClass × Nat :=
  if !isValid s space a then (.invalid, 0)
  else
    let w := leNat (rawBytes s space a 8)
    if majority (tabGet 0 s.mem.poison (cellKey space a)) then (.poison, w)
    else sramDecode (tabGet 0 s.mem.chk (cellKey space a)).toNat w

/-- An SRAM word written whole with fresh check bits, or as poison (R154, R165). -/
def sramStore (space a w : Nat) (poisoned : Bool) (s : State) : State :=
  setSramWord space a w (sramEncode w) (copies poisoned) (fillRow space a a s)

/-- A read of the SRAM word at an aligned address: value and poison, with the effects of R165. -/
def sramReadWord (who : Who) (space a : Nat) (s : State) : State × (List Byte × Bool) :=
  let s := fixValid space a a s
  match sramRead s space a with
  | (.invalid, _) => (s, (List.replicate 8 0, false))
  | (.clean, w) => (s, (leBytes 8 w, false))
  | (.corrected _, w) => (countCorr space a (setSramWord space a w (sramEncode w) 0 s), (leBytes 8 w, false))
  | (.poison, w) => (meetEvent 1 space a who s, (leBytes 8 w, true))
  | (.uncorrectable, w) =>
    let s := countUncorr space a (setSramWord space a w (tabGet 0 s.mem.chk (cellKey space a)).toNat 7 s)
    (meetEvent 0 space a who s, (leBytes 8 w, true))

/-- A write inside one aligned SRAM word (R154, R155, R165). -/
def sramWriteWord (who : Who) (space a off : Nat) (bs : List PByte) (s : State) : State :=
  let new := bs.map (·.1)
  let bad := bs.any (·.2)
  let s := fixValid space a a s
  if bs.length = 8 then sramStore space a (leNat new) bad s
  else
    match sramRead s space a with
    | (.poison, _) => meetEvent 4 space a who s
    | (.uncorrectable, w) =>
      meetEvent 0 space a who (countUncorr space a
        (setSramWord space a w (tabGet 0 s.mem.chk (cellKey space a)).toNat 7 s))
    | (.corrected _, w) => sramStore space a (leNat (mergeBytes (leBytes 8 w) off new)) bad (countCorr space a s)
    | (_, w) => sramStore space a (leNat (mergeBytes (leBytes 8 w) off new)) bad s

/-- Host memory: bytes, with the poison indication that the module's writes carried (R154). -/
def hmReadWord (a : Nat) (s : State) : List Byte × Bool :=
  (rawBytes s 5 a 8, majority (tabGet 0 s.mem.poison (cellKey 5 a)))
def hmWriteWord (a off : Nat) (bs : List PByte) (s : State) : State :=
  let old := rawBytes s 5 a 8
  { s with mem := { s.mem with
      cells := tabSetRun 0 s.mem.cells (cellKey 5 a) (mergeBytes old off (bs.map (·.1)))
      poison := tabSet 0 s.mem.poison (cellKey 5 a) (copies (bs.any (·.2))) } }

/-! ### Runs of bytes -/

/-- The word size of a space: the granule of its code and of poison. -/
def wordBytes (space : Nat) : Nat := if space = 4 then 32 else 8

/-- One aligned word of a space read. A poisoned completion of the host's is reported through AER (R396). -/
def readWord (who : Who) (inBank : Bool) (space a : Nat) (s : State) : State × (List Byte × Bool) :=
  if space = 4 then smReadWord who inBank a s
  else if space = 5 then (if (hmReadWord a s).2 then { s with cfg := { s.cfg with aerPoison := true } } else s, hmReadWord a s)
  else sramReadWord who space a s

/-- Bytes written inside one aligned word of a space. -/
def writeWord (who : Who) (space a off : Nat) (bs : List PByte) (s : State) : State :=
  if space = 4 then smWriteWord who a off bs s
  else if space = 5 then hmWriteWord a off bs s
  else sramWriteWord who space a off bs s

/-- The words from `a` on, `k` of them, read as bytes with poison marks. -/
def readWords (who : Who) (inBank : Bool) (space a : Nat) : Nat → State → State × List PByte
  | 0, s => (s, [])
  | k + 1, s =>
    let (s, (d, p)) := readWord who inBank space a s
    let (s, t) := readWords who inBank space (a + wordBytes space) k s
    (s, d.map (fun b => (b, p)) ++ t)

/-- Bytes of one access of an agent at the ordering point: 64 for the host, the cores, Tongs and Spark, 32 for Bellows and
Swage, one word for the others (R97). [DEDUCED, log 12] -/
def accessBytes (who : Who) (space : Nat) : Nat :=
  if [0, 1, 2, 3, 0xD].contains who.src then 64 else if [4, 5].contains who.src then 32 else wordBytes space

/-- One access: its words read, at most one count of poison_rd and, outside a computing command, at most one event (R153). -/
def readPiece (who : Who) (inBank : Bool) (space a k : Nat) (s : State) : State × List PByte :=
  let (t, l) := readWords { who with compute := true } inBank space a k { s with found := [] }
  let t := if space != 5 && l.any (·.2) then countPoisonRd space a t else t
  if who.compute then ({ t with found := s.found ++ t.found }, l)
  else ({ latchFound who t with found := s.found }, l)

/-- The words from number `i` on, `k` of them, taken in aligned accesses of `pw` words; `fuel` is at least `k`. -/
def readPieces (who : Who) (inBank : Bool) (space pw : Nat) : Nat → Nat → Nat → State → State × List PByte
  | 0, _, _, s => (s, [])
  | fuel + 1, i, k, s =>
    if k = 0 then (s, [])
    else
      let m := min k (pw - i % pw)
      let (s, l) := readPiece who inBank space (i * wordBytes space) m s
      let (s, t) := readPieces who inBank space pw fuel (i + m) (k - m) s
      (s, l ++ t)

/-- `n` bytes read from an address of a space: each word it touches is read once, in accesses of the agent's unit
(R97, R98, R143, R153, R165). -/
def memRead (who : Who) (inBank : Bool) (space addr n : Nat) (s : State) : State × List PByte :=
  if n = 0 then (s, [])
  else
    let w := wordBytes space
    let i := addr / w
    let k := (addr + n - 1) / w - i + 1
    let (s, l) := readPieces who inBank space (accessBytes who space / w) k i k s
    (s, (l.drop (addr - i * w)).take n)

/-- Bytes written from an address on, word by word in address order; `fuel` is at least the number of words. -/
def writeWords (who : Who) (space : Nat) : Nat → Nat → List PByte → State → State
  | 0, _, _, s => s
  | fuel + 1, addr, bs, s =>
    if bs.isEmpty then s
    else
      let w := wordBytes space
      let off := addr % w
      let s := writeWord who space (addr - off) off (bs.take (w - off)) s
      writeWords who space fuel (addr - off + w) (bs.drop (w - off)) s

/-- A run of bytes written to a space (R98, R145, R154, R155, R165). -/
def memWrite (who : Who) (space addr : Nat) (bs : List PByte) (s : State) : State :=
  writeWords who space (bs.length + 1) addr bs s

/-- Bytes without poison marks. -/
def cleanBytes (l : List Byte) : List PByte := l.map (fun b => (b, false))

/-- A little-endian number of k bytes written (R42). -/
def memWriteNat (who : Who) (space addr k n : Nat) (s : State) : State :=
  memWrite who space addr (cleanBytes (leBytes k n)) s

/-- A little-endian number of k bytes read, and whether any byte of it was poisoned. -/
def memReadNat (who : Who) (space addr k : Nat) (s : State) : State × (Nat × Bool) :=
  let (s, l) := memRead who false space addr k s
  (s, (leNat (l.map (·.1)), l.any (·.2)))

/-- A little-endian number as a read returns it, put right by the stored code, and whether it is poisoned; with no effect of reading it. -/
def lookNat (s : State) (space addr k : Nat) : Nat := (memReadNat ⟨5, 0, true⟩ space addr k s).2.1
def lookBad (s : State) (space addr k : Nat) : Bool := (memReadNat ⟨5, 0, true⟩ space addr k s).2.2

/-- What a byte of a space reads as, with no effect of reading it: the value a proof speaks about. -/
def peekByte (s : State) (space addr : Nat) : Byte :=
  let pa := if space = 4 then smPhys s addr else addr
  if space = 5 ∨ isValid s space pa then tabGet 0 s.mem.cells (cellKey space pa) else 0

/-- A little-endian number read with no effect of reading it. -/
def peekNat (s : State) (space addr k : Nat) : Nat := leNat ((upFrom addr k).map (peekByte s space))

end Sys2Proof.Machine
end

