-- ==== Sys2Proof/Machine/Post.lean ====
section
/-! DEFINITION. What the point of coherence of a stack makes an access wait for: self-refresh, a row clear or a row move (R132, R151,
R158), the host's copies (R109, R111), and the order of one source (R99, R102, R122); and the writes that the module's own parts post
to it. -/

namespace Sys2Proof.Machine

/-- One output of the module's ports. -/
def emit (o : Out) (s : State) : State := { s with out := s.out ++ [o] }

/-- Narrow-port accesses served (R121, R137). -/
def countNp (n k : Nat) (s : State) : State := bumpRf (stkReg n 0x38) 63 0 k s

/-- Words of 32 bytes that a run of bytes touches, each one narrow-port access (R121). -/
def npWords (a len : Nat) : Nat := if len = 0 then 0 else (a + len - 1) / 32 - a / 32 + 1

def stackRun (s : State) (n : Nat) : StackRun := tabGet {} s.runs n
def setRun (n : Nat) (r : StackRun) (s : State) : State := { s with runs := tabSet {} s.runs n r }

/-- STK_SR_CTL.state (R137): 0 ACTIVE, 1 ENTERING, 2 SELF_REFRESH, 3 EXITING. -/
def srState (s : State) (n : Nat) : Nat := rf s (stkReg n 0x20) 3 2

/-- Does a valid-bit clear name the row of an SM address (R151)? -/
def vclearNames (v : VClear) (a : Nat) : Bool :=
  let blk := a % 2 ^ 36 / 4096
  v.on && v.first ≤ blk && (v.count == 0 || blk < v.first + v.count)
    && (!v.slice || (smChannel a == v.channel && smLayer a == v.layer))

/-- Does a started valid-bit clear cover the row of an SM address (R151)? -/
def vclearCovers (v : VClear) (a : Nat) : Bool := v.started && vclearNames v a

/-- Is the row of an SM address being moved to a spare (R158 step 2)? -/
def moveCovers (m : RMove) (a : Nat) : Bool :=
  m.on && m.channel == smChannel a && m.layer == smLayer a && m.bg == smGroup a && m.bank == smBank a && m.row == smRow a

/-- An access reaching the PoC must wait for self-refresh to end, for a row clear or for a row move (R132, R151, R158). -/
def rowBusy (s : State) (a : Nat) : Bool :=
  let n := smStack a
  srState s n != 0 || vclearCovers (tabGet {} s.vclear n) a || moveCovers (tabGet {} s.rmove n) a

/-- The rows of `len` bytes from an SM address that must wait. -/
def rangeBusy (s : State) (a len : Nat) : Bool :=
  if len = 0 then false
  else (strideList (a / 2048 * 2048) 2048 ((a + len - 1) / 2048 - a / 2048 + 1)).any (rowBusy s)

/-- An access reaching a stack in self-refresh starts its exit; one that reaches it during the entry has the exit start when the
entry completes (R132). -/
def wakeStack (n : Nat) (s : State) : State :=
  if srState s n = 2 then setRf (stkReg n 0x20) 3 2 3 s
  else if srState s n = 1 then { s with srWant := tabSet false s.srWant n true }
  else s

/-! ### The host tracker -/

/-- The 64-byte line of an SM address. -/
def lineOf (a : Nat) : Nat := a / 64 * 64

def track (s : State) (line : Nat) : Track := tabGet {} s.tracker line
def setTrack (line : Nat) (t : Track) (s : State) : State := { s with tracker := tabSet {} s.tracker line t }

/-- Lines of stack n that the tracker holds. -/
def trackedOf (s : State) (n : Nat) : List (Nat × Track) := s.tracker.filter (fun e => smStack e.1 == n)

/-- Snoops of stack n in flight. -/
def snoopsOf (s : State) (n : Nat) : List Snoop := s.snoops.filter (fun e => smStack e.line == n)

/-- Send a back-invalidation snoop for a line unless one is in flight or the stack has 64 out (R109, R111). -/
def sendSnoop (line : Nat) (data : Bool) (s : State) : State :=
  let n := smStack line
  if s.snoops.any (fun e => e.line == line) || 64 ≤ (snoopsOf s n).length then s
  else
    let s := bumpRf (stkReg n 0x140) 63 32 1 { s with snoops := s.snoops ++ [⟨line, data, s.time, false⟩] }
    emit (if data then .snoopData line else .snoopInv line) s

/-- Must a non-host access to a line wait for the host (R109)? A write waits on any tracked line, a read on one in state A. -/
def needsSnoop (s : State) (line : Nat) (write : Bool) : Bool :=
  let t := track s line
  if write then t.st != 0 else t.st == 2

/-- The lines of a range that must be recalled before a non-host access to it. -/
def recallLines (s : State) (a len : Nat) (write : Bool) : List Nat :=
  (s.tracker.filter (fun e => decide (lineOf a ≤ e.1) && decide (e.1 < a + len) && needsSnoop s e.1 write)).map (·.1)

/-- Snoops sent for the lines of a range that a non-host agent is about to access. -/
def recallRange (a len : Nat) (write : Bool) (s : State) : State :=
  overList (fun l s => sendSnoop l (!write) s) (recallLines s a len write) s

/-- A mover's access to a range of a space may proceed now; otherwise what it waits for has been set going. [DEDUCED, log 22] -/
def rangeReady (s : State) (space a len : Nat) (write : Bool) : Bool :=
  space != 4 || (!rangeBusy s a len && (recallLines s a len write).isEmpty)
def rangeAsk (space a len : Nat) (write : Bool) (s : State) : State :=
  if space = 4 then recallRange a len write (wakeStack (smStack a) s) else s

/-! ### The order of one source -/

/-- The sources of R102 that are not movers, numbered beside them: a core, and the parts of the module that post writes. -/
def coreSource (core : Nat) : Nat := 4096 + core
def schedSource : Nat := 5000
def hostSource : Nat := 5001
/-- Prefen's own loads, stores and Hood Tongs copies. -/
def prefenSource : Nat := 5002
/-- The stream of a partner, whose frames reach each stack in psn order (R375). -/
def fabricSource (pid : Nat) : Nat := 6000 + pid
/-- The billet CRC engine of stack n (R334). -/
def crcSource (n : Nat) : Nat := 5100 + n

/-- Where an access lies: address, length, and whether it writes; a core's accesses are taken by line. -/
def accessAddr : Access → Nat
  | .load _ a _ _ _ _ | .loadV _ a _ _ | .store _ a _ _ _ | .amo _ _ a _ _ _ _ _ | .lr _ a _ _ _ _
  | .sc _ a _ _ _ _ _ | .hostRead a _ _ | .hostWrite a _ _ _ | .post _ _ a _ _ => a
  | .path r => r.addr
  | .frame _ f => f.addr
def accessLen : Access → Nat
  | .path r => r.len
  | .post _ _ _ d _ => d.length
  | .frame _ f => f.len
  | _ => 1
def accessWrites : Access → Bool
  | .store _ _ _ _ _ | .amo _ _ _ _ _ _ _ _ | .sc _ _ _ _ _ _ _ | .hostWrite _ _ _ _ | .post _ _ _ _ _ => true
  | .load _ _ _ _ _ _ | .loadV _ _ _ _ | .lr _ _ _ _ _ _ | .hostRead _ _ _ => false
  | .path r => r.write
  | .frame _ f => f.ty != 9
def accessByHost : Access → Bool
  | .hostRead _ _ _ | .hostWrite _ _ _ _ => true
  | _ => false
def accessCore : Access → Option Nat
  | .load c _ _ _ _ _ | .loadV c _ _ _ | .store c _ _ _ _ | .amo c _ _ _ _ _ _ _ | .lr c _ _ _ _ _ | .sc c _ _ _ _ _ _ => some c
  | .hostRead _ _ _ | .hostWrite _ _ _ _ | .path _ | .post _ _ _ _ _ | .frame _ _ => none
def accessSource (a : Access) : Nat :=
  match a with
  | .path r => r.source
  | .post _ src _ _ _ => src
  | .frame pid _ => fabricSource pid
  | .hostRead _ _ _ | .hostWrite _ _ _ _ => hostSource
  | a => coreSource ((accessCore a).getD 0)

/-- Do two runs of bytes share a 64-byte line? -/
def sharesLine (a la b lb : Nat) : Bool := decide (lineOf a < b + lb) && decide (lineOf b < a + la)

/-- Must a later access of a source, given by where it lies, follow an earlier access of the same source: both write to one stack,
but for the host's, which carry no order among themselves, or they touch one line and one of them writes, or a partner's stream
brought both to one stack (R99, R102, R122, R375)? -/
def follows (x : Access) (source addr len : Nat) (write : Bool) : Bool :=
  accessSource x == source && smStack (accessAddr x) == smStack addr &&
    ((accessWrites x && write && source != hostSource) || decide (6000 ≤ source)
      || ((accessWrites x || write) && sharesLine (accessAddr x) (accessLen x) addr len))

/-- Does the PoC hold an access that a later one of the source must follow, or keep one in its queue? -/
def behindHeld (s : State) (source addr len : Nat) (write : Bool) : Bool := s.held.any (fun h => follows h.acc source addr len write)
def behindQueued (s : State) (source addr len : Nat) (write : Bool) : Bool :=
  s.burstQ.any (fun r => follows (.path r) source addr len write)

/-! ### Posted writes -/

/-- The oldest command taken and not journaled is where `done` stands (R270). -/
def doneAt (taken : Nat) (run : List QCmd) : Nat := match run with | [] => taken | c :: _ => c.idx

/-- May a posted write be performed now? -/
def postReady (s : State) (source a len : Nat) : Bool :=
  rangeReady s 4 a len true && !behindHeld s source a len true

/-- A write that a part of the module posts to SM and goes on from: performed, or held with what it waits for set going; and
whether it was performed (R109, R121). -/
def postWrite (who : Who) (source a : Nat) (bs : List PByte) (note : PostNote) (s : State) : State × Bool :=
  if postReady s source a bs.length then (memWrite who 4 a bs (countNp (smStack a) (npWords a bs.length) s), true)
  else (rangeAsk 4 a bs.length true { s with held := s.held ++ [⟨smStack a, .post who source a bs note⟩] }, false)

end Sys2Proof.Machine
end

