-- ==== Sys2Proof/Machine/Records.lean ====
section
/-! DEFINITION. What every block reports through: the timebase and tags (R25, R238), hearth records and event counters (R23, R24,
R400), fault records (R281, R488), MSI-X vectors (R391) and the sending side of the fabric stream (R374). -/

namespace Sys2Proof.Machine

/-- An event that does not occur in this state: nothing happens. [DEDUCED, log 4] -/
def noEvent (s : State) : Host.Outcome State Fault Refusal := .next s

/-- The next state of a command. -/
def done (s : State) : Host.Outcome State Fault Refusal := .next s

/-- QCH_STAT.frozen (R464). -/
def frozen (s : State) : Bool := rf s (qchReg 8) 63 63 == 1

/-- The module's islands run: the main converters are on and the module is not frozen (R415, R463). -/
def running (s : State) : Bool := decide (2 ≤ s.board.boot) && !frozen s

/-- An event of an island that runs only while the islands run: before that it does not occur (R415, R463). [DEDUCED, log 5] -/
def live (s : State) (o : Host.Outcome State Fault Refusal) : Host.Outcome State Fault Refusal :=
  if running s then o else .next s

/-- An access dropped because the module is frozen, and counted (R464). -/
def dropAccess (s : State) : State := satRf (qchReg 8) 31 16 1 s

/-- After stage FAILED only the Prefen status block and the QCH_ block decode (R452). -/
def stageFailed (s : State) : Bool := rf s (smcReg 0) 63 60 == 3

/-- A BAR0 or BAR2 write: dropped and counted while the module is frozen, ignored while the module is off or after stage FAILED
(R452, R464). -/
def liveWrite (s : State) (o : Host.Outcome State Fault Refusal) : Host.Outcome State Fault Refusal :=
  if running s then (if stageFailed s then .next s else o)
  else if frozen s then .next (dropAccess s) else .next s

/-! ### The host's way in -/

/-- HST_LINK_STAT.state (R397): 0 DOWN, 1 TRAINING, 2 UP_PCIE, 3 UP_CXL. -/
def linkState (s : State) : Nat := rf s (hstReg 0) 63 60

/-- The link is up and carries traffic: not in the Loopback state (R455). -/
def linkUp (s : State) : Bool := (linkState s == 2 || linkState s == 3) && !s.cfg.loopback

/-- The function decodes its BARs: Memory Space Enable is set, the function is in D0, and no FLR has begun (R393 to R395). -/
def hostBars (s : State) : Bool := s.cfg.mse && !s.cfg.d3hot && s.board.waiting.all (· == 3)

/-- A request that completes as Unsupported Request: counted, and reported non-fatal through AER (R393, R395 to R397). -/
def unsupported (s : State) : State := satRf (hstReg 8) 63 48 1 { s with cfg := { s.cfg with aerUr := true } }

/-- An access that only the host makes, to a BAR: it reaches the module while the link is up and the BARs decode. -/
def hostBar (s : State) (o : Host.Outcome State Fault Refusal) : Host.Outcome State Fault Refusal :=
  if !linkUp s then .next s else if hostBars s then o else .next (unsupported s)

/-- A change made only when a condition holds. -/
def whenSt (c : Bool) (f : State → State) (s : State) : State := if c then f s else s

/-- The next free value's index; the step that uses one takes the next (opaque constants of Config). [DESIGN CHOICE, log 8] -/
def takeFree (s : State) : State × Nat := ({ s with free := s.free + 1 }, s.free)

/-- Does this part accept a firmware image (R2, R353): its signature verifies, the engineering key's on an engineering sample alone,
and its security version is at least the anti-rollback count? -/
def imageAccepted (s : State) (i : Image) : Bool := i.ok && (!i.eng || Config.sample) && decide (s.ember.rollback ≤ i.sec)

/-! ### Hearths and event counters -/

/-- A hearth's own condition; before startup step 6 it is in RESET. -/
def hearth (s : State) (i : Nat) : Hearth :=
  let h := tabGet {} s.hearths i
  { h with reset := h.reset || !s.up }
def updHearth (i : Nat) (f : Hearth → Hearth) (s : State) : State :=
  { s with hearths := tabSet {} s.hearths i (f (tabGet {} s.hearths i)) }

/-- Hearth indices (R22). -/
def hxAnvil (a : Nat) : Nat := 2 + a
def hxCluster (a c : Nat) : Nat := 6 + 16 * a + c
def hxStack (n : Nat) : Nat := 70 + n
def hxCore (a c k : Nat) : Nat := 90 + 256 * a + 16 * c + k
def hxUnit (n u : Nat) : Nat := 1114 + 512 * n + u

/-- EMB_STAT.pstate (R416). -/
def pstate (s : State) : Nat := rf s (embReg 0) 63 60

/-- Quadrant of a cluster number (R409), and the clock that its rail supports now: 0 while it is off or ramping from off. -/
def quadOf (x : Nat) : Nat := x / 4
def quadClock (s : State) (q : Nat) : Nat := tabGet 0 s.ember.rails q

/-- Is the own state of cluster x and of its cores ASLEEP: the module enters, is in or leaves sleep, and their rail is off or
ramping (R21)? -/
def clusterAsleep (s : State) (x : Nat) : Bool := (pstate s == 3 || pstate s == 4 || pstate s == 5) && quadClock s (quadOf x) == 0

/-- Parent of a hearth index (R18, R22). -/
def hxParent (i : Nat) : Nat :=
  if i ≤ 1 then 0 else if i < 6 then 1 else if i < 70 then 2 + (i - 6) / 16
  else if i < 90 then 2 + (i - 70) / 5 else if i < 1114 then 6 + (i - 90) / 16 else 70 + (i - 1114) / 512

/-- The Bell and source of counter k of a hearth at level 1 or above (R399). -/
def counterAt (i k : Nat) : Nat × Nat :=
  if i = 0 then (0, 16 + k) else if i = 1 then (0, k)
  else if i < 6 then (1 + (i - 2), 336 + k)
  else if i < 70 then (1 + (i - 6) / 16, 16 * ((i - 6) % 16) + k)
  else (1 + (i - 70) / 5, 256 + 16 * ((i - 70) % 5) + k)

/-- Register BEL_EVC of a counter (R407). -/
def evcReg (i k : Nat) : Nat := let (b, src) := counterAt i k; belReg b (0x4000 + 8 * src)

/-- A pulse or increment that meets a hearth in RESET or QUENCHED is discarded (R24, R400). -/
def takesPulses (s : State) (i : Nat) : Bool := !(hearth s i).reset && !frozen s

/-- Add 1 to an event counter: saturating, with ovf (R400). -/
def countUp (i k : Nat) (s : State) : State :=
  if !takesPulses s i then s
  else
    let r := evcReg i k
    let c := rf s r 31 0
    if c = 2 ^ 32 - 1 then setRf r 48 48 1 s else setRf r 31 0 (c + 1) s

/-- Subtract from an event counter, stopping at 0 (R400). -/
def countDown (i k v : Nat) (s : State) : State :=
  let r := evcReg i k
  setRf r 31 0 (rf s r 31 0 - v) s

/-- The 16 counts and ovf bits of a hearth cleared; thresholds stay (R400). -/
def clearCounters (i : Nat) (s : State) : State :=
  overList (fun k s => let r := evcReg i k; setRf r 48 48 0 (setRf r 31 0 0 s)) (List.range 16) s

/-! ### Groups, partner ids and tags -/

/-- Is the module in a group of two or more (R369)? -/
def inGroup (s : State) : Bool := 2 ≤ s.group.modules
/-- Is it the lead of its group (a module outside any group is its own lead, R22, R32)? -/
def isLead (s : State) : Bool := s.group.self == 0
/-- TUY_CTL.self_id. -/
def selfId (s : State) : Nat := rf s (tuyReg 0) 55 48
/-- The partner byte of records: self_id inside a group, else 0xFF (R369). -/
def partnerByte (s : State) : Nat := if inGroup s then selfId s else 0xFF

/-- The hearth that Prefen's commands and serving faults belong to: the group's, on the lead of a group of two or more, else the
module's (R32, R488). -/
def prefenHearth (s : State) : Nat := if inGroup s && isLead s then 0 else 1

/-- The next tag of an issuer: its code above its sequence number, which goes on by one and wraps (R25). -/
def stampTag (code : Nat) (s : State) : State × Nat :=
  let n := tabGet 0 s.tags code
  ({ s with tags := tabSet 0 s.tags code ((n + 1) % 2 ^ 24) }, code * 2 ^ 24 + n)

/-- An issuer's sequence starts at 0 again (R25). -/
def restartTags (code : Nat) (s : State) : State := { s with tags := tabSet 0 s.tags code 0 }

/-! ### Fault records -/

/-- Class of a fault code (R434, R435). -/
def faultClass (code : Nat) : Nat :=
  if code = 0x252 then 0x0B
  else if 0x2A0 ≤ code then 0x0C
  else match code / 16 % 16 with
    | 0 => 1 | 1 => 2 | 2 => 3 | 3 => 4 | 4 => 5 | 5 => 6 | 6 => 7 | 7 => 8 | 8 => 9 | 9 => 0x0A | _ => 0x0C

/-- log2 of the fault ring's records: 6 to 20, other values act as 12 (R283). -/
def fltLg (s : State) : Nat := let l := rf s (qscReg 0x30) 4 0; if 6 ≤ l ∧ l ≤ 20 then l else 12

/-- The 64 bytes of a fault record (R281). -/
def faultBytes (f : FaultRec) (time partner seq : Nat) : List Byte :=
  leBytes 8 time ++ leBytes 4 f.tag ++ leBytes 2 f.hearth ++ leBytes 1 partner ++ leBytes 1 (faultClass f.code)
    ++ leBytes 2 f.code ++ leBytes 1 f.state ++ leBytes 1 f.src ++ leBytes 4 f.progress ++ leBytes 8 f.addr
    ++ leBytes 8 f.d0 ++ leBytes 8 f.d1 ++ leBytes 8 f.d2 ++ leBytes 4 seq ++ leBytes 4 f.qid

/-- Free entries of the event ring, by the consumer index that Prefen would read (R309); none before it is registered. -/
def eventRoom (s : State) : Nat :=
  let r := s.prefen.evRing
  let c := peekNat s r.consSpace r.consAddr 8 % 2 ^ 32
  let ahead := diff32 c r.next
  let c := if ahead != 0 && decide (ahead < 2 ^ 31) then r.cons else c
  if r.on then 2 ^ r.lg - diff32 r.next c else 0

/-- An event that Prefen is to write: it waits in order for the ring. While the ring is full, or before it is registered, at most
256 wait beyond the entries that the ring has room for, and others are dropped and counted (R365). EVENTS_LOST stands behind those
the ring had room for. -/
def holdEvent (e : Event) (s : State) : State :=
  let h := s.prefen.evHeld
  let lost := s.prefen.evLost
  if h.length < 256 + (eventRoom s - b2n (lost != 0)) then
    { s with prefen := { s.prefen with evHeld := h ++ [{ e with time := s.time }] } }
  else { s with prefen := { s.prefen with evLost := lost + 1, evLostAt := if lost = 0 then h.length - 256 else s.prefen.evLostAt } }

/-- A fault record stands in the ring: the producer index goes on, the hearth's fault bit is up, and the FAULT event of R435 is made. -/
def faultLanded (f : FaultRec) (seq : Nat) (s : State) : State :=
  holdEvent { kind := 3, status := f.code, tag := f.tag, addr := f.addr, info0 := seq }
    (setRf (qscReg 0x30) 63 32 (rf s (qscReg 0x30) 63 32 + 1) { s with fltHearths := s.fltHearths ++ [f.hearth] })

/-- Fault records whose writes the PoC holds. -/
def faultsHeld (s : State) : Nat :=
  (s.held.filter (fun h => match h.acc with | .post _ _ _ _ (.fault _ _) => true | _ => false)).length

/-- One numbered fault record written to the fault ring, with the FAULT event of R435, or dropped and counted when the ring is full
(R281); while the PoC holds its write, the record counts as in the ring and is not yet there (R109). [DEDUCED, log 43] -/
def faultRecord (f : FaultRec) (s : State) : State :=
  let seq := (s.fltSeq + 1) % 2 ^ 32
  let s := { s with fltSeq := seq }
  let prod := rf s (qscReg 0x30) 63 32 + faultsHeld s
  let cons := rf s (qscReg 0x38) 31 0
  let size := 2 ^ fltLg s
  if size ≤ (prod + 2 ^ 32 - cons) % 2 ^ 32 then satRf (qscReg 0x30) 31 16 1 s
  else
    let base := rf s (qscReg 0x28) 43 0
    let (s, landed) := postWrite ⟨0xE, f.tag, false⟩ schedSource (base + 64 * (prod % size))
      (cleanBytes (faultBytes f s.time (partnerByte s) seq)) (.fault f seq) s
    if landed then faultLanded f seq s else s

/-! ### MSI-X -/

/-- Words of MSI-X table entry v (R386): address, then data below vector control. -/
def msixAddrReg (v : Nat) : Nat := 0x00140000 + 16 * v
def msixDataReg (v : Nat) : Nat := 0x00140008 + 16 * v
/-- Word of the pending bit array that holds vector v. -/
def msixPbaReg (v : Nat) : Nat := 0x00148000 + 8 * (v / 64)

/-- Send vector v's message. -/
def msixSend (v : Nat) (s : State) : State :=
  emit (.msix v (rg s (msixAddrReg v)).toNat (rf s (msixDataReg v) 31 0)) s

/-- May a message of vector v leave now (R391, R393, R395)? [DEDUCED, log 142] -/
def msixOpen (s : State) (v : Nat) : Bool :=
  !s.cfg.msixMask && !bitOf (rg s (msixDataReg v)) 32 && !s.cfg.d3hot && s.cfg.bme

/-- Prefen raises a vector (R391): sent, kept in the pending bit while masked, or dropped while MSI-X is disabled. -/
def msixRaise (v : Nat) (s : State) : State :=
  if !s.cfg.msixEn then s
  else if msixOpen s v then msixSend v s
  else setRf (msixPbaReg v) (v % 64) (v % 64) 1 s

/-! ### Sending to partners -/

def link (s : State) (pid : Nat) : Link := tabGet {} s.links pid
def setLink (pid : Nat) (l : Link) (s : State) : State := { s with links := tabSet {} s.links pid l }

/-- TUY_PT_ registers of a partner id (R380). -/
def ptStat (pid : Nat) : Nat := tuyReg (0x1000 + 0x20 * pid)
def ptSerial (pid : Nat) : Nat := tuyReg (0x1008 + 0x20 * pid)
def ptCnt (pid : Nat) : Nat := tuyReg (0x1010 + 0x20 * pid)
/-- TUY_PORT_ register of a port. -/
def portReg (p off : Nat) : Nat := tuyReg (0x100 + 0x40 * p + off)

/-- State of a partner entry (R370): 0 ABSENT, 1 PRESENT, 2 GONE, 3 CONFLICT, 4 SELF. -/
def ptState (s : State) (pid : Nat) : Nat := rf s (ptStat pid) 63 60
def ptPorts (s : State) (pid : Nat) : Nat := rf s (ptStat pid) 43 32

/-- Ports looped at MAC, PCS or PMA near, as a bitmap (R380, R460). -/
def loopPorts (s : State) : Nat :=
  (List.range 12).foldl (fun m p =>
    let l := rf s (portReg p 0) 10 8
    if rf s (portReg p 0) 0 0 == 1 && (l == 1 || l == 2 || l == 3) then m + 2 ^ p else m) 0

/-- Entry state as PM accesses see it: under the transport loop the SELF entry acts as PRESENT while a port is looped (R460). -/
def pmState (s : State) (pid : Nat) : Nat :=
  if ptState s pid = 4 && rf s (tuyReg 0x10) 0 0 == 1 && loopPorts s != 0 then 1 else ptState s pid

/-- Ports over which frames to a partner are spread (R374, R460). -/
def sendPorts (s : State) (pid : Nat) : Nat := if pid = selfId s then loopPorts s else ptPorts s pid

/-- The next port after `p`, round robin, among those whose bit is set; `p` itself when none is. -/
def nextPort (bits p : Nat) : Nat :=
  match (upFrom (p + 1) 12).find? (fun k => natBit bits (k % 12)) with
  | some k => k % 12
  | none => p % 12

/-- One frame on the wire of a port. -/
def transmit (port : Nat) (f : Frame) (s : State) : State :=
  emit (.frame port f) (bumpRf (portReg port 0x10) 63 0 1 s)

/-- An unsequenced frame to a partner, on the port its stream uses next. -/
def sendPlain (pid : Nat) (f : Frame) (s : State) : State :=
  let p := nextPort (sendPorts s pid) (link s pid).port
  transmit p { f with src := selfId s, dst := pid } (setLink pid { link s pid with port := p } s)

/-- Sequenced frames still waiting go out while fewer than 1,024 are unacknowledged (R374). -/
def pumpFrames (pid : Nat) : Nat → State → State
  | 0, s => s
  | fuel + 1, s =>
    let l := link s pid
    match l.queued with
    | [] => s
    | f :: rest =>
      if 1024 ≤ l.unacked.length then s
      else
        let p := nextPort (sendPorts s pid) l.port
        let f := { f with psn := l.sendPsn, sent := s.time, src := selfId s, dst := pid,
                          conn := rf s (ptStat pid) 31 0, ackOk := true, ack := l.recvNext }
        let l := { l with queued := rest, unacked := l.unacked ++ [f], port := p,
                          sendPsn := (l.sendPsn + 1) % 2 ^ 32, sinceAck := 0 }
        pumpFrames pid fuel (transmit p f (setLink pid l s))

/-- A sequenced frame handed to a partner's stream (R374). -/
def sendSeq (pid : Nat) (f : Frame) (s : State) : State :=
  let l := link s pid
  pumpFrames pid 2 (setLink pid { l with queued := l.queued ++ [f] } s)

/-- A MSG of group traffic to a member (R375). -/
def sendMsg (pid : Nat) (m : List Nat) (s : State) : State := sendSeq pid { ty := 0xC, msg := m } s

/-- Kinds of MSG the model sends: the group protocol's own payloads are not given, so each is named by a number. [UNVERIFIED, log 72] -/
def msgPulse : Nat := 1
def msgForward : Nat := 2
def msgAck : Nat := 3
def msgStep : Nat := 4
def msgPark : Nat := 5
def msgGroup : Nat := 6
def msgAnchor : Nat := 7
def msgSparkMax : Nat := 8
def msgSparkCand : Nat := 9
def msgExport : Nat := 10
def msgStatus : Nat := 11

/-! ### Event lines -/

/-- A pulse of a hearth's event-out line: its own counter 1, and counter 2 of its parent; a member's module hearth pulses to the
lead in a MSG frame (R23, R399). -/
def pulse (i : Nat) (s : State) : State :=
  let s := if i < 90 then countUp i 1 s else s
  if i = 0 then s
  else if i = 1 then
    if isLead s then countUp 0 2 s else sendMsg s.group.lead [msgPulse] s
  else countUp (hxParent i) 2 s

/-- The tag of the last command a hearth committed (R19). -/
def tagHearth (i tag : Nat) (s : State) : State := updHearth i (fun h => { h with lastTag := tag }) s

/-- A command committed by a hearth: last_tag, and a pulse when an event is requested (R19, R23). -/
def commit (i tag : Nat) (ev : Bool) (s : State) : State :=
  let s := tagHearth i tag s
  if ev then pulse i s else s

end Sys2Proof.Machine
end

