-- ==== Sys2Proof/Machine/Poc.lean ====
section
/-! DEFINITION. The point of coherence of a stack: which accesses it may serve now and which it holds (R109 to R111, R132, R151,
R158), the host tracker, and the serving of core and host accesses (R98 to R104). -/

namespace Sys2Proof.Machine

/-- A stack whose channels failed training serves no address (R136). -/
def stackDead (s : State) (n : Nat) : Bool := (hearth s (hxStack n)).dead

/-- Does an address name `n` bytes that exist now: in one instance (R91, R92), of a stack that is usable (R136), or of a partner
that is PRESENT or GONE (R370)? -/
def addrOk (s : State) (space addr n : Nat) : Bool :=
  rangeOk space addr n &&
    (match space with
     | 4 => !stackDead s (smStack addr)
     | 6 => let st := pmState s (addr / 2 ^ 48 % 256); st == 1 || st == 2
     | _ => true)

/-- Lines in the set of a line (R111: bits [20:6] of the address, 16 ways). -/
def trackSet (s : State) (line : Nat) : List (Nat × Track) :=
  (trackedOf s (smStack line)).filter (fun e => natBits e.1 20 6 == natBits line 20 6)

/-- The oldest of a set's lines. -/
def oldestLine : List (Nat × Track) → Option Nat
  | [] => none
  | (l, t) :: rest =>
    match rest.find? (fun e => decide (e.2.age < t.age)) with
    | some _ => oldestLine rest
    | none => some l

/-- Is a line in a range of the stack's accepted Swage command: 2 in a write range, 1 in a read range, 0 in none (R110)? -/
def swageUse (s : State) (line : Nat) : Nat :=
  let r := stackRun s (smStack line)
  let hit (x : Range) : Bool := decide (x.start < line + 64) && decide (line < x.start + x.len)
  if r.phase = 0 then 0
  else if r.ranges.any (fun x => x.write && hit x) then 2
  else if r.ranges.any hit then 1 else 0

/-- The state a host read of a line is granted: what it asks for, at most S in a read range, none in a write range or under
no_track (R110, R112). -/
def grantOf (s : State) (line want : Nat) : Nat :=
  if bitOf (rg s (stkReg (smStack line) 0x148)) 0 then 0
  else match swageUse s line with
    | 2 => 0
    | 1 => min want 1
    | _ => want

/-! ### Core registers, caches and exceptions -/

/-- Cores 0 to 63 are Hammer cores (16 a + c), 64 to 67 the Smith cores. -/
def isSmith (core : Nat) : Bool := 64 ≤ core

/-- Integer register r of a core; register 0 reads as 0. -/
def xreg (s : State) (core r : Nat) : Word := if r % 32 = 0 then 0 else tabGet 0 s.xregs (core * 32 + r % 32)
/-- Write integer register r of a core; register 0 discards it. -/
def setXreg (core r : Nat) (v : Word) (s : State) : State :=
  if r % 32 = 0 then s else { s with xregs := tabSet 0 s.xregs (core * 32 + r % 32) v }

/-- Source code and tag of a core's accesses (R436, R93). -/
def coreWho (s : State) (core : Nat) : Who := ⟨if isSmith core then 2 else 1, tabGet 0 s.coreTag core, false⟩
/-- Hearth that holds a core (R488). -/
def coreHearth (core : Nat) : Nat := if isSmith core then 1 else 6 + core

/-- An exception taken by a core: cause and value registers, and machine mode. [PRESUMED, log 101] -/
def coreTrap (core cause addr : Nat) (s : State) : State :=
  { s with mcause := tabSet 0 s.mcause core (BitVec.ofNat 64 cause),
           mtval := tabSet 0 s.mtval core (BitVec.ofNat 64 addr),
           umode := tabSet false s.umode core false }

/-- Causes of a load and a store/AMO access fault. -/
def causeLoad : Nat := 5
def causeStore : Nat := 7

/-- The precise access-fault exception and the fault record of R93. [DEDUCED, log 17] -/
def accessFault (core cause addr : Nat) (s : State) : State :=
  faultRecord { code := 0x220, hearth := coreHearth core, tag := (coreWho s core).tag, src := (coreWho s core).src, addr := addr }
    (coreTrap core cause addr s)

/-- Key of a line in the data caches. -/
def dcKey (core line : Nat) : Nat := core * 2 ^ 64 + line
def dcLine (s : State) (core line : Nat) : List Byte := tabGet [] s.dcache (dcKey core line)
def setDc (core line : Nat) (l : List Byte) (s : State) : State := { s with dcache := tabSet [] s.dcache (dcKey core line) l }

/-- Lines a core's cache holds. -/
def dcLines (s : State) (core : Nat) : List (Nat × List Byte) := s.dcache.filter (fun e => e.1 / 2 ^ 64 == core)

/-- Every line of a core's data cache invalidated (R103). -/
def dcFlush (core : Nat) (s : State) : State := { s with dcache := s.dcache.filter (fun e => e.1 / 2 ^ 64 != core) }

end Sys2Proof.Machine
end

