-- ==== Sys2Proof/Machine/QueueTable.lean ====
section
/-! DEFINITION. The queue table (spec/11_queues_flags_and_waits.md R268 to R270): a queue and its WAIT, what holds a consumer, qstate,
the live words and their write-back, and the advance of `done`. -/

namespace Sys2Proof.Machine

def queue (s : State) (q : Nat) : Queue := tabGet {} s.queues q
def setQueue (q : Nat) (x : Queue) (s : State) : State := { s with queues := tabSet {} s.queues q x }
def waitOf (s : State) (q : Nat) : Wait := tabGet {} s.waits q
def setWait (q : Nat) (w : Wait) (s : State) : State := { s with waits := tabSet {} s.waits q w }

/-! ### What holds a consumer -/

/-- R171: the dispatcher of a stack takes no command and starts step 3 of none. -/
def stackHeld (s : State) (n : Nat) : Bool :=
  (hearth s (hxStack n)).reset || s.hearths.any (fun e => hxUnit n 0 ≤ e.1 && e.1 < hxUnit n 512 && e.2.reset)
    || rf s (stkReg n 0x800) 1 1 == 1 || (hearth s (hxStack n)).halted
    || srState s n != 0 || rf s (stkReg n 0x20) 0 0 == 1

/-- TNG_CH_ register of channel c of engine e (R258). -/
def chanReg (e c off : Nat) : Nat := tngReg e (0x1000 + 0x40 * c + off)

/-- Is a Tongs queue bound to the channel its ckey names (R245)? -/
def chanBound (s : State) (q : Nat) (x : Queue) : Bool :=
  let r := chanReg (x.ckey / 64) (x.ckey % 64) 0
  rf s r 63 63 == 1 && rf s r 19 0 == q

/-- Is a queue held by its consumer (R268: under R171, or unbound under R245)? -/
def queueHeld (s : State) (q : Nat) (x : Queue) : Bool :=
  match x.ckind with
  | 2 => stackHeld s x.ckey
  | 3 => !chanBound s q x
  | _ => false

/-- qstate (R268): 0 DISABLED, 1 IDLE, 2 ACTIVE, 3 WAITING, 4 STOPPED, 5 HELD. [DEDUCED, log 34] -/
def qstate (s : State) (q : Nat) : Nat :=
  let x := queue s q
  if x.ckind = 0 then 0
  else if x.stopped then 4
  else if (waitOf s q).on then 3
  else if x.taken = x.prod && x.run.isEmpty then 1
  else if queueHeld s q x then 5
  else 2

/-! ### The queue table -/

/-- Words 3 to 7 of a live entry (R268). -/
def liveWord (s : State) (q k : Nat) : Nat :=
  let x := queue s q
  let w := waitOf s q
  match k with
  | 0 => x.ringBase
  | 1 => x.jrnlBase
  | 2 => x.ringSpace * 2 ^ 60 + x.jrnlSpace * 2 ^ 56 + x.lg * 2 ^ 51 + x.ckind * 2 ^ 48 + b2n x.stamp * 2 ^ 47 + x.ckey
  | 3 => x.prod * 2 ^ 32 + x.taken
  | 4 => x.done * 2 ^ 32
  | 5 => qstate s q * 2 ^ 60 + (if w.on then ((x.run.find? (fun c => c.idx == w.idx)).map (·.tag)).getD 0 else 0)
  | 6 => if w.on then w.addr else 0
  | 7 => x.gen * 2 ^ 32
  | _ => 0

/-- The scheduler as agent (R487). -/
def schedWho (tag : Nat) : Who := ⟨0xE, tag, false⟩

/-- Address of entry q of the queue table. -/
def qtAddr (s : State) (q : Nat) : Nat := rf s (qscReg 0) 43 0 + 64 * q

/-- Words 3 to 7 written back to the table (R268). -/
def writeBack (q : Nat) (s : State) : State :=
  (postWrite (schedWho 0) schedSource (qtAddr s q + 24)
    (cleanBytes (((upFrom 3 5).map (fun k => leBytes 8 (liveWord s q k))).flatten)) .plain s).1

/-- A write-back whenever qstate has changed (R268). -/
def syncQueue (q : Nat) (s : State) : State :=
  let st := qstate s q
  if st = (queue s q).shown then s else writeBack q (setQueue q { queue s q with shown := st } s)

/-- The queues of a stack written back where their state has changed: the stack's hold has come or gone (R171, R268). -/
def syncStack (n : Nat) (s : State) : State :=
  overList syncQueue ((s.queues.filter (fun e => e.2.ckind == 2 && e.2.ckey == n)).map (·.1)) s

/-- A journal entry stands (R270): its command is journaled, and `done` moves over the unbroken run of journaled commands. -/
def entryLanded (q idx : Nat) (s : State) : State :=
  let x := queue s q
  let run := (x.run.map (fun c => if c.idx = idx then { c with jrnl := true } else c)).dropWhile (·.jrnl)
  syncQueue q (setQueue q { x with run := run, done := doneAt x.taken run } s)

end Sys2Proof.Machine
end

