-- ==== Sys2Proof/Machine/Serve.lean ====
section
/-! DEFINITION. Serving an access at the point of coherence: core loads, stores and atomics (R97 to R104), host reads and writes
(R94, R98, R109 to R112, R153, R154), and the release of what the point of coherence held. -/

namespace Sys2Proof.Machine

/-- Main-path bursts served (R121, R137). -/
def countMp (n k : Nat) (s : State) : State := bumpRf (stkReg n 0x30) 63 0 k s

/-- Accesses that a mover's run of bytes at a stack counts as: one burst for each aligned 256 bytes it fills, one narrow-port
access for each other 32-byte word it touches (R121, R124). -/
def countRun (a len : Nat) (s : State) : State :=
  if len = 0 then s
  else
    let first := (a + 255) / 256
    let last := (a + len) / 256
    let bursts := last - first
    let words := (a + len + 31) / 32 - a / 32 - 8 * bursts
    countMp (smStack a) bursts (countNp (smStack a) words s)

/-- Host-port counters: bytes of CXL.mem reads and writes, and data sent with poison (R397). -/
def countHostRead (poisoned : Bool) (s : State) : State :=
  let s := bumpRf (hstReg 0x10) 63 0 64 s
  if poisoned then satRf (hstReg 0x08) 31 16 1 s else s
def countHostWrite (s : State) : State := bumpRf (hstReg 0x18) 63 0 64 s

/-- A loaded value of 2^lg bytes extended to 64 bits. -/
def extend (lg : Nat) (zext : Bool) (v : Nat) : Word :=
  let w := 8 * 2 ^ lg
  if zext then BitVec.ofNat 64 v else BitVec.ofInt 64 (signedOf w v)

/-- A line brought into a core's data cache, in place of one when it holds 1,024 (R100). [DESIGN CHOICE, log 23] -/
def dcAlloc (core line : Nat) (l : List Byte) (s : State) : State :=
  let mine := dcLines s core
  if mine.length < 1024 then setDc core line l s
  else
    let (s, f) := takeFree s
    match mine[Config.cacheVictim f % mine.length]? with
    | some e => setDc core line l { s with dcache := tabSet [] s.dcache e.1 [] }
    | none => setDc core line l s

/-- Bytes of a cached line replaced, when the line is present (R100). -/
def dcUpdate (core addr : Nat) (bs : List Byte) (s : State) : State :=
  let l := dcLine s core (lineOf addr)
  if l.isEmpty then s else setDc core (lineOf addr) (mergeBytes l (addr % 64) bs) s

/-! ### The way between an agent and the bank -/

/-- Address of the first word of an access that its link error names. -/
def badWordAddr (e : LinkErr) (a : Nat) : Nat := a / 32 * 32 + 32 * (e.words.foldl min (nth e.words 0 0))

/-- What the wires cost a write: resends, words put right by the layer, a failed path CRC, a burst refused to the end (R146, R148,
R162). -/
def linkWrite (e : LinkErr) (who : Who) (a : Nat) (s : State) : State :=
  let n := smStack a
  let s := countRetries n (min e.bad 3) s
  let s := bumpRf (stkReg n 0x210) 31 0 (e.fixed.map (·.1)).eraseDups.length s
  let s := overList (fun f s => countLane n (smChannel a) f.2 s) e.fixed s
  let s := if e.crcBad then latchEvent 2 4 a who (satRf (stkReg n 0x210) 63 48 1 s) else s
  if 4 ≤ e.bad && !e.words.isEmpty then latchEvent 3 4 (badWordAddr e a) who s else s

/-- The bytes of a write as they reach the bank: all as poison where the path CRC failed, else those of each refused word (R146, R148). -/
def linkData (e : LinkErr) (a : Nat) (l : List PByte) : List PByte :=
  l.mapIdx (fun i b => (b.1, b.2 || e.crcBad || (decide (4 ≤ e.bad) && e.words.contains ((a % 32 + i) / 32))))

/-- A read of a word that stays Uncorrectable over the channel although the stored word is good: read again twice, and rewritten
as poison (R147, R152). -/
def linkLost (w : Nat) (s : State) : State :=
  let pa := smPhys s w
  match smDecode s pa with
  | (.clean, d) | (.corrected _, d) => rewritePoison w pa d (countRetries (smStack w) 2 s)
  | _ => s

/-- A read over the channel (R147, R148): re-reads that recover are counted; a word lost on the way latches uncorrectable-found, and
that alone (R153); data whose path CRC fails is poison to its receiver. -/
def linkRead (e : LinkErr) (who : Who) (a n : Nat) (s : State) : State × List PByte :=
  let lost := if 3 ≤ e.bad then e.words.map (fun k => a / 32 * 32 + 32 * k) else []
  let was := bitOf (rg s (errInfoReg 4 a)) 0
  let s := if e.bad < 3 then countRetries (smStack a) (e.bad * e.words.length) s else overList linkLost lost s
  let (s, l) := memRead who false 4 a n s
  let s := if !was && rf s (errInfoReg 4 a) 27 24 == 1 && lost.contains (rg s (errAddrReg 4 a)).toNat
    then setRf (errInfoReg 4 a) 27 24 0 s else s
  (s, if e.crcBad then l.map (fun b => (b.1, true)) else l)

/-- A little-endian number read over the channel, and whether any byte of it is poison. -/
def linkReadNat (e : LinkErr) (who : Who) (a k : Nat) (s : State) : State × (Nat × Bool) :=
  let (s, l) := linkRead e who a k s
  (s, (leNat (l.map (·.1)), l.any (·.2)))

/-- A write over the channel. -/
def linkStore (e : LinkErr) (who : Who) (a : Nat) (l : List PByte) (s : State) : State :=
  memWrite who 4 a (linkData e a l) (linkWrite e who a s)

/-! ### Core accesses -/

/-- A missing ordinary load served at the PoC: the line is filled unless a word of it is poisoned, and a poisoned own word is a
precise access fault (R100, R153). -/
def loadSm (core addr lg : Nat) (zext : Bool) (rd : Nat) (e : LinkErr) (s : State) : State :=
  let line := lineOf addr
  let (s, l) := linkRead e (coreWho s core) line 64 (countNp (smStack addr) 2 s)
  let own := (l.drop (addr % 64)).take (2 ^ lg)
  let s := if l.any (·.2) then s else dcAlloc core line (l.map (·.1)) s
  if own.any (·.2) then accessFault core causeLoad addr s
  else setXreg core rd (extend lg zext (leNat (own.map (·.1)))) s

/-- A volatile load at the PoC (R101, R153); a cached line whose copy at the PoC holds poison leaves the cache, so that no older
value of it is seen again (R99). [DESIGN CHOICE, log 160] -/
def loadVolatile (core addr rd : Nat) (e : LinkErr) (s : State) : State :=
  let line := lineOf addr
  if (dcLine s core line).isEmpty then
    let (s, (v, p)) := linkReadNat e (coreWho s core) addr 8 (countNp (smStack addr) 1 s)
    if p then accessFault core causeLoad addr s else setXreg core rd (BitVec.ofNat 64 v) s
  else
    let (s, l) := linkRead e (coreWho s core) line 64 (countNp (smStack addr) 2 s)
    let own := (l.drop (addr % 64)).take 8
    let s := setDc core line (if l.any (·.2) then [] else l.map (·.1)) s
    if own.any (·.2) then accessFault core causeLoad addr s
    else setXreg core rd (BitVec.ofNat 64 (leNat (own.map (·.1)))) s

/-- A store at the PoC (R100). [UNVERIFIED, log 20] -/
def storeSm (core addr lg value : Nat) (e : LinkErr) (s : State) : State :=
  linkStore e (coreWho s core) addr (cleanBytes (leBytes (2 ^ lg) value)) (countNp (smStack addr) 1 s)

/-- The new value of an AMO on operands of w bits. -/
def amoValue (op : AmoOp) (w old src : Nat) : Nat :=
  let m := 2 ^ w
  match op with
  | .swap => src % m
  | .add => (old + src) % m
  | .xor => (old ^^^ src) % m
  | .and => old &&& (src % m)
  | .or => old ||| (src % m)
  | .min => if signedOf w old ≤ signedOf w (src % m) then old else src % m
  | .max => if signedOf w old ≤ signedOf w (src % m) then src % m else old
  | .minu => min old (src % m)
  | .maxu => max old (src % m)

/-- An AMO at the PoC (R104): poison faults and leaves the word (R153); the cached copy of the line goes; aq adds fence.acq. -/
def amoSm (core : Nat) (op : AmoOp) (addr lg value rd : Nat) (aq : Bool) (e : LinkErr) (s : State) : State :=
  let (s, (old, p)) := linkReadNat e (coreWho s core) addr (2 ^ lg) (countNp (smStack addr) 1 s)
  let s := setDc core (lineOf addr) [] s
  if p then accessFault core causeStore addr s
  else
    let s := memWriteNat (coreWho s core) 4 addr (2 ^ lg) (amoValue op (8 * 2 ^ lg) old value) s
    whenSt aq (dcFlush core) (setXreg core rd (extend lg false old) s)

/-- A load-reserved at the PoC (R104). [DEDUCED, log 21] -/
def lrSm (core addr lg rd : Nat) (aq : Bool) (e : LinkErr) (s : State) : State :=
  let (s, (v, p)) := linkReadNat e (coreWho s core) addr (2 ^ lg) (countNp (smStack addr) 1 s)
  let s := setDc core (lineOf addr) [] s
  if p then accessFault core causeLoad addr s
  else
    let s := { s with resv := ⟨core, lineOf addr⟩ :: s.resv.filter (fun r => r.core != core) }
    whenSt aq (dcFlush core) (setXreg core rd (extend lg false v) s)

/-- A store-conditional at the PoC (R104): it writes only under a reservation of the line, and ends the core's reservation. -/
def scSm (core addr lg value rd : Nat) (aq : Bool) (e : LinkErr) (s : State) : State :=
  let ok := s.resv.any (fun r => r.core == core && r.line == lineOf addr)
  let s := setDc core (lineOf addr) [] { s with resv := s.resv.filter (fun r => r.core != core) }
  if !ok then whenSt aq (dcFlush core) (setXreg core rd 1 s)
  else
    let (s, (_, p)) := linkReadNat e (coreWho s core) addr (2 ^ lg) (countNp (smStack addr) 1 s)
    if p then accessFault core causeStore addr s
    else
      let s := memWriteNat (coreWho s core) 4 addr (2 ^ lg) value s
      whenSt aq (dcFlush core) (setXreg core rd 0 s)

/-! ### Host and mover accesses -/

/-- The host as agent (R487). -/
def hostWho : Who := ⟨0, 0, false⟩

/-- The tracker entry of a line that the host has read and been granted state `g` for: the youngest, in that state. A read of a line
already tracked renews its entry, which keeps state A (R109, R111). [DESIGN CHOICE, log 161] -/
def grantTrack (line g : Nat) (s : State) : State :=
  if g = 0 then s
  else setTrack line ⟨max g (track s line).st, s.trackAge⟩ { s with trackAge := s.trackAge + 1 }

/-- A host read of a line served on the narrow port, with the tracker entry that its grant makes (R98, R109 to R112, R153). -/
def hostReadSm (line want : Nat) (e : LinkErr) (s : State) : State :=
  let g := grantOf s line want
  let (s, l) := linkRead e hostWho line 64 (countNp (smStack line) 2 s)
  grantTrack line g (countHostRead (l.any (·.2)) (emit (.hostData (l.map (·.1)) (l.any (·.2))) s))

/-- A host write of a line performed at the PoC: as poison where its path CRC fails or its data arrives poisoned (R148, R154). -/
def hostWriteSm (addr : Nat) (data : List Byte) (poisoned : Bool) (e : LinkErr) (s : State) : State :=
  emit (.hostDone addr)
    (linkStore e hostWho addr (data.map (fun b => (b, poisoned))) (countHostWrite (countNp (smStack addr) 2 s)))

/-- A read or write of a mover done at the bank over its path, with the link errors met on the way (R121, R146, R147, R148). -/
def pathDo (r : PathReq) (s : State) : State :=
  let n := smStack r.addr
  let s := if r.narrow then countNp n 1 s else countMp n 1 s
  if r.write then linkStore r.link r.who r.addr r.data s
  else
    let (s, l) := linkRead r.link r.who r.addr r.len s
    emit (.pathData (l.map (·.1)) (l.map (·.2))) s

/-- Slice of an SM address, over all stacks. -/
def sliceOf (a : Nat) : Nat := smStack a * 512 + 16 * smChannel a + smLayer a

/-- Is the Swage unit of an address's slice busy on a command, holding the slice's wide column path (R125, R128)? -/
def sliceBusy (s : State) (a : Nat) : Bool :=
  let n := smStack a
  let u := tabGet ({} : SwgUnit) s.units (sliceOf a)
  (stackRun s n).phase == 3 && !u.isDone && !(hearth s (hxStack n)).halted

/-- Must a burst, a row move or scrub of an address wait for the unit of its slice to offer a yield point (R125, R158, R161, R185)? [DEDUCED, log 19] -/
def sliceHeld (s : State) (a : Nat) : Bool := sliceBusy s a && tabGet 0 s.yielded (sliceOf a) == 0

/-- Must a path access wait in the queue of the PoC: a burst to a busy slice, or an access behind an earlier one of its source that
it must follow (R99, R122, R125)? -/
def pathWaits (s : State) (r : PathReq) : Bool :=
  (!r.narrow && sliceHeld s r.addr) || behindQueued s r.source r.addr r.len r.write

/-- A path access that reaches the PoC: done, or queued for the next yield point. -/
def pathGo (r : PathReq) (s : State) : State :=
  if pathWaits s r then { s with burstQ := s.burstQ ++ [r] } else pathDo r s

/-! ### Movers -/

/-- The aligned 256-byte runs that a run of bytes fills, each one main-path burst (R121). -/
def fullRuns (a len : Nat) : List Nat := strideList ((a + 255) / 256 * 256) 256 ((a + len) / 256 - (a + 255) / 256)

/-- The bursts of the run of `len` bytes from `a` that a piece of it belongs to (R121). -/
def pieceBursts (a len p n : Nat) : List Nat :=
  (strideList (p / 256 * 256) 256 ((p + n + 255) / 256 - p / 256)).filter (fun b => decide (a ≤ b) && decide (b + 256 ≤ a + len))

/-- Accesses that a piece of a run counts as: the burst that begins with it, or the narrow-port words it touches (R121, R124). -/
def countPiece (a len p n : Nat) (s : State) : State :=
  if (pieceBursts a len p n).isEmpty then countNp (smStack p) (npWords p n) s
  else countMp (smStack p) ((pieceBursts a len p n).filter (fun b => decide (p ≤ b))).length s

/-- Bursts that wait for the units of their slices noted (R125). -/
def askSlices (l : List Nat) (s : State) : State :=
  overList (fun b s => if sliceHeld s b then { s with asks := tabSet false s.asks (sliceOf b) true } else s) l s

/-- A piece, `n` bytes from `p`, of a mover's run of `len` bytes from `a` may proceed now: nothing of R109, R132, R151 and R158 holds
it, it is behind no earlier access of its source (R102, R122), and no burst it belongs to waits for a yield point (R125). -/
def pieceReady (s : State) (source space a len p n : Nat) (write : Bool) : Bool :=
  rangeReady s space p n write &&
    (space != 4 || (!behindHeld s source p n write && !behindQueued s source p n write
      && !(pieceBursts a len p n).any (sliceHeld s)))

/-- What a piece of a mover's run waits for set going: snoops, self-refresh exit, and its bursts queued at the PoC. -/
def pieceAsk (space a len p n : Nat) (write : Bool) (s : State) : State :=
  let s := rangeAsk space p n write s
  if space = 4 then askSlices (pieceBursts a len p n) s else s

/-- A mover's access to a whole range of a space may proceed now. -/
def moverReady (s : State) (source space a len : Nat) (write : Bool) : Bool :=
  rangeReady s space a len write &&
    (space != 4 || (!behindHeld s source a len write && !behindQueued s source a len write
      && !(fullRuns a len).any (sliceHeld s)))

/-- What a mover's access waits for set going. -/
def moverAsk (space a len : Nat) (write : Bool) (s : State) : State :=
  let s := rangeAsk space a len write s
  if space = 4 then askSlices (fullRuns a len) s else s

/-! ### What a partner's frames do at the bank -/

/-- A flag updated at its PoC: the new value is single-copy atomic; a poisoned word is left as it is (R275). -/
def flagAtPoc (who : Who) (a v : Nat) (set : Bool) (s : State) : State × Bool :=
  let (s, (old, p)) := memReadNat who 4 a 8 (countNp (smStack a) 1 s)
  if p then (s, false)
  else (memWriteNat who 4 a 8 (if set then v else (old + v) % 2 ^ 64) s, true)

/-- Poison bitmap of a run's SM words (R373). -/
def pmapOf (a : Nat) (l : List PByte) : List Bool :=
  let pad := List.replicate (a % 32) ((0 : Byte), false)
  (chunksOf 32 ((a % 32 + l.length + 31) / 32) (pad ++ l)).map (fun w => w.any (·.2))

/-- Agent of the port for a delivered frame (R375, R487). -/
def portWho (f : Frame) : Who := ⟨0xF, f.tag, false⟩

/-- A delivered WRITE performed at the PoC: words marked in pmap, and pieces whose path CRC fails, are written as poison (R148,
R154, R162, R375). -/
def doWrite (f : Frame) (s : State) : State :=
  let word (k : Nat) : Nat := (f.addr + k) / 32 - f.addr / 32
  let l := (List.range f.len).map (fun k => (nth f.data k 0, nth f.pmap (word k) false || f.crcBad.contains (word k)))
  let s := overList (fun i s => latchEvent 2 4 (f.addr / 32 * 32 + 32 * i) (portWho f) (satRf (stkReg (smStack f.addr) 0x210) 63 48 1 s))
    (f.crcBad.filter (fun i => i ≤ word (f.len - 1))).eraseDups s
  memWrite (portWho f) 4 f.addr l (countRun f.addr f.len s)

/-- A delivered READ_REQ answered with a READ_RSP, while its partner is still there (R375). -/
def doRead (pid : Nat) (f : Frame) (s : State) : State :=
  let (s, l) := memRead (portWho f) false 4 f.addr f.len (countRun f.addr f.len s)
  if pmState s pid != 1 then s
  else sendSeq pid { ty := 0xA, addr := f.psn, len := f.len, status := if l.any (·.2) then 3 else 0, tag := f.tag,
                     pmap := pmapOf f.addr l, data := l.map (·.1) } s

/-- A WRITE, READ_REQ or FLAG frame performed at the PoC (R375). -/
def frameDo (pid : Nat) (f : Frame) (s : State) : State :=
  if f.ty = 8 then doWrite f s
  else if f.ty = 9 then doRead pid f s
  else (flagAtPoc (portWho f) f.addr (leNat f.data) (f.op == 1) s).1

/-! ### Serving and releasing -/

/-- A posted write performed, and what it completes. -/
def postDone (who : Who) (a : Nat) (bs : List PByte) (note : PostNote) (s : State) : State :=
  let s := memWrite who 4 a bs (countNp (smStack a) (npWords a bs.length) s)
  match note with
  | .plain => s
  | .journal q idx => entryLanded q idx s
  | .fault f seq => faultLanded f seq s

/-- An access performed at the PoC. -/
def perform (a : Access) (s : State) : State :=
  match a with
  | .load c ad lg z rd e => loadSm c ad lg z rd e s
  | .loadV c ad rd e => loadVolatile c ad rd e s
  | .store c ad lg v e => storeSm c ad lg v e s
  | .amo c op ad lg v rd aq e => amoSm c op ad lg v rd aq e s
  | .lr c ad lg rd aq e => lrSm c ad lg rd aq e s
  | .sc c ad lg v rd aq e => scSm c ad lg v rd aq e s
  | .hostRead ad w e => hostReadSm ad w e s
  | .hostWrite ad d p e => hostWriteSm ad d p e s
  | .path r => pathGo r s
  | .post who _ ad d note => postDone who ad d note s
  | .frame pid f => frameDo pid f s

/-- The line whose eviction a host read must wait for: the oldest of a full set, when the read would add an entry (R111). -/
def evictFor (s : State) : Access → Option Nat
  | .hostRead a want _ =>
    if grantOf s (lineOf a) want = 0 || (track s (lineOf a)).st != 0 || (trackSet s (lineOf a)).length < 16 then none
    else oldestLine (trackSet s (lineOf a))
  | _ => none

/-- The main-path bursts of a frame's access (R121, R125); a mover's own wait in `pathGo`. -/
def accessBursts (a : Access) : List Nat := match a with | .frame _ f => fullRuns f.addr f.len | _ => []

/-- Must an access that reaches the PoC wait behind one of its source that the PoC holds (R99, R102)? -/
def mustHold (s : State) (a : Access) : Bool := behindHeld s (accessSource a) (accessAddr a) (accessLen a) (accessWrites a)

/-- An access that reaches the PoC: served now, or held with what it waits for set going (R99, R102, R109, R111, R132, R151, R158). -/
def serve (a : Access) (s : State) : State :=
  let ad := accessAddr a
  let n := smStack ad
  let hold (s : State) : State := { s with held := s.held ++ [⟨n, a⟩] }
  if mustHold s a then hold s
  else if (accessBursts a).any (sliceHeld s) then hold (askSlices (accessBursts a) s)
  else if rangeBusy s ad (accessLen a) then hold (wakeStack n s)
  else if !accessByHost a && !(recallLines s ad (accessLen a) (accessWrites a)).isEmpty then
    hold (recallRange ad (accessLen a) (accessWrites a) s)
  else match evictFor s a with
    | some old => hold (sendSnoop old false s)
    | none => perform a s

/-- What the PoC of a stack holds is tried again, oldest first. -/
def release (n : Nat) (s : State) : State :=
  let mine := s.held.filter (fun h => h.stack == n)
  overList (fun h s => serve h.acc s) mine { s with held := s.held.filter (fun h => h.stack != n) }

/-- The queued path accesses tried again in order: those of a slice whose unit yields or has left are done, and what waited behind
them (R122, R125, R128, R180). -/
def drainBursts (s : State) : State := overList pathGo s.burstQ { s with burstQ := [] }

/-- The column path of a slice of stack n is free for what waited for it at the PoC (R125). -/
def yieldPaths (n : Nat) (s : State) : State := release n (drainBursts s)

/-- Units of a stack release their column paths: what waited for them at the PoC is done (R125, R128, R186). -/
def releasePaths (n : Nat) (s : State) : State :=
  yieldPaths n { s with asks := s.asks.filter (fun e => e.1 / 512 != n), yielded := s.yielded.filter (fun e => e.1 / 512 != n) }

/-- Does an access store without returning data to its core? -/
def accessStores : Access → Bool
  | .store _ _ _ _ _ => true
  | _ => false

/-- Is a core waiting for data of an access that the PoC holds, and has it a store that the PoC has not acknowledged (R103)? -/
def coreWaits (s : State) (core : Nat) : Bool := s.held.any (fun h => accessCore h.acc == some core && !accessStores h.acc)
def coreStoring (s : State) (core : Nat) : Bool := s.held.any (fun h => accessCore h.acc == some core && accessStores h.acc)

end Sys2Proof.Machine
end

