-- ==== Sys2Proof/Machine/StackSite.lean ====
section
/-! DEFINITION. The commands of a stack site: paths, yield points, refresh and self-refresh, lane repair and the traffic generator
(spec/05_crucible_stacks.md, R118 to R140). -/

namespace Sys2Proof.Machine

/-- A hearth's own state is RESET or HALTED (R20: QUENCHED and FAULTED take precedence). -/
def resetOrHalted (s : State) (i : Nat) : Bool :=
  let h := hearth s i
  !frozen s && !h.faulted && !h.dead && (h.reset || h.halted)

/-- A hearth's own state is RESET. -/
def ownReset (s : State) (i : Nat) : Bool :=
  let h := hearth s i
  !frozen s && !h.faulted && !h.dead && h.reset

/-! ### Paths and yield points -/

/-- MAIN_PATH_BURST (R121, R122, R125, R146, R147): a 256-byte run of one Tongs channel or Bellows. -/
def execMainPathBurst (r : PathReq) (s : State) : Host.Outcome State Fault Refusal := live s <|
  if r.narrow || r.addr % 256 != 0 || r.len != 256 || (r.write && r.data.length != 256) || !addrOk s 4 r.addr 256
  then noEvent s
  else done (serve (.path r) s)

/-- NARROW_PORT_ACCESS (R121, R122, R124, R126, R146, R147): an access inside one 32-byte word. -/
def execNarrowPortAccess (r : PathReq) (s : State) : Host.Outcome State Fault Refusal := live s <|
  if !r.narrow || r.len = 0 || 32 < r.addr % 32 + r.len || (r.write && r.data.length != r.len) || !addrOk s 4 r.addr r.len
  then noEvent s
  else done (serve (.path r) s)

def unitCount (s : State) (n u : Nat) : UnitCount := tabGet {} s.unitCnt (n * 512 + u)
def setUnitCount (n u : Nat) (c : UnitCount) (s : State) : State :=
  { s with unitCnt := tabSet {} s.unitCnt (n * 512 + u) c }

/-- Key of a bank: slice, bank group and bank. -/
def bankKey (n ch ly bg bank : Nat) : Nat := ((n * 512 + 16 * ch + ly) * 4 + bg) * 4 + bank

/-- Postponed refresh commands of a slice issued (R130, R185). [DEDUCED, log 18] -/
def issuePostponed (slice : Nat) (s : State) : State :=
  let mine := s.postponed.filter (fun e => e.1 / 16 == slice)
  let k := mine.foldl (fun a e => a + e.2) 0
  bumpRf (stkReg (slice / 512) 0x10) 63 32 k { s with postponed := s.postponed.filter (fun e => e.1 / 16 != slice) }

/-- A row move of the slice may go on (R158 step 3). -/
def moveYielded (n u : Nat) (s : State) : State :=
  let m := tabGet ({} : RMove) s.rmove n
  if m.on && 16 * m.channel + m.layer == u then { s with rmove := tabSet {} s.rmove n { m with yielded := true } } else s

/-- One yield point offered by a unit (R125, R185): queued bursts and postponed refresh are served, a row move and scrub may go on
until the unit's next micro-instruction, and a pause for a burst is counted. -/
def offerYield (n u : Nat) (s : State) : State :=
  let slice := n * 512 + u
  let c := unitCount s n u
  let pauses := tabGet false s.asks slice || s.burstQ.any (fun r => sliceOf r.addr == slice)
  let s := setUnitCount n u { c with offered := (c.offered + 1) % 2 ^ 32, paused := (c.paused + b2n pauses) % 2 ^ 32 } s
  yieldPaths n (moveYielded n u (issuePostponed slice
    { s with asks := tabSet false s.asks slice false, yielded := tabSet 0 s.yielded slice (if pauses then 2 else 1) }))

/-- YIELD_POINT (R125, R185): a running unit reaches a possible point after its interval. -/
def execYieldPoint (n : Fin 20) (u : Fin 512) (s : State) : Host.Outcome State Fault Refusal := live s <|
  let unit := tabGet ({} : SwgUnit) s.units (n.val * 512 + u.val)
  if (stackRun s n.val).phase != 3 || unit.isDone || (hearth s (hxStack n.val)).halted then noEvent s
  else done (offerYield n.val u.val s)

/-! ### Refresh, lanes -/

/-- Lane map entry p of a channel (R138). -/
def laneEntry (n ch p : Nat) : Nat × Nat := (chReg n ch (if p < 4 then 0x08 else 0x10), 16 * (p % 4))

/-- The next free spare of a channel: not in use, and not failed in training (R134, R135). -/
def freeSpare (s : State) (n ch : Nat) : Option Nat :=
  (List.range 8).find? (fun p => let (r, sh) := laneEntry n ch p
    rf s r (sh + 15) (sh + 15) == 0 && !natBit (tabGet 0 s.spareBad (n * 32 + ch)) p)

/-- Spare p of a channel takes the place of a data lane (R134, R135). -/
def takeSpare (n ch p lane : Nat) (s : State) : State :=
  let st := chReg n ch 0
  let (r, sh) := laneEntry n ch p
  setRf st 23 20 (rf s st 23 20 + 1) (setRf r (sh + 15) sh (0x8000 + lane) s)

/-- Replace lane `lane` of a channel by the next free spare and report it, or leave the channel DEGRADED (R135). -/
def repairLane (n ch lane : Nat) (s : State) : State :=
  let st := chReg n ch 0
  let key := (n * 32 + ch) * 256 + lane
  let s := { s with lanes := tabSet [] s.lanes key [], laneDue := tabSet false s.laneDue key false }
  match freeSpare s n ch with
  | some p => faultRecord { code := 0x235, hearth := hxStack n, src := 0x12 } (satRf st 31 24 1 (takeSpare n ch p lane s))
  | none => setRf st 3 0 3 s

/-- Lanes of a channel that are due for repair are repaired (R135). [DESIGN CHOICE, log 16] -/
def repairDue (n ch : Nat) (s : State) : State :=
  overList (fun l s => repairLane n ch l s) (((s.laneDue.map (·.1)).filter (fun k => k / 256 == n * 32 + ch)).map (· % 256)) s

/-- REFRESH_COMMAND (R129, R130, R135): a per-bank refresh, postponed while a busy unit holds the bank. -/
def execRefreshCommand (n : Fin 20) (ch : Fin 32) (ly : Fin 16) (bg bank : Fin 4) (bankHeld : Bool) (s : State) :
    Host.Outcome State Fault Refusal := live s <|
  if srState s n.val != 0 then noEvent s
  else
    let key := bankKey n.val ch.val ly.val bg.val bank.val
    let was := tabGet 0 s.postponed key
    let limit := min 8 (rf s (stkReg n.val 0x10) 7 4)
    let a := n.val * 2 ^ 36 + ly.val * 2 ^ 16 + ch.val * 2 ^ 11
    let s := repairDue n.val ch.val s
    if bankHeld && sliceBusy s a && was < limit then
      done { s with postponed := tabSet 0 s.postponed key (was + 1) }
    else
      done (bumpRf (stkReg n.val 0x10) 63 32 (was + 1) { s with postponed := tabSet 0 s.postponed key 0 })

/-- LANE_RECENTRE (R135): the 100 ms re-centre of a channel in service. -/
def execLaneRecentre (n : Fin 20) (ch : Fin 32) (s : State) : Host.Outcome State Fault Refusal := live s <|
  let st := rf s (chReg n.val ch.val 0) 3 0
  if st = 2 ∨ st = 3 then done (bumpRf (chReg n.val ch.val 0) 47 32 1 s) else noEvent s

/-! ### Self-refresh -/

/-- The conditions of R131. -/
def srAllowed (s : State) (n : Nat) : Bool :=
  (stackRun s n).phase == 0 && !s.held.any (fun h => h.stack == n)
    && !s.burstQ.any (fun r => smStack r.addr == n)
    && (List.range 32).all (fun ch => let c := rf s (chReg n ch 0) 3 0; c == 2 || c == 3)

/-- STK_SR_CTL.req written 1 (R131). -/
def srRequest (n : Nat) (s : State) : State :=
  let r := stkReg n 0x20
  let s := setRf r 1 1 0 (setRf r 0 0 1 s)
  syncStack n (if srState s n != 0 then s else if srAllowed s n then setRf r 3 2 1 s else setRf r 1 1 1 s)

/-- STK_SR_CTL.req written 0 (R131, R132). -/
def srRelease (n : Nat) (s : State) : State :=
  let r := stkReg n 0x20
  syncStack n (wakeStack n (setRf r 1 1 0 (setRf r 0 0 0 s)))

/-- SR_REQUEST. -/
def execSrRequest (n : Fin 20) (s : State) : Host.Outcome State Fault Refusal := liveWrite s <| done (srRequest n.val s)

/-- SR_EXIT_REQUEST. -/
def execSrExitRequest (n : Fin 20) (s : State) : Host.Outcome State Fault Refusal := liveWrite s <| done (srRelease n.val s)

/-- SR_ENTRY_DONE (R131, R132): an access that reached the PoC meanwhile, or a cleared req, starts the exit at once. -/
def execSrEntryDone (n : Fin 20) (s : State) : Host.Outcome State Fault Refusal := live s <|
  if srState s n.val != 1 then noEvent s
  else
    let waiting := tabGet false s.srWant n.val || rf s (stkReg n.val 0x20) 0 0 == 0
    done (setRf (stkReg n.val 0x20) 3 2 (if waiting then 3 else 2) { s with srWant := tabSet false s.srWant n.val false })

/-- SR_EXIT_DONE (R132): the stack is ACTIVE and the waiting accesses are served. -/
def execSrExitDone (n : Fin 20) (s : State) : Host.Outcome State Fault Refusal := live s <|
  if srState s n.val != 3 then noEvent s
  else done (syncStack n.val (release n.val (setRf (stkReg n.val 0x20) 3 2 0 s)))

/-- SR_IDLE_REENTRY (R132): idle_us have passed with req still 1. -/
def execSrIdleReentry (n : Fin 20) (s : State) : Host.Outcome State Fault Refusal := live s <|
  if srState s n.val != 0 || rf s (stkReg n.val 0x20) 0 0 == 0 || !srAllowed s n.val then noEvent s
  else done (syncStack n.val (setRf (stkReg n.val 0x20) 3 2 1 s))

/-! ### Traffic generator -/

/-- One step of a PRBS register of the given degree and tap (R140). -/
def prbsStep (deg tap r : Nat) : Nat :=
  let b := natBits r (deg - 1) (deg - 1) ^^^ natBits r (tap - 1) (tap - 1)
  (2 * r + b) % 2 ^ deg

def prbsRun (deg tap : Nat) : Nat → Nat → Nat
  | 0, r => r
  | t + 1, r => prbsRun deg tap t (prbsStep deg tap r)

/-- Bit of a lane at beat t of a run (R140). [DESIGN CHOICE, log 15] -/
def tgBit (pattern seed t lane : Nat) : Bool :=
  let prbs (deg tap : Nat) : Bool :=
    let r0 := (seed ^^^ lane) % 2 ^ deg
    natBit (prbsRun deg tap (t + 1) (if r0 = 0 then 1 else r0)) 0
  match pattern with
  | 0 => prbs 7 6
  | 1 => prbs 15 14
  | 2 => prbs 31 28
  | 3 => t % 256 == lane
  | 4 => t % 256 != lane
  | _ => natBit seed (lane % 64)

/-- The 32 bytes of beat t: lanes 8k to 8k + 7 carry byte k (R142). -/
def tgBeat (pattern seed t : Nat) : List Byte :=
  (List.range 32).map (fun k =>
    BitVec.ofNat 8 ((List.range 8).foldl (fun a b => a + b2n (tgBit pattern seed t (8 * k + b)) * 2 ^ b) 0))

/-- SM address of burst b of a run: increasing addresses of the channel's selected layers from a row on (R119, R140). -/
def tgAddr (n ch layers rowStart b : Nat) : Nat :=
  let sel := (List.range 16).filter (fun l => natBit layers l)
  let nl := max 1 sel.length
  let k := b / 8
  let j := k / nl
  n * 2 ^ 36 + ((rowStart + j / 16) % 3072) * 2 ^ 24 + (j / 4 % 4) * 2 ^ 22 + (j % 4) * 2 ^ 20
    + sel.getD (k % nl) 0 * 2 ^ 16 + ch * 2 ^ 11 + (b % 8) * 256

/-- Lanes on which two beats differ. -/
def diffLanes (x y : List Byte) : List Nat :=
  (List.range 256).filter (fun l => natBit (nth x (l / 8) 0).toNat (l % 8) != natBit (nth y (l / 8) 0).toNat (l % 8))

/-- A burst written by the generator: check bits from the layer encoder, valid bit set (R139). -/
def tgWrite (n ch b : Nat) (s : State) : State :=
  let c := chReg n ch 0x20
  let a := tgAddr n ch (rf s (chReg n ch 0x28) 31 16) (rf s (chReg n ch 0x28) 11 0) b
  overList (fun w s => smStore (a + 32 * w) (tgBeat (rf s c 4 2) (rg s (chReg n ch 0x30)).toNat (8 * b + w)) false s)
    (List.range 8) s

/-- Lanes that mismatch in a burst read back: raw data against the pattern, before correction (R139), and the faulty lanes. -/
def tgCheck (s : State) (n ch b : Nat) (bad : List Nat) : List Nat :=
  let c := chReg n ch 0x20
  let a := tgAddr n ch (rf s (chReg n ch 0x28) 31 16) (rf s (chReg n ch 0x28) 11 0) b
  let inLoop := rf s c 11 10 != 0
  let lanes := if inLoop then [] else
    ((List.range 8).map (fun w =>
      let pa := smPhys s (a + 32 * w)
      let d := if isValid s 4 pa then rawBytes s 4 pa 32 else List.replicate 32 0
      diffLanes d (tgBeat (rf s c 4 2) (rg s (chReg n ch 0x30)).toNat (8 * b + w)))).flatten
  lanes ++ bad

/-- The result of a burst entered in STK_TG_STAT and the lane bitmap. -/
def tgRecord (n ch : Nat) (lanes : List Nat) (s : State) : State :=
  let st := chReg n ch 0x38
  match lanes with
  | [] => s
  | l :: rest =>
    let first := rest.foldl min l
    let s := if rf s st 31 23 = 0x1FF then setRf st 31 23 first s else s
    let s := setRf st 2 2 1 (satRf st 63 32 1 s)
    overList (fun l s => setRf (chReg n ch (0x40 + 8 * (l / 64))) (l % 64) (l % 64) 1 s) lanes s

/-- `k` bursts of a run from burst b on, each written and then read where the run does both; `bad` are the lanes, spares 256 to 263
among them, that fail on the wire. [DESIGN CHOICE, log 162] -/
def tgBursts (n ch : Nat) (bad : List Nat) : Nat → Nat → State → State
  | 0, _, s => s
  | k + 1, b, s =>
    let c := chReg n ch 0x20
    let dir := rf s c 9 8
    let s := if dir != 1 && rf s c 11 10 == 0 then tgWrite n ch b s else s
    let s := if dir != 0 then tgRecord n ch (tgCheck s n ch b bad) s else s
    tgBursts n ch bad k (b + 1) s

/-- TG_START (R139): the start write of STK_TG_CTL; its RW fields are stored whatever becomes of the start, and a start while a run is
in progress begins a new one. [DESIGN CHOICE, log 162] -/
def execTgStart (n : Fin 20) (ch : Fin 32) (v : Word) (s : State) : Host.Outcome State Fault Refusal := liveWrite s <|
  let c := chReg n.val ch.val 0x20
  let st := chReg n.val ch.val 0x38
  let s := setRf c 63 32 (fieldOf v 63 32) (setRf c 11 8 (fieldOf v 11 8) (setRf c 4 2 (fieldOf v 4 2) s))
  let ok := resetOrHalted s (hxStack n.val) && rf s (chReg n.val ch.val 0) 3 0 != 1
    && rf s c 9 8 != 3 && rf s c 4 2 < 6
    && rf s (chReg n.val ch.val 0x28) 31 16 != 0 && rf s (chReg n.val ch.val 0x28) 11 0 < 3072
  if !ok then done (setRf st 3 3 1 s)
  else
    let s := resetRegs (st :: strideList (chReg n.val ch.val 0x40) 8 5) s
    done (setRf st 0 0 1 s)

/-- The end of a run after `k` bursts (R140). -/
def tgEnd (n ch k : Nat) (bad : List Nat) (s : State) : State :=
  let st := chReg n ch 0x38
  setRf st 1 1 1 (setRf st 0 0 0 (tgBursts n ch bad k 0 s))

/-- TG_STOP (R140): the stop bit ends the run after the current burst, burst number `ran`. [DEDUCED, log 143] -/
def execTgStop (n : Fin 20) (ch : Fin 32) (ran : Nat) (bad : List Nat) (s : State) : Host.Outcome State Fault Refusal := liveWrite s <|
  if rf s (chReg n.val ch.val 0x38) 0 0 = 0 then noEvent s
  else
    let b := rf s (chReg n.val ch.val 0x20) 63 32
    done (tgEnd n.val ch.val (if b = 0 then ran else min ran b) bad s)

/-- TG_RUN_DONE (R140): the run has done its bursts. -/
def execTgRunDone (n : Fin 20) (ch : Fin 32) (bad : List Nat) (s : State) : Host.Outcome State Fault Refusal := live s <|
  let b := rf s (chReg n.val ch.val 0x20) 63 32
  if rf s (chReg n.val ch.val 0x38) 0 0 = 0 || b = 0 then noEvent s
  else done (tgEnd n.val ch.val b bad s)

end Sys2Proof.Machine
end

