-- ==== Sys2Proof/Machine/StoredData.lean ====
section
/-! DEFINITION. The commands that keep stored data: valid-bit clears, row moves, scrub, the event latch and the checker test mode
(spec/06_stored_data_protection.md, R149 to R165). -/

namespace Sys2Proof.Machine

/-! ### Valid-bit clears -/

def vclearOf (s : State) (n : Nat) : VClear := tabGet {} s.vclear n
def setVclear (n : Nat) (v : VClear) (s : State) : State := { s with vclear := tabSet {} s.vclear n v }

/-- A go of STK_VB_CTL with the value written (R151). -/
def vbGo (n : Nat) (v : Word) (s : State) : State :=
  let r := stkReg n 0x228
  let s := setRf r 63 6 (fieldOf v 63 6) s
  if rf s r 1 1 = 1 ∨ 12582911 < fieldOf v 39 16 then setRf r 2 2 1 s
  else
    let s := setRf r 2 2 0 (setRf r 1 1 1 s)
    setVclear n { on := true, started := false, first := fieldOf v 39 16, count := fieldOf v 63 40,
                  slice := bitOf v 15, channel := fieldOf v 14 10, layer := fieldOf v 9 6 } s

/-- VALID_BIT_CLEAR (R151). -/
def execValidBitClear (n : Fin 20) (v : Word) (s : State) : Host.Outcome State Fault Refusal := liveWrite s <| done (vbGo n.val v s)

/-- The STK_VB_CTL value of the slice-mode clear that frees a billet: the range its pieces span, in its own slice (R151, R196). -/
def freeWord (base pieces : Nat) : Word :=
  BitVec.ofNat 64 (((pieces - 1) * 256 + 1) * 2 ^ 40 + base % 2 ^ 36 / 4096 * 2 ^ 16 + 2 ^ 15 + smChannel base * 2 ^ 10 + smLayer base * 2 ^ 6 + 1)

/-- The next clear that Prefen asks of a stack for a freed billet, once the stack's clear engine is free (R151, R196). -/
def nextClear (n : Nat) (s : State) : State :=
  match s.prefen.clears.find? (fun c => smStack c.1 == n) with
  | some (base, pieces) =>
    if rf s (stkReg n 0x228) 1 1 = 1 then s
    else
      let s := vbGo n (freeWord base pieces) s
      setVclear n { vclearOf s n with own := true } s
  | none => s

/-- First and last-plus-one SM addresses of a clear's range of blocks. -/
def vclearBounds (n : Nat) (v : VClear) : Nat × Nat :=
  let lo := n * 2 ^ 36 + v.first * 4096
  (lo, if v.count = 0 then n * 2 ^ 36 + stackBytes else min (lo + v.count * 4096) (n * 2 ^ 36 + stackBytes))

/-- Has a command's range a byte in a row that the clear clears (R151)? -/
def vclearMeets (n : Nat) (v : VClear) (x : Range) : Bool :=
  let (lo0, hi0) := vclearBounds n v
  if v.slice then
    let c := v.layer * 2 ^ 16 + v.channel * 2 ^ 11
    let lo := max lo0 x.start
    let hi := min hi0 (x.start + x.len)
    -- rows of the slice start at c + 2^20 j; the first that ends above lo
    let j := if c + 2048 ≤ lo then (lo - (c + 2048)) / 2 ^ 20 + 1 else 0
    decide (lo < hi) && decide (c + 2 ^ 20 * j < hi)
  else
    -- both rows of every block
    decide (max lo0 (x.start / 4096 * 4096) < min hi0 (x.start + x.len))

/-- Has the PoC of a stack accepted an access, not yet performed, to a row of which `p` holds (R151, R158)? -/
def reachedFirst (s : State) (n : Nat) (p : Nat → Bool) : Bool :=
  let meets (x : Access) : Bool :=
    let a := accessAddr x
    accessLen x != 0 && (strideList (a / 2048 * 2048) 2048 ((a + accessLen x - 1) / 2048 - a / 2048 + 1)).any p
  s.held.any (fun h => h.stack == n && meets h.acc) || s.burstQ.any (fun r => smStack r.addr == n && meets (.path r))

/-- VALID_BIT_CLEAR_START (R151): no accepted Swage command overlaps, and no access that reached the PoC before it waits. -/
def execValidBitClearStart (n : Fin 20) (s : State) : Host.Outcome State Fault Refusal := live s <|
  let v := vclearOf s n.val
  let r := stackRun s n.val
  if !v.on || v.started || (r.phase != 0 && r.ranges.any (vclearMeets n.val v)) || reachedFirst s n.val (vclearNames v) then noEvent s
  else done (setVclear n.val { v with started := true } s)

/-- The addressed row that a physical row of stack memory serves now: itself, or the row remapped to it (R157). -/
def servedRow (s : State) (pa : Nat) : Option Nat :=
  if smRow pa < 3072 then (if smPhys s pa = pa then some pa else none)
  else
    let base := pa - smRow pa * 2 ^ 24
    let hit := (List.range 8).find? (fun e =>
      let ent := rmapEntry s (smStack pa) (smChannel pa) e
      natBit ent 31 && natBits ent 30 27 == smLayer pa && natBits ent 26 25 == smGroup pa
        && natBits ent 24 23 == smBank pa && 3072 + natBits ent 10 10 == smRow pa)
    hit.map (fun e => base + natBits (rmapEntry s (smStack pa) (smChannel pa) e) 22 11 * 2 ^ 24)

/-- Valid bits of the rows that satisfy `p`, named by the address they serve, cleared. -/
def clearRows (p : Nat → Bool) (s : State) : State :=
  let gone (k : Nat) : Bool :=
    k / 2 ^ 64 == 4 && (match servedRow s (k % 2 ^ 64) with | some a => p a | none => false)
  { s with mem := { s.mem with valid := s.mem.valid.filter (fun e => !gone e.1) } }

/-- A clear that Prefen asked for is done. -/
def dropClear (n : Nat) (l : List (Nat × Nat)) : List (Nat × Nat) :=
  match l.find? (fun c => smStack c.1 == n) with | some c => l.erase c | none => l

/-- VALID_BIT_CLEAR_DONE (R151): every row of the range reads as zero; the held accesses are served, and Prefen's next clear starts. -/
def execValidBitClearDone (n : Fin 20) (s : State) : Host.Outcome State Fault Refusal := live s <|
  let v := vclearOf s n.val
  if !v.on || !v.started then noEvent s
  else
    let s := clearRows (fun a => smStack a == n.val && vclearCovers v a) s
    let s := if v.own then { s with prefen := { s.prefen with clears := dropClear n.val s.prefen.clears } } else s
    done (nextClear n.val (release n.val (setRf (stkReg n.val 0x228) 1 1 0 (setVclear n.val {} s))))

/-! ### The event latch -/

/-- Address and information registers of block b: stacks 0 to 19, then Anvils 0 to 3 (R162, R165). -/
def latchAddrReg (b : Nat) : Nat := if b < 20 then stkReg b 0x218 else anvReg (b - 20) 0x218
def latchInfoReg (b : Nat) : Nat := latchAddrReg b + 8

/-- ERR_INFO_CLEAR (R162): valid written 1, and overflow too where its bit is. -/
def execErrInfoClear (b : Fin 24) (overflow : Bool) (s : State) : Host.Outcome State Fault Refusal := liveWrite s <|
  let r := latchInfoReg b.val
  done (whenSt overflow (setRf r 1 1 0) (setRf r 0 0 0 s))

/-! ### Row moves -/

/-- The remap entry e of a channel written, in the site's table and the layer's copy (R158 step 5). -/
def setRmapEntry (n ch e v : Nat) (s : State) : State :=
  let r := rmapReg n ch e
  setRmapReg r (if e % 2 = 0 then withField (rg s r) 31 0 v else withField (rg s r) 63 32 v) s

/-- A go of STK_RMAP_CTL with the value written (R158). -/
def rmapGo (n : Nat) (v : Word) (s : State) : State :=
  let r := stkReg n 0x230
  let s := setRf r 31 3 (fieldOf v 31 3) s
  let ch := fieldOf v 31 27
  let sameSpare (e : Nat) : Bool :=
    let x := rmapEntry s n ch e
    natBit x 31 && natBits x 30 27 == fieldOf v 26 23 && natBits x 26 25 == fieldOf v 22 21
      && natBits x 24 23 == fieldOf v 20 19 && natBits x 10 10 == fieldOf v 3 3
  if rf s r 63 63 = 1 || natBit (rmapEntry s n ch (fieldOf v 6 4)) 31 || (List.range 8).any sameSpare then setRf r 62 62 1 s
  else
    let m : RMove := { on := true, row := fieldOf v 18 7, channel := ch, layer := fieldOf v 26 23, bg := fieldOf v 22 21,
                       bank := fieldOf v 20 19, entry := fieldOf v 6 4, spare := fieldOf v 3 3 }
    setRf r 62 62 0 (setRf r 63 63 1 { s with rmove := tabSet {} s.rmove n m })

/-- REMAP_MOVE (R158). -/
def execRemapMove (n : Fin 20) (v : Word) (s : State) : Host.Outcome State Fault Refusal := liveWrite s <| done (rmapGo n.val v s)

/-- Address of a row of stack n. -/
def rowAddr (n ch ly bg bank row : Nat) : Nat :=
  n * 2 ^ 36 + row * 2 ^ 24 + bank * 2 ^ 22 + bg * 2 ^ 20 + ly * 2 ^ 16 + ch * 2 ^ 11

/-- One word copied to the spare through the layer decoder (R158 step 4). -/
def moveWord (src dst w : Nat) (s : State) : State :=
  let a := src + 32 * w
  match smDecode s (layerPhys s a) with
  | (.invalid, _) => s
  | (.poison, x) => rawStore (dst + 32 * w) x (rsPoison x) s
  | (.uncorrectable, x) =>
    latchEvent 0 4 a ⟨7, 0, false⟩ (countUncorr 4 a (rawStore (dst + 32 * w) x (rsPoison x) s))
  | (.corrected _, x) => rawStore (dst + 32 * w) x (rsEncode x) (wordCorr a s)
  | (.clean, x) => rawStore (dst + 32 * w) x (rsEncode x) s

/-- Prefen has written the SPI flash at a place that the spec does not give: what SPIPROG knew of its bytes no longer holds. -/
def flashTouched (s : State) : State :=
  { s with free := s.free + 1, board := { s.board with spi := [], erased := [], spiEpoch := s.free } }

/-- REMAP_MOVE_DONE (R158, R159): accesses accepted before are complete and the unit of the slice has yielded; the row is in its
spare, the entry is valid, Prefen's record in flash is made, and the held accesses are served from the spare. -/
def execRemapMoveDone (n : Fin 20) (s : State) : Host.Outcome State Fault Refusal := live s <|
  let m := tabGet ({} : RMove) s.rmove n.val
  let src := rowAddr n.val m.channel m.layer m.bg m.bank m.row
  if !m.on || (sliceHeld s src && !m.yielded) || s.burstQ.any (fun r => moveCovers m r.addr) then noEvent s
  else
    let dst := rowAddr n.val m.channel m.layer m.bg m.bank (3072 + m.spare)
    let s := fixValid 4 src (layerPhys s src) s
    let valid := isValid s 4 (layerPhys s src)
    let s := overList (moveWord src dst) (List.range 64) s
    let s := setValid 4 dst valid s
    let ent := 2 ^ 31 + m.layer * 2 ^ 27 + m.bg * 2 ^ 25 + m.bank * 2 ^ 23 + m.row * 2 ^ 11 + m.spare * 2 ^ 10
    let s := setRmapEntry n.val m.channel m.entry ent s
    let s := { s with rmove := tabSet {} s.rmove n.val {},
                      flashRemap := tabSet 0 s.flashRemap ((n.val * 32 + m.channel) * 8 + m.entry) (BitVec.ofNat 64 ent) }
    done (release n.val (setRf (stkReg n.val 0x230) 63 63 0 (flashTouched s)))

/-! ### Patrol scrub -/

/-- Position of a row among the 49,152 of its slice, in increasing address order (R119, R160). -/
def rowInSlice (a : Nat) : Nat := smRow a * 16 + smBank a * 4 + smGroup a

/-- The addressed rows of a slice that are valid now, at or after position `from_`. -/
def validRows (s : State) (n ch ly from_ : Nat) : List Nat :=
  s.mem.valid.filterMap (fun e =>
    if e.1 / 2 ^ 64 == 4 && majority e.2 then
      match servedRow s (e.1 % 2 ^ 64) with
      | some a => if smStack a == n && smChannel a == ch && smLayer a == ly && from_ ≤ rowInSlice a then some a else none
      | none => none
    else none)

/-- The valid row with the lowest position. -/
def firstRow : List Nat → Option Nat
  | [] => none
  | a :: t => match firstRow t with
    | none => some a
    | some b => if rowInSlice a ≤ rowInSlice b then some a else some b

/-- One word scrubbed (R160, R161). -/
def scrubWord (a : Nat) (s : State) : State :=
  let pa := layerPhys s a
  match smDecode s pa with
  | (.corrected _, d) => wordCorr a (rawStore pa d (rsEncode d) s)
  | (.uncorrectable, d) => latchEvent 0 4 a ⟨6, 0, false⟩ (rewritePoison a pa d s)
  | _ => s

/-- Key of a slice's scrub position. -/
def sliceKey (n ch ly : Nat) : Nat := n * 512 + 16 * ch + ly

/-- A pass begins: busy, every slice at its first row. -/
def scrubBegin (n : Nat) (s : State) : State :=
  setRf (stkReg n 0x200) 1 1 1 { s with scrubPos := s.scrubPos.filter (fun e => e.1 / 512 != n) }

/-- Has every slice of the stack passed its last valid row? -/
def scrubFinished (s : State) (n : Nat) : Bool :=
  !s.mem.valid.any (fun e =>
    e.1 / 2 ^ 64 == 4 && majority e.2 &&
      (match servedRow s (e.1 % 2 ^ 64) with
       | some a => smStack a == n && tabGet 0 s.scrubPos (sliceKey n (smChannel a) (smLayer a)) ≤ rowInSlice a
       | none => false))

/-- Valid-bit copies of the slice's rows up to position `upTo` that disagree with their majority rewritten, and the layer's remap
copies made what the site's table says (R160). -/
def scrubCopies (n ch ly from_ upTo : Nat) (s : State) : State :=
  let rows := s.mem.valid.filterMap (fun e =>
    if e.1 / 2 ^ 64 == 4 && e.2 != copies (majority e.2) then
      match servedRow s (e.1 % 2 ^ 64) with
      | some a => if smStack a == n && smChannel a == ch && smLayer a == ly && from_ ≤ rowInSlice a && rowInSlice a ≤ upTo then some a else none
      | none => none
    else none)
  let s := overList (fun a s => fixValid 4 a (layerPhys s a) s) rows s
  overList (fun p s => let r := rmapReg n ch (2 * p); { s with layerRemap := tabSet 0 s.layerRemap r (rg s r) }) (List.range 4) s

/-- SCRUB_ROW (R160, R161): the next valid row of a slice, at a yield point where its unit is busy; the pass is counted when no
slice has one left. -/
def execScrubRow (n : Fin 20) (ch : Fin 32) (ly : Fin 16) (s : State) : Host.Outcome State Fault Refusal := live s <|
  let r := stkReg n.val 0x200
  if srState s n.val != 0 || (rf s r 1 1 == 0 && rf s r 15 8 == 0)
    || sliceHeld s (rowAddr n.val ch.val ly.val 0 0 0) then noEvent s
  else
    let s := if rf s r 1 1 = 0 then scrubBegin n.val s else s
    let k := sliceKey n.val ch.val ly.val
    let at_ := tabGet 0 s.scrubPos k
    let s := match firstRow (validRows s n.val ch.val ly.val at_) with
      | some a =>
        let s := scrubCopies n.val ch.val ly.val at_ (rowInSlice a) s
        let s := overList (fun w s => scrubWord (a + 32 * w) s) (List.range 64) s
        { s with scrubPos := tabSet 0 s.scrubPos k (rowInSlice a + 1) }
      | none => scrubCopies n.val ch.val ly.val at_ 49151 s
    if scrubFinished s n.val then done (bumpRf r 63 48 1 (setRf r 1 1 0 s))
    else if rf s r 15 8 = 0 then done (setRf r 1 1 0 s)
    else done s

/-- SCRUB_START (R160): a pass at once if none is in progress. -/
def execScrubStart (n : Fin 20) (s : State) : Host.Outcome State Fault Refusal := liveWrite s <|
  if rf s (stkReg n.val 0x200) 1 1 = 1 then noEvent s else done (scrubBegin n.val s)

/-! ### Checker test mode -/

/-- STK_ECC_TEST_CTL or ANV_ECC_TEST_CTL of block b (R164, R165). -/
def eccCtl (b : Nat) : Nat := if b < 20 then stkReg b 0x240 else anvReg (b - 20) 0x240

/-- May a go run: the stack, or for an Anvil's SRAMs the Anvil, is in RESET or HALTED, and the address names a word of this
block in the space given, which only the address of its first byte does (R164, R165)? [DEDUCED, log 163] -/
def eccAllowed (s : State) (b : Nat) : Bool :=
  let c := eccCtl b
  let sp := rf s c 27 24
  let a := (rg s (c + 8)).toNat
  resetOrHalted s (if b < 20 then hxStack b else hxAnvil (b - 20)) &&
    (if b < 20 then
      (sp == 4 && rangeOk 4 a 32 && a % 32 == 0 && smStack a == b) || (sp == 3 && rangeOk 3 a 8 && a % 8 == 0 && a / 2 ^ 32 == b)
    else
      (sp == 1 && rangeOk 1 a 8 && a % 8 == 0 && a / 2 ^ 40 == b - 20)
        || (sp == 2 && rangeOk 2 a 8 && a % 8 == 0 && a / 2 ^ 32 == b - 20))

/-- The CTL value written with go: chk, space, op and vbit are taken from it, op from the command (R164). -/
def eccWrite (b op : Nat) (v : Word) (s : State) : State :=
  let c := eccCtl b
  setRf c 63 32 (fieldOf v 63 32) (setRf c 27 24 (fieldOf v 27 24) (setRf c 6 4 op (setRf c 3 3 (fieldOf v 3 3) (setRf c 2 2 0 s))))

/-- Bytes of DATA0 to DATA3. -/
def eccData (s : State) (b k : Nat) : List Byte :=
  ((List.range k).map (fun i => leBytes 8 (rg s (eccCtl b + 16 + 8 * i)).toNat)).flatten
def setEccData (b : Nat) (d : List Byte) (s : State) : State :=
  overList (fun i s => setRg (eccCtl b + 16 + 8 * i) (BitVec.ofNat 64 (leNat ((d.drop (8 * i)).take 8))) s)
    (List.range (d.length / 8)) s

/-- The word the test mode names. -/
def eccSpace (s : State) (b : Nat) : Nat := rf s (eccCtl b) 27 24
def eccAddr (s : State) (b : Nat) : Nat := (rg s (eccCtl b + 8)).toNat

def eccRawRead (b : Nat) (s : State) : State :=
  let c := eccCtl b
  let sp := eccSpace s b
  let a := eccAddr s b
  if sp = 4 then
    let pa := smPhys s a
    let chk := leNat ((rawChk s pa).map (BitVec.ofNat 8))
    setEccData b (rawBytes s 4 pa 32) (setRf c 63 32 chk (setRf c 3 3 (b2n (isValid s 4 pa)) s))
  else
    let chk := (tabGet 0 s.mem.chk (cellKey sp a)).toNat + (tabGet 0 s.mem.poison (cellKey sp a)).toNat * 256
    setEccData b (rawBytes s sp a 8) (setRf c 63 32 chk (setRf c 3 3 (b2n (isValid s sp a)) s))

def eccRawWrite (b : Nat) (s : State) : State :=
  let c := eccCtl b
  let sp := eccSpace s b
  let a := eccAddr s b
  let chk := rf s c 63 32
  let vb := rf s c 3 3 == 1
  if sp = 4 then
    let pa := smPhys s a
    let d := eccData s b 4
    setValid 4 pa vb (afterWrite a d ((rsDecode ((leBytes 4 chk).map (·.toNat)) d).1 == .poison)
      (rawStore pa d ((leBytes 4 chk).map (·.toNat)) s))
  else
    setValid sp a vb (setSramWord sp a (leNat (eccData s b 1)) (natBits chk 7 0) (BitVec.ofNat 3 (natBits chk 10 8)) s)

/-- Result code and position of a class (R164). -/
def classCode : WordClass → Nat × Nat
  | .clean => (0, 0xFF) | .corrected p => (1, p) | .uncorrectable => (2, 0xFF) | .poison => (3, 0xFF) | .invalid => (4, 0xFF)

/-- Class of a stored word as it stands. -/
def classAt (s : State) (space a : Nat) : WordClass :=
  if space = 4 then (smDecode s (smPhys s a)).1 else (sramRead s space a).1

/-- A decoded read (R143, R164): class and position, and the data; of a Poison or Uncorrectable word the decoder returns none, so
what the data registers then hold is free. [DESIGN CHOICE, log 164] -/
def eccDecodedRead (b : Nat) (who : Who) (s : State) : State :=
  let c := eccCtl b
  let sp := eccSpace s b
  let a := eccAddr s b
  let (res, pos) := classCode (classAt s sp a)
  let (s, l) := memRead who false sp a (wordBytes sp) s
  let (s, f) := takeFree s
  let d := if l.any (·.2) then (List.range (wordBytes sp)).map (Config.unstated f) else l.map (·.1)
  setEccData b d (setRf c 31 28 res (setRf c 23 16 pos s))

def eccEncodedWrite (b : Nat) (who : Who) (s : State) : State :=
  let sp := eccSpace s b
  memWrite who sp (eccAddr s b) (cleanBytes (eccData s b (if sp = 4 then 4 else 1))) s

/-- A go of the checker test mode: refused, or the operation done at once (R164). -/
def eccGo (b op : Nat) (v : Word) (run : State → State) (s : State) : State :=
  let s := eccWrite b op v s
  if eccAllowed s b then run s else setRf (eccCtl b) 2 2 1 s

/-- The test mode as agent (R487). -/
def testWho : Who := ⟨8, 0, false⟩

/-- ECC_RAW_READ, ECC_RAW_WRITE, ECC_DECODED_READ, ECC_ENCODED_WRITE (R164): block b, and the value written to its CTL. -/
def execEccRawRead (b : Fin 24) (v : Word) (s : State) : Host.Outcome State Fault Refusal := liveWrite s <|
  done (eccGo b.val 0 v (eccRawRead b.val) s)
def execEccRawWrite (b : Fin 24) (v : Word) (s : State) : Host.Outcome State Fault Refusal := liveWrite s <|
  done (eccGo b.val 1 v (eccRawWrite b.val) s)
def execEccDecodedRead (b : Fin 24) (v : Word) (s : State) : Host.Outcome State Fault Refusal := liveWrite s <|
  done (eccGo b.val 2 v (eccDecodedRead b.val testWho) s)
def execEccEncodedWrite (b : Fin 24) (v : Word) (s : State) : Host.Outcome State Fault Refusal := liveWrite s <|
  done (eccGo b.val 3 v (eccEncodedWrite b.val testWho) s)

end Sys2Proof.Machine
end

