-- ==== Sys2Proof/Machine/Operands.lean ====
section
/-! DEFINITION. Operand forms: tensor descriptors, their rows and elements (spec/02_number_formats_and_layout.md, R49 to R62), and
the writing of converted elements (R44 to R55, R78). -/

namespace Sys2Proof.Machine

/-- A tensor descriptor (R56) whose codes are all defined. -/
structure Desc where
  base    : Nat
  space   : Nat
  fmt     : Fmt
  arr     : Arr
  /-- ROW4 layout -/
  row4    : Bool := false
  ovf     : Bool := false
  stoch   : Bool := false
  /-- number of dimensions, 1 to 4 -/
  rank    : Nat := 2
  tid     : Nat := 0
  size0   : Nat
  size1   : Nat := 1
  size2   : Nat := 1
  size3   : Nat := 1
  stride1 : Int := 0
  stride2 : Int := 0
  stride3 : Int := 0
  anchorOk : Bool := false
  anchor  : Int := 0
  deriving DecidableEq, Repr

/-- The descriptor that eight words spell, or none for a reserved code (R35, R49, R56, R90). -/
def descOf (w : List Nat) : Option Desc :=
  let w1 := nth w 1 0
  let rank := natBits w1 49 48 + 1
  match fmtOf (natBits w1 59 56), arrOf (natBits w1 55 54) with
  | some f, some a =>
    if (a != .plain && !fmtBlockable f) || natBits w1 51 50 ≥ 2 || natBits w1 63 60 == 0 || natBits w1 63 60 > 6 then none
    else some
      { base := nth w 0 0, space := natBits w1 63 60, fmt := f, arr := a, row4 := natBit w1 53, ovf := natBit w1 52,
        stoch := natBit w1 50, rank := rank, tid := natBits w1 31 0,
        size0 := natBits (nth w 2 0) 31 0,
        size1 := if 2 ≤ rank then natBits (nth w 2 0) 63 32 else 1,
        size2 := if 3 ≤ rank then natBits (nth w 3 0) 31 0 else 1,
        size3 := if 4 ≤ rank then natBits (nth w 3 0) 63 32 else 1,
        stride1 := if 2 ≤ rank then signedOf 64 (nth w 4 0) else 0,
        stride2 := if 3 ≤ rank then signedOf 64 (nth w 5 0) else 0,
        stride3 := if 4 ≤ rank then signedOf 64 (nth w 6 0) else 0,
        anchorOk := natBit (nth w 7 0) 16, anchor := signedOf 16 (natBits (nth w 7 0) 15 0) }
  | _, _ => none

/-- Bytes of a block's elements, of its raw record and of the record as laid out (R50). -/
def elemBytes (a : Arr) (f : Fmt) : Nat := arrBlock a * fmtBits f / 8
def recRaw (a : Arr) (f : Fmt) : Nat := 1 + elemBytes a f
def recPad (a : Arr) (f : Fmt) : Nat := (recRaw a f + 3) / 4 * 4
def recBytes (d : Desc) : Nat := if d.row4 then recRaw d.arr d.fmt else recPad d.arr d.fmt

/-- Byte length of a row of `n` elements (R58). -/
def rowBytesOf (d : Desc) (n : Nat) : Nat :=
  match d.arr with
  | .plain => (n * fmtBits d.fmt + 31) / 32 * 4
  | _ =>
    if d.row4 then (n / arrBlock d.arr * recRaw d.arr d.fmt + 3) / 4 * 4
    else n / arrBlock d.arr * recPad d.arr d.fmt

/-- row_bytes of R58. -/
def rowBytes (d : Desc) : Nat := rowBytesOf d d.size0

/-- Row address of R58, computed exactly. -/
def rowAddrInt (d : Desc) (i1 i2 i3 : Nat) : Int :=
  (d.base : Int) + (i1 : Int) * d.stride1 + (i2 : Int) * d.stride2 + (i3 : Int) * d.stride3

/-- Row address of a row that lies inside its space. -/
def rowAt (d : Desc) (i1 i2 i3 : Nat) : Nat := (rowAddrInt d i1 i2 i3).toNat

/-- Number of rows, and the indices of row number k (dimension 1 fastest). -/
def rowCount (d : Desc) : Nat := d.size1 * d.size2 * d.size3
def rowIdx (d : Desc) (k : Nat) : Nat × Nat × Nat := (k % d.size1, k / d.size1 % d.size2, k / d.size1 / d.size2)
def rowNo (d : Desc) (k : Nat) : Nat := let (i, j, l) := rowIdx d k; rowAt d i j l

/-- Bit offset of element i0 from the first byte of its row (R58). -/
def elemBit (d : Desc) (i0 : Nat) : Nat :=
  match d.arr with
  | .plain => i0 * fmtBits d.fmt
  | a => 8 * (i0 / arrBlock a * recBytes d + 1) + i0 % arrBlock a * fmtBits d.fmt

/-- Byte offset of the scale of element i0's block. -/
def scaleByte (d : Desc) (i0 : Nat) : Nat := i0 / arrBlock d.arr * recBytes d

/-- Shape rules of R57: sizes at least 1, blocks whole. -/
def shapeOk (d : Desc) : Bool :=
  1 ≤ d.size0 && 1 ≤ d.size1 && 1 ≤ d.size2 && 1 ≤ d.size3 && d.size0 % arrBlock d.arr == 0

/-- The lowest and highest row address of the shape. -/
def rowSpan (d : Desc) : Int × Int :=
  let ext (n : Nat) (st : Int) : Int := ((n : Int) - 1) * st
  let lo (n : Nat) (st : Int) : Int := min 0 (ext n st)
  let hi (n : Nat) (st : Int) : Int := max 0 (ext n st)
  ((d.base : Int) + lo d.size1 d.stride1 + lo d.size2 d.stride2 + lo d.size3 d.stride3,
   (d.base : Int) + hi d.size1 d.stride1 + hi d.size2 d.stride2 + hi d.size3 d.stride3)

/-- Addresses of one instance of a space share their high part. -/
def sameInstance (space x y : Nat) : Bool :=
  match space with
  | 1 | 2 | 3 => x / 2 ^ 32 == y / 2 ^ 32
  | 4 => x / 2 ^ 36 == y / 2 ^ 36
  | 6 => x / 2 ^ 36 == y / 2 ^ 36
  | _ => true

/-- R59 for rows of `len` bytes: alignment, and every row inside an instance of the space. -/
def placeOk (s : State) (d : Desc) (len : Nat) : Bool :=
  let (lo, hi) := rowSpan d
  d.base % 4 == 0 && d.stride1 % 4 == 0 && d.stride2 % 4 == 0 && d.stride3 % 4 == 0
    && decide (0 ≤ lo) && decide (hi < 2 ^ 64)
    && addrOk s d.space lo.toNat len && addrOk s d.space hi.toNat len
    && (sameInstance d.space lo.toNat hi.toNat || (List.range (rowCount d)).all (fun k => addrOk s d.space (rowNo d k) len))

/-- A descriptor usable as a source (R57 to R60). -/
def srcOk (s : State) (d : Desc) : Bool := shapeOk d && placeOk s d (rowBytes d)

/-- No two numbers of a list closer than `len`. -/
def apart (len : Nat) : List Int → Bool
  | [] => true
  | x :: t => t.all (fun y => decide ((len : Int) ≤ (x - y).natAbs)) && apart len t

/-- Dimensions of more than one index with their strides, shortest stride first. -/
def dimsOf (d : Desc) : List (Nat × Nat) :=
  let l := [(d.size1, d.stride1.natAbs), (d.size2, d.stride2.natAbs), (d.size3, d.stride3.natAbs)].filter (fun x => 1 < x.1)
  let ins (x : Nat × Nat) (l : List (Nat × Nat)) := l.takeWhile (fun y => y.2 < x.2) ++ x :: l.dropWhile (fun y => y.2 < x.2)
  l.foldr ins []

/-- Each longer stride clears all that the shorter ones span. -/
def nested : Nat → List (Nat × Nat) → Bool
  | _, [] => true
  | span, (n, st) :: t => decide (span ≤ st) && nested (span + (n - 1) * st) t

/-- Rows of a destination of `len` bytes do not overlap (R61). -/
def rowsApart (d : Desc) (len : Nat) : Bool :=
  nested len (dimsOf d) || apart len ((List.range (rowCount d)).map (fun k => let (i, j, l) := rowIdx d k; rowAddrInt d i j l))

/-- Strides within the rank are nonzero (R61). -/
def stridesOk (d : Desc) : Bool :=
  (d.rank < 2 || d.stride1 != 0) && (d.rank < 3 || d.stride2 != 0) && (d.rank < 4 || d.stride3 != 0)

/-- A descriptor usable as a destination with rows of `len` bytes (R57 to R59, R61). -/
def dstOkLen (s : State) (d : Desc) (len : Nat) : Bool :=
  shapeOk d && placeOk s d len && stridesOk d && rowsApart d len
def dstOk (s : State) (d : Desc) : Bool := dstOkLen s d (rowBytes d)

/-! ### Elements -/

/-- `n` bits from bit offset `bit` of a run of bytes, and whether any byte they touch is poisoned (R42, R43). -/
def bitsAt (l : List PByte) (bit n : Nat) : Nat × Bool :=
  let b := bit / 8
  let run := (l.drop b).take ((bit + n + 7) / 8 - b)
  ((leNat (run.map (·.1)) >>> (bit % 8)) % 2 ^ n, run.any (·.2))

/-- An element as read: its exact value, its code, its block's scale and the poison it met. -/
structure Elem where
  val    : ExNum
  code   : Nat
  scale  : Nat
  poison : Bool
  deriving DecidableEq, Repr

/-- Element i0 of a row given as bytes (R58). -/
def elemOf (d : Desc) (row : List PByte) (i0 : Nat) : Elem :=
  let (c, p) := bitsAt row (elemBit d i0) (fmtBits d.fmt)
  match d.arr with
  | .plain => ⟨elemValue d.fmt c, c, 0, p⟩
  | a =>
    let (sc, q) := bitsAt row (8 * scaleByte d i0) 8
    ⟨blockValue a d.fmt sc c, c, sc, p || q⟩

/-- Every element of a row. -/
def rowElems (d : Desc) (row : List PByte) : List Elem := (List.range d.size0).map (elemOf d row)

/-- Bound exponent contributed by an element: its own when plain, its block's otherwise (R70). -/
def elemBound (d : Desc) (e : Elem) : Option Int :=
  match d.arr with
  | .plain => boundPlain d.fmt e.code
  | a => boundBlock a d.fmt e.scale

/-- Maximum bound exponent over elements (R71). -/
def rowBound (d : Desc) (es : List Elem) : Option Int := es.foldl (fun m e => boundMax m (elemBound d e)) none

/-- A row read. -/
def readRow (who : Who) (inBank : Bool) (d : Desc) (addr : Nat) (s : State) : State × List PByte :=
  memRead who inBank d.space addr (rowBytes d) s

/-- The linear position of an element in its descriptor (R78). -/
def elemPos (d : Desc) (i0 i1 i2 i3 : Nat) : Nat := i0 + d.size0 * (i1 + d.size1 * (i2 + d.size2 * i3))

/-- Codes of `bits` bits packed from bit 0 up (R43). -/
def packCodes (bits : Nat) : List Nat → Nat
  | [] => 0
  | c :: t => c + 2 ^ bits * packCodes bits t

/-- Blocks of a row quantised and laid out as bytes, each byte marked where its block holds a poisoned element (R50, R156). -/
def packBlocks (d : Desc) (bs : List (List (ExNum × Bool) × List Rnd)) : List PByte × Nat :=
  match bs with
  | [] => ([], 0)
  | (xs, rs) :: t =>
    let (sc, cs, e) := quantBlock d.arr d.fmt d.ovf rs (xs.map (·.1))
    let p := xs.any (·.2)
    let bytes := BitVec.ofNat 8 sc :: leBytes (recBytes d - 1) (packCodes (fmtBits d.fmt) cs)
    let (l, es) := packBlocks d t
    (bytes.map (fun b => (b, p)) ++ l, e ||| es)

/-- Plain elements converted and packed, each byte marked where an element in it is poisoned. -/
def packPlain (d : Desc) (xs : List (ExNum × Bool)) (rs : List Rnd) : List PByte × Nat :=
  let (cs, e) := convAll d.fmt d.ovf id (xs.map (·.1)) rs
  let bits := fmtBits d.fmt
  let n := rowBytesOf d xs.length
  let bytes := leBytes n (packCodes bits cs)
  let bad (k : Nat) : Bool :=
    (xs.drop (8 * k / bits)).take ((8 * k + 7) / bits - 8 * k / bits + 1) |>.any (·.2)
  (bytes.zipWith (fun b k => (b, bad k)) (List.range n), e)

/-- A row of exact values, with poison marks, as the bytes of a destination row, and the exception bits of its conversions
(R44 to R55, R77 to R79). `pos` is the position of element 0. Blocks past the last value are padded with zero inputs. -/
def packRow (d : Desc) (pos : Nat) (xs : List (ExNum × Bool)) : List PByte × Nat :=
  let rs := (List.range xs.length).map (fun k => rndAt d.stoch d.tid (pos + k))
  match d.arr with
  | .plain => packPlain d xs rs
  | a =>
    let b := arrBlock a
    let full := (xs.length + b - 1) / b * b
    let xs' := xs ++ List.replicate (full - xs.length) (numZero, false)
    let rs' := (List.range full).map (fun k => rndAt d.stoch d.tid (pos + k))
    let (l, e) := packBlocks d ((chunksOf b (full / b) xs').zip (chunksOf b (full / b) rs'))
    -- a row of records ends on a multiple of 4 bytes (R50)
    (l ++ List.replicate ((l.length + 3) / 4 * 4 - l.length) (0, false), e)

/-- A row of values converted and written at an address (R44, R50). -/
def writeRow (who : Who) (d : Desc) (addr pos : Nat) (xs : List (ExNum × Bool)) (s : State) : State × Nat :=
  let (l, e) := packRow d pos xs
  (memWrite who d.space addr l s, e)

/-- The first values of a row written, and no byte or bit of the row beyond them but the rest of the last block, which is
quantised with zero inputs (R50, R182). -/
def putRow (who : Who) (d : Desc) (addr pos : Nat) (xs : List (ExNum × Bool)) (s : State) : State × Nat :=
  let (l, e) := packRow d pos xs
  match d.arr with
  | .plain =>
    let bits := xs.length * fmtBits d.fmt
    let whole := bits / 8
    let s := memWrite who d.space addr (l.take whole) s
    if bits % 8 = 0 then (s, e)
    else
      let (s, old) := memRead who false d.space (addr + whole) 1 s
      let o := old.headD (0, false)
      let m := 2 ^ (bits % 8)
      let v := o.1.toNat / m * m + ((l.drop whole).headD (0, false)).1.toNat % m
      (memWrite who d.space (addr + whole) [(BitVec.ofNat 8 v, o.2 || ((l.drop whole).headD (0, false)).2)] s, e)
  | a =>
    let blocks := ceilDiv xs.length (arrBlock a)
    let len := if blocks * arrBlock a = d.size0 then rowBytes d else blocks * recBytes d
    (memWrite who d.space addr (l.take len) s, e)

end Sys2Proof.Machine
end

