-- ==== Sys2Proof/Machine/Queues.lean ====
section
/-! DEFINITION. Queues: rings and headers, taking and journaling, doorbells, flags and waits
(spec/11_queues_flags_and_waits.md, R259 to R278). -/

namespace Sys2Proof.Machine

/-- Statuses and codes of R433 and R435 that journal entries carry. -/
def stOk : Nat := 0
def stAborted : Nat := 1
def stFlushed : Nat := 2
def stPartnerGone : Nat := 3
def stWaitTimeout : Nat := 4
def stHearthReset : Nat := 5
def stModuleReset : Nat := 6
def stMergeAbort : Nat := 7
def stDescriptor : Nat := 0x201
def stAnchor : Nat := 0x210
def stAddress : Nat := 0x220
def stPoison : Nat := 0x231

/-! ### Headers -/

/-- A command header (R263). -/
structure Hdr where
  cls   : Nat
  ord   : Nat
  slots : Nat
  subop : Nat
  tag   : Nat
  /-- rejected as R35 states: slots field out of range or not what R261 gives the class -/
  bad   : Bool
  words : List Nat
  deriving DecidableEq, Repr

/-- Slots that R261 gives a class, 0 where it gives a range. -/
def classSlots (c : Nat) : Nat := if c = 1 then 8 else if c = 2 then 4 else if c = 0 ∨ c = 3 ∨ c = 4 then 1 else 0

/-- Does a consumer kind accept a class (R261; of the Prefen request classes those of R287 and R357)? -/
def classAccepted (kind c : Nat) : Bool :=
  c == 0 || c == 3 || c == 4 || (c == 1 && kind == 2) || (c == 2 && kind == 3)
    || (0x10 ≤ c && c ≤ 0x17 && kind == 1) || (0x40 ≤ c && c ≤ 0x7F && kind == 4)

/-- The header that eight words spell (R261, R263). -/
def hdrOf (w : List Nat) : Hdr :=
  let w0 := nth w 0 0
  let c := natBits w0 63 56
  let n := natBits w0 53 50
  let bad := n == 0 || 8 < n
  { cls := c, ord := natBits w0 55 54, slots := if bad then 1 else n, subop := natBits w0 49 40, tag := natBits w0 31 0,
    bad := bad || (classSlots c != 0 && classSlots c != n), words := w }

/-- Address of slot index i of a ring (R262). -/
def slotAddr (x : Queue) (i : Nat) : Nat := x.ringBase + 64 * (i % 2 ^ x.lg)

/-- The eight words of a slot, as they stand. -/
def peekSlot (s : State) (x : Queue) (i : Nat) : List Nat :=
  (List.range 8).map (fun k => peekNat s x.ringSpace (slotAddr x i + 8 * k) 8)

/-- The header at the head of a queue, as it stands. -/
def headHdr (s : State) (q : Nat) : Hdr := let x := queue s q; hdrOf (peekSlot s x x.taken)

/-- The bytes of `k` slots from index i, read by the consumer. -/
def readSlots (x : Queue) (who : Who) : Nat → Nat → State → State × List PByte
  | 0, _, s => (s, [])
  | k + 1, i, s =>
    let (s, a) := memRead who false x.ringSpace (slotAddr x i) 64 s
    let (s, b) := readSlots x who k (i + 1) s
    (s, a ++ b)

/-- May the module reach HM by a command's path (R382, R395)? -/
def hmOpen (s : State) (hpath : Nat) : Bool :=
  s.cfg.bme && linkUp s && (hpath != 0 || (linkState s == 3 && s.cfg.cacheEn))

/-- May the consumer read slot index i now: the PoC lets it (R109, R132), or the host port reaches the ring (R393, R395)? [DEDUCED, log 172] -/
def slotReady (s : State) (x : Queue) (i : Nat) : Bool :=
  if x.ringSpace = 5 then hmOpen s 1 else rangeReady s x.ringSpace (slotAddr x i) 64 false

/-- The slots of the head command: its first, and the others that its header, once readable, names. -/
def headSlots (s : State) (q : Nat) : List Nat :=
  let x := queue s q
  if slotReady s x x.taken then upFrom x.taken (headHdr s q).slots else [x.taken]

/-- Are the slots of the head command readable now? -/
def slotsReady (s : State) (q : Nat) : Bool := (headSlots s q).all (slotReady s (queue s q))

/-- What the reading of the head's slots waits for set going (R109, R132). -/
def askSlots (q : Nat) (s : State) : State :=
  let x := queue s q
  overList (fun i s => if slotReady s x i then s else rangeAsk x.ringSpace (slotAddr x i) 64 false s) (headSlots s q) s

/-- A queue has a command that its consumer cannot read yet. -/
def needSlots (s : State) (q : Nat) : Bool :=
  let x := queue s q
  x.ckind != 0 && !x.stopped && x.taken != x.prod && !queueHeld s q x && !slotsReady s q

/-- A channel of a Tongs engine (R244). -/
def chan (s : State) (e c : Nat) : Chan := tabGet {} s.chans (64 * e + c)
def setChan (e c : Nat) (x : Chan) (s : State) : State := { s with chans := tabSet {} s.chans (64 * e + c) x }

/-- TNG_ENG_CTL.halt of the engine of a Tongs queue: no channel of it takes a command (R255). -/
def engineHalted (s : State) (x : Queue) : Bool := x.ckind == 3 && rf s (tngReg (x.ckey / 64) 0) 0 0 == 1

/-- Does the command at the head of a queue stand ready to be taken (R105, R169, R178, R255, R266, R267, R271)? A Swage command also
waits for the one before it on its stack, and while micro-program writes are enabled. -/
def headReady (s : State) (q : Nat) : Bool :=
  let x := queue s q
  let h := headHdr s q
  slotsReady s q && !engineHalted s x && (x.ckind != 2 || h.cls != 1 || ((tabGet ({} : StackRun) s.runs x.ckey).phase == 0 && rf s (stkReg x.ckey 0x800) 2 2 == 0)) &&
    x.ckind != 0 && !x.stopped && !(waitOf s q).on && !queueHeld s q x
    && x.taken != x.prod && h.slots ≤ diff32 x.prod x.taken
    && !x.run.any (fun c => !c.jrnl && (c.ord % 2 == 1))
    && (h.ord < 2 || x.run.all (·.jrnl))

/-- The queue whose turn it is at a stack: the first ready one after the queue of its last command, in increasing id, wrapping
(R260). [DEDUCED, log 33] -/
def stackTurn (s : State) (n : Nat) : Option Nat :=
  let ids := (s.queues.filter (fun e => e.2.ckind == 2 && e.2.ckey == n && headReady s e.1)).map (·.1)
  let last := tabGet 0 s.lastQ n
  match ids.find? (fun q => decide (last ≤ q)) with
  | some q => some q
  | none => ids.head?

/-- May the consumer take the command at the head now? A stack takes by turns (R260). -/
def canTake (s : State) (q : Nat) : Bool :=
  headReady s q && ((queue s q).ckind != 2 || stackTurn s (queue s q).ckey == some q)

/-! ### Trace records -/

/-- Bytes of an Anvil's trace ring: 4 KiB * 2^size, where 14 and 15 act as 13 (R241). -/
def traceBytes (s : State) (a : Nat) : Nat := 4096 * 2 ^ min 13 (rf s (anvReg a 0x100) 7 4)

/-- What a trace record says beside its time and partner (R239). -/
structure TraceRec where
  tag  : Nat
  hx   : Nat
  kind : Nat
  code : Nat
  exc  : Nat := 0
  prog : Nat := 0
  step : Nat := 0

/-- The 32 bytes of a trace record (R239). -/
def traceRecBytes (time partner : Nat) (r : TraceRec) : List Byte :=
  leBytes 8 time ++ leBytes 4 r.tag ++ leBytes 2 r.hx ++ leBytes 1 partner ++ leBytes 1 r.kind ++ leBytes 1 r.code ++ leBytes 1 r.exc
    ++ leBytes 2 0 ++ leBytes 4 r.prog ++ leBytes 8 r.step

/-- A record that arrives at an enabled ring: written at its place, or dropped and counted while the write path is full, which is a
free value (R240). -/
def traceRing (a : Nat) (who : Who) (r : TraceRec) (s : State) : State :=
  let ctl := anvReg a 0x100
  if rf s ctl 0 0 = 0 then s
  else
    let (s, f) := takeFree s
    if Config.tracePathFull f then satRf ctl 47 32 1 s
    else
      let n := (rg s (anvReg a 0x110)).toNat
      let at_ := rf s (anvReg a 0x108) 26 12 * 4096 + 32 * (n % (traceBytes s a / 32))
      setRg (anvReg a 0x110) (BitVec.ofNat 64 (n + 1))
        (memWrite who 2 (a * 2 ^ 32 + at_) (cleanBytes (traceRecBytes s.time (partnerByte s) r)) s)

/-- The Anvil of a queue's consumer, if it has one. -/
def consumerAnvil (x : Queue) : Option Nat :=
  match x.ckind with
  | 2 => some (x.ckey / 5)
  | 3 => if x.ckey / 64 < 16 then some (x.ckey / 64 / 4) else none
  | 4 => some ((x.ckey - 6) / 16)
  | _ => none

/-- The scheduler's record of a command that its consumer has taken, in the ring of the consumer's Anvil (R239). -/
def traceTaken (x : Queue) (tag cls : Nat) (body : List PByte) (s : State) : State :=
  match consumerAnvil x with
  | none => s
  | some a =>
    traceRing a (schedWho tag) { tag := tag, hx := 1, kind := 0, code := cls,
                                 step := if x.ckind = 2 && cls == 1 then leNat (((body.drop 16).take 8).map (·.1)) else 0 } s

/-- A command as its consumer took it. -/
structure Taken where
  idx    : Nat
  tag    : Nat
  hdr    : Hdr
  body   : List PByte
  poison : Bool
  deriving DecidableEq, Repr

/-- Words of a taken command's bytes. -/
def bytesWords (l : List PByte) : List Nat := (List.range (l.length / 8)).map (fun k => leNat (((l.drop (8 * k)).take 8).map (·.1)))

/-- Take the command at the head: read its slots, stamp it where the queue stamps, advance `taken` (R264, R268); a Tongs channel shows
its tag (R258). -/
def takeCmd (q : Nat) (s : State) : State × Taken :=
  let x := queue s q
  let h := headHdr s q
  let s := if x.ckind = 2 then { s with lastQ := tabSet 0 s.lastQ x.ckey (q + 1) } else s
  let (s, tag) := if x.stamp then stampTag 0x78 s else (s, h.tag)
  let (s, l) := readSlots x (schedWho tag) h.slots x.taken s
  let h := hdrOf (bytesWords (l.take 64))
  let ord := if h.cls = 4 then 1 ||| h.ord else h.ord
  let x := { x with taken := (x.taken + h.slots) % 2 ^ 32,
                    run := x.run ++ [⟨x.taken, h.slots, tag, h.cls, ord, false⟩] }
  let idx := (x.taken + 2 ^ 32 - h.slots) % 2 ^ 32
  let s := if x.ckind = 3 then setRg (chanReg (x.ckey / 64) (x.ckey % 64) 0x10) (BitVec.ofNat 64 tag) s else s
  let s := traceTaken x tag h.cls (l.drop 64) s
  (syncQueue q (setQueue q x s), ⟨idx, tag, h, l.drop 64, l.any (·.2)⟩)

/-! ### Journals -/

/-- What a journal entry says of a command (R270). -/
structure JEntry where
  /-- 0 NOT_STARTED, 1 PARTIAL, 2 DONE -/
  state    : Nat
  status   : Nat := 0
  progress : Nat := 0
  exc      : Nat := 0
  cmode    : Nat := 0
  late     : Bool := false
  deriving DecidableEq, Repr

/-- The 32 bytes of an entry (R270). -/
def jrnlBytes (time tag partner idx q : Nat) (j : JEntry) : List Byte :=
  leBytes 8 time ++ leBytes 4 tag ++ leBytes 4 j.progress ++ leBytes 2 j.status
    ++ leBytes 1 (j.state + 4 * j.cmode + 16 * b2n j.late) ++ leBytes 1 j.exc ++ leBytes 1 partner ++ leBytes 3 0
    ++ leBytes 4 idx ++ leBytes 4 q

/-- The source of R102 of a queue's consumer: its Tongs channel, or the scheduler. -/
def queueSource (x : Queue) : Nat := if x.ckind = 3 then x.ckey else schedSource

/-- Hearth of a queue's consumer (R488). -/
def consumerHearth (x : Queue) : Nat :=
  match x.ckind with
  | 2 => hxStack x.ckey
  | 3 => if x.ckey / 64 < 16 then hxAnvil (x.ckey / 64 / 4) else 1
  | 4 => x.ckey
  | _ => 1

/-- Hearth that commits a queue's commands: a Prefen queue's, the group's or the module's (R19, R32). -/
def commandHearth (s : State) (x : Queue) : Nat := if x.ckind = 1 then prefenHearth s else consumerHearth x

/-- What the journaling of a DONE command shows beside its entry: last_tag of its hearth (R19), and on a Tongs channel the count of
its engine and the command that it last committed (R256, R258). -/
def doneTag (x : Queue) (tag : Nat) (s : State) : State :=
  let s := tagHearth (commandHearth s x) tag s
  if x.ckind = 3 then
    let (e, c) := (x.ckey / 64, x.ckey % 64)
    bumpRf (tngReg e 0x08) 31 0 1 (setChan e c { chan s e c with last := some tag } s)
  else s

/-- The journal entry written; an entry NOT_STARTED or PARTIAL stops the queue unless it is ABORTED (R270, R271). While the PoC
holds the write, the command counts as not journaled (R109). -/
def journal (q idx tag : Nat) (j : JEntry) (s : State) : State :=
  let x := queue s q
  let a := x.jrnlBase + 32 * (idx % 2 ^ x.lg)
  let bs := cleanBytes (jrnlBytes s.time tag (partnerByte s) idx q j)
  let s := setQueue q { x with stopped := x.stopped || (j.state != 2 && j.status != stAborted) } s
  let s := if j.state = 2 then doneTag x tag s else s
  if x.jrnlSpace = 4 then
    let (s, landed) := postWrite (schedWho tag) (queueSource x) a bs (.journal q idx) s
    if landed then entryLanded q idx s else syncQueue q s
  else entryLanded q idx (memWrite (schedWho tag) x.jrnlSpace a bs s)

/-- Source code of a queue's consumer in fault records (R436). -/
def consumerSource (x : Queue) : Nat := match x.ckind with | 2 => 5 | 3 => 3 | 4 => 1 | _ => 0x12

/-- A command rejected as R35 states: NOT_STARTED with DESCRIPTOR, and a fault record. -/
def rejectCmd (q : Nat) (t : Taken) (s : State) : State :=
  let x := queue s q
  let s := faultRecord { code := stDescriptor, hearth := consumerHearth x, tag := t.tag, src := consumerSource x, qid := q } s
  journal q t.idx t.tag { state := 0, status := stDescriptor } s

/-- A command whose ring slots read as poison: nothing of it is known, so it does not start, and the queue stops with a fault
record (R440). [DEDUCED, log 35] -/
def poisonCmd (q : Nat) (t : Taken) (s : State) : State :=
  let x := queue s q
  let s := faultRecord { code := stPoison, hearth := consumerHearth x, tag := t.tag, src := 0xE, qid := q } s
  journal q t.idx t.tag { state := 0, status := stPoison } s

/-- The pending abort of a Tongs queue's channel (R256). -/
def pendingAbort (s : State) (x : Queue) : Option Nat :=
  if x.ckind = 3 then (chan s (x.ckey / 64) (x.ckey % 64)).abort else none

/-- A Tongs command whose abort was pending when the channel took it: NOT_STARTED with ABORTED (R256). -/
def abortTaken (q : Nat) (t : Taken) (s : State) : State :=
  let x := queue s q
  let (e, c) := (x.ckey / 64, x.ckey % 64)
  journal q t.idx t.tag { state := 0, status := stAborted, cmode := if t.hdr.cls = 2 then natBits (nth (bytesWords t.body) 16 0) 59 58 else 0 }
    (setChan e c { chan s e c with abort := none } s)

/-- Take the head command and act on it, after the rejections every class shares (R256, R261, R263). -/
def withHead (q : Nat) (act : Taken → State → State) (s : State) : State :=
  let (s, t) := takeCmd q s
  if t.poison then poisonCmd q t s
  else if pendingAbort s (queue s q) = some t.tag then abortTaken q t s
  else if t.hdr.bad || !classAccepted (queue s q).ckind t.hdr.cls then rejectCmd q t s
  else act t s

/-! ### Doorbells -/

/-- A doorbell of queue q with value v (R266). -/
def doorbell (q v : Nat) (s : State) : State :=
  let x := queue s q
  if x.ckind = 0 then satRf (qscReg 0x08) 15 0 1 s
  else if diff32 v x.prod = 0 then s
  else if 2 ^ 31 ≤ diff32 v x.prod then s
  else if 2 ^ x.lg < diff32 v x.done then
    faultRecord { code := 0x202, hearth := consumerHearth x, src := 0xE, d0 := x.prod * 2 ^ 32 + v, qid := q } s
  else
    let s := syncQueue q (setQueue q { x with prod := v } s)
    if x.ckind = 4 then countUp x.ckey 0 s else s

/-- DOORBELL (R265, R266). [DEDUCED, log 102] -/
def execDoorbell (q : BitVec 20) (v : BitVec 32) (s : State) : Host.Outcome State Fault Refusal := liveWrite s <|
  done (doorbell q.toNat v.toNat s)

/-- May a core advance the indices of a queue: a Smith core for Prefen queues, a Hammer core for its cluster's (R283)? -/
def qadvAllowed (s : State) (core q : Nat) : Bool :=
  let x := queue s q
  if isSmith core then x.ckind == 1 else x.ckind == 4 && x.ckey == 6 + core

/-- The commands whose headers lie from index i up to v, taken: each is stamped where the queue stamps (R263, R264). A core's program
has read them; what stands in the ring tells which they are. [DEDUCED, log 174] -/
def enterTaken (q v : Nat) : Nat → Nat → State → State
  | 0, _, s => s
  | k + 1, i, s =>
    if i = v then s
    else
      let x := queue s q
      let h := hdrOf (peekSlot s x i)
      let (s, tag) := if x.stamp then stampTag 0x78 s else (s, h.tag)
      let n := min h.slots (diff32 v i)
      enterTaken q v k ((i + n) % 2 ^ 32) (setQueue q { x with run := x.run ++ [⟨i, n, tag, h.cls, h.ord, false⟩] } s)

/-- The state and status of the journal entry that stands for command i of a queue, if index and qid match (R270). -/
def softEntry (s : State) (q i : Nat) : Option (Nat × Nat) :=
  let x := queue s q
  let a := x.jrnlBase + 32 * (i % 2 ^ x.lg)
  if peekNat s x.jrnlSpace (a + 24) 4 = i ∧ peekNat s x.jrnlSpace (a + 28) 4 = q then
    some (peekNat s x.jrnlSpace (a + 18) 1 % 4, peekNat s x.jrnlSpace (a + 16) 2)
  else none

/-- A command that its consumer's program has journaled, as its entry says: DONE shows in last_tag (R19), NOT_STARTED or PARTIAL stops
the queue unless it is ABORTED (R271). -/
def softDone (q : Nat) (c : QCmd) (s : State) : State :=
  match softEntry s q c.idx with
  | none => s
  | some (state, status) =>
    if state = 2 then doneTag (queue s q) c.tag s
    else if status = stAborted then s
    else setQueue q { queue s q with stopped := true } s

/-- QSC_QADV moves taken: the commands that it passes are taken (R274). -/
def advanceTaken (q v : Nat) (s : State) : State :=
  let x := queue s q
  let s := enterTaken q v (diff32 v x.taken) x.taken s
  syncQueue q (setQueue q { queue s q with taken := v } s)

/-- QSC_QADV moves done: the commands that it passes are journaled, and `done` goes on over those the scheduler has journaled behind
them (R270, R274). -/
def advanceDone (q v : Nat) (s : State) : State :=
  let x := queue s q
  let passed (c : QCmd) : Bool := decide (diff32 c.idx x.done < diff32 v x.done)
  let s := overList (softDone q) (x.run.filter (fun c => passed c && !c.jrnl)) s
  let x := queue s q
  let rest := x.run.filter (fun c => !passed c)
  let run := rest.dropWhile (·.jrnl)
  syncQueue q (setQueue q { x with run := run, done := if rest.isEmpty then v else doneAt x.taken run } s)

/-- Is an entry still owed to a command that was taken (R270): none is journaled, none is posted and waits at a PoC, and its
consumer's program has written none? -/
def entryOwed (s : State) (q : Nat) (c : QCmd) : Bool :=
  let posted (a : Access) : Bool := match a with | .post _ _ _ _ (.journal k i) => k == q && i == c.idx | _ => false
  !c.jrnl && !s.held.any (fun h => posted h.acc) && !((queue s q).ckind == 4 && (softEntry s q c.idx).isSome)

/-- A QSC_QADV write (R274, R283). -/
def qadv (core q which v : Nat) (s : State) : State :=
  let x := queue s q
  if !qadvAllowed s core q then s
  else if which = 0 then
    if diff32 v x.taken ≤ diff32 x.prod x.taken then advanceTaken q v s else s
  else if diff32 v x.done ≤ diff32 x.prod x.done then advanceDone q v s
  else s

/-- QADV_TAKEN and QADV_DONE (R274). -/
def execQadvTaken (core : Fin 68) (q : BitVec 20) (v : BitVec 32) (s : State) : Host.Outcome State Fault Refusal := live s <|
  done (qadv core.val q.toNat 0 v.toNat s)
def execQadvDone (core : Fin 68) (q : BitVec 20) (v : BitVec 32) (s : State) : Host.Outcome State Fault Refusal := live s <|
  done (qadv core.val q.toNat 1 v.toNat s)

/-- QUEUE_TABLE_WRITEBACK (R268). -/
def execQueueTableWriteback (q : BitVec 20) (s : State) : Host.Outcome State Fault Refusal := live s <|
  if (queue s q.toNat).ckind = 0 then noEvent s else done (writeBack q.toNat s)

/-! ### NOP, FLAG and WAIT -/

/-- Must the consumer reject the head command whatever it says: a bad header, or a class it does not accept (R261, R263)? -/
def headRejected (s : State) (q : Nat) : Bool :=
  let h := headHdr s q
  h.bad || !classAccepted (queue s q).ckind h.cls

/-- QUEUE_NOP (R261): the head is a NOP, which is taken and journaled, or a command no consumer of this kind accepts, which is
taken and rejected. -/
def execQueueNop (q : BitVec 20) (s : State) : Host.Outcome State Fault Refusal := live s <|
  if needSlots s q.toNat then done (askSlots q.toNat s)
  else if !canTake s q.toNat || ((headHdr s q.toNat).cls != 0 && !headRejected s q.toNat) then noEvent s
  else done (withHead q.toNat (fun t s => journal q.toNat t.idx t.tag { state := 2 } s) s)

/-- A flag address with a partner id names PM, one without names SM (R91, R275). [DEDUCED, log 38] -/
def flagIsPm (a : Nat) : Bool := natBits a 55 48 != 0

/-- A FLAG command that has been taken (R275). -/
def flagRun (q : Nat) (set : Bool) (t : Taken) (s : State) : State :=
  let a := nth t.hdr.words 1 0
  let v := nth t.hdr.words 2 0
  if 1 < t.hdr.subop || a % 8 != 0 || !addrOk s (if flagIsPm a then 6 else 4) a 8 then rejectCmd q t s
  else if flagIsPm a then
    let pid := a / 2 ^ 48
    if pmState s pid = 2 then journal q t.idx t.tag { state := 0, status := stPartnerGone } s
    else
      let l := link s pid
      let psn := (l.sendPsn + l.queued.length) % 2 ^ 32
      sendSeq pid { ty := 0xB, op := b2n set, addr := a % 2 ^ 44, len := 8, tag := t.tag, data := leBytes 8 v }
        { s with pmWait := s.pmWait ++ [⟨pid, psn, q, t.idx, t.tag⟩] }
  else
    let (s, ok) := flagAtPoc (schedWho t.tag) a v set s
    journal q t.idx t.tag (if ok then { state := 2, progress := 1 } else { state := 0, status := stPoison }) s

/-- The SM address that the head command will read or write now, when it is a local one that exists. -/
def headFlagAddr (s : State) (q : Nat) : Option Nat :=
  let a := nth (headHdr s q).words 1 0
  if a % 8 = 0 && addrOk s 4 a 8 then some a else none

/-- Has a Tongs channel issued every write of the command before (R245)? -/
def writesIssued (s : State) (x : Queue) : Bool :=
  x.ckind != 3 || (let y := chan s (x.ckey / 64) (x.ckey % 64); !y.busy || y.completing)

/-- A FLAG of the given subop at the head of a queue; a subop above 1 is taken with ADD and rejected (R263). -/
def flagHead (q subop : Nat) (s : State) : State :=
  let h := headHdr s q
  let src := queueSource (queue s q)
  if needSlots s q then askSlots q s
  else if !canTake s q || h.cls != 3 || h.bad || (h.subop == 1) != (subop == 1) || !writesIssued s (queue s q) then s
  else match headFlagAddr s q with
    | some a => if moverReady s src 4 a 8 true then withHead q (flagRun q (subop == 1)) s else moverAsk 4 a 8 true s
    | none => withHead q (flagRun q (subop == 1)) s

/-- FLAG_ADD, FLAG_SET (R275). -/
def execFlagAdd (q : BitVec 20) (s : State) : Host.Outcome State Fault Refusal := live s <| done (flagHead q.toNat 0 s)
def execFlagSet (q : BitVec 20) (s : State) : Host.Outcome State Fault Refusal := live s <| done (flagHead q.toNat 1 s)

/-- A WAIT ends: its watch goes and its entry is written. -/
def endWait (q : Nat) (j : JEntry) (s : State) : State :=
  let w := waitOf s q
  let tag := waitTag s q w
  journal q w.idx tag j (setWait q {} s)

/-- Watches registered at the PoC of a stack. -/
def watchesAt (s : State) (n : Nat) : Nat := (s.waits.filter (fun e => e.2.on && e.2.watch && smStack e.2.addr == n)).length

/-- A flag value read for a WAIT, and what follows from it (R276, R277). -/
def judgeWait (q : Nat) (s : State) : State :=
  let w := waitOf s q
  let tag := waitTag s q w
  let (s, (f, p)) := memReadNat (schedWho tag) 4 w.addr 8 (countNp (smStack w.addr) 1 s)
  if p then endWait q { state := 0, status := stPoison } s
  else if waitMet w f then endWait q { state := 2, progress := 1 } s
  else s

/-- A WAIT that has been taken: a watch where the table has room, and the first read (R276, R277). -/
def waitRun (q : Nat) (t : Taken) (s : State) : State :=
  let a := nth t.hdr.words 1 0
  let w3 := nth t.hdr.words 3 0
  if 1 < t.hdr.subop || a % 8 != 0 || !addrOk s 4 a 8 then rejectCmd q t s
  else
    let room := watchesAt s (smStack a) < 4096
    let w : Wait := { on := true, idx := t.idx, addr := a, value := nth t.hdr.words 2 0, eq := t.hdr.subop == 1,
                      tmo := natBits w3 31 0, tcont := natBit w3 32, start := s.time, watch := room }
    let s := if room then s else satRf (qscReg 0x08) 31 16 1 s
    syncQueue q (judgeWait q (syncQueue q (setWait q w s)))

/-- A WAIT of the given subop at the head of a queue; a subop above 1 is taken with WAIT_GE and rejected (R263). -/
def waitHead (q subop : Nat) (s : State) : State :=
  let h := headHdr s q
  if needSlots s q then askSlots q s
  else if !canTake s q || h.cls != 4 || h.bad || (h.subop == 1) != (subop == 1) then s
  else match headFlagAddr s q with
    | some a => if moverReady s (queueSource (queue s q)) 4 a 8 false then withHead q (waitRun q) s else moverAsk 4 a 8 false s
    | none => withHead q (waitRun q) s

/-- WAIT_GE, WAIT_EQ (R276, R277). -/
def execWaitGe (q : BitVec 20) (s : State) : Host.Outcome State Fault Refusal := live s <| done (waitHead q.toNat 0 s)
def execWaitEq (q : BitVec 20) (s : State) : Host.Outcome State Fault Refusal := live s <| done (waitHead q.toNat 1 s)

/-- WAIT_SATISFIED (R277): a watched write met the condition, or left poison, which latched its event as the write was made. -/
def execWaitSatisfied (q : BitVec 20) (s : State) : Host.Outcome State Fault Refusal := live s <|
  let w := waitOf s q.toNat
  if !w.on then noEvent s
  else if w.bad then done (endWait q.toNat { state := 0, status := stPoison } s)
  else if w.hit then done (endWait q.toNat { state := 2, progress := 1 } s)
  else noEvent s

/-- WAIT_POLL (R277): a WAIT without a watch reads its flag. -/
def execWaitPoll (q : BitVec 20) (s : State) : Host.Outcome State Fault Refusal := live s <|
  let w := waitOf s q.toNat
  if !w.on || w.watch then noEvent s
  else if moverReady s (queueSource (queue s q.toNat)) 4 w.addr 8 false then done (judgeWait q.toNat s)
  else done (moverAsk 4 w.addr 8 false s)

/-- WAIT_TIMEOUT_EXPIRY (R278): the timeout instant of the timebase comes before a satisfying write. [DEDUCED, log 37] -/
def execWaitTimeoutExpiry (q : BitVec 20) (s : State) : Host.Outcome State Fault Refusal := live s <|
  let w := waitOf s q.toNat
  if !w.on || w.tmo = 0 || w.hit || w.bad then noEvent s
  else
    let s := { s with time := max s.time (w.start + 1000 * w.tmo) }
    done (endWait q.toNat
      (if w.tcont then { state := 2, status := stWaitTimeout } else { state := 0, status := stWaitTimeout }) s)

end Sys2Proof.Machine
end

