-- ==== Sys2Proof/Machine/SwageCore.lean ====
section
/-! DEFINITION. The swage dispatcher's view of a command: its streams, the checks of R170 and R200, attention work tables (R198 to
R201), fault stops (R172) and the merge exchange (R204, R205). -/

namespace Sys2Proof.Machine

/-! ### Streams -/

/-- Command register k of a run. -/
def creg (r : StackRun) (k : Nat) : Nat := nth r.cmd k 0

/-- Is stream k used (R175: space 0x0 marks it unused)? -/
def strmUsed (cmd : List Nat) (k : Nat) : Bool := natBits (nth cmd (9 + 4 * k) 0) 63 60 != 0
/-- Is stream k a billet list? -/
def strmBlist (cmd : List Nat) (k : Nat) : Bool := strmUsed cmd k && natBit (nth cmd (9 + 4 * k) 0) 48

/-- The descriptor of a stream, none for a reserved code (R175). -/
def strmDesc (cmd : List Nat) (k : Nat) : Option Desc :=
  let f := nth cmd (9 + 4 * k) 0
  match fmtOf (natBits f 59 56), arrOf (natBits f 55 54) with
  | some e, some a =>
    if (a != .plain && !fmtBlockable e) || 2 ≤ natBits f 51 50 || (natBits f 63 60 != 3 && natBits f 63 60 != 4) then none
    else some
      { base := nth cmd (8 + 4 * k) 0, space := natBits f 63 60, fmt := e, arr := a, row4 := natBit f 53, ovf := natBit f 52,
        stoch := natBit f 50, rank := 2, tid := natBits f 31 0, size0 := natBits (nth cmd (10 + 4 * k) 0) 31 0,
        size1 := natBits (nth cmd (10 + 4 * k) 0) 63 32, stride1 := signedOf 64 (nth cmd (11 + 4 * k) 0),
        anchorOk := natBit f 49, anchor := signedOf 16 (natBits f 47 32) }
  | _, _ => none

/-! ### Micro-program store -/

/-- What a unit's copy of the store holds at an address, with its check bits; unit 512 stands for the image last broadcast (R178). -/
def mpCopy (s : State) (n u pc : Nat) : Word × Byte :=
  (if u < 512 then tabGet none s.mpOwn ((n * 512 + u) * 256 + pc) else none).getD
    (tabGet 0 s.mpStore (n * 256 + pc), tabGet 0 s.mpChk (n * 256 + pc))

/-- The word at an address of a unit's micro-program store, or none when it is uncorrectable (R178). -/
def mpWord (s : State) (n u pc : Nat) : Option Nat :=
  let c := mpCopy s n u pc
  match sramDecode c.2.toNat c.1.toNat with
  | (.uncorrectable, _) => none
  | (_, v) => some v

/-- Fields of a micro-instruction (R179). -/
def miOp (w : Nat) : Nat := natBits w 63 58
def miSa (w : Nat) : Nat := natBits w 57 55
def miRw (w : Nat) : Nat := natBits w 51 49
def miLc (w : Nat) : Nat := natBits w 48 47
def miAcc (w : Nat) : Nat := natBits w 41 31
def miCnt (w : Nat) : Nat := natBits w 30 16
def miImm (w : Nat) : Nat := natBits w 11 0
/-- The count of SETL and SKIP: P[p] bits [15:0] when cp is set, else cnt (R179). -/
def miCount (cmd : List Nat) (w : Nat) : Nat := if natBit w 46 then nth cmd (40 + natBits w 45 42) 0 % 2 ^ 16 else miCnt w

/-- The micro-instructions that a program can reach from the addresses `todo`, beyond the addresses `seen` (R180: END ends it, LOOP,
OWNL and LENL branch). [DEDUCED, log 165] -/
def reach (prog : Nat → Option Nat) : Nat → List Nat → List Nat → List Nat
  | 0, _, _ => []
  | _ + 1, [], _ => []
  | f + 1, pc :: t, seen =>
    if 255 < pc || seen.contains pc then reach prog f t seen
    else match prog pc with
      | none => reach prog f t (pc :: seen)
      | some w =>
        let next := if miOp w == 0x01 then [] else if [0x04, 0x05, 0x06].contains (miOp w) then [pc + 1, miImm w % 256] else [pc + 1]
        w :: reach prog f (next ++ t) (pc :: seen)

/-- The instructions a command may run (R178, R180). [DEDUCED, log 165] -/
def cmdCode (s : State) (n : Nat) (cmd : List Nat) : List Nat := reach (mpWord s n 512) 1024 [natBits (nth cmd 0 0) 63 56] []

/-- Does a command's micro-program name stream k in an instruction of an opcode? [DEDUCED, log 165] -/
def strmNamed (s : State) (n : Nat) (cmd : List Nat) (op k : Nat) : Bool :=
  (cmdCode s n cmd).any (fun w => miOp w == op && miSa w == k)

/-- Row count, entry, ev, ax_auto, rload, raw_out and outs of a command (R173, R174). -/
def cmdRows (cmd : List Nat) : Nat := natBits (nth cmd 0 0) 52 50 + 1
def cmdEntry (cmd : List Nat) : Nat := natBits (nth cmd 0 0) 63 56
def cmdEv (cmd : List Nat) : Bool := natBit (nth cmd 0 0) 53
def cmdAxAuto (cmd : List Nat) : Bool := natBit (nth cmd 0 0) 49
def cmdRload (cmd : List Nat) : Bool := natBit (nth cmd 0 0) 48
def cmdRaw (cmd : List Nat) : Bool := natBit (nth cmd 0 0) 47
def cmdOuts (cmd : List Nat) : Nat := natBits (nth cmd 6 0) 47 32

/-- Formats of R68 for the Swage unit. -/
def fmtWeight : Fmt → Bool
  | .e4m3 | .e5m2 | .e3m2 | .e2m3 | .e2m1 | .int8 | .int4 => true
  | _ => false
def fmtRowOperand : Fmt → Bool
  | .e4m3 | .e5m2 | .bf16 => true
  | _ => false
def fmtOutput : Fmt → Bool
  | .e4m3 | .e5m2 | .bf16 | .fp32 => true
  | _ => false

/-- A stream lies in this stack's SM or in CB of its site (R170). -/
def strmInCb (n : Nat) (d : Desc) : Bool :=
  let (lo, hi) := rowSpan d
  d.space == 3 && d.base / 2 ^ 32 == n && lo.toNat / 2 ^ 32 == n && hi.toNat / 2 ^ 32 == n
def strmHere (n : Nat) (d : Desc) : Bool :=
  let (lo, hi) := rowSpan d
  (d.space == 4 && d.base / 2 ^ 36 == n && lo.toNat / 2 ^ 36 == n && hi.toNat / 2 ^ 36 == n) || strmInCb n d

/-- The rules of a billet-list stream that need no other stream: a work table in CB of the site, keys or values of a head dimension D
(R170, R192, R200). -/
def blistOk (n : Nat) (d : Desc) : Bool :=
  d.space == 3 && d.base / 2 ^ 32 == n && (d.fmt == .e4m3 || d.fmt == .e5m2) && d.arr == .plain && d.size1 == 512
    && d.size0 % 16 == 0 && decide (32 ≤ d.size0) && decide (d.size0 ≤ 240)
    && (d.stride1 == 64 || d.stride1 == 64 + 512 * (d.size0 : Int))

/-- Does a stream have a format that the unit reads or writes in the use its micro-program makes of it, and rows apart where it
writes them (R61, R68)? [DEDUCED, log 165] -/
def strmUseOk (s : State) (n : Nat) (cmd : List Nat) (k : Nat) (d : Desc) : Bool :=
  (!strmNamed s n cmd 0x09 k || fmtWeight d.fmt) && (!strmNamed s n cmd 0x10 k || fmtWeight d.fmt || fmtRowOperand d.fmt)
    && (!strmNamed s n cmd 0x0B k || (fmtOutput d.fmt && dstOk s d)) && (k != 1 || fmtRowOperand d.fmt)

/-- Checks of one used stream (R170, first row; R61, R68). -/
def strmOk (s : State) (n : Nat) (cmd : List Nat) (k : Nat) : Bool :=
  match strmDesc cmd k with
  | some d => if strmBlist cmd k then blistOk n d else strmHere n d && srcOk s d && strmUseOk s n cmd k d
  | none => false

/-- Does a command walk billet lists (S3 with blist = 1, R200)? -/
def cmdBlist (cmd : List Nat) : Bool := strmBlist cmd 3
/-- Of those, an attention command names S2 or S5; a cache-write command names neither. [DEDUCED, log 30] -/
def cmdAttention (cmd : List Nat) : Bool := cmdBlist cmd && (strmUsed cmd 2 || strmUsed cmd 5)

/-- S1 under rload (R170). -/
def s1Ok (n : Nat) (cmd : List Nat) : Bool :=
  !cmdRload cmd ||
    (match strmDesc cmd 1 with
     | some d => strmUsed cmd 1 && strmInCb n d && fmtRowOperand d.fmt && (d.size1 == cmdRows cmd)
         && decide (cmdRows cmd * rowBytes d ≤ 131072) && decide (d.size0 ≤ 2 ^ 24)
     | none => false)

/-- S2 of a matrix-vector command (R170). -/
def s2Ok (s : State) (cmd : List Nat) : Bool :=
  !strmUsed cmd 2 ||
    (match strmDesc cmd 2 with
     | some d =>
       if cmdRaw cmd then dstOkLen s { d with fmt := .e4m3, arr := .plain, size0 := max 1 (32 * cmdOuts cmd) } (32 * cmdOuts cmd)
           && decide (cmdRows cmd ≤ d.size1)
       else dstOk s d && fmtOutput d.fmt && decide (cmdOuts cmd ≤ d.size0) && decide (cmdRows cmd ≤ d.size1)
     | none => false)

/-- S0 of a matrix-vector command (R170). -/
def s0Ok (cmd : List Nat) : Bool :=
  if strmUsed cmd 0 then
    (match strmDesc cmd 0 with | some d => fmtWeight d.fmt && d.anchorOk && d.size0 ≤ 2 ^ 24 | none => false)
  else !strmUsed cmd 2

/-- The head dimension D and the streams S3, S4 of a billet-list command (R192, R200). -/
def kvOk (cmd : List Nat) : Bool :=
  match strmDesc cmd 3, strmDesc cmd 4 with
  | some k, some v =>
    strmBlist cmd 4 && k.base == v.base && k.fmt == v.fmt && k.size0 == v.size0
      && k.stride1 == 64 && v.stride1 == 64 + 512 * (k.size0 : Int)
  | _, _ => false

/-- Items of the work table at a CB address, as its header gives them (R199). -/
def tableCount (s : State) (wt : Nat) : Nat := lookNat s 3 wt 2

/-- The sizes that R200 and R211 tie to the number of items; a header that reads as poison is left to step 5 (R201). -/
def itemsOk (s : State) (cmd : List Nat) (q k : Desc) : Bool :=
  let m := tableCount s k.base
  lookBad s 3 k.base 2 ||
    (decide (1 ≤ m) && decide (m ≤ 1024) && q.size0 == m * k.size0 &&
      (!cmdAttention cmd || (match strmDesc cmd 2 with | some o => decide (m * cmdRows cmd ≤ o.size1) | none => false)))

/-- Requirements of R200 on an attention or cache-write command. -/
def billetCmdOk (s : State) (n : Nat) (cmd : List Nat) : Bool :=
  kvOk cmd && !strmUsed cmd 0 &&
    (match strmDesc cmd 1, strmDesc cmd 3 with
     | some q, some k =>
       strmUsed cmd 1 && cmdRload cmd && strmInCb n q && q.arr == .plain && fmtRowOperand q.fmt
         && decide (q.size1 * rowBytes q ≤ 131072) && itemsOk s cmd q k &&
         (if cmdAttention cmd then
            q.size1 == cmdRows cmd && strmUsed cmd 2 && strmUsed cmd 5 && cmdRaw cmd
              && natBit (nth cmd 55 0) n &&
              (match strmDesc cmd 2, strmDesc cmd 5 with
               | some o, some p =>
                 strmInCb n o && strmInCb n p && decide ((32 * (k.size0 + 1) : Nat) ≤ o.stride1)
                   && dstOkLen s { o with fmt := .e4m3, arr := .plain, size0 := 32 * (k.size0 + 1) } (32 * (k.size0 + 1))
                   && p.fmt == .fp32 && p.arr == .plain && p.size0 == 8 * ((4 + k.size0 + 7) / 8)
                   && p.stride1 == 4 * (p.size0 : Int) && dstOk s p
               | _, _ => false)
          else q.size1 == 2 && cmdRows cmd == 2)
     | _, _ => false)

/-- R170 and R200: does the dispatcher accept the command at step 1? -/
def swageAccepts (s : State) (n : Nat) (cmd : List Nat) : Bool :=
  ((List.range 8).all (fun k => !strmUsed cmd k || strmOk s n cmd k)) && decide (cmdOuts cmd * cmdRows cmd ≤ 32768) &&
    (if cmdBlist cmd then billetCmdOk s n cmd else s0Ok cmd && s1Ok n cmd && s2Ok s cmd)

/-! ### Attention tables -/

/-- Items, mode and layer of the work table at a CB address, as they stand (R199), with the entries of the length table (R198). -/
def tableItems (s : State) (cmd : List Nat) : List Item :=
  let wt := nth cmd 20 0
  let lt := nth cmd 5 0
  (List.range (tableCount s wt)).map (fun j =>
    let a := wt + 32 + 16 * j
    let e := lookNat s 3 a 2
    let l := lt + 32 + 16 * e
    { entry := e, set := natBits (lookNat s 3 (a + 2) 1) 2 0, head := lookNat s 3 (a + 3) 1, list := lookNat s 3 (a + 8) 8,
      len := lookNat s 3 l 4, lo := lookNat s 3 (l + 4) 4, session := lookNat s 3 (l + 8) 4,
      valid := lookNat s 3 (l + 12) 1 % 2 == 1 })

/-- Pieces of a billet (R193). -/
def billetPieces (d : Nat) : Nat := (64 + 1024 * d + 2047) / 2048

/-- SM address of a linear byte of a billet (R193). -/
def billetByte (base l : Nat) : Nat := base + l / 2048 * 0x100000 + l % 2048

/-- Does a billet base lie inside a stack and meet R193? -/
def billetBaseOk (n d base : Nat) : Bool :=
  base != 0 && smStack base == n && base % 2 ^ 11 == 0 && natBits base 35 20 + billetPieces d - 1 ≤ 0xBFFF

/-- Billet indices of an item that are queued: those with an attended position, or in cache-write mode the one of len - 1. -/
def itemBillets (attention : Bool) (it : Item) : List Nat :=
  if !it.valid then []
  else if attention then
    if it.len ≤ it.lo then [] else upFrom (it.lo / 512) ((it.len - 1) / 512 - it.lo / 512 + 1)
  else if it.len = 0 then [] else [(it.len - 1) / 512]

/-- Base that a stack-local billet list gives billet b, when b falls on this stack's list (R197): none when b is not of it. -/
def listBase (s : State) (list b : Nat) : Option Nat :=
  let first := lookNat s 4 (list + 8) 2
  let used := lookNat s 4 (list + 10) 2
  if b < first ∨ (b - first) % 20 ≠ 0 then none
  else
    let e := (b - first) / 20
    if used ≤ e ∨ 247 < e then some 0 else some (lookNat s 4 (list + 64 + 8 * e) 8)

/-- Unit of a stack that holds an SM address (R120). -/
def unitOf (a : Nat) : Nat := 16 * smChannel a + smLayer a

/-- Billets of item j, in index order, that this stack's list holds. -/
def queueItem (s : State) (attention : Bool) (j : Nat) (it : Item) : List QBillet :=
  (itemBillets attention it).filterMap (fun b =>
    (listBase s it.list b).map (fun base => { slot := 0, unit := unitOf base, item := j, index := b, base := base }))

/-- The queued billets of a command, by item and then index, with their slots (R201). -/
def queueAll (s : State) (attention : Bool) (items : List Item) : List QBillet :=
  let l := ((List.range items.length).zip items).flatMap (fun x => queueItem s attention x.1 x.2)
  l.zipWith (fun b k => { b with slot := k }) (List.range l.length)

/-! ### Ranges -/

/-- SM range of a stream of rank 2 with rows of `len` bytes (R110). -/
def strmRange (d : Desc) (len : Nat) (write : Bool) : Range :=
  let (lo, hi) := rowSpan d
  { start := lo.toNat, len := hi.toNat - lo.toNat + len, write := write }

/-- SM ranges of the billets queued for a command. -/
def billetRanges (l : List QBillet) (d : Nat) (write : Bool) : List Range :=
  l.flatMap (fun b => (List.range (billetPieces d)).map (fun j => ⟨b.base + j * 0x100000, 2048, write⟩))

/-- Every SM range of a command's streams (R110). -/
def cmdRanges (s : State) (n : Nat) (cmd : List Nat) : List Range :=
  ((List.range 8).filterMap (fun k =>
    if !strmUsed cmd k || strmBlist cmd k then none
    else match strmDesc cmd k with
      | some d =>
        let len := if k = 2 ∧ cmdRaw cmd then 32 * cmdOuts cmd else rowBytes d
        if d.space = 4 then some (strmRange d len (k == 2 || strmNamed s n cmd 0x0B k)) else none
      | none => none))
  ++ (if cmdBlist cmd then
        match strmDesc cmd 3 with
        | some d => billetRanges (queueAll s (cmdAttention cmd) (tableItems s cmd)) d.size0 (!cmdAttention cmd)
        | none => []
      else [])

/-- Lines of a command's ranges that are still to be recalled. -/
def runRecalls (s : State) (r : StackRun) : List Nat := r.ranges.flatMap (fun x => recallLines s x.start x.len true)

/-- Recalls sent for a command's ranges, up to the limit of R111. -/
def runRecall (r : StackRun) (s : State) : State := overList (fun l s => sendSnoop l false s) (runRecalls s r) s

/-! ### The end of a command -/

/-- The swage dispatcher and its units as agent. -/
def swgWho (r : StackRun) : Who := ⟨5, r.tag, true⟩

/-- Units of a stack forget the command. -/
def dropUnits (n : Nat) (s : State) : State := { s with units := s.units.filter (fun e => e.1 / 512 != n) }

/-- Every stack in a merge mask. -/
def maskSites (cmd : List Nat) : List Nat := (List.range 20).filter (fun k => natBit (nth cmd 55 0) k)
def maskKey (cmd : List Nat) : Nat := natBits (nth cmd 55 0) 63 32

def exchOf (s : State) (n : Nat) : List PeerMax := tabGet [] s.exch n
def setExch (n : Nat) (l : List PeerMax) (s : State) : State := { s with exch := tabSet [] s.exch n l }

/-- Values held under a key dropped. -/
def dropKey (n key : Nat) (s : State) : State := setExch n ((exchOf s n).filter (fun p => p.xkey != key)) s

/-- The site is free again, and its units release their column paths (R125); registers 0 to 55 keep what was broadcast (R173). -/
def endRun (n : Nat) (s : State) : State :=
  let r := stackRun s n
  let s := if r.kind = 1 then dropKey n (maskKey r.cmd) s else s
  let s := latchFound { swgWho r with compute := true } { s with found := r.found }
  releasePaths n (updHearth (hxStack n) (fun h => { h with running := false }) (setRun n { tag := r.tag, cmd := r.cmd, area := r.area } s))

/-- An abort under a command's xkey reaches every other site of its mask (R205). -/
def sendAborts (n : Nat) (cmd : List Nat) (s : State) : State :=
  if !cmdAttention cmd then s
  else overList (fun k s =>
    if k = n then s else setExch k (exchOf s k ++ [{ site := n, xkey := maskKey cmd, items := 0, rows := 0, d := 0, vals := [], abort := true }]) s)
    (maskSites cmd) s

/-- A command that stops on a fault or a reset (R172, R187): partials discarded, SM writes stand, and the journal entry says
whether any unit wrote SM. -/
def stopRun (n status : Nat) (s : State) : State :=
  let r := stackRun s n
  let s := sendAborts n r.cmd s
  let s := journal r.qid r.idx r.tag { state := if r.wroteSm then 1 else 0, status := status, exc := r.exc } s
  endRun n s

/-- A fault stop of a command (R172): the stack and the faulting unit are FAULTED and one record names the tag, the first faulting unit and its
micro-program address. `unit` is a hearth index. [DEDUCED, log 157] -/
def swageFault (n code unit pc : Nat) (s : State) : State :=
  let r := stackRun s n
  let st := if r.wroteSm then 1 else 0
  let s := faultRecord { code := code, hearth := unit, tag := r.tag, state := st, src := 5, d2 := pc, qid := r.qid } s
  updHearth unit (fun h => { h with faulted := true }) (updHearth (hxStack n) (fun h => { h with faulted := true }) (stopRun n code s))

/-! ### Taking and starting a command -/

/-- SWAGE_COMMAND_TAKE (R169 steps 1 and 2, R260): the head of the queue whose turn it is. -/
def execSwageCommandTake (n : Fin 20) (s : State) : Host.Outcome State Fault Refusal := live s <|
  match stackTurn s n.val with
  | none =>
    done (overList askSlots ((s.queues.filter (fun e => e.2.ckind == 2 && e.2.ckey == n.val && needSlots s e.1)).map (·.1)) s)
  | some q =>
    if (headHdr s q).cls != 1 && !headRejected s q then noEvent s
    else done (withHead q (fun t s =>
      let cmd := ((bytesWords t.body).take 56).set 1 t.tag
      if !swageAccepts s n.val cmd then rejectCmd q t s
      else
        let r : StackRun := { phase := 1, qid := q, idx := t.idx, tag := t.tag, cmd := cmd,
                              kind := if !cmdBlist cmd then 0 else if cmdAttention cmd then 1 else 2,
                              ranges := cmdRanges s n.val cmd, area := (stackRun s n.val).area }
        runRecall r (updHearth (hxStack n.val) (fun h => { h with running := true }) (setRun n.val r (dropUnits n.val s)))) s)

/-- Row anchors written by software in SWG_XANCH0 and SWG_XANCH1; 0x8000 marks a row with none (R173, R174). -/
def softAnchors (cmd : List Nat) : List (Option Int) :=
  (List.range 8).map (fun r =>
    let v := natBits (nth cmd (3 + r / 4) 0) (16 * (r % 4) + 15) (16 * (r % 4))
    if v = 0x8000 then none else some (signedOf 16 v))

/-- An anchor as SWG_XANCH holds it. -/
def anchorCode (a : Option Int) : Nat := match a with | none => 0x8000 | some z => wrapInt 16 z

/-- SWG_XANCH registers overwritten with computed anchors (R174). -/
def putAnchors (cmd : List Nat) (l : List (Option Int)) : List Nat :=
  (cmd.set 3 (packCodes 16 ((l.take 4).map anchorCode))).set 4 (packCodes 16 ((l.drop 4).map anchorCode))

/-- Registers 0 to 55 as the broadcast of a command leaves them: reserved bits read as 0 (R11, R173, R174, R200). -/
def areaOf (cmd : List Nat) : List Nat :=
  let clip (k hi lo : Nat) (l : List Nat) : List Nat := setNth l k (natBits (nth l k 0) hi lo * 2 ^ lo)
  let l := clip 6 47 32 (clip 1 31 0 (clip 0 63 47 (setNth cmd 7 0)))
  if cmdAttention cmd then setNth l 55 (natBits (nth l 55 0) 63 32 * 2 ^ 32 + natBits (nth l 55 0) 19 0) else l

/-- The broadcast of a command's registers to every unit (R169 step 4). -/
def broadcast (n : Nat) (s : State) : State := let r := stackRun s n; setRun n { r with area := areaOf r.cmd } s

/-- S1's rows delivered into RB (R169 step 5). -/
def deliverS1 (n : Nat) (s : State) : State :=
  let r := stackRun s n
  if !cmdRload r.cmd then s
  else match strmDesc r.cmd 1 with
    | none => s
    | some d =>
      let rows := if r.kind = 2 then 2 else cmdRows r.cmd
      let (s, ls) := collect (fun k s => readRow (swgWho r) false d (rowAt d k 0 0) s) (List.range rows) { s with found := r.found }
      let rb := ls.flatten
      setRun n { stackRun s n with rb := rb, found := s.found } { s with found := [] }

/-- The bytes of RB row r as delivered. -/
def rbRow (r : StackRun) (d : Desc) (k : Nat) : List PByte := (r.rb.drop (k * rowBytes d)).take (rowBytes d)

/-- The anchors a command accumulates with: computed from S1 under ax_auto, else those of software; for attention, A_q of each
(item, row) (R174, R201). -/
def setAnchors (n : Nat) (s : State) : State :=
  let r := stackRun s n
  match strmDesc r.cmd 1 with
  | none => setRun n { r with anchors := softAnchors r.cmd } s
  | some d =>
    if r.kind = 1 then
      let k := match strmDesc r.cmd 3 with | some k => k.size0 | none => 1
      let q := (List.range r.items.length).flatMap (fun j =>
        (List.range 8).map (fun row =>
          if row < cmdRows r.cmd then rowBound d (((rowElems d (rbRow r d row)).drop (j * k)).take k) else none))
      setRun n { r with qanch := q, anchorPoison := r.rb.any (·.2) } s
    else if cmdAxAuto r.cmd && cmdRload r.cmd then
      let l := (List.range 8).map (fun row => if row < cmdRows r.cmd then rowBound d (rowElems d (rbRow r d row)) else none)
      setRun n { r with anchors := l, cmd := putAnchors r.cmd l, anchorPoison := r.rb.any (·.2) } s
    else setRun n { r with anchors := softAnchors r.cmd } s

/-- Which tables of a billet-list command read as poison: their bytes are read, with counting and one latched event (R201). -/
def readTables (n : Nat) (s : State) : State × Bool :=
  let r := stackRun s n
  let wt := creg r 20
  let items := tableItems s r.cmd
  let s := { s with found := r.found }
  let (s, a) := memRead (swgWho r) false 3 wt (32 + 16 * items.length) s
  let (s, b) := memRead (swgWho r) false 3 (creg r 5) 32 s
  let (s, c) := collect (fun it s => memRead (swgWho r) false 3 (creg r 5 + 32 + 16 * it.entry) 16 s) items s
  let (s, d) := collect (fun it s =>
    if rangeOk 4 it.list 2048 then memRead (swgWho r) false 4 it.list 2048 s else (s, [])) items s
  let bad := (a ++ b ++ c.flatten ++ d.flatten).any (·.2)
  (setRun n { stackRun s n with found := s.found } { s with found := [] }, bad)

/-- The list header of an item names its session, layer, head and this stack (R197, R201). -/
def listOk (s : State) (n layer : Nat) (it : Item) : Bool :=
  smStack it.list == n && rangeOk 4 it.list 2048 && lookNat s 4 it.list 4 == it.session && lookNat s 4 (it.list + 4) 2 == layer
    && lookNat s 4 (it.list + 6) 1 == it.head && lookNat s 4 (it.list + 7) 1 == n

/-- The checks of R201, once the tables are read. [DEDUCED, log 156] -/
def tablesOk (s : State) (n : Nat) (r : StackRun) (items : List Item) (l : List QBillet) : Bool :=
  let wt := creg r 20
  let att := r.kind == 1
  match strmDesc r.cmd 3 with
  | some k =>
    decide (1 ≤ items.length) && decide (items.length ≤ 1024) && decide (lookNat s 3 (creg r 5 + 8) 4 ≤ 4096) && rangeOk 3 wt (32 + 16 * items.length)
      && lookNat s 3 (wt + 2) 1 == (if att then 0 else 1)
      && items.all (fun it => it.entry < lookNat s 3 (creg r 5 + 8) 4 && rangeOk 3 (creg r 5 + 32 + 16 * it.entry) 16
          && listOk s n (lookNat s 3 (wt + 4) 2) it)
      && l.all (fun b => billetBaseOk n k.size0 b.base)
      && l.all (fun b => decide ((l.filter (fun c => c.unit == b.unit)).length ≤ 256))
      && items.all (fun it => decide (it.len ≤ 2097152))
      && (!att || (match strmDesc r.cmd 5 with | some p => decide (l.length * cmdRows r.cmd ≤ p.size1) | none => false))
  | none => false

/-- A command rejected at step 5, with nothing started (R201): DESCRIPTOR, or POISON_CONSUMED where a table read as poison. -/
def rejectRun (n : Nat) (poison : Bool) (s : State) : State :=
  let r := stackRun s n
  let s := sendAborts n r.cmd s
  let s := if poison then s
    else faultRecord { code := stDescriptor, hearth := hxStack n, tag := r.tag, src := 5, qid := r.qid } s
  endRun n (journal r.qid r.idx r.tag { state := 0, status := if poison then stPoison else stDescriptor } s)

/-- SWAGE_PROLOGUE (R169 steps 3 to 6, R201): once the recalls are done and nothing holds the dispatcher. -/
def execSwagePrologue (n : Fin 20) (s : State) : Host.Outcome State Fault Refusal := live s <|
  let r := stackRun s n.val
  if r.phase != 1 || stackHeld s n.val then noEvent s
  else if !(runRecalls s r).isEmpty then done (runRecall r s)
  else
    let start (s : State) : State :=
      let s := broadcast n.val (setAnchors n.val (deliverS1 n.val s))
      setRun n.val { stackRun s n.val with phase := 3, start := s.time } s
    let s := broadcast n.val s
    if r.kind = 0 then done (start s)
    else
      let items := tableItems s r.cmd
      let (s, poison) := readTables n.val s
      if poison then done (rejectRun n.val true s)
      else
        let l := queueAll s (r.kind == 1) items
        if !tablesOk s n.val r items l then done (rejectRun n.val false s)
        else done (start (setRun n.val { stackRun s n.val with items := items, billets := l,
                                                               layer := lookNat s 3 (creg r 20 + 4) 2 } s))

end Sys2Proof.Machine
end

