-- ==== Sys2Proof/Machine/Swage.lean ====
section
/-! DEFINITION. The micro-instructions of the Swage units (spec/07_swage_units.md, R166 to R185, R491, and
spec/08_attention_in_the_stacks.md, R190, R202, R203). A command names the stack and the unit that reaches the instruction; it
happens when the instruction at the unit's pc is the one the row names. -/

namespace Sys2Proof.Machine

/-! ### A unit and its instruction -/

/-- The unit's working state; until its first instruction it is as R181 sets it up. -/
def unitAt (s : State) (n u : Nat) : SwgUnit :=
  let x := tabGet ({} : SwgUnit) s.units (n * 512 + u)
  if x.live then x else { x with live := true, pc := cmdEntry (stackRun s n).cmd }
def setUnit (n u : Nat) (x : SwgUnit) (s : State) : State := { s with units := tabSet {} s.units (n * 512 + u) x }

/-- What one micro-instruction comes to: the unit goes on, or a fault of the given code stops the command. -/
inductive UnitRes where
  | go (s : State) (x : SwgUnit)
  | stop (code : Nat) (s : State)

/-- Micro-program fault and anchor fault (R435). -/
def fcMicro : Nat := 0x240

/-- Is an opcode defined (R180)? -/
def miDefined (op : Nat) : Bool := op ≤ 0x0B || (0x10 ≤ op && op ≤ 0x15)

/-- A unit's trace record in the ring of its Anvil: 1 its start, 2 its end, 3 and 4 a pause for a burst, 5 a fault (R239). -/
def traceUnit (n u kind exc prog : Nat) (s : State) : State :=
  let r := stackRun s n
  traceRing (n / 5) ⟨5, r.tag, false⟩ { tag := r.tag, hx := hxUnit n u, kind := kind, code := 1, exc := exc, prog := prog, step := creg r 2 } s

/-- The records of a unit that begins, or that goes on after a pause. -/
def traceGoing (n u : Nat) (s : State) : State :=
  let s := if (tabGet ({} : SwgUnit) s.units (n * 512 + u)).live then s else traceUnit n u 1 0 0 s
  if tabGet 0 s.yielded (n * 512 + u) == 2 then traceUnit n u 4 0 0 s else s

/-- A command stopped by a unit's fault, with the events its reads met (R172). -/
def unitFault (n u pc code : Nat) (s : State) : State :=
  let s := traceUnit n u 5 0 (tabGet ({} : SwgUnit) s.units (n * 512 + u)).prog s
  swageFault n code (hxUnit n u) pc (setRun n { stackRun s n with found := s.found } { s with found := [] })

/-- Exception bits of a unit's conversions, kept in the unit and in the command's summary (R48, R172). -/
def noteExc (n e : Nat) (x : SwgUnit) (s : State) : State × SwgUnit :=
  if e = 0 then (s, x)
  else let r := stackRun s n
       (setRun n { r with exc := r.exc ||| e } s, { x with exc := x.exc ||| e })

/-- SCLK cycles of one instruction added to SWG_BUSY (R173, R186): how many is a free value. [DESIGN CHOICE, log 32] -/
def countBusy (n u : Nat) (s : State) : State :=
  let (s, k) := takeFree s
  let c := unitCount s n u
  setUnitCount n u { c with busy := (c.busy + Config.unitCycles k) % 2 ^ 64 } s

/-- One instruction of a unit: fetched, run when it is the one the row names, and counted. An undefined opcode, a pc past 255 and
an uncorrectable store word stop the command whatever row was sent (R172, R178, R181). -/
def unitStep (n u op : Nat) (act : Nat → SwgUnit → State → UnitRes) (s : State) : Host.Outcome State Fault Refusal :=
  let r := stackRun s n
  let x := unitAt s n u
  if r.phase != 3 || x.isDone || (hearth s (hxStack n)).halted || stackDead s n then noEvent s
  else if 255 < x.pc then done (unitFault n u x.pc fcMicro { s with found := r.found })
  else match mpWord s n u x.pc with
    | none => done (unitFault n u x.pc 0x242 { s with found := r.found })
    | some w =>
      if !miDefined (miOp w) then done (unitFault n u x.pc fcMicro { s with found := r.found })
      else if miOp w != op then noEvent s
      else match act w { x with pc := x.pc + 1 }
          { traceGoing n u s with found := r.found, yielded := tabSet 0 s.yielded (n * 512 + u) 0 } with
        | .stop code s => done (unitFault n u x.pc code s)
        | .go s x =>
          let s := countBusy n u (setUnit n u x (setRun n { stackRun s n with found := s.found } { s with found := [] }))
          done (if x.isDone then yieldPaths n (traceUnit n u 2 x.exc x.prog s) else if tabGet 0 s.yielded (n * 512 + u) == 2 then traceUnit n u 3 0 x.prog s else s)

/-! ### Control -/

/-- SWAGE_NOP (R180). -/
def execSwageNop (n : Fin 20) (u : Fin 512) (s : State) : Host.Outcome State Fault Refusal := live s <|
  unitStep n.val u.val 0x00 (fun _ x s => .go s x) s

/-- END: the unit commits its share (R19), its column path is released, and what waited for it at the PoC is served (R125, R180). -/
def execEnd (n : Fin 20) (u : Fin 512) (s : State) : Host.Outcome State Fault Refusal := live s <|
  unitStep n.val u.val 0x01 (fun _ x s => .go (tagHearth (hxUnit n.val u.val) (stackRun s n.val).tag s) { x with isDone := true }) s

/-- YLD (R180, R185). -/
def execYld (n : Fin 20) (u : Fin 512) (s : State) : Host.Outcome State Fault Refusal := live s <|
  unitStep n.val u.val 0x02 (fun _ x s => .go (offerYield n.val u.val s) x) s

/-- Loop counter k written: 16 bits. -/
def setLoop (k v : Nat) (x : SwgUnit) : SwgUnit := { x with loops := setNth x.loops k (v % 2 ^ 16) }

/-- SETL (R180). -/
def execSetl (n : Fin 20) (u : Fin 512) (s : State) : Host.Outcome State Fault Refusal := live s <|
  unitStep n.val u.val 0x03
    (fun w x s => .go s (setLoop (miLc w) (miCount (stackRun s n.val).cmd w) x)) s

/-- The target of a branch: imm[7:0]. -/
def branchTo (w : Nat) (x : SwgUnit) : SwgUnit := { x with pc := miImm w % 256 }

/-- LOOP (R180). -/
def execLoop (n : Fin 20) (u : Fin 512) (s : State) : Host.Outcome State Fault Refusal := live s <|
  unitStep n.val u.val 0x04
    (fun w x s =>
      let l := nth x.loops (miLc w) 0
      if l = 0 then .go s x
      else
        let x := setLoop (miLc w) (l - 1) x
        .go s (if l - 1 = 0 then x else branchTo w x)) s

/-! ### Streams with rows -/

/-- Does unit u of stack n compute element i0 of the row at an address: the element's last bit lies in its slice (R120, R167)? -/
def computes (n u : Nat) (d : Desc) (addr i0 : Nat) : Bool :=
  let b := addr + (elemBit d i0 + fmtBits d.fmt - 1) / 8
  d.space == 4 && smStack b == n && unitOf b == u

/-- The elements of a row that a unit computes, and the rows in which it computes any. -/
def ownedElems (n u : Nat) (d : Desc) (row : Nat) : List Nat :=
  (List.range d.size0).filter (computes n u d (rowAt d row 0 0))
def ownedRows (n u : Nat) (d : Desc) : List Nat :=
  if d.space != 4 then [] else (List.range d.size1).filter (fun i => (List.range d.size0).any (computes n u d (rowAt d i 0 0)))

/-- Cursor of a stream; it stays once it has passed the last owned row (R180). [DEDUCED, log 31] -/
def cursorOf (x : SwgUnit) (k : Nat) : Nat := nth x.cursor k 0
def moveCursor (k v last : Nat) (x : SwgUnit) : SwgUnit := { x with cursor := setNth x.cursor k (min v last) }

/-- The current row of a stream with blist = 0, none past its end. -/
def currentRow (n u : Nat) (d : Desc) (x : SwgUnit) (k : Nat) : Option Nat := (ownedRows n u d)[cursorOf x k]?

/-- OWNL (R180). -/
def execOwnl (n : Fin 20) (u : Fin 512) (s : State) : Host.Outcome State Fault Refusal := live s <|
  unitStep n.val u.val 0x05
    (fun w x s =>
      let cmd := (stackRun s n.val).cmd
      match strmUsed cmd (miSa w), strmBlist cmd (miSa w), strmDesc cmd (miSa w) with
      | true, false, some d =>
        let k := (ownedRows n.val u.val d).length
        if 65535 < k then .stop fcMicro s
        else
          let x := { setLoop (miLc w) k x with cursor := setNth x.cursor (miSa w) 0 }
          .go s (if k = 0 then branchTo w x else x)
      | _, _, _ => .stop fcMicro s) s

/-! ### The row buffer -/

/-- Size of RB. -/
def rbSize : Nat := 131072

/-- A byte of RB's word k as the (72,64) code gives it: put right, or poison where the word is uncorrectable (R165, R166). -/
def rbWord (x : SwgUnit) (k : Nat) (l : List PByte) : List PByte :=
  let syn := tabGet 0 x.rbSyn k
  if syn = 0 then l
  else
    let w := leNat (l.map (·.1))
    let (c, v) := sramDecode (sramEncode w ^^^ syn.toNat) w
    ((leBytes 8 v).zip (l ++ List.replicate (8 - l.length) (0, false))).map (fun b => (b.1, b.2.2 || c == .uncorrectable))

/-- RB from a byte on as unit x reads it; bytes that nothing was delivered to are 0 (R181). -/
def rbFrom (r : StackRun) (x : SwgUnit) (off : Nat) : List PByte :=
  if x.rbSyn.isEmpty then r.rb.drop off
  else
    let l := r.rb ++ List.replicate ((8 - r.rb.length % 8) % 8) (0, false)
    ((((List.range (l.length / 8)).zip (chunksOf 8 (l.length / 8) l)).flatMap (fun e => rbWord x e.1 e.2))).drop off

/-- Descriptor of the row operand, when S1 is used. -/
def rbDesc (cmd : List Nat) : Option Desc := if strmUsed cmd 1 then strmDesc cmd 1 else none

/-- Does element i0 of a row that starts at RB byte `off` lie inside RB? -/
def rbHolds (d : Desc) (off i0 : Nat) : Bool := decide (off + (elemBit d i0 + fmtBits d.fmt - 1) / 8 < rbSize)

/-- A poison-free look at the bytes of a run of SM words, with the class each would decode to. -/
def peekWords (s : State) (a : Nat) : Nat → List PByte
  | 0 => []
  | k + 1 =>
    let (c, d) := smDecode s (smPhys s a)
    d.map (fun b => (b, c == .poison || c == .uncorrectable)) ++ peekWords s (a + 32) k

/-- `n` bytes from an SM address as they decode, with no effect of reading: what a predecessor passes over its seam link. -/
def peekSm (s : State) (a n : Nat) : List PByte :=
  ((peekWords s (a / 32 * 32) ((a % 32 + n + 31) / 32)).drop (a % 32)).take n

/-- A row as unit u sees it: its own pieces read in the bank, the rest as the seam links pass it. -/
def readOwnRow (n u : Nat) (who : Who) : Nat → Nat → Nat → State → State × List PByte
  | 0, _, _, s => (s, [])
  | fuel + 1, a, len, s =>
    if len = 0 then (s, [])
    else
      let k := min len (2048 - a % 2048)
      let mine := smStack a == n && unitOf a == u
      let (s, l) := if mine then
          let c := unitCount s n u
          memRead who true 4 a k
            (setUnitCount n u { c with rdbytes := (c.rdbytes + 64 * ((a + k + 63) / 64 - a / 64)) % 2 ^ 64 } s)
        else (s, peekSm s a k)
      let (s, t) := readOwnRow n u who fuel (a + k) (len - k) s
      (s, l ++ t)

def readUnitRow (n u : Nat) (d : Desc) (addr : Nat) (s : State) : State × List PByte :=
  readOwnRow n u (swgWho (stackRun s n)) (rowBytes d / 2048 + 2) addr (rowBytes d) s

/-- Multiply-accumulates counted (SWG_MACS). -/
def countMacs (n u k : Nat) (s : State) : State :=
  let c := unitCount s n u
  setUnitCount n u { c with macs := (c.macs + k) % 2 ^ 64 } s

def accOf (x : SwgUnit) (k : Nat) : Accum := tabGet accZero x.acc k
def setAcc (k : Nat) (a : Accum) (x : SwgUnit) : SwgUnit := { x with acc := tabSet accZero x.acc k a }
/-- Entries `k` of a run cleared with their flags. -/
def clearAcc (first n : Nat) (x : SwgUnit) : SwgUnit :=
  { x with acc := x.acc.filter (fun e => e.1 < first || first + n ≤ e.1) }

/-- A sum in a frame that may be missing: with no anchor the integer stays as it is and only flags are kept (R72, R74, R76). -/
def dotInto (anchor : Option Int) (xs ws : List Elem) (a : Accum) : Accum :=
  let b := accDot (anchor.getD 0) (xs.map (·.val)) (ws.map (·.val)) a
  let p := a.poison || xs.any (·.poison) || ws.any (·.poison)
  match anchor with
  | some _ => { b with poison := p }
  | none => { b with val := a.val, poison := p }

/-- MVM (R180, R182). -/
def mvm (n u w : Nat) (x : SwgUnit) (s : State) : UnitRes :=
  let r := stackRun s n
  let rw := miRw w
  match strmUsed r.cmd 0, strmUsed r.cmd (miSa w), strmDesc r.cmd (miSa w), rbDesc r.cmd, strmDesc r.cmd 0 with
  | true, true, some d, some b, some w0 =>
    if 2047 < miAcc w + rw then .stop fcMicro s
    else if strmBlist r.cmd (miSa w) then .go s x
    else match currentRow n u d x (miSa w) with
      | none => .go s x
      | some row =>
        let own := ownedElems n u d row
        let off (k : Nat) : Nat := 32 * miImm w + k * rowBytes b
        if !own.all (rbHolds b (off rw)) then .stop fcMicro s
        else
          let (s, bytes) := readUnitRow n u d (rowAt d row 0 0) s
          let ws := own.map (elemOf d bytes)
          match rowBound d (ws.filter (fun e => !e.poison)) with
          | some z => if w0.anchor < z then .stop stAnchor s else go s x own ws off b w0
          | none => go s x own ws off b w0
  | _, _, _, _, _ => .stop fcMicro s
where
  go (s : State) (x : SwgUnit) (own : List Nat) (ws : List Elem) (off : Nat → Nat) (b w0 : Desc) : UnitRes :=
    let r := stackRun s n
    let x := overList (fun k x =>
      let xs := own.map (elemOf b (rbFrom r x (off k)))
      let anchor := match nth r.anchors k none with | some ax => some (w0.anchor + ax) | none => none
      setAcc (miAcc w + k) (dotInto anchor xs ws (accOf x (miAcc w + k))) x) (List.range (miRw w + 1)) x
    .go (countMacs n u (own.length * (miRw w + 1)) s) x

def execMvm (n : Fin 20) (u : Fin 512) (s : State) : Host.Outcome State Fault Refusal := live s <|
  unitStep n.val u.val 0x09 (mvm n.val u.val) s

/-- ACLR (R180). -/
def execAclr (n : Fin 20) (u : Fin 512) (s : State) : Host.Outcome State Fault Refusal := live s <|
  unitStep n.val u.val 0x08
    (fun w x s => if 2048 < miAcc w + miCnt w then .stop fcMicro s else .go s (clearAcc (miAcc w) (miCnt w) x)) s

/-- PSND (R180, R182): partials added into the merge entries of their keys (R85). -/
def execPsnd (n : Fin 20) (u : Fin 512) (s : State) : Host.Outcome State Fault Refusal := live s <|
  unitStep n.val u.val 0x0A
    (fun w x s =>
      let r := stackRun s n.val
      let rows := miRw w + 1
      match strmUsed r.cmd (miSa w), strmDesc r.cmd (miSa w) with
      | true, some d =>
        if 2048 < miAcc w + rows then .stop fcMicro s
        else
          let owned := if strmBlist r.cmd (miSa w) then [] else ownedRows n.val u.val d
          match owned[cursorOf x (miSa w)]? with
          | none => .go s (clearAcc (miAcc w) rows x)
          | some row =>
            let m := (List.range rows).foldl (fun m k =>
              tabSet accZero m (row * 8 + k) (accJoin (tabGet accZero m (row * 8 + k)) (accOf x (miAcc w + k)))) r.merge
            let x := moveCursor (miSa w) (cursorOf x (miSa w) + 1) owned.length (clearAcc (miAcc w) rows x)
            .go (setRun n.val { r with merge := m } s) { x with prog := (x.prog + 1) % 2 ^ 32 }
      | _, _ => .stop fcMicro s) s

/-- SKIP (R180); the cursor of a billet list moves only as R202 states (R491). -/
def execSkip (n : Fin 20) (u : Fin 512) (s : State) : Host.Outcome State Fault Refusal := live s <|
  unitStep n.val u.val 0x07
    (fun w x s =>
      let cmd := (stackRun s n.val).cmd
      match strmUsed cmd (miSa w), strmDesc cmd (miSa w) with
      | true, some d =>
        if strmBlist cmd (miSa w) then .go s x
        else .go s (moveCursor (miSa w) (cursorOf x (miSa w) + miCount cmd w) (ownedRows n.val u.val d).length x)
      | _, _ => .stop fcMicro s) s

/-! ### Billets -/

/-- The unit's queued billets in order. -/
def unitBillets (r : StackRun) (u : Nat) : List QBillet := r.billets.filter (fun b => b.unit == u)

def itemOf (r : StackRun) (b : QBillet) : Item :=
  nth r.items b.item { entry := 0, set := 0, head := 0, list := 0, len := 0, lo := 0, session := 0, valid := false }

/-- The batch row whose billets the streams walk: the one LENL named, or that of the first queued billet (R181, R202). -/
def curSet (r : StackRun) (u : Nat) (x : SwgUnit) : Nat :=
  if x.lenl then x.set else ((unitBillets r u).head?.map (fun b => (itemOf r b).set)).getD 0
def setBillets (r : StackRun) (u : Nat) (x : SwgUnit) : List QBillet :=
  (unitBillets r u).filter (fun b => (itemOf r b).set == curSet r u x)

/-- The current queued billet of a billet-list stream. -/
def curBillet (r : StackRun) (u : Nat) (x : SwgUnit) (k : Nat) : Option QBillet := (setBillets r u x)[cursorOf x k]?

/-- LENL (R180, R202). -/
def execLenl (n : Fin 20) (u : Fin 512) (s : State) : Host.Outcome State Fault Refusal := live s <|
  unitStep n.val u.val 0x06
    (fun w x s =>
      let r := stackRun s n.val
      if !strmBlist r.cmd (miSa w) then .stop fcMicro s
      else
        let x := { x with set := miRw w, lenl := true,
                          cursor := (List.range 8).map (fun k => if strmBlist r.cmd k then 0 else cursorOf x k) }
        let c := (setBillets r u.val x).length
        let x := setLoop (miLc w) c x
        .go s (if c = 0 then branchTo w x else x)) s

/-- Attended positions of a billet (R190). -/
def attended (it : Item) (b : QBillet) : List Nat :=
  let lo := max it.lo (512 * b.index)
  let hi := min it.len (512 * b.index + 512)
  upFrom lo (hi - lo)

/-- Bytes of a billet from a linear offset on, piece by piece (R193). -/
def readBillet (who : Who) (base : Nat) : Nat → Nat → Nat → State → State × List PByte
  | 0, _, _, s => (s, [])
  | fuel + 1, l, len, s =>
    if len = 0 then (s, [])
    else
      let k := min len (2048 - l % 2048)
      let (s, a) := memRead who true 4 (billetByte base l) k s
      let (s, t) := readBillet who base fuel (l + k) (len - k) s
      (s, a ++ t)

/-- Does a billet header name what the unit expects (R194, R202)? -/
def headerMatches (l : List PByte) (r : StackRun) (b : QBillet) (d : Desc) : Bool :=
  let f (off n : Nat) : Nat := leNat (((l.drop off).take n).map (·.1))
  let it := itemOf r b
  f 0 4 == it.session && f 4 2 == r.layer && f 6 1 == it.head && f 7 1 == (if d.fmt = .e4m3 then 3 else 4)
    && f 8 4 == b.index && f 12 2 == d.size0

/-- The first access to a billet: its header read and compared (R202); a poisoned header marks the partial and is not compared. -/
def openBillet (n u : Nat) (d : Desc) (b : QBillet) (x : SwgUnit) (s : State) : Option (State × SwgUnit) :=
  if x.seen.contains b.slot then some (s, x)
  else
    let r := stackRun s n
    let c := unitCount s n u
    let (s, l) := readBillet (swgWho r) b.base 2 0 64
      (setUnitCount n u { c with rdbytes := (c.rdbytes + 64) % 2 ^ 64 } s)
    let x := { x with seen := b.slot :: x.seen }
    if (l.take 14).any (·.2) then some (s, { x with rowBad := List.replicate 8 true })
    else if headerMatches l r b d then some (s, x) else none

/-- Position vectors an instruction takes (R491): their rows as bytes with the element list, or none where a row among them is not
whole in the slice. `want` 0 takes all. -/
structure Vectors where
  st   : State
  x    : SwgUnit
  vecs : List (List Elem)

/-- The vectors of a billet-list stream. -/
def billetVectors (n u k want : Nat) (d : Desc) (x : SwgUnit) (s : State) : Option Vectors :=
  let r := stackRun s n
  match curBillet r u x k with
  | none => some ⟨s, x, []⟩
  | some b =>
    match openBillet n u d b x s with
    | none => none
    | some (s, x) =>
      let ps := attended (itemOf r b) b
      let ps := if want = 0 then ps else ps.take want
      let c := unitCount s n u
      let (s, ls) := collect (fun p s =>
          let (s, l) := readBillet (swgWho r) b.base 2 (d.stride1.toNat + (p % 512) * d.size0) d.size0 s
          (s, rowElems d l)) ps
        (setUnitCount n u { c with rdbytes := (c.rdbytes + 64 * ceilDiv (ps.length * d.size0) 64) % 2 ^ 64 } s)
      some ⟨s, x, ls⟩

/-- The vectors of a stream with rows. -/
def rowVectors (n u k want : Nat) (d : Desc) (x : SwgUnit) (s : State) : Option Vectors :=
  let rows := (ownedRows n u d).drop (cursorOf x k)
  let rows := if want = 0 then rows else rows.take want
  if rows.any (fun i => (ownedElems n u d i).length != d.size0 || !(smStack (rowAt d i 0 0) == n && unitOf (rowAt d i 0 0) == u))
  then none
  else
    let (s, ls) := collect (fun i s =>
      let (s, l) := readUnitRow n u d (rowAt d i 0 0) s
      (s, rowElems d l)) rows s
    some ⟨s, x, ls⟩

def vectors (n u k want : Nat) (d : Desc) (x : SwgUnit) (s : State) : Option Vectors :=
  if strmBlist (stackRun s n).cmd k then billetVectors n u k want d x s else rowVectors n u k want d x s

/-- An SF entry as read: put right by the (72,64) code of its word, which holds entries 2 j and 2 j + 1, or poison where that word is
uncorrectable (R165, R166). -/
def sfOf (x : SwgUnit) (k : Nat) : Nat × Bool :=
  let raw (j : Nat) : Nat × Bool := tabGet (0, false) x.sf j
  let syn := tabGet 0 x.sfSyn (k / 2)
  if syn = 0 then raw k
  else
    let w := (raw (k / 2 * 2)).1 + 2 ^ 32 * (raw (k / 2 * 2 + 1)).1
    let (c, v) := sramDecode (sramEncode w ^^^ syn.toNat) w
    (natBits v (32 * (k % 2) + 31) (32 * (k % 2)), (raw k).2 || c == .uncorrectable)

/-- An SF entry written: its word's other entry is read for the fresh check bits. -/
def setSf (k : Nat) (v : Nat × Bool) (x : SwgUnit) : SwgUnit :=
  let other := if k % 2 = 0 then k + 1 else k - 1
  let x := if tabGet 0 x.sfSyn (k / 2) = 0 then x
    else { x with sf := tabSet (0, false) x.sf other (sfOf x other), sfSyn := tabSet 0 x.sfSyn (k / 2) 0 }
  { x with sf := tabSet (0, false) x.sf k v }

/-- Does a count of position vectors with rows 0 to rw stay inside SF from an index on (R181, R491)? -/
def sfOk (imm count rw : Nat) : Bool := count = 0 || decide (imm + 8 * (count - 1) + rw < 4096)

/-- FP32 conversion of the units: nearest even, ovf = 1. -/
def toFp32 (v : ExNum) : Nat × Nat := convert .fp32 true .rne v

/-- The byte of RB where the query of row k starts: element j * D of that row for item j of a billet (R202). -/
def queryOff (r : StackRun) (u sa : Nat) (x : SwgUnit) (b d : Desc) (k : Nat) : Nat :=
  k * rowBytes b + (if strmBlist r.cmd sa then
      match curBillet r u x sa with | some q => q.item * d.size0 * fmtBits b.fmt / 8 | none => 0
    else 0)

/-- The anchor of row k's query (R184, R201). -/
def queryAnchor (r : StackRun) (u sa : Nat) (x : SwgUnit) (k : Nat) : Option Int :=
  if strmBlist r.cmd sa then
    match curBillet r u x sa with | some q => nth r.qanch (q.item * 8 + k) none | none => none
  else nth r.anchors k none

/-- One score: the dot product of a position vector and a query row, with its poison (R184, R190). -/
def score (qa : Option Int) (d : Desc) (vec q : List Elem) : (Nat × Bool) × Nat :=
  let ak := rowBound d vec
  let anchor := match qa, ak with | some a, some b => some (a + b) | _, _ => none
  let a := dotInto anchor q vec accZero
  let (c, e) := toFp32 (accValue (anchor.getD 0) a)
  ((c, a.poison), e)

/-- DOTS (R180, R184, R491). -/
def dots (n u w : Nat) (x : SwgUnit) (s : State) : UnitRes :=
  let r := stackRun s n
  let sa := miSa w
  match strmUsed r.cmd sa, strmDesc r.cmd sa, rbDesc r.cmd with
  | true, some d, some b =>
    match vectors n u sa (miCnt w) d x s with
    | none => .stop fcMicro s
    | some v =>
      let count := if miCnt w = 0 then v.vecs.length else miCnt w
      let offs := (List.range (miRw w + 1)).map (queryOff r u sa v.x b d)
      if !sfOk (miImm w) count (miRw w) || (!v.vecs.isEmpty && offs.any (fun o => !rbHolds b o (d.size0 - 1)))
      then .stop fcMicro v.st
      else
        let qs := offs.map (fun o => let l := rbFrom r v.x o; (List.range d.size0).map (elemOf b l))
        let step (p : Nat) (vec : List Elem) (xe : SwgUnit × Nat) : SwgUnit × Nat :=
          (List.range (miRw w + 1)).foldl (fun xe k =>
            let (v, e) := score (queryAnchor r u sa x k) d vec (nth qs k [])
            (setSf (miImm w + 8 * p + k) v xe.1, xe.2 ||| e)) xe
        let (x, e) := ((List.range v.vecs.length).zip v.vecs).foldl (fun xe pv => step pv.1 pv.2 xe) (v.x, 0)
        let (s, x) := noteExc n e x (countMacs n u (v.vecs.length * d.size0 * (miRw w + 1)) v.st)
        .go s { x with lastCnt := v.vecs.length }
  | _, _, _ => .stop fcMicro s

def execDots (n : Fin 20) (u : Fin 512) (s : State) : Host.Outcome State Fault Refusal := live s <|
  unitStep n.val u.val 0x10 (dots n.val u.val) s

/-- FP32 code of a row maximum with nothing finite. -/
def noMax : Nat := 0xFF800000

/-- MCLR (R180). -/
def execMclr (n : Fin 20) (u : Fin 512) (s : State) : Host.Outcome State Fault Refusal := live s <|
  unitStep n.val u.val 0x11
    (fun w x s =>
      .go s (overList (fun k x => { x with m := setNth x.m k noMax, n := setNth x.n k false }) (List.range (miRw w + 1)) x)) s

/-- The count that cnt = 0 stands for after a DOTS. -/
def countOr (w : Nat) (x : SwgUnit) : Nat := if miCnt w = 0 then x.lastCnt else miCnt w

/-- One score met by SMAX. -/
def smaxOne (k : Nat) (v : Nat × Bool) (x : SwgUnit) : SwgUnit :=
  let y := elemValue .fp32 v.1
  let x := if v.2 then { x with rowBad := setNth x.rowBad k true } else x
  if numIsFin y then
    (if numLt (elemValue .fp32 (nth x.m k noMax)) y then { x with m := setNth x.m k v.1 } else x)
  else { x with n := setNth x.n k true }

/-- SMAX (R180). -/
def execSmax (n : Fin 20) (u : Fin 512) (s : State) : Host.Outcome State Fault Refusal := live s <|
  unitStep n.val u.val 0x12
    (fun w x s =>
      let c := countOr w x
      if !sfOk (miImm w) c (miRw w) then .stop fcMicro s
      else .go s (overList (fun p x =>
        overList (fun k x => smaxOne k (sfOf x (miImm w + 8 * p + k)) x) (List.range (miRw w + 1)) x) (List.range c) x)) s

/-- One score replaced by its weight, which is added into its row's sum (R180, R184). -/
def sexpOne (acc idx k : Nat) (xe : SwgUnit × Nat) : SwgUnit × Nat :=
  let (x, e) := xe
  let (c, p) := sfOf x idx
  let y := elemValue .fp32 c
  let m := nth x.m k noMax
  let bad := p || nth x.rowBad k false
  let (v, e') := if numIsFin y then toFp32 (expValue (numAdd y (numFlip (elemValue .fp32 m)))) else (0, 0)
  let x := setSf idx (v, bad) x
  if m = noMax then (x, e ||| e')
  else
    let a := accAdd 0 (elemValue .fp32 v) (accOf x (acc + k))
    (setAcc (acc + k) { a with poison := a.poison || bad } x, e ||| e')

/-- SEXP (R180, R184). -/
def execSexp (n : Fin 20) (u : Fin 512) (s : State) : Host.Outcome State Fault Refusal := live s <|
  unitStep n.val u.val 0x13
    (fun w x s =>
      let c := countOr w x
      if !sfOk (miImm w) c (miRw w) || 2047 < miAcc w + miRw w then .stop fcMicro s
      else
        let (x, e) := (List.range c).foldl (fun xe p =>
          (List.range (miRw w + 1)).foldl (fun xe k => sexpOne (miAcc w) (miImm w + 8 * p + k) k xe) xe) (x, 0)
        let (s, x) := noteExc n.val e x s
        .go s x) s

/-- f_V of a value stream (R190), none for a format VACC does not take. -/
def valueFrame (d : Desc) : Option Int :=
  match d.arr, d.fmt with
  | .plain, .e4m3 => some 9
  | .plain, .e5m2 => some 16
  | _, _ => none

/-- One weighted value vector added (R180). -/
def vaccOne (fv : Int) (acc dd imm p k : Nat) (vec : List Elem) (x : SwgUnit) : SwgUnit :=
  if nth x.m k noMax = noMax then x
  else
    let (c, bad) := sfOf x (imm + 8 * p + k)
    let wt := elemValue .fp32 c
    overList (fun i x =>
      let e := nth vec i ⟨numZero, 0, 0, false⟩
      let j := acc + 8 + dd * k + i
      let a := accTerm fv wt e.val (accOf x j)
      setAcc j { a with poison := a.poison || bad || e.poison || nth x.rowBad k false } x) (List.range dd) x

/-- SWAGE_VACC (R180, R190, R491). -/
def vacc (n u w : Nat) (x : SwgUnit) (s : State) : UnitRes :=
  let r := stackRun s n
  let sa := miSa w
  match strmUsed r.cmd sa, strmDesc r.cmd sa with
  | true, some d =>
    match valueFrame d with
    | none => .stop fcMicro s
    | some fv =>
      let want := countOr w x
      if 2047 < miAcc w + 7 + d.size0 * (miRw w + 1) then .stop fcMicro s
      else if !sfOk (miImm w) want (miRw w) then .stop fcMicro s
      else if want = 0 then .go s x
      else match vectors n u sa want d x s with
        | none => .stop fcMicro s
        | some v =>
          let x := overList (fun (pv : Nat × List Elem) x =>
            overList (fun k x => vaccOne fv (miAcc w) d.size0 (miImm w) pv.1 k pv.2 x) (List.range (miRw w + 1)) x)
            ((List.range v.vecs.length).zip v.vecs) v.x
          .go (countMacs n u (v.vecs.length * d.size0 * (miRw w + 1)) v.st) x
  | _, _ => .stop fcMicro s

def execSwageVacc (n : Fin 20) (u : Fin 512) (s : State) : Host.Outcome State Fault Refusal := live s <|
  unitStep n.val u.val 0x14 (vacc n.val u.val) s

/-! ### Partials and stores -/

/-- Words of a partial record (R203); the ν words carry poison. -/
def partBytes (m sigma count : Nat) (nan bad : Bool) (index : Nat) (nu : List Nat) (total : Nat) : List PByte :=
  let h := leBytes 4 m ++ leBytes 4 sigma ++ leBytes 2 count ++ leBytes 1 (b2n nan + 2 * b2n bad) ++ [0] ++ leBytes 4 index
  let v := nu.flatMap (leBytes 4)
  cleanBytes h ++ v.map (fun b => (b, bad)) ++ List.replicate (total - h.length - v.length) (0, false)

/-- The merge unit as agent (R436). -/
def mergeWho (r : StackRun) : Who := ⟨0xC, r.tag, true⟩

/-- One row's partial sent and stored (R190, R202, R203). -/
def partRow (n acc : Nat) (d s5 : Desc) (fv : Int) (b : QBillet) (k : Nat) (x : SwgUnit) (s : State) : State × SwgUnit :=
  let r := stackRun s n
  let it := itemOf r b
  let sum := accOf x (acc + k)
  let (sg, e0) := toFp32 (accValue 0 sum)
  let vs := (List.range d.size0).map (fun i => accOf x (acc + 8 + d.size0 * k + i))
  let nu := vs.map (fun a => toFp32 (accValue fv a))
  let bad := sum.poison || vs.any (·.poison) || nth x.rowBad k false || r.anchorPoison
  let m := nth x.m k noMax
  let p : PartRec := { item := b.item, row := k, m := m, sigma := sg, nu := nu.map (·.1), nan := nth x.n k false, poison := bad }
  let bytes := partBytes m sg (attended it b).length p.nan bad b.index p.nu (rowBytes s5)
  let s := memWrite (mergeWho r) s5.space (rowAt s5 (b.slot * cmdRows r.cmd + k) 0 0) bytes s
  let s := setRun n { stackRun s n with parts := (stackRun s n).parts ++ [p] } s
  noteExc n (nu.foldl (fun e v => e ||| v.2) e0) x s

/-- Every billet-list stream moves to the unit's next queued billet of the set (R202). -/
def nextBillet (r : StackRun) (u : Nat) (x : SwgUnit) : SwgUnit :=
  let last := (setBillets r u x).length
  { x with cursor := (List.range 8).map (fun k =>
      if strmBlist r.cmd k then min (cursorOf x k + 1) last else cursorOf x k) }

/-- PART (R180, R202). -/
def part (n u w : Nat) (x : SwgUnit) (s : State) : UnitRes :=
  let r := stackRun s n
  match strmDesc r.cmd 3, strmDesc r.cmd 5, curBillet r u x 3 with
  | some d, some s5, some b =>
    if r.kind != 1 then .stop fcMicro s
    else
      let rows := max (miRw w + 1) (cmdRows r.cmd)
      if 2047 < miAcc w + 7 + d.size0 * rows then .stop fcMicro s
      else
        let fv := (valueFrame d).getD 9
        let (s, x) := (List.range (cmdRows r.cmd)).foldl (fun sx k => partRow n (miAcc w) d s5 fv b k sx.2 sx.1) (s, x)
        let x := clearAcc (miAcc w) rows (clearAcc (miAcc w + 8) (d.size0 * rows) x)
        .go s { nextBillet r u x with rowBad := List.replicate 8 false, prog := (x.prog + 1) % 2 ^ 32 }
  | _, _, _ => .stop fcMicro s

def execPart (n : Fin 20) (u : Fin 512) (s : State) : Host.Outcome State Fault Refusal := live s <|
  unitStep n.val u.val 0x15 (part n.val u.val) s

/-- Bytes of a converted row that lie in the unit's slice written, piece by piece. -/
def writeOwn (n u : Nat) (who : Who) : Nat → Nat → List PByte → State → State
  | 0, _, _, s => s
  | fuel + 1, a, l, s =>
    if l.isEmpty then s
    else
      let k := min l.length (2048 - a % 2048)
      let s := if smStack a == n && unitOf a == u then memWrite who 4 a (l.take k) s else s
      writeOwn n u who fuel (a + k) (l.drop k) s

/-- CWR on a stream with rows (R180). -/
def cwrRow (n u w : Nat) (d b : Desc) (x : SwgUnit) (s : State) : UnitRes :=
  let r := stackRun s n
  let sa := miSa w
  let rows := ownedRows n u d
  match rows[cursorOf x sa]? with
  | none => .go s x
  | some row =>
    let off := 32 * miImm w + miRw w * rowBytes b
    if !rbHolds b off (d.size0 - 1) then .stop fcMicro s
    else
      let l := rbFrom r x off
      let es := (List.range d.size0).map (fun i => let e := elemOf b l i; (e.val, e.poison))
      let (bytes, e) := packRow d (elemPos d 0 row 0 0) es
      let s := writeOwn n u (swgWho r) (bytes.length / 2048 + 2) (rowAt d row 0 0) bytes s
      let s := setRun n { stackRun s n with wroteSm := true } s
      let (s, x) := noteExc n e (moveCursor sa (cursorOf x sa + 1) rows.length x) s
      .go s { x with prog := (x.prog + 1) % 2 ^ 32 }

/-- Codes and exception bits of a cache vector, with the draws of R202. -/
def packVector (d : Desc) (pos : Nat) (es : List Elem) : List PByte × Nat :=
  let cs := (List.range es.length).zip es |>.map (fun ie => convert d.fmt d.ovf (rndAt d.stoch d.tid (pos + ie.1)) ie.2.val)
  ((cs.zip es).map (fun ce => (BitVec.ofNat 8 ce.1.1, ce.2.poison)), cs.foldl (fun e c => e ||| c.2) 0)

/-- A run of bytes written into a billet from a linear offset on. -/
def writeBillet (who : Who) (base : Nat) : Nat → Nat → List PByte → State → State
  | 0, _, _, s => s
  | fuel + 1, l, bs, s =>
    if bs.isEmpty then s
    else
      let k := min bs.length (2048 - l % 2048)
      writeBillet who base fuel (l + k) (bs.drop k) (memWrite who 4 (billetByte base l) (bs.take k) s)

/-- CWR in cache-write mode (R195, R202). -/
def cwrBillet (n u w : Nat) (d b : Desc) (x : SwgUnit) (s : State) : UnitRes :=
  let r := stackRun s n
  let sa := miSa w
  match curBillet r u x sa with
  | none => .go s x
  | some q =>
    let it := itemOf r q
    let off := 32 * miImm w + miRw w * rowBytes b + q.item * d.size0 * fmtBits b.fmt / 8
    if !rbHolds b off (d.size0 - 1) then .stop fcMicro s
    else match openBillet n u d q x s with
      | none => .stop fcMicro s
      | some (s, x) =>
        let l := rbFrom r x off
        let p := (it.len - 1) % 512
        let (bytes, e) := packVector d ((it.len - 1) * d.size0) ((List.range d.size0).map (elemOf b l))
        let s := writeBillet (swgWho r) q.base 3 (d.stride1.toNat + p * d.size0) bytes s
        let s := writeBillet (swgWho r) q.base 2 14 (cleanBytes (leBytes 2 (p + 1))) s
        let r' := stackRun s n
        let s := setRun n { r' with wroteSm := true,
                                    written := if r'.written.contains q.item then r'.written else r'.written ++ [q.item] } s
        let x := moveCursor sa (cursorOf x sa + 1) (setBillets r u x).length x
        let (s, x) := noteExc n e x s
        .go s { x with prog := (x.prog + 1) % 2 ^ 32 }

/-- CWR (R180, R202). -/
def cwr (n u w : Nat) (x : SwgUnit) (s : State) : UnitRes :=
  let r := stackRun s n
  match strmUsed r.cmd (miSa w), strmDesc r.cmd (miSa w), rbDesc r.cmd with
  | true, some d, some b =>
    if strmBlist r.cmd (miSa w) then (if r.kind = 2 then cwrBillet n u w d b x s else .go s x)
    else cwrRow n u w d b x s
  | _, _, _ => .stop fcMicro s

def execCwr (n : Fin 20) (u : Fin 512) (s : State) : Host.Outcome State Fault Refusal := live s <|
  unitStep n.val u.val 0x0B (cwr n.val u.val) s

end Sys2Proof.Machine
end

