-- ==== Sys2Proof/Machine/Attention.lean ====
section
/-! DEFINITION. The merge unit of a stack site: outputs of matrix-vector and cache-write commands (R172, R182, R183), the exchange
and merge of attention (R191, R203 to R205), the run-time limit (R177) and the micro-program store (R178). -/

namespace Sys2Proof.Machine

/-- Every unit of a stack has reached END. -/
def allDone (s : State) (n : Nat) : Bool := (List.range 512).all (fun u => (tabGet ({} : SwgUnit) s.units (n * 512 + u)).isDone)

/-- A command that commits: journal DONE, event pulse, status (R169 step 8, R172). -/
def finishRun (n progress : Nat) (s : State) : State :=
  let r := stackRun s n
  let s := journal r.qid r.idx r.tag { state := 2, progress := progress, exc := r.exc } s
  endRun n (commit (hxStack n) r.tag (cmdEv r.cmd) s)

/-! ### Outputs of a matrix-vector command -/

/-- The frame of output row r (R182), none where the row has no anchor. -/
def rowFrame (r : StackRun) (k : Nat) : Option Int :=
  match strmDesc r.cmd 0, nth r.anchors k none with
  | some w, some ax => some (w.anchor + ax)
  | _, _ => none

/-- Merge entry of a key; a poisoned row operand taken for anchors marks every entry (R156). -/
def mergeEntry (r : StackRun) (o k : Nat) : Accum :=
  let a := tabGet accZero r.merge (o * 8 + k)
  { a with poison := a.poison || r.anchorPoison }

/-- A raw record (R183). -/
def rawRecord (v : BitVec 128) (anchor : Nat) (flags : Nat) : List Byte :=
  leBytes 16 v.toNat ++ leBytes 2 anchor ++ leBytes 1 flags ++ leBytes 13 0
def accFlags (a : Accum) : Nat := b2n a.nan + 2 * b2n a.pinf + 4 * b2n a.ninf

/-- Row k of the outputs, converted (R182): the bytes it writes and its exception bits. -/
def outRow (r : StackRun) (d : Desc) (k : Nat) : List PByte × Nat :=
  let outs := cmdOuts r.cmd
  let xs := (List.range outs).map (fun o =>
    let a := mergeEntry r o k
    (accValue ((rowFrame r k).getD 0) a, a.poison))
  let (l, e) := packRow d (elemPos d 0 k 0 0) xs
  let len := match d.arr with
    | .plain => outs * fmtBits d.fmt / 8
    | a => let blocks := ceilDiv outs (arrBlock a)
           if blocks * arrBlock a = d.size0 then rowBytes d else blocks * recBytes d
  (l.take len, e)

/-- Row k of the outputs as raw records (R183). -/
def outRawRow (r : StackRun) (k : Nat) : List PByte :=
  (List.range (cmdOuts r.cmd)).flatMap (fun o =>
    let a := mergeEntry r o k
    (rawRecord a.val (anchorCode (rowFrame r k)) (accFlags a)).map (fun b => (b, a.poison)))

/-- The outputs of a matrix-vector command written to S2 (R182, R183). -/
def writeOutputs (n : Nat) (s : State) : State :=
  let r := stackRun s n
  if !strmUsed r.cmd 2 then s
  else match strmDesc r.cmd 2 with
    | none => s
    | some d =>
      overList (fun k s =>
        let (l, e) := if cmdRaw r.cmd then (outRawRow r k, 0) else outRow r d k
        let s := memWrite (mergeWho r) d.space (rowAt d k 0 0) l { s with found := (stackRun s n).found }
        setRun n { stackRun s n with exc := (stackRun s n).exc ||| e, found := s.found } { s with found := [] })
        (List.range (cmdRows r.cmd)) s

/-- SWAGE_MERGE (R169 steps 7 and 8, R172, R182, R183): after the last END of a matrix-vector or cache-write command. -/
def execSwageMerge (n : Fin 20) (s : State) : Host.Outcome State Fault Refusal := live s <|
  let r := stackRun s n.val
  if r.phase != 3 || r.kind == 1 || !allDone s n.val then noEvent s
  else if r.kind = 2 then done (finishRun n.val r.written.length s)
  else
    let outs := if strmUsed r.cmd 2 then cmdOuts r.cmd * cmdRows r.cmd else 0
    done (finishRun n.val outs (writeOutputs n.val s))

/-! ### The exchange of attention -/

/-- The larger finite maximum of two (codes; 0xFF80_0000 stands for none). -/
def maxCode (a b : Nat) : Nat :=
  if b = noMax then a else if a = noMax then b
  else if numLt (elemValue .fp32 a) (elemValue .fp32 b) then b else a

/-- Head dimension of a billet-list command. -/
def headDim (r : StackRun) : Nat := match strmDesc r.cmd 3 with | some d => d.size0 | none => 0

/-- What a site keeps and sends for an (item, row): largest finite m, OR of nan, OR of poison (R204 step 1). -/
def siteVal (r : StackRun) (j k : Nat) : Nat × Bool × Bool :=
  let ps := r.parts.filter (fun p => p.item == j && p.row == k)
  (ps.foldl (fun m p => maxCode m p.m) noMax, ps.any (·.nan), ps.any (·.poison))

/-- The values a site sends (R204 step 2). -/
def siteMax (n : Nat) (r : StackRun) : PeerMax :=
  { site := n, xkey := maskKey r.cmd, items := r.items.length, rows := cmdRows r.cmd, d := headDim r,
    vals := (List.range r.items.length).flatMap (fun j => (List.range (cmdRows r.cmd)).map (siteVal r j)) }

/-- An attention command whose units have all reached END. -/
def readyToMerge (s : State) (n : Nat) : Bool :=
  let r := stackRun s n
  r.kind == 1 && (r.phase == 4 || (r.phase == 3 && allDone s n))

/-- Do received values fit the command that receives them (R205)? -/
def peerFits (r : StackRun) (p : PeerMax) : Bool :=
  p.abort || (p.items == r.items.length && p.rows == cmdRows r.cmd && p.d == headDim r)

/-- Is an attention command of this site merging under an xkey? -/
def mergesUnder (s : State) (n key : Nat) : Bool :=
  let r := stackRun s n
  r.phase != 0 && r.kind == 1 && maskKey r.cmd == key

/-- Room for values under a key other than the one being merged: 2 other keys are held (R205). -/
def exchRoom (s : State) (n key : Nat) : Bool :=
  mergesUnder s n key ||
    (let others := ((exchOf s n).map (·.xkey)).eraseDups.filter (fun k => !mergesUnder s n k)
     others.contains key || others.length < 2)

/-- MERGE_EXCHANGE_RECEIVE (R204 step 2, R205): site `n` receives what site `src` sends under its xkey. -/
def execMergeExchangeReceive (n src : Fin 20) (s : State) : Host.Outcome State Fault Refusal := live s <|
  let r := stackRun s src.val
  let p := siteMax src.val r
  if n = src || !readyToMerge s src.val || !(maskSites r.cmd).contains n.val || r.sent.contains n.val
      || (exchOf s src.val).any (fun q => q.xkey == p.xkey && q.abort) || !exchRoom s n.val p.xkey then noEvent s
  else
    let s := setRun src.val { r with phase := 4, sent := n.val :: r.sent } s
    let s := setExch n.val (exchOf s n.val ++ [p]) s
    let q := stackRun s n.val
    if mergesUnder s n.val p.xkey && 3 ≤ q.phase && !peerFits q p then done (swageFault n.val 0x243 (hxStack n.val) 0 s)
    else done s

/-- MERGE_ABORT (R205): records discarded, nothing written, NOT_STARTED with MERGE_ABORT; the hearth does not become FAULTED. -/
def execMergeAbort (n : Fin 20) (s : State) : Host.Outcome State Fault Refusal := live s <|
  let r := stackRun s n.val
  let key := maskKey r.cmd
  if !mergesUnder s n.val key || !(exchOf s n.val).any (fun p => p.xkey == key && p.abort) then noEvent s
  else
    let s := journal r.qid r.idx r.tag { state := 0, status := stMergeAbort } s
    done (endRun n.val s)

/-- Rescaled totals of an (item, row) from this site's own records, against the maximum over every site (R191). [DEDUCED, log 144] -/
def siteTotals (fv : Int) (d m : Nat) (ps : List PartRec) : Accum × List Accum :=
  let ps := ps.filter (fun p => p.m != noMax)
  let factor (p : PartRec) : ExNum :=
    elemValue .fp32 (toFp32 (expValue (numAdd (elemValue .fp32 p.m) (numFlip (elemValue .fp32 m))))).1
  (ps.foldl (fun a p => accTerm 0 (factor p) (elemValue .fp32 p.sigma) a) accZero,
   (List.range d).map (fun i => ps.foldl (fun a p => accTerm fv (factor p) (elemValue .fp32 (nth p.nu i 0)) a) accZero))

/-- One row of S2: S_tot with anchor 0 and V_tot with anchor f_V; nan in bit 0 of the flags; poison as poison; zero bytes where
the site has no partial (R204 step 5). -/
def attentionRow (r : StackRun) (peers : List PeerMax) (fv : Int) (j k : Nat) : List PByte :=
  let d := headDim r
  let (m, nan, bad) := (peers.map (fun p => nth p.vals (j * cmdRows r.cmd + k) (noMax, false, false))).foldl
    (fun (a : Nat × Bool × Bool) v => (maxCode a.1 v.1, a.2.1 || v.2.1, a.2.2 || v.2.2)) (siteVal r j k)
  let ps := r.parts.filter (fun p => p.item == j && p.row == k)
  let (st, vt) := siteTotals fv d m ps
  let fl (a : Accum) : Nat := accFlags a ||| b2n nan
  if ps.isEmpty then List.replicate (32 * (d + 1)) (0, r.anchorPoison)
  else ((rawRecord st.val 0 (fl st)) ++ vt.flatMap (fun a => rawRecord a.val (wrapInt 16 fv) (fl a))).map (fun b => (b, bad || r.anchorPoison))

/-- The frame of an attention command's values. -/
def runFrame (r : StackRun) : Int := match strmDesc r.cmd 3 with | some d => (valueFrame d).getD 9 | none => 9

/-- ATTENTION_MERGE (R204 steps 3 to 6, R205): once every peer has sent and taken this site's values. -/
def execAttentionMerge (n : Fin 20) (s : State) : Host.Outcome State Fault Refusal := live s <|
  let r := stackRun s n.val
  let key := maskKey r.cmd
  let others := (maskSites r.cmd).filter (fun k => k != n.val)
  let peers := (exchOf s n.val).filter (fun p => p.xkey == key && !p.abort)
  if !readyToMerge s n.val || (exchOf s n.val).any (fun p => p.xkey == key && p.abort)
      || !others.all (fun k => peers.any (fun p => p.site == k)) || !others.all (fun k => r.sent.contains k) then noEvent s
  else if !peers.all (peerFits r) then done (swageFault n.val 0x243 (hxStack n.val) 0 s)
  else match strmDesc r.cmd 2 with
    | none => noEvent s
    | some o =>
      let rows := cmdRows r.cmd
      let s := overList (fun j s => overList (fun k s =>
          memWrite (mergeWho r) o.space (rowAt o (j * rows + k) 0 0) (attentionRow r peers (runFrame r) j k) s)
        (List.range rows) s) (List.range r.items.length) { s with found := r.found }
      let s := setRun n.val { stackRun s n.val with found := s.found } { s with found := [] }
      done (finishRun n.val (r.items.length * rows) s)

/-- SWAGE_TIMEOUT (R177): limit_us pass before the last END; the first unit that has not reached END is named. -/
def execSwageTimeout (n : Fin 20) (s : State) : Host.Outcome State Fault Refusal := live s <|
  let r := stackRun s n.val
  let limit := rf s (stkReg n.val 0x800) 63 32
  if r.phase != 3 || limit = 0 || allDone s n.val then noEvent s
  else
    let u := ((List.range 512).find? (fun u => !(unitAt s n.val u).isDone)).getD 0
    done (swageFault n.val 0x241 (hxUnit n.val u) (unitAt s n.val u).pc { s with time := max s.time (r.start + 1000 * limit) })

/-! ### Micro-program store -/

/-- SWG_DSP_STAT.busy: a command is accepted and not committed. -/
def swgBusy (s : State) (n : Nat) : Bool := (stackRun s n).phase != 0

/-- A write of a store word by a Smith core, or its refusal (R178). -/
def mpWrite (n i : Nat) (v : Word) (s : State) : State :=
  let st := stkReg n 0x808
  if rf s (stkReg n 0x800) 2 2 = 1 && !swgBusy s n then
    setRf st 1 1 0 { s with mpStore := tabSet 0 s.mpStore (n * 256 + i) v,
                            mpChk := tabSet 0 s.mpChk (n * 256 + i) (BitVec.ofNat 8 (sramEncode v.toNat)),
                            mpOwn := s.mpOwn.filter (fun e => !(e.1 / 131072 == n && e.1 % 256 == i)) }
  else setRf st 1 1 1 s

/-- MP_WRITE. -/
def execMpWrite (n : Fin 20) (i : Fin 256) (v : Word) (s : State) : Host.Outcome State Fault Refusal := liveWrite s <|
  done (mpWrite n.val i.val v s)

/-- A write of mp_wen by a Smith core, refused while a command is busy (R178, R187). -/
def mpWen (n : Nat) (b : Bool) (s : State) : State :=
  if swgBusy s n then setRf (stkReg n 0x808) 1 1 1 s
  else setRf (stkReg n 0x808) 1 1 0 (setRf (stkReg n 0x800) 2 2 (b2n b) s)

/-- MP_WEN_WRITE. -/
def execMpWenWrite (n : Fin 20) (b : Bool) (s : State) : Host.Outcome State Fault Refusal := liveWrite s <| done (mpWen n.val b s)

end Sys2Proof.Machine
end

