-- ==== Sys2Proof/Machine/EngineCore.lean ====
section
/-! DEFINITION. Control words and what runs them: operands, checks, waits, completion and faults of the core engines
(spec/09_anvil_cores_bellows_hammer.md, R212, R213, R220 to R229, R237 to R240). -/

namespace Sys2Proof.Machine

/-! ### Cores, clusters and control words -/

/-- Number of core k of cluster c of Anvil a, and of a cluster. -/
def coreNo (a c k : Nat) : Nat := 256 * a + 16 * c + k
def clusterNo (a c : Nat) : Nat := 16 * a + c

def coreSt (s : State) (x : Nat) : CoreSt := tabGet {} s.cores x
def setCore (x : Nat) (v : CoreSt) (s : State) : State := { s with cores := tabSet {} s.cores x v }
def cluster (s : State) (x : Nat) : Cluster := tabGet {} s.clusters x
def setCluster (x : Nat) (v : Cluster) (s : State) : State := { s with clusters := tabSet {} s.clusters x v }

/-- ANV_CL_ register of a cluster, and ANV_CORE_Q of a core (R241). -/
def clReg (a c off : Nat) : Nat := anvReg a (0x1000 + 0x100 * c + off)
def coreQReg (x : Nat) : Nat := anvReg (x / 256) (0x2008 + 0x20 * (x % 256))

/-- Fields of a control word (R220). -/
def ewOp (w : EngWord) : Nat := natBits w.w3 63 58
def ewEng (w : EngWord) : Nat := natBits w.w3 57 56
def ewMask (w : EngWord) : Nat := natBits w.w3 55 40
def ewEv (w : EngWord) : Bool := natBit w.w3 39
def ewTrace (w : EngWord) : Bool := natBit w.w3 38
def ewRound (w : EngWord) : Nat := natBits w.w3 37 36
def ewOvf (w : EngWord) : Bool := natBit w.w3 35
def ewPen (w : EngWord) : Bool := natBit w.w3 34
def ewWeng (w : EngWord) : Nat := natBits w.w3 33 32
def ewWen (w : EngWord) : Bool := natBit w.w3 31
def ewWval (w : EngWord) : Nat := natBits w.w3 30 15
def ewPrm (w : EngWord) : Nat := natBits w.w3 14 1
def ewRs (w : EngWord) : Bool := natBit w.w3 0

/-- Is an opcode defined for an engine (R214, R217, R219, R220, R231, R232)? -/
def ewDefined (eng op : Nat) : Bool :=
  op == 0 ||
    (match eng with
     | 0 => op == 1
     | 1 => op ≤ 0x0B || (0x10 ≤ op && op ≤ 0x14) || (0x18 ≤ op && op ≤ 0x1C)
     | 2 => op == 1 || op == 2
     | _ => 0x30 ≤ op && op ≤ 0x33)

/-- The queue of an engine of a core. -/
def engQueue (x : CoreSt) (eng : Nat) : List EngWord := match eng with | 0 => x.mat | 1 => x.vec | _ => x.mov
def setEngQueue (eng : Nat) (l : List EngWord) (x : CoreSt) : CoreSt :=
  match eng with | 0 => { x with mat := l } | 1 => { x with vec := l } | _ => { x with mov := l }

/-- Done counter of a core: 0 matrix, 1 vector, 2 move, 3 Bellows port; it wraps at 2^16 (R225). -/
def bumpDone (eng : Nat) (x : CoreSt) : CoreSt := { x with cnt := setNth x.cnt eng ((nth x.cnt eng 0 + 1) % 2 ^ 16) }

/-- Does a counter meet a word's wait (R226)? -/
def waitHolds (x : CoreSt) (w : EngWord) : Bool :=
  !ewWen w || decide ((nth x.cnt (ewWeng w) 0 + 2 ^ 16 - ewWval w) % 2 ^ 16 < 2 ^ 15)

/-- A core or cluster, or a hearth above it, is in RESET, QUENCHED or ASLEEP, or its cluster is stopped by T3 (R20, R21, R426). -/
def stoppedAt (s : State) (i : Nat) : Bool :=
  let off (j : Nat) : Bool :=
    let h := hearth s j
    h.reset || frozen s || (6 ≤ j && j < 70 && (h.halted || clusterAsleep s (j - 6)))
  off i || off (hxParent i) || off (hxParent (hxParent i))

/-! ### Trace -/

/-- A trace record of a control word, when its cluster's bit is enabled (R239 to R241). [DEDUCED, log 141] -/
def traceWord (a c hx : Nat) (w : EngWord) (kind exc prog : Nat) (s : State) : State :=
  if !natBit (rf s (anvReg a 0x100) 63 48) c then s
  else traceRing a ⟨1, w.tag, false⟩ { tag := w.tag, hx := hx, kind := kind, code := ewEng w * 64 + ewOp w, exc := exc, prog := prog,
                                        step := (rg s (clReg a c 0x18)).toNat } s

/-- The records at start and end that a word asks for. -/
def traceIf (a c hx : Nat) (w : EngWord) (kind exc prog : Nat) (s : State) : State :=
  if ewTrace w then traceWord a c hx w kind exc prog s else s

/-! ### Faults -/

/-- Source codes of the engines (R436). -/
def engSource (eng : Nat) : Nat := match eng with | 0 => 9 | 1 => 0xA | 2 => 0xB | _ => 4

/-- A pending push accepted and discarded: it has taken its tag (R235, R237). -/
def dropPush (a c : Nat) (s : State) : State :=
  let y := cluster s (clusterNo a c)
  match y.push with
  | none => s
  | some p =>
    let s := setCluster (clusterNo a c) { y with push := none } s
    if p.tagged then s else (stampTag (16 * a + c) s).1

/-- A cluster stopped by a word: FAULTED, nothing further issued, one fault record (R229). -/
def clusterFault (a c hx eng code tag state prog : Nat) (s : State) : State :=
  let s := faultRecord { code := code, hearth := hx, tag := tag, state := state, src := engSource eng, progress := prog } s
  let s := dropPush a c s
  let s := setCluster (clusterNo a c) { cluster s (clusterNo a c) with stopped := true } s
  updHearth (hxCluster a c) (fun h => { h with faulted := true }) s

/-- An engine word that faults: that core's queues are discarded, but for what its other engines are running (R228, R229). [DEDUCED, log 158] -/
def engineFault (a c k eng code : Nat) (w : EngWord) (state prog : Nat) (s : State) : State :=
  let x := coreNo a c k
  let s := traceIf a c (hxCore a c k) w 5 0 prog s
  let y := setEngQueue eng [] (coreSt s x)
  let s := setCore x { y with mat := y.mat.filter (·.ran), vec := y.vec.filter (·.ran), mov := y.mov.filter (·.ran) } s
  clusterFault a c (hxCore a c k) eng code w.tag state prog s

/-! ### Operands of the core engines -/

/-- Base address of a core's scratchpad (R91). -/
def spBase (x : Nat) : Nat := x * 2 ^ 32

/-- Fields of an element, record or int16 slot (R221). -/
def slOffset (v : Nat) : Nat := 4 * natBits v 55 38
def slStride (v : Nat) : Nat := 4 * natBits v 37 20
def slN0 (v : Nat) : Nat := natBits v 19 8
def slN1 (v : Nat) : Nat := natBits v 7 0
def slRows (v : Nat) : Nat := slN1 v + 1
def slUsed (v : Nat) : Bool := slN0 v != 0

/-- Parameter block as read (R224). -/
structure Prm where
  xanch   : List (Option Int) := []
  wanch   : List (Option Int) := []
  tid     : Nat := 0
  pos0    : Nat := 0
  pstride : Nat := 0
  s0      : Nat := 0
  s1      : Nat := 0
  bad     : Bool := false

/-- What an engine word runs with: its core, itself, its agent and its parameters. -/
structure EngCtx where
  core : Nat
  w    : EngWord
  who  : Who
  prm  : Prm

/-- What an engine word comes to: done with its exception bits and progress; rejected with nothing done; or stopped by a fault
after some progress. -/
inductive EngRes where
  | fin (s : State) (exc prog : Nat)
  | reject
  | stop (s : State) (code prog : Nat)

/-- An element operand of slot value v (R221), none for a reserved code or an unused slot. -/
def slotDesc (x : EngCtx) (v : Nat) : Option Desc :=
  if !slUsed v then none
  else match fmtOf (natBits v 63 60), arrOf (natBits v 59 58) with
    | some f, some a =>
      if a != .plain && !fmtBlockable f then none
      else some { base := spBase x.core + slOffset v, space := 1, fmt := f, arr := a, row4 := natBit v 57,
                  ovf := ewOvf x.w, stoch := ewRound x.w == 1, rank := if slRows v = 1 then 1 else 2, tid := x.prm.tid,
                  size0 := 16 * slN0 v, size1 := slRows v, stride1 := slStride v }
    | _, _ => none

/-- A record operand (R221): its rows as plain bytes. -/
def slotRecs (x : EngCtx) (v : Nat) : Desc :=
  { base := spBase x.core + slOffset v, space := 1, fmt := .int8, arr := .plain, rank := if slRows v = 1 then 1 else 2,
    size0 := 32 * slN0 v, size1 := slRows v, stride1 := slStride v }

/-- An int16 operand (R221): 2 * n0 bytes in one row. -/
def slotInts (x : EngCtx) (v : Nat) : Desc :=
  { base := spBase x.core + slOffset v, space := 1, fmt := .int8, arr := .plain, rank := 1, size0 := 2 * slN0 v }

/-- Bytes of a row of an operand: an int16 run is not padded. -/
def opBytes (d : Desc) : Nat := if d.fmt = .int8 && d.arr == .plain then d.size0 else rowBytes d

/-- Do any rows of two operands overlap? -/
def opsMeet (d e : Desc) : Bool :=
  (List.range d.size1).any (fun i => (List.range e.size1).any (fun j =>
    let x := rowAt d i 0 0
    let y := rowAt e j 0 0
    decide (x < y + opBytes e) && decide (y < x + opBytes d)))

/-- Are two slots the same operand: equal offset, stride, sizes and layout (R222)? -/
def slotsSame (v u : Nat) : Bool :=
  slOffset v == slOffset u && slN0 v == slN0 u && slN1 v == slN1 u && natBit v 57 == natBit u 57
    && (slRows v == 1 || slStride v == slStride u)

/-- A source is apart from the destination, or is the same operand where the operation allows it (R222). -/
def apartFrom (inPlace : Bool) (d : Desc) (v : Nat) (c : Desc) (u : Nat) : Bool :=
  !opsMeet d c || (inPlace && slotsSame v u)

/-- Is the parameter block clear of a destination (R222)? -/
def prmApart (x : EngCtx) (len : Nat) (c : Desc) : Bool :=
  !opsMeet { base := spBase x.core + 64 * ewPrm x.w, space := 1, fmt := .int8, arr := .plain, rank := 1, size0 := len } c

/-- Parameter-block words that hold anchors: MMA (matrix op 1) and VACC. -/
def prmAnchors (w : EngWord) : Bool := (ewEng w == 0 && ewOp w == 1) || (ewEng w == 1 && ewOp w == 0x14)
/-- Words that need a parameter block (R222). -/
def prmNeeded (w : EngWord) : Bool :=
  prmAnchors w || (ewEng w == 1 && (ewOp w == 0x09 || ewOp w == 0x0B)) || ewRound w == 1
def prmLen (w : EngWord) : Nat := if prmAnchors w then 256 else 32

/-- The block of a word that needs one is clear of its destination (R222). -/
def prmClear (x : EngCtx) (c : Desc) : Bool := !prmNeeded x.w || prmApart x (prmLen x.w) c

/-- A word needs a block and names one inside the scratchpad, or needs none (R222). -/
def prmOk (w : EngWord) : Bool := !prmNeeded w || (ewPen w && decide (64 * ewPrm w + prmLen w ≤ spBytes))

/-- A 16-bit anchor code: 0x8000 stands for a row with no bounded block. -/
def anchorOf (v : Nat) : Option Int := if v = 0x8000 then none else some (signedOf 16 v)

/-- 16-bit values of a run of bytes. -/
def shorts (l : List PByte) : List Nat :=
  (List.range (l.length / 2)).map (fun i => leNat (((l.drop (2 * i)).take 2).map (·.1)))

/-- The parameter block of a word read (R224). -/
def readPrm (core : Nat) (who : Who) (w : EngWord) (s : State) : State × Prm :=
  if !prmNeeded w then (s, {})
  else
    let (s, l) := memRead who false 1 (spBase core + 64 * ewPrm w) (prmLen w) s
    let f (off n : Nat) : Nat := leNat (((l.drop off).take n).map (·.1))
    let bad := l.any (·.2)
    if prmAnchors w then
      let v := (shorts l).map anchorOf
      (s, { xanch := v.take 64, wanch := v.drop 64, bad := bad })
    else (s, { tid := f 0 4, pos0 := f 8 8, pstride := f 16 8, s0 := f 24 4, s1 := f 28 4, bad := bad })

/-! ### Running the head word of an engine -/

/-- The words of an engine's queue, with the new head's waiting time started. -/
def popQueue (now : Nat) : List EngWord → List EngWord
  | [] => []
  | _ :: [] => []
  | _ :: w :: t => { w with since := now } :: t

/-- An engine's head word that has not run, on a core that may run it. -/
def headWord (s : State) (a c k eng : Nat) : Option EngWord :=
  match engQueue (coreSt s (coreNo a c k)) eng with
  | [] => none
  | w :: _ => if w.ran || stoppedAt s (hxCore a c k) || (hearth s (hxCluster a c)).halted then none else some w

/-- A word rejected at the head of its engine (R35, R229). -/
def rejectWord (a c k eng : Nat) (w : EngWord) (s : State) : State := engineFault a c k eng stDescriptor w 0 0 s

/-- The head word of an engine runs when it is the one the row names and its wait holds (R225, R226). An undefined word at the head
is rejected whatever row was sent (R220). -/
def engineRun (a c k eng op : Nat) (act : EngCtx → State → EngRes) (s : State) : Host.Outcome State Fault Refusal :=
  let x := coreNo a c k
  match headWord s a c k eng with
  | none => noEvent s
  | some w =>
    if !ewDefined eng (ewOp w) || 2 ≤ ewRound w then done (rejectWord a c k eng w s)
    else if ewOp w != op || !waitHolds (coreSt s x) w then noEvent s
    else if !prmOk w then done (rejectWord a c k eng w s)
    else
      let who : Who := ⟨engSource eng, w.tag, true⟩
      let s1 := traceIf a c (hxCore a c k) w 1 0 0 { s with found := [] }
      let (s1, prm) := readPrm x who w s1
      match act ⟨x, w, who, prm⟩ s1 with
      | .reject => done (rejectWord a c k eng w s)
      | .stop s2 code prog => done (engineFault a c k eng code w (if prog = 0 then 0 else 1) prog (latchFound who s2))
      | .fin s2 exc prog =>
        let s2 := latchFound who s2
        let y := coreSt s2 x
        let q := match engQueue y eng with
          | [] => []
          | v :: t => { v with ran := true, exc := exc, prog := prog } :: t
        done (setCore x (setEngQueue eng q y) s2)

/-- An operation with no operand checks of its own to make first. -/
def engFin (s : State) (exc prog : Nat) : EngRes := .fin s exc prog

end Sys2Proof.Machine
end

