-- ==== Sys2Proof/Machine/Engines.lean ====
section
/-! DEFINITION. The operations of the matrix, vector and move engines (spec/09_anvil_cores_bellows_hammer.md, R214 to R219, R223).
A command names the core whose engine runs the word at the head of its queue. -/

namespace Sys2Proof.Machine

/-! ### Matrix engine -/

def bankKey2 (core b : Nat) : Nat := core * 2 + b
def bank (s : State) (core b : Nat) : Bank := tabGet {} s.banks (bankKey2 core b)
def setBank (core b : Nat) (v : Bank) (s : State) : State := { s with banks := tabSet {} s.banks (bankKey2 core b) v }

/-- Sum of two anchors; none where either row has no bounded block (R72). -/
def addAnchors (x y : Option Int) : Option Int := match x, y with | some a, some b => some (a + b) | _, _ => none

/-- Entry (m, n) of a bank as its words hold it (R214). -/
def rawEntry (b : Bank) (m n : Nat) : BankEntry :=
  match tabGet none b.cells (m * 64 + n) with
  | some e => e
  | none => { anchor := addAnchors (nth b.xa m none) (nth b.wa n none), written := b.cleared }

/-- An entry as three 64-bit words: its accumulator, and its anchor with its flags. [PRESUMED, log 173] -/
def entryWords (e : BankEntry) : List Nat :=
  [e.acc.val.toNat % 2 ^ 64, e.acc.val.toNat / 2 ^ 64, anchorCode e.anchor + 2 ^ 16 * accFlags e.acc]

/-- Entry (m, n) of a bank as read through the code of its words: corrected, or its poison mark set where one is uncorrectable (R165,
R212). -/
def bankEntry (b : Bank) (m n : Nat) : BankEntry :=
  let e := rawEntry b m n
  let syn (k : Nat) : Nat := (tabGet 0 b.syn (4 * (64 * m + n) + k)).toNat
  if b.syn.isEmpty || (syn 0 == 0 && syn 1 == 0 && syn 2 == 0) then e
  else
    let ws := ((List.range 3).zip (entryWords e)).map (fun p => sramDecode (sramEncode p.2 ^^^ syn p.1) p.2)
    let w (k : Nat) : Nat := (nth ws k (.clean, 0)).2
    let code := w 2 % 2 ^ 16
    { e with
      acc := { val := BitVec.ofNat 128 (w 0 + 2 ^ 64 * w 1), nan := natBit (w 2) 16, pinf := natBit (w 2) 17, ninf := natBit (w 2) 18,
               poison := e.acc.poison || ws.any (fun x => x.1 == .uncorrectable) },
      anchor := if code = 0x8000 then none else some (signedOf 16 code) }

/-- An entry written with fresh check bits. -/
def setEntry (m n : Nat) (e : BankEntry) (b : Bank) : Bank :=
  { b with cells := tabSet none b.cells (m * 64 + n) (some e),
           syn := b.syn.filter (fun x => x.1 / 4 != 64 * m + n) }

/-- Formats of the matrix engine (R68). -/
def matrixOk (d : Desc) : Bool := fmtWeight d.fmt || ((d.fmt == .bf16 || d.fmt == .fp16) && d.arr == .plain)

/-- First element of a row whose bound exponent exceeds the row's anchor, if any (R214). -/
def firstOver (anchor : Option Int) (d : Desc) (es : List Elem) : Option Nat :=
  match anchor with
  | none => none
  | some a => ((List.range es.length).zip es).findSome? (fun ie =>
      if ie.2.poison then none
      else match elemBound d ie.2 with | some b => if a < b then some ie.1 else none | none => none)

def minOpt : List (Option Nat) → Option Nat
  | [] => none
  | none :: t => minOpt t
  | some a :: t => match minOpt t with | none => some a | some b => some (min a b)

/-- Rows of an operand read as elements. -/
def readRows (who : Who) (d : Desc) (s : State) : State × List (List Elem) :=
  collect (fun i s => let (s, l) := readRow who false d (rowAt d i 0 0) s; (s, rowElems d l)) (List.range d.size1) s

/-- One pair of rows added into its entry (R214); a pair with no frame keeps only the flags of R76. -/
def mmaPair (pa : Option Int) (bad : Bool) (k : Nat) (x w : List Elem) (e : BankEntry) : BankEntry :=
  let a := dotInto pa x w e.acc
  { acc := { a with poison := a.poison || bad }, terms := e.terms + k, written := true,
    anchor := match pa with | some z => some z | none => e.anchor }

/-- MMA (R214). -/
def mma (x : EngCtx) (s : State) : EngRes :=
  match slotDesc x x.w.w2, slotDesc x x.w.w1 with
  | some dx, some dw =>
    let b := natBits x.w.w0 63 63
    let clr := natBit x.w.w0 62
    let k := dx.size0
    let b0 : Bank := if clr then { cleared := true, xa := x.prm.xanch, wa := x.prm.wanch } else bank s x.core b
    let pairs := (List.range dx.size1).flatMap (fun m => (List.range dw.size1).map (fun n => (m, n)))
    let anchorAt (m n : Nat) : Option Int := addAnchors (nth x.prm.xanch m none) (nth x.prm.wanch n none)
    if !srcOk s dx || !srcOk s dw || !matrixOk dx || !matrixOk dw || dx.size0 != dw.size0 || 64 < dx.size1 || 64 < dw.size1
        || pairs.any (fun p => decide (2 ^ 24 < (bankEntry b0 p.1 p.2).terms + k)) then .reject
    else if pairs.any (fun p =>
        let e := bankEntry b0 p.1 p.2
        match anchorAt p.1 p.2, e.anchor with | some a, some z => e.written && a != z | _, _ => false)
    then .stop s stAnchor 0
    else
      let (s, xs) := readRows x.who dx s
      let (s, ws) := readRows x.who dw s
      let ovfl := minOpt (((List.range xs.length).zip xs).map (fun p => firstOver (nth x.prm.xanch p.1 none) dx p.2)
                    ++ ((List.range ws.length).zip ws).map (fun p => firstOver (nth x.prm.wanch p.1 none) dw p.2))
      let steps := match ovfl with | some i => i / 16 | none => k / 16
      let b1 := pairs.foldl (fun b p =>
        setEntry p.1 p.2 (mmaPair (anchorAt p.1 p.2) x.prm.bad (16 * steps) ((nth xs p.1 []).take (16 * steps))
          ((nth ws p.2 []).take (16 * steps)) (bankEntry b p.1 p.2)) b) b0
      let s := setBank x.core b b1 s
      match ovfl with
      | some _ => .stop s stAnchor steps
      | none => .fin s 0 steps
  | _, _ => .reject

def execMma (a : Fin 4) (c k : Fin 16) (s : State) : Host.Outcome State Fault Refusal := live s <|
  engineRun a.val c.val k.val 0 0x01 mma s

/-! ### Vector engine: rows of elements -/

/-- Operands A, B and C of an elementwise word, checked (R217, R222). -/
structure Trio where
  a : Desc
  b : Option Desc
  c : Desc

/-- INT32 operands belong to VCVT and the move engine (R216). -/
def notInt32 (d : Desc) : Bool := d.fmt != .int32

/-- Does B fit A: equal sizes, or one element per row under rs = 1 (R217)? -/
def fitsB (x : EngCtx) (a b : Desc) : Bool := a.size1 == b.size1 && (ewRs x.w || a.size0 == b.size0)

/-- The operands of an elementwise word that pass R216, R217 and R222. -/
def trioOf (x : EngCtx) (s : State) (needB takesB int32 : Bool) : Option Trio :=
  match slotDesc x x.w.w2, slotDesc x x.w.w0 with
  | some a, some c =>
    let base := srcOk s a && dstOk s c && a.size0 == c.size0 && a.size1 == c.size1 && (int32 || (notInt32 a && notInt32 c))
      && apartFrom true a x.w.w2 c x.w.w0 && prmClear x c
    if !base then none
    else if !takesB || (!needB && !slUsed x.w.w1) then some ⟨a, none, c⟩
    else match slotDesc x x.w.w1 with
      | some b => if srcOk s b && notInt32 b && fitsB x a b && apartFrom true b x.w.w1 c x.w.w0 then some ⟨a, some b, c⟩ else none
      | none => none
  | _, _ => none

/-- Position of element 0 of row e1 for the draws of R224. -/
def drawPos (x : EngCtx) (e1 : Nat) : Nat := x.prm.pos0 + e1 * x.prm.pstride

/-- Rows of C from rows of A and B, one at a time: each read, computed, converted and written. -/
def rowsThrough (x : EngCtx) (t : Trio) (f : ExNum → ExNum → ExNum) (s : State) : State × Nat :=
  (List.range t.a.size1).foldl (fun se i =>
    let (s, e) := se
    let (s, la) := readRow x.who false t.a (rowAt t.a i 0 0) s
    let ea := rowElems t.a la
    let (s, eb) := match t.b with
      | none => (s, [])
      | some b => let (s, lb) := readRow x.who false b (rowAt b i 0 0) s; (s, rowElems b lb)
    let z : Elem := ⟨numZero, 0, 0, false⟩
    let xs := (List.range ea.length).zip ea |>.map (fun ie =>
      let v := nth eb (if ewRs x.w then 0 else ie.1) z
      (f ie.2.val v.val, ie.2.poison || v.poison || x.prm.bad))
    let (s, e') := putRow x.who t.c (rowAt t.c i 0 0) (drawPos x i) xs s
    (s, e ||| e')) (s, 0)

/-- An elementwise word (R216, R217). -/
def elementwise (needB takesB int32 : Bool) (f : EngCtx → ExNum → ExNum → ExNum) (x : EngCtx) (s : State) : EngRes :=
  match trioOf x s needB takesB int32 with
  | none => .reject
  | some t => let (s, e) := rowsThrough x t (f x) s; .fin s e t.a.size1

/-- Larger of two values with −0 below +0; NaN if either is NaN (R216). -/
def vMax (x y : ExNum) : ExNum :=
  match x, y with
  | .nan, _ | _, .nan => .nan
  | _, _ => if numLt x y then y else if numLt y x then x else if numNeg x then y else x
def vMin (x y : ExNum) : ExNum :=
  match x, y with
  | .nan, _ | _, .nan => .nan
  | _, _ => if numLt x y then x else if numLt y x then y else if numNeg x then x else y

/-- The value of an FP32 code. -/
def fp32 (c : Nat) : ExNum := elemValue .fp32 c

def execVadd (a : Fin 4) (c k : Fin 16) (s : State) : Host.Outcome State Fault Refusal := live s <|
  engineRun a.val c.val k.val 1 0x01 (elementwise true true false (fun _ x y => roundFp32 (numAdd x y))) s
def execVsub (a : Fin 4) (c k : Fin 16) (s : State) : Host.Outcome State Fault Refusal := live s <|
  engineRun a.val c.val k.val 1 0x02 (elementwise true true false (fun _ x y => roundFp32 (numAdd x (numFlip y)))) s
def execVmul (a : Fin 4) (c k : Fin 16) (s : State) : Host.Outcome State Fault Refusal := live s <|
  engineRun a.val c.val k.val 1 0x03 (elementwise true true false (fun _ x y => roundFp32 (numMul x y))) s
def execVdiv (a : Fin 4) (c k : Fin 16) (s : State) : Host.Outcome State Fault Refusal := live s <|
  engineRun a.val c.val k.val 1 0x04 (elementwise true true false (fun _ x y => roundFp32 (numDiv x y))) s
def execVmax (a : Fin 4) (c k : Fin 16) (s : State) : Host.Outcome State Fault Refusal := live s <|
  engineRun a.val c.val k.val 1 0x05 (elementwise true true false (fun _ => vMax)) s
def execVmin (a : Fin 4) (c k : Fin 16) (s : State) : Host.Outcome State Fault Refusal := live s <|
  engineRun a.val c.val k.val 1 0x06 (elementwise true true false (fun _ => vMin)) s
def execVsqrt (a : Fin 4) (c k : Fin 16) (s : State) : Host.Outcome State Fault Refusal := live s <|
  engineRun a.val c.val k.val 1 0x07 (elementwise false false false (fun _ x _ => roundFp32 (numSqrt x))) s
/-- VEXP: exp of A, or of A − B formed exactly. -/
def execVexp (a : Fin 4) (c k : Fin 16) (s : State) : Host.Outcome State Fault Refusal := live s <|
  engineRun a.val c.val k.val 1 0x08 (elementwise false true false (fun x p q =>
    expValue (if slUsed x.w.w1 then numAdd p (numFlip q) else p))) s
/-- VSCL: one fused multiply-add, rounded once. -/
def execVscl (a : Fin 4) (c k : Fin 16) (s : State) : Host.Outcome State Fault Refusal := live s <|
  engineRun a.val c.val k.val 1 0x09 (elementwise false false false (fun x p _ =>
    roundFp32 (numAdd (numMul p (fp32 x.prm.s0)) (fp32 x.prm.s1)))) s
def execVcvt (a : Fin 4) (c k : Fin 16) (s : State) : Host.Outcome State Fault Refusal := live s <|
  engineRun a.val c.val k.val 1 0x0A (elementwise false false true (fun _ x _ => x)) s

/-- VFILL: the pattern s0 over row_bytes of every row (R217). -/
def vfill (x : EngCtx) (s : State) : EngRes :=
  match slotDesc x x.w.w0 with
  | none => .reject
  | some c =>
    if !dstOk s c || !prmApart x 32 c then .reject
    else
      let row := (List.range (rowBytes c)).map (fun i => (BitVec.ofNat 8 (x.prm.s0 >>> (8 * (i % 4))), x.prm.bad))
      .fin (overList (fun i s => memWrite x.who 1 (rowAt c i 0 0) row s) (List.range c.size1) s) 0 c.size1
def execVfill (a : Fin 4) (c k : Fin 16) (s : State) : Host.Outcome State Fault Refusal := live s <|
  engineRun a.val c.val k.val 1 0x0B vfill s

/-- A word that gives one element per row of A: C(0, m) (R217). -/
def perRow (f : Desc → List Elem → ExNum) (x : EngCtx) (s : State) : EngRes :=
  match slotDesc x x.w.w2, slotDesc x x.w.w0 with
  | some a, some c =>
    if !srcOk s a || !dstOk s c || !notInt32 a || !notInt32 c || a.size1 != c.size1
        || !apartFrom false a x.w.w2 c x.w.w0 || !prmClear x c then .reject
    else
      let (s, e) := (List.range a.size1).foldl (fun se i =>
        let (s, e) := se
        let (s, l) := readRow x.who false a (rowAt a i 0 0) s
        let es := rowElems a l
        let (s, e') := putRow x.who c (rowAt c i 0 0) (drawPos x i) [(f a es, es.any (·.poison) || x.prm.bad)] s
        (s, e ||| e')) (s, 0)
      .fin s e a.size1
  | _, _ => .reject

/-- VRSUM: the exact sum in the frame of the row's own largest bound exponent. -/
def rowSum (d : Desc) (es : List Elem) : ExNum :=
  match rowBound d es with
  | some z => accValue z (es.foldl (fun a e => accAdd z e.val a) accZero)
  | none => accValue 0 { es.foldl (fun a e => accAdd 0 e.val a) accZero with val := 0 }
def execVrsum (a : Fin 4) (c k : Fin 16) (s : State) : Host.Outcome State Fault Refusal := live s <|
  engineRun a.val c.val k.val 1 0x10 (perRow rowSum) s

/-- VRMAXF: NaN if any element is not finite, else the largest. -/
def rowMaxF (es : List Elem) : ExNum :=
  if es.any (fun e => !numIsFin e.val) then .nan
  else match es with
    | [] => .nan
    | e :: t => t.foldl (fun m y => vMax m y.val) e.val
def execVrmaxf (a : Fin 4) (c k : Fin 16) (s : State) : Host.Outcome State Fault Refusal := live s <|
  engineRun a.val c.val k.val 1 0x11 (perRow (fun _ => rowMaxF)) s

/-- A signed 16-bit maximum. -/
def max16 (x y : Nat) : Nat := if signedOf 16 x < signedOf 16 y then y else x

/-- Place of an int16 operand (R221, R222). -/
def intsOk (s : State) (d : Desc) : Bool := 1 ≤ d.size0 && placeOk s d d.size0

/-- Value i of an int16 operand replaced by the larger of it and a value. -/
def max16At (x : EngCtx) (c : Desc) (i v : Nat) (bad : Bool) (s : State) : State :=
  let (s, l) := memRead x.who false 1 (c.base + 2 * i) 2 s
  let w := max16 (leNat (l.map (·.1))) v
  memWrite x.who 1 (c.base + 2 * i) ((leBytes 2 w).map (fun b => (b, bad || l.any (·.2)))) s

/-- VAMAX: per-row maxima of bound exponents; a row with none leaves its value (0x8000 is the least). -/
def vamax (x : EngCtx) (s : State) : EngRes :=
  match slotDesc x x.w.w2 with
  | none => .reject
  | some a =>
    let c := slotInts x x.w.w0
    if !slUsed x.w.w0 || !srcOk s a || !notInt32 a || !intsOk s c || slN0 x.w.w0 < a.size1 || opsMeet a c || !prmClear x c then .reject
    else
      .fin (overList (fun i s =>
        let (s, l) := readRow x.who false a (rowAt a i 0 0) s
        let es := rowElems a l
        max16At x c i (anchorCode (rowBound a es)) (es.any (·.poison)) s) (List.range a.size1) s) 0 a.size1
def execVamax (a : Fin 4) (c k : Fin 16) (s : State) : Host.Outcome State Fault Refusal := live s <|
  engineRun a.val c.val k.val 1 0x12 vamax s

/-- VIMAX: maxima of two int16 arrays. -/
def vimax (x : EngCtx) (s : State) : EngRes :=
  let a := slotInts x x.w.w2
  let c := slotInts x x.w.w0
  if !slUsed x.w.w2 || !slUsed x.w.w0 || slN0 x.w.w2 != slN0 x.w.w0 || !intsOk s a || !intsOk s c
      || !(!opsMeet a c || a.base == c.base) || !prmClear x c then .reject
  else
    .fin (overList (fun i s =>
      let (s, l) := memRead x.who false 1 (a.base + 2 * i) 2 s
      max16At x c i (leNat (l.map (·.1))) (l.any (·.2)) s) (List.range (slN0 x.w.w2)) s) 0 1
def execVimax (a : Fin 4) (c k : Fin 16) (s : State) : Host.Outcome State Fault Refusal := live s <|
  engineRun a.val c.val k.val 1 0x13 vimax s

/-! ### Vector engine: raw records -/

/-- A raw record as read (R183). -/
structure Rec where
  acc    : Accum
  anchor : Option Int
  code   : Nat

/-- The record at byte 32 * i of a row's bytes. -/
def recOf (row : List PByte) (i : Nat) : Rec :=
  let l := (row.drop (32 * i)).take 32
  let f (off n : Nat) : Nat := leNat (((l.drop off).take n).map (·.1))
  let fl := f 18 1
  let code := f 16 2
  { acc := { val := BitVec.ofNat 128 (f 0 16), nan := natBit fl 0, pinf := natBit fl 1, ninf := natBit fl 2,
             poison := l.any (·.2) },
    anchor := anchorOf code, code := code }

/-- A record that holds nothing: it matches any anchor (R183, R217). -/
def recEmpty (r : Rec) : Bool := r.acc.val = 0 && !r.acc.nan && !r.acc.pinf && !r.acc.ninf && !r.acc.poison

/-- The 32 bytes of a record, all poisoned when it is. -/
def recBytesOf (a : Accum) (code : Nat) : List PByte := (rawRecord a.val code (accFlags a)).map (fun b => (b, a.poison))

/-- Record sum of RACC: none where the anchors differ (R217). -/
def recJoin (c a : Rec) : Option Rec :=
  if recEmpty a then some c
  else if recEmpty c then some a
  else if a.code = c.code then some { c with acc := accJoin c.acc a.acc }
  else none

/-- Rows done one after another until one stops with the anchor fault. -/
def untilStop (f : Nat → State → Option (State × Nat)) : List Nat → Nat → Nat → State → EngRes
  | [], n, e, s => .fin s e n
  | i :: t, n, e, s =>
    match f i s with
    | none => .stop s stAnchor n
    | some (s, e') => untilStop f t (n + 1) (e ||| e') s

/-- VACC (R217). -/
def vaccWord (x : EngCtx) (s : State) : EngRes :=
  match slotDesc x x.w.w2, slotDesc x x.w.w1 with
  | some a, some b =>
    let c := slotRecs x x.w.w0
    if !slUsed x.w.w0 || !srcOk s a || !srcOk s b || !notInt32 a || !notInt32 b || !dstOk s c || a.size0 != b.size0
        || a.size1 != c.size1 || b.size1 != slN0 x.w.w0 || 64 < a.size1
        || opsMeet a c || opsMeet b c || !prmApart x 256 c then .reject
    else
      let (s, bs) := readRows x.who b s
      untilStop (fun m s =>
        let frame := addAnchors (nth x.prm.xanch m none) (nth x.prm.wanch 0 none)
        let (s, la) := readRow x.who false a (rowAt a m 0 0) s
        let ea := rowElems a la
        let (s, lc) := memRead x.who false 1 (rowAt c m 0 0) c.size0 s
        let old := (List.range bs.length).map (recOf lc)
        if old.any (fun r => !recEmpty r && r.code != anchorCode frame) then none
        else
          let new := old.zipWith (fun r eb =>
            let z := dotInto frame ea eb r.acc
            recBytesOf { z with poison := z.poison || x.prm.bad } (anchorCode frame)) bs
          some (memWrite x.who 1 (rowAt c m 0 0) new.flatten s, 0)) (List.range a.size1) 0 0 s
  | _, _ => .reject
def execVacc (a : Fin 4) (c k : Fin 16) (s : State) : Host.Outcome State Fault Refusal := live s <|
  engineRun a.val c.val k.val 1 0x14 vaccWord s

/-- Rows and columns that a bank slot names (R223). -/
def bankRows (v : Nat) : Nat := natBits v 5 0 + 1
def bankCols (v : Nat) : Nat := natBits v 11 6 + 1

/-- Entries read by ACVT or ARAW cleared (R223); words put right in reading are written back (R165). -/
def clearEntries (x : EngCtx) (s : State) : State :=
  let v := x.w.w2
  let b := natBits v 63 63
  let y := bank s x.core b
  let cleared (f : Nat → Nat → BankEntry) : State :=
    setBank x.core b ((List.range (bankRows v)).foldl (fun z m => (List.range (bankCols v)).foldl (fun z n => setEntry m n (f m n) z) z) y) s
  if natBit v 62 then cleared (fun _ _ => {})
  else if y.syn.isEmpty then s
  else cleared (bankEntry y)

/-- ACVT (R217). -/
def acvt (x : EngCtx) (s : State) : EngRes :=
  match slotDesc x x.w.w0 with
  | none => .reject
  | some c =>
    let v := x.w.w2
    if !dstOk s c || !notInt32 c || c.size0 < bankCols v || c.size1 < bankRows v || !prmClear x c
    then .reject
    else
      let b := bank s x.core (natBits v 63 63)
      let (s, e) := (List.range (bankRows v)).foldl (fun se m =>
        let xs := (List.range (bankCols v)).map (fun n =>
          let y := bankEntry b m n
          (accValue (y.anchor.getD 0) y.acc, y.acc.poison || x.prm.bad))
        let (s, e') := putRow x.who c (rowAt c m 0 0) (drawPos x m) xs se.1
        (s, se.2 ||| e')) (s, 0)
      .fin (clearEntries x s) e (bankRows v)
def execAcvt (a : Fin 4) (c k : Fin 16) (s : State) : Host.Outcome State Fault Refusal := live s <|
  engineRun a.val c.val k.val 1 0x18 acvt s

/-- ARAW (R217). -/
def araw (x : EngCtx) (s : State) : EngRes :=
  let c := slotRecs x x.w.w0
  let v := x.w.w2
  if !slUsed x.w.w0 || !dstOk s c || slN0 x.w.w0 < bankCols v || c.size1 < bankRows v || !prmClear x c then .reject
  else
    let b := bank s x.core (natBits v 63 63)
    let s := overList (fun m s =>
      memWrite x.who 1 (rowAt c m 0 0) ((List.range (bankCols v)).flatMap (fun n =>
        let y := bankEntry b m n
        recBytesOf y.acc (anchorCode y.anchor))) s) (List.range (bankRows v)) s
    .fin (clearEntries x s) 0 (bankRows v)
def execAraw (a : Fin 4) (c k : Fin 16) (s : State) : Host.Outcome State Fault Refusal := live s <|
  engineRun a.val c.val k.val 1 0x19 araw s

/-- RACC (R217). -/
def racc (x : EngCtx) (s : State) : EngRes :=
  let a := slotRecs x x.w.w2
  let c := slotRecs x x.w.w0
  if !slUsed x.w.w2 || !slUsed x.w.w0 || !srcOk s a || !dstOk s c || a.size0 != c.size0 || a.size1 != c.size1
      || !apartFrom true a x.w.w2 c x.w.w0 || !prmClear x c then .reject
  else
    untilStop (fun m s =>
      let (s, la) := memRead x.who false 1 (rowAt a m 0 0) a.size0 s
      let (s, lc) := memRead x.who false 1 (rowAt c m 0 0) c.size0 s
      let js := (List.range (slN0 x.w.w0)).map (fun i => recJoin (recOf lc i) (recOf la i))
      if js.any (·.isNone) then none
      else some (memWrite x.who 1 (rowAt c m 0 0)
        (js.flatMap (fun j => match j with | some r => recBytesOf r.acc r.code | none => [])) s, 0))
      (List.range a.size1) 0 0 s
def execRacc (a : Fin 4) (c k : Fin 16) (s : State) : Host.Outcome State Fault Refusal := live s <|
  engineRun a.val c.val k.val 1 0x1A racc s

/-- A word that turns rows of records into rows of elements: `f` gives a row's elements from its records, and the change to the
Anvil's counts. -/
def recRows (fits : Nat → Desc → Bool) (f : EngCtx → List Rec → List (ExNum × Bool) × Nat) (note : Nat → Nat → State → State)
    (x : EngCtx) (s : State) : EngRes :=
  let a := slotRecs x x.w.w2
  match slotDesc x x.w.w0 with
  | none => .reject
  | some c =>
    if !slUsed x.w.w2 || !srcOk s a || !dstOk s c || !notInt32 c || !fits (slN0 x.w.w2) c || a.size1 != c.size1
        || !apartFrom false a x.w.w2 c x.w.w0 || !prmClear x c then .reject
    else
      let (s, e) := (List.range a.size1).foldl (fun se m =>
        let (s, la) := memRead x.who false 1 (rowAt a m 0 0) a.size0 se.1
        let (xs, kind) := f x ((List.range (slN0 x.w.w2)).map (recOf la))
        let (s, e') := putRow x.who c (rowAt c m 0 0) (drawPos x m) xs s
        (note (x.core / 256) kind s, se.2 ||| e')) (s, 0)
      .fin s e a.size1

/-- RCVT (R217). -/
def execRcvt (a : Fin 4) (c k : Fin 16) (s : State) : Host.Outcome State Fault Refusal := live s <|
  engineRun a.val c.val k.val 1 0x1B
    (recRows (fun n c => decide (n ≤ c.size0))
      (fun x rs => (rs.map (fun r => (accValue (r.anchor.getD 0) r.acc, r.acc.poison || x.prm.bad)), 0))
      (fun _ _ s => s)) s

/-- Outcome of a row under R207: its elements, and 1 for a NaN row, 2 for an empty one. -/
def attentionOut (x : EngCtx) (rs : List Rec) : List (ExNum × Bool) × Nat :=
  match rs with
  | [] => ([], 0)
  | st :: vt =>
    let bad := x.prm.bad || rs.any (·.acc.poison)
    let q (r : Rec) : ExNum := numDiv (accValue (r.anchor.getD 0) r.acc) (accValue (st.anchor.getD 0) st.acc)
    if bad then (vt.map (fun r => (q r, true)), 0)
    else if st.acc.nan then (vt.map (fun _ => (.nan, false)), 1)
    else if st.acc.val = 0 then (vt.map (fun _ => (numZero, false)), 2)
    else (vt.map (fun r => (q r, false)), 0)

/-- ANV_ATT_CNT (R206): nan_rows and empty_rows, wrapping. -/
def countRows (a kind : Nat) (s : State) : State :=
  if kind = 1 then bumpRf (anvReg a 0x300) 31 0 1 s
  else if kind = 2 then bumpRf (anvReg a 0x300) 63 32 1 s else s

/-- AQUO (R191, R207, R217). -/
def execAquo (a : Fin 4) (c k : Fin 16) (s : State) : Host.Outcome State Fault Refusal := live s <|
  engineRun a.val c.val k.val 1 0x1C
    (recRows (fun n c => n == c.size0 + 1) attentionOut countRows) s

/-! ### Move engine -/

/-- Bytes of a row laid out for another layout of the same records (R50, R62): padding is written as zero. -/
def repackRow (a c : Desc) (row : List PByte) : List PByte :=
  if a.arr = .plain then
    let bits := a.size0 * fmtBits a.fmt
    let whole := row.take (bits / 8)
    let part := if bits % 8 = 0 then [] else
      match (row.drop (bits / 8)).head? with
      | some (b, p) => [(BitVec.ofNat 8 (b.toNat % 2 ^ (bits % 8)), p)]
      | none => []
    let l := whole ++ part
    l ++ List.replicate (rowBytes c - l.length) (0, false)
  else
    let raw := recRaw a.arr a.fmt
    let recs := (chunksOf (recBytes a) (a.size0 / arrBlock a.arr) row).map (fun r =>
      r.take raw ++ List.replicate (recBytes c - raw) (0, false))
    let l := recs.flatten
    l ++ List.replicate (rowBytes c - l.length) (0, false)

/-- MCPY (R219). -/
def mcpy (x : EngCtx) (s : State) : EngRes :=
  match slotDesc x x.w.w2, slotDesc x x.w.w0 with
  | some a, some c =>
    if !srcOk s a || !dstOk s c || a.fmt != c.fmt || a.arr != c.arr || a.size0 != c.size0 || a.size1 != c.size1
        || !apartFrom false a x.w.w2 c x.w.w0 || !prmClear x c then .reject
    else
      .fin (overList (fun i s =>
        let (s, l) := readRow x.who false a (rowAt a i 0 0) s
        memWrite x.who 1 (rowAt c i 0 0) (repackRow a c l) s) (List.range a.size1) s) 0 a.size1
  | _, _ => .reject
def execMcpy (a : Fin 4) (c k : Fin 16) (s : State) : Host.Outcome State Fault Refusal := live s <|
  engineRun a.val c.val k.val 2 0x01 mcpy s

/-- MTRN (R219): plain elements of 8, 16 or 32 bits. -/
def mtrn (x : EngCtx) (s : State) : EngRes :=
  match slotDesc x x.w.w2, slotDesc x x.w.w0 with
  | some a, some c =>
    let n := fmtBits a.fmt / 8
    if !srcOk s a || !dstOk s c || a.fmt != c.fmt || a.arr != .plain || c.arr != .plain || fmtBits a.fmt % 8 != 0
        || c.size1 != a.size0 || c.size0 < a.size1 || !apartFrom false a x.w.w2 c x.w.w0 || !prmClear x c then .reject
    else
      let (s, rows) := collect (fun i s => readRow x.who false a (rowAt a i 0 0) s) (List.range a.size1) s
      .fin (overList (fun j s =>
        memWrite x.who 1 (rowAt c j 0 0) (rows.flatMap (fun l => (l.drop (n * j)).take n)) s) (List.range c.size1) s)
        0 a.size1
  | _, _ => .reject
def execMtrn (a : Fin 4) (c k : Fin 16) (s : State) : Host.Outcome State Fault Refusal := live s <|
  engineRun a.val c.val k.val 2 0x02 mtrn s

end Sys2Proof.Machine
end

