-- ==== Sys2Proof/Machine/Bellows.lean ====
section
/-! DEFINITION. Bellows, the push ports, completion of control words, and the cluster registers that act
(spec/09_anvil_cores_bellows_hammer.md, R225 to R242). -/

namespace Sys2Proof.Machine

/-! ### The head of the Bellows stream -/

/-- May Bellows issue: the cluster runs, is not stopped, and halt is 0 (R229, R241)? -/
def bellowsOpen (s : State) (a c : Nat) : Bool :=
  !(cluster s (clusterNo a c)).stopped && !stoppedAt s (hxCluster a c) && !(hearth s (hxCluster a c)).halted
    && rf s (clReg a c 0) 1 1 == 0

/-- The word Bellows issues next: those a RUN fetched come before the rest of the queue (R232). -/
def bellowsHead (s : State) (a c : Nat) : Option EngWord :=
  let y := cluster s (clusterNo a c)
  match y.fetched with
  | w :: _ => some w
  | [] => y.bq.head?

/-- The head word gone; the next one's waiting time starts. -/
def popBellows (now : Nat) (y : Cluster) : Cluster :=
  match y.fetched with
  | _ :: [] => { y with fetched := [], bq := match y.bq with | w :: t => { w with since := now } :: t | [] => [] }
  | _ :: w :: t => { y with fetched := { w with since := now } :: t }
  | [] => { y with bq := popQueue now y.bq }

/-- Issuer code of a cluster (R26, R237). -/
def clusterCode (a c : Nat) : Nat := 16 * a + c

/-- The head word with its tag: a fetched word is stamped when it is issued (R237). -/
def issueTag (a c : Nat) (w : EngWord) (s : State) : State × EngWord :=
  if (cluster s (clusterNo a c)).fetched.isEmpty then (s, w)
  else let (s, t) := stampTag (clusterCode a c) s; (s, { w with tag := t })

/-- A word entered in an engine queue of a core. -/
def enterQueue (x eng : Nat) (w : EngWord) (s : State) : State :=
  let y := coreSt s x
  setCore x (setEngQueue eng (engQueue y eng ++ [{ w with since := s.time }]) y) s

/-- Free entries of an engine queue (R212). -/
def queueRoom (s : State) (x eng : Nat) : Nat := 16 - (engQueue (coreSt s x) eng).length

/-- The pending push goes on as far as queues have room (R235). -/
def retryPush (a c : Nat) (s : State) : State :=
  let y := cluster s (clusterNo a c)
  match y.push with
  | none => s
  | some p =>
    if y.stopped then dropPush a c s
    else if rf s (clReg a c 0) 1 1 = 1 then s
    else
      let room (k : Nat) : Bool := 0 < queueRoom s (coreNo a c k) (ewEng p.word)
      let ready := if p.bellows then [] else (List.range 16).filter (fun k => natBit p.mask k && room k)
      let takes := if p.bellows then y.bq.length < 64 else !ready.isEmpty
      if !takes then s
      else
        let (s, t) := if p.tagged then (s, p.word.tag) else stampTag (clusterCode a c) s
        let w := { p.word with tag := t }
        if p.bellows then
          setCluster (clusterNo a c) { y with bq := y.bq ++ [{ w with since := s.time }], push := none } s
        else
          let s := overList (fun k s => enterQueue (coreNo a c k) (ewEng w) w s) ready s
          let left := ready.foldl (fun m k => m - 2 ^ k) p.mask
          setCluster (clusterNo a c)
            { y with push := if left = 0 then none else some { p with word := w, mask := left, tagged := true } } s

/-- Cores that a word's mask selects. [DEDUCED, log 138] -/
def maskCores (w : EngWord) : List Nat := (List.range 16).filter (fun k => natBit (ewMask w) k)

/-- A Bellows word's wait holds on every core of its mask (R226). -/
def allWaits (s : State) (a c : Nat) (w : EngWord) : Bool :=
  (maskCores w).all (fun k => waitHolds (coreSt s (coreNo a c k)) w)

/-- A word Bellows rejects: mask 0, an undefined eng 3 word, or a fetched RUN (R220, R232). [DEDUCED, log 151] -/
def bellowsBad (s : State) (a c : Nat) (w : EngWord) : Bool :=
  ewMask w == 0 || (ewEng w == 3 && !ewDefined 3 (ewOp w))
    || (ewEng w == 3 && ewOp w == 0x32 && !(cluster s (clusterNo a c)).fetched.isEmpty)

/-- A fault of the word at the head of the Bellows stream (R229): it has moved nothing, since it is checked before it starts. -/
def bellowsFault (a c code : Nat) (w : EngWord) (s : State) : State :=
  let (s, w) := issueTag a c w s
  let s := traceIf a c (hxCluster a c) w 5 0 0 s
  let s := setCluster (clusterNo a c) (popBellows s.time (cluster s (clusterNo a c))) s
  clusterFault a c (hxCluster a c) 3 code w.tag 0 0 s

/-- The head of the Bellows stream is done when it is an eng 3 word of the op the row names and its wait holds. `act` answers none
for a rejected word. -/
def bellowsRun (a c op : Nat) (act : EngWord → State → Option State) (s : State) : Host.Outcome State Fault Refusal :=
  match bellowsHead s a c with
  | none => noEvent s
  | some w =>
    if !bellowsOpen s a c then noEvent s
    else if bellowsBad s a c w then done (bellowsFault a c stDescriptor w s)
    else if ewEng w != 3 || ewOp w != op || !allWaits s a c w then noEvent s
    else
      let (s1, w) := issueTag a c w s
      match act w s1 with
      | none => done (bellowsFault a c stDescriptor w s)
      | some s2 => done (retryPush a c (setCluster (clusterNo a c) (popBellows s2.time (cluster s2 (clusterNo a c))) s2))

/-- One more Bellows word completed (ANV_CL_STAT.bdone). [DEDUCED, log 137] -/
def bumpBellows (a c : Nat) (s : State) : State :=
  let y := cluster s (clusterNo a c)
  setCluster (clusterNo a c) { y with bdone := (y.bdone + 1) % 2 ^ 32 } s

/-- A Bellows word that completes as soon as it is issued. -/
def bellowsDone (a c : Nat) (w : EngWord) (s : State) : State :=
  let s := traceIf a c (hxCluster a c) w 2 0 0 (traceIf a c (hxCluster a c) w 1 0 0 s)
  let s := updHearth (hxCluster a c) (fun h => { h with lastTag := w.tag }) (bumpBellows a c s)
  if ewEv w then countUp (hxCluster a c) 2 s else s

/-- BAR (R232). -/
def execBar (a : Fin 4) (c : Fin 16) (s : State) : Host.Outcome State Fault Refusal := live s <|
  bellowsRun a.val c.val 0x33 (fun w s => some (bellowsDone a.val c.val w s)) s

/-! ### LOAD and STORE -/

/-- May a Bellows of Anvil a reach `n` bytes of a remote space (R231, R95)? -/
def remoteOk (s : State) (a space addr n : Nat) : Bool :=
  addrOk s space addr n &&
    (match space with
     | 2 => addr / 2 ^ 32 == a
     | 3 => addr / 2 ^ 32 / 5 == a
     | 4 => smStack addr / 5 == a
     | _ => false)

/-- Fields of a LOAD or STORE (R231). -/
def lsSpace (w : EngWord) : Nat := natBits w.w1 63 60
def lsRstride (w : EngWord) : Nat := 4 * natBits w.w1 57 30
def lsCstride (w : EngWord) : Nat := 4 * natBits w.w1 29 2
def lsSpoff (w : EngWord) : Nat := 4 * natBits w.w0 63 46
def lsSpstride (w : EngWord) : Nat := 4 * natBits w.w0 45 28
def lsBytes (w : EngWord) : Nat := 4 * natBits w.w0 27 12
def lsRows (w : EngWord) : Nat := natBits w.w0 11 0 + 1

/-- Remote address of row i for core k, and SP offset of row i. -/
def lsRemote (w : EngWord) (k i : Nat) : Nat := w.w2 + lsCstride w * k + lsRstride w * i
def lsLocal (w : EngWord) (i : Nat) : Nat := lsSpoff w + lsSpstride w * i

/-- The (core, row) pairs whose remote bytes a word names: a LOAD with cstride 0 reads each row once. -/
def lsRemotes (w : EngWord) : List (Nat × Nat) :=
  let ks := maskCores w
  let ks := if lsCstride w = 0 then ks.take 1 else ks
  ks.flatMap (fun k => (List.range (lsRows w)).map (fun i => (k, i)))

/-- Checks of R231; `store` for a STORE. -/
def lsOk (s : State) (a : Nat) (store : Bool) (w : EngWord) : Bool :=
  let n := lsBytes w
  (lsRemotes w).all (fun p => remoteOk s a (lsSpace w) (lsRemote w p.1 p.2) n)
    && (List.range (lsRows w)).all (fun i => decide (lsLocal w i + n ≤ spBytes))
    && (if store then
          !(lsCstride w == 0 && 1 < (maskCores w).length)
            && apart n ((lsRemotes w).map (fun p => (lsRemote w p.1 p.2 : Int)))
        else lsRows w == 1 || decide (n ≤ lsSpstride w))

/-- A piece of a LOAD or STORE: core, row, remote address, bytes (R231). -/
structure LsPiece where
  core : Nat
  row  : Nat
  addr : Nat
  len  : Nat

/-- The aligned runs of at most 32 bytes that make up `n` bytes from `a`. -/
def runs32 : Nat → Nat → Nat → List (Nat × Nat)
  | 0, _, _ => []
  | fuel + 1, a, n => if n = 0 then [] else let k := min n (32 - a % 32); (a, k) :: runs32 fuel (a + k) (n - k)

/-- The pieces of a word, in the order of R231. -/
def lsPieces (w : EngWord) : List LsPiece :=
  (lsRemotes w).flatMap (fun p => (runs32 (lsBytes w / 32 + 2) (lsRemote w p.1 p.2) (lsBytes w)).map (fun r => ⟨p.1, p.2, r.1, r.2⟩))

/-- The source of R102 that a cluster's Bellows is. -/
def bellowsSource (a c : Nat) : Nat := 2048 + clusterNo a c

/-- A piece copied: read at the source, written at the destination, poison carried (R154, R231). -/
def lsCopy (a c : Nat) (store : Bool) (w : EngWord) (z : LsPiece) (e : LinkErr) (s : State) : State :=
  let who : Who := ⟨4, w.tag, false⟩
  let r := lsRemote w z.core z.row
  let sp (k : Nat) : Nat := spBase (coreNo a c k) + lsLocal w z.row + (z.addr - r)
  let s := if lsSpace w = 4 then countPiece r (lsBytes w) z.addr z.len s else s
  if store then
    let (s, l) := memRead who false 1 (sp z.core) z.len s
    if lsSpace w = 4 then linkStore e who z.addr l s else memWrite who (lsSpace w) z.addr l s
  else
    let (s, l) := if lsSpace w = 4 then linkRead e who z.addr z.len s else memRead who false (lsSpace w) z.addr z.len s
    overList (fun k s => memWrite who 1 (sp k) l s) (if lsCstride w = 0 then maskCores w else [z.core]) s

/-- The first word in progress with pieces to issue, with the words before it and behind it: pieces are issued in word order (R230). -/
def nextMove : List EngWord → Option (List EngWord × EngWord × List EngWord)
  | [] => none
  | w :: t => if w.ran then (nextMove t).map (fun x => (w :: x.1, x.2)) else some ([], w, t)

/-- Pieces of the LOADs or STOREs in progress moved, one for each entry, which says what the wires do to it (R98, R146 to R148, R231). -/
def movePiecesLs (a c : Nat) (store : Bool) : List LinkErr → State → State
  | [], s => s
  | e :: es, s =>
    let y := cluster s (clusterNo a c)
    if y.stopped || stoppedAt s (hxCluster a c) || (hearth s (hxCluster a c)).halted then s
    else match nextMove y.moving with
      | none => s
      | some (before, w, rest) =>
        if (ewOp w == 0x31) != store then s
        else match (lsPieces w)[w.prog]? with
          | none => setCluster (clusterNo a c) { y with moving := before ++ { w with ran := true } :: rest } s
          | some z =>
            let r := lsRemote w z.core z.row
            if !pieceReady s (bellowsSource a c) (lsSpace w) r (lsBytes w) z.addr z.len store then
              pieceAsk (lsSpace w) r (lsBytes w) z.addr z.len store s
            else
              let s := lsCopy a c store w z e s
              let w := { w with prog := w.prog + 1, ran := decide ((lsPieces w).length ≤ w.prog + 1) }
              movePiecesLs a c store es
                (setCluster (clusterNo a c) { cluster s (clusterNo a c) with moving := before ++ w :: rest } s)

/-- LOAD or STORE: the head word of the stream is checked in full and put in progress, at most 4 at once, and pieces of the words in
progress move (R230, R231). -/
def loadStore (a c : Nat) (store : Bool) (es : List LinkErr) (s : State) : Host.Outcome State Fault Refusal :=
  let full := 4 ≤ (cluster s (clusterNo a c)).moving.length
  match (if full then noEvent s else bellowsRun a c (if store then 0x31 else 0x30) (fun w s =>
      if !lsOk s a store w then none
      else
        let s := traceIf a c (hxCluster a c) w 1 0 0 s
        let y := cluster s (clusterNo a c)
        some (setCluster (clusterNo a c) { y with moving := y.moving ++ [{ w with ran := false, prog := 0 }] } s)) s) with
  | .next s => done (movePiecesLs a c store es s)
  | o => o

/-- LOAD, STORE (R231). [DEDUCED, log 135] -/
def execLoad (a : Fin 4) (c : PieceRun) (s : State) : Host.Outcome State Fault Refusal := live s <|
  loadStore a.val c.cluster.val false c.pieces s
def execStore (a : Fin 4) (c : PieceRun) (s : State) : Host.Outcome State Fault Refusal := live s <|
  loadStore a.val c.cluster.val true c.pieces s

/-! ### RUN -/

/-- Address, space and count of a RUN (R232). -/
def runSpace (w : EngWord) : Nat := natBits w.w1 63 60
def runCount (w : EngWord) : Nat := natBits w.w0 11 0 + 1

/-- The control words fetched, each with its mask ANDed with the RUN's. [DEDUCED, log 140] -/
def fetchedWords (now mask : Nat) : Nat → List PByte → List EngWord
  | 0, _ => []
  | n + 1, l =>
    let f (i : Nat) : Nat := leNat (((l.drop (8 * i)).take 8).map (·.1))
    let h := f 3
    let h := h - natBits h 55 40 * 2 ^ 40 + (natBits h 55 40 &&& mask) * 2 ^ 40
    { w0 := f 0, w1 := f 1, w2 := f 2, w3 := h, tag := 0, since := now } :: fetchedWords now mask n (l.drop 32)

/-- RUN (R232). -/
def execRun (a : Fin 4) (c : Fin 16) (s : State) : Host.Outcome State Fault Refusal := live s <|
  let busy := match bellowsHead s a.val c.val with
    | some w => bellowsOpen s a.val c.val && ewEng w == 3 && ewOp w == 0x32 && runSpace w == 4
        && addrOk s 4 w.w2 (32 * runCount w) && !moverReady s (bellowsSource a.val c.val) 4 w.w2 (32 * runCount w) false
    | none => false
  if busy then
    match bellowsHead s a.val c.val with
    | some w => done (moverAsk 4 w.w2 (32 * runCount w) false s)
    | none => noEvent s
  else bellowsRun a.val c.val 0x32 (fun w s =>
    let n := 32 * runCount w
    if (runSpace w != 2 && runSpace w != 4) || !addrOk s (runSpace w) w.w2 n
        || (runSpace w == 2 && w.w2 / 2 ^ 32 != a.val) then none
    else
      let (s, l) := memRead ⟨4, w.tag, false⟩ false (runSpace w) w.w2 n (whenSt (runSpace w == 4) (countRun w.w2 n) s)
      let s := bellowsDone a.val c.val w s
      let y := cluster s (clusterNo a.val c.val)
      -- the head that is about to be popped is the RUN itself
      let run : EngWord := { w0 := 0, w1 := 0, w2 := 0, w3 := 0, tag := 0 }
      some (setCluster (clusterNo a.val c.val)
        { y with bq := y.bq.drop 1, fetched := run :: fetchedWords s.time (ewMask w) (runCount w) l } s)) s

/-! ### Release and pushes -/

/-- BELLOWS_RELEASE (R230): every masked core's queue takes the word at once. -/
def execBellowsRelease (a : Fin 4) (c : Fin 16) (s : State) : Host.Outcome State Fault Refusal := live s <|
  match bellowsHead s a.val c.val with
  | none => noEvent s
  | some w =>
    let xs := (maskCores w).map (coreNo a.val c.val)
    if !bellowsOpen s a.val c.val || (ewEng w == 3 && !bellowsBad s a.val c.val w) then noEvent s
    else if bellowsBad s a.val c.val w then done (bellowsFault a.val c.val stDescriptor w s)
    else if xs.any (fun x => queueRoom s x (ewEng w) == 0) then noEvent s
    else
      let (s, w) := issueTag a.val c.val w s
      let s := setCluster (clusterNo a.val c.val) (popBellows s.time (cluster s (clusterNo a.val c.val))) s
      done (retryPush a.val c.val (overList (fun x s => enterQueue x (ewEng w) w s) xs s))

/-- Is the Hammer core of a cluster running (R234)? -/
def hammerRuns (s : State) (a c : Nat) : Bool :=
  rf s (clReg a c 0) 0 0 == 1 && !stoppedAt s (hxCluster a c)

/-- A write of ANV_PUSH_W3D or ANV_PUSH_W3B (R235, R236). -/
def pushWord (a c : Nat) (bellows : Bool) (w3 : Nat) (s : State) : State :=
  let y := cluster s (clusterNo a c)
  let w : EngWord := { w0 := y.w0, w1 := y.w1, w2 := y.w2, w3 := w3, tag := 0, since := s.time }
  if y.stopped then (stampTag (clusterCode a c) s).1
  else if !bellows && (ewEng w == 3 || ewMask w == 0) then
    let (s, t) := stampTag (clusterCode a c) s
    clusterFault a c (hxCluster a c) (ewEng w) stDescriptor t 0 0 s
  else retryPush a c (setCluster (clusterNo a c) { y with push := some ⟨w, ewMask w, bellows, false⟩ } s)

/-- May the Hammer core push: it runs, and no earlier push stalls it? -/
def mayPush (s : State) (a c : Nat) : Bool := hammerRuns s a c && (cluster s (clusterNo a c)).push.isNone

/-- DIRECT_PUSH, BELLOWS_PUSH (R235): word 3 as written; words 0 to 2 from the staging registers. -/
def execDirectPush (a : Fin 4) (c : Fin 16) (v : Word) (s : State) : Host.Outcome State Fault Refusal := live s <|
  if mayPush s a.val c.val then done (pushWord a.val c.val false v.toNat s) else noEvent s
def execBellowsPush (a : Fin 4) (c : Fin 16) (v : Word) (s : State) : Host.Outcome State Fault Refusal := live s <|
  if mayPush s a.val c.val then done (pushWord a.val c.val true v.toNat s) else noEvent s

/-! ### Completion and waits -/

/-- A core's word completes (R225, R228): counter, exception bits, pulse, trace. -/
def wordDone (a c k eng : Nat) (w : EngWord) (s : State) : State :=
  let x := coreNo a c k
  let y := coreSt s x
  let s := setCore x (bumpDone eng (setEngQueue eng (popQueue s.time (engQueue y eng)) y)) s
  let s := setRf (coreQReg x) 27 24 (rf s (coreQReg x) 27 24 ||| w.exc) s
  let s := traceIf a c (hxCore a c k) w 2 w.exc w.prog s
  retryPush a c (commit (hxCore a c k) w.tag (ewEv w) s)

/-- The oldest LOAD or STORE completes (R225, R230). -/
def moveDone (a c : Nat) (w : EngWord) (rest : List EngWord) (s : State) : State :=
  let y := cluster s (clusterNo a c)
  let s := setCluster (clusterNo a c) { y with moving := rest, bdone := (y.bdone + 1) % 2 ^ 32 } s
  let s := overList (fun k s => setCore (coreNo a c k) (bumpDone 3 (coreSt s (coreNo a c k))) s) (maskCores w) s
  let s := traceIf a c (hxCluster a c) w 2 0 w.prog s
  let s := updHearth (hxCluster a c) (fun h => { h with lastTag := w.tag }) s
  if ewEv w then countUp (hxCluster a c) 2 s else s

/-- WORD_COMPLETE (R225): the word engine `eng` of core k has run, or for 3 the oldest LOAD or STORE of the cluster. -/
def execWordComplete (a : Fin 4) (c k : Fin 16) (eng : Fin 4) (s : State) : Host.Outcome State Fault Refusal := live s <|
  if eng.val = 3 then
    match (cluster s (clusterNo a.val c.val)).moving with
    | [] => noEvent s
    | w :: rest => if !w.ran || stoppedAt s (hxCluster a.val c.val) then noEvent s else done (moveDone a.val c.val w rest s)
  else
    match engQueue (coreSt s (coreNo a.val c.val k.val)) eng.val with
    | [] => noEvent s
    | w :: _ =>
      if !w.ran || stoppedAt s (hxCore a.val c.val k.val) then noEvent s else done (wordDone a.val c.val k.val eng.val w s)

/-- ENGINE_NOP (R220): op 0 in an engine of a core, or in Bellows for 3. -/
def execEngineNop (a : Fin 4) (c k : Fin 16) (eng : Fin 4) (s : State) : Host.Outcome State Fault Refusal := live s <|
  if eng.val = 3 then bellowsRun a.val c.val 0x00 (fun w s => some (bellowsDone a.val c.val w s)) s
  else engineRun a.val c.val k.val eng.val 0x00 (fun _ s => .fin s 0 0) s

/-- ANV_CL_CTL.wait_ms (R226). -/
def waitMs (s : State) (a c : Nat) : Nat := rf s (clReg a c 0) 63 48

/-- ENGINE_WAIT_TIMEOUT (R226): the head word of an engine, or of Bellows for 3, has waited longer than wait_ms. -/
def execEngineWaitTimeout (a : Fin 4) (c k : Fin 16) (eng : Fin 4) (s : State) : Host.Outcome State Fault Refusal := live s <|
  let lim := waitMs s a.val c.val
  if lim = 0 then noEvent s
  else if eng.val = 3 then
    match bellowsHead s a.val c.val with
    | none => noEvent s
    | some w =>
      if !bellowsOpen s a.val c.val || ewEng w != 3 || bellowsBad s a.val c.val w || allWaits s a.val c.val w then noEvent s
      else done (bellowsFault a.val c.val 0x250 w { s with time := max s.time (w.since + 1000000 * lim) })
  else
    match headWord s a.val c.val k.val eng.val with
    | none => noEvent s
    | some w =>
      if waitHolds (coreSt s (coreNo a.val c.val k.val)) w then noEvent s
      else done (engineFault a.val c.val k.val eng.val 0x250 w 0 0 { s with time := max s.time (w.since + 1000000 * lim) })

/-- PUSH_STALL_TIMEOUT (R235): the store that stalled goes on, its word discarded. -/
def execPushStallTimeout (a : Fin 4) (c : Fin 16) (s : State) : Host.Outcome State Fault Refusal := live s <|
  let lim := waitMs s a.val c.val
  match (cluster s (clusterNo a.val c.val)).push with
  | none => noEvent s
  | some p =>
    if lim = 0 then noEvent s
    else
      let (s, t) := if p.tagged then (s, p.word.tag) else stampTag (clusterCode a.val c.val) s
      let s := setCluster (clusterNo a.val c.val) { cluster s (clusterNo a.val c.val) with push := none } s
      done (clusterFault a.val c.val (hxCluster a.val c.val) 3 0x250 t 0 0
        { s with time := max s.time (p.word.since + 1000000 * lim) })

/-! ### Cluster registers that act -/

/-- A read of ANV_CL_TAG: the next tag, and the sequence goes on (R237). -/
def clTagRead (a c : Nat) (s : State) : State × Nat := stampTag (clusterCode a c) s

/-- CL_TAG_READ. -/
def execClTagRead (a : Fin 4) (c : Fin 16) (s : State) : Host.Outcome State Fault Refusal := live s <|
  let (s, t) := clTagRead a.val c.val s
  done (emit (.regData t) s)

/-- A core held in reset keeps no cached lines and no reservation. -/
def coreDown (core : Nat) (s : State) : State :=
  dcFlush core { s with resv := s.resv.filter (fun r => r.core != core), icache := s.icache.filter (fun e => e.1 / 2 ^ 64 != core) }

/-- ANV_CL_CTL.hmr_run written (R234): 1 releases the Hammer core to ANV_CL_BOOT, 0 holds it in reset. -/
def hammerRun (a c : Nat) (run : Bool) (s : State) : State :=
  let core := clusterNo a c
  let was := rf s (clReg a c 0) 0 0 == 1
  let s := setRf (clReg a c 0) 0 0 (b2n run) s
  if run && !was then
    { s with corePc := tabSet 0 s.corePc core (rg s (clReg a c 0x20)), umode := tabSet false s.umode core false }
  else if !run then coreDown core s else s

/-- HAMMER_RUN. -/
def execHammerRun (a : Fin 4) (c : Fin 16) (run : Bool) (s : State) : Host.Outcome State Fault Refusal := liveWrite s <|
  done (hammerRun a.val c.val run s)

/-- ANV_CL_CTL.halt written (R241): a stalled push goes on when it is cleared. [PRESUMED, log 139] -/
def clusterHalt (a c : Nat) (h : Bool) (s : State) : State := retryPush a c (setRf (clReg a c 0) 1 1 (b2n h) s)

/-- CLUSTER_HALT. -/
def execClusterHalt (a : Fin 4) (c : Fin 16) (h : Bool) (s : State) : Host.Outcome State Fault Refusal := liveWrite s <|
  done (clusterHalt a.val c.val h s)

/-- ANV_TRC_CTL.en written (R241). -/
def traceEnable (a : Nat) (en : Bool) (s : State) : State :=
  let ctl := anvReg a 0x100
  if !en then setRf ctl 0 0 0 s
  else if dbBytes < rf s (anvReg a 0x108) 26 12 * 4096 + traceBytes s a then s
  else if rf s ctl 0 0 = 1 then setRf ctl 47 32 0 s
  else setRg (anvReg a 0x110) 0 (setRf ctl 47 32 0 (setRf ctl 0 0 1 s))

/-- TRACE_ENABLE. -/
def execTraceEnable (a : Fin 4) (en : Bool) (s : State) : Host.Outcome State Fault Refusal := liveWrite s <|
  done (traceEnable a.val en s)

end Sys2Proof.Machine
end

