-- ==== Sys2Proof/Machine/Tongs.lean ====
section
/-! DEFINITION. Tongs engines: channels, copies, gathers and scatters, commits, events, aborts and stops
(spec/10_tongs_dma.md, R243 to R258). A copy command names how many pieces its event moves, so that what arrives between pieces finds
the command part done. -/

namespace Sys2Proof.Machine

/-! ### Channels -/

/-- The queue whose commands a channel takes: enabled with ckind Tongs, its ckey names the channel, and the channel names it (R245). -/
def chanQueue (s : State) (e c : Nat) : Option Nat :=
  let r := chanReg e c 0
  let q := rf s r 19 0
  if rf s r 63 63 = 1 ∧ (queue s q).ckind = 3 ∧ (queue s q).ckey = 64 * e + c then some q else none

/-- Fields of a body (R247). -/
def tgCtl (cmd : List Nat) : Nat := nth cmd 16 0
def tgMode (cmd : List Nat) : Nat := natBits (tgCtl cmd) 63 60
def tgCmode (cmd : List Nat) : Nat := natBits (tgCtl cmd) 59 58
def tgHpath (cmd : List Nat) : Nat := natBits (tgCtl cmd) 57 57
def tgEvKind (cmd : List Nat) : Nat := natBits (tgCtl cmd) 51 48
def tgLspace (cmd : List Nat) : Nat := natBits (tgCtl cmd) 47 44
def tgCount (cmd : List Nat) : Nat := natBits (tgCtl cmd) 31 16
def tgList (cmd : List Nat) : Nat := nth cmd 17 0
/-- Tile sizes t0 to t3. -/
def tgTile (cmd : List Nat) : Nat × Nat × Nat × Nat :=
  (natBits (nth cmd 18 0) 31 0, natBits (nth cmd 18 0) 63 32, natBits (nth cmd 19 0) 31 0, natBits (nth cmd 19 0) 63 32)
def tgSrc (cmd : List Nat) : Option Desc := descOf (cmd.take 8)
def tgDst (cmd : List Nat) : Option Desc := descOf ((cmd.drop 8).take 8)

/-- A partner's window forbids reads (R250, R380). -/
def noRead (s : State) (pid : Nat) : Bool := rf s (ptStat pid) 59 59 == 1

/-- Does an event target exist (R250)? -/
def evOk (s : State) (cmd : List Nat) : Bool :=
  let t := nth cmd 20 0
  match tgEvKind cmd with
  | 0 => true
  | 1 => natBits t 15 0 ≤ 89 && natBits t 23 16 ≤ 15
  | 2 => 6 ≤ natBits t 15 0 && natBits t 15 0 ≤ 69
  | 3 | 4 => t % 8 == 0 && addrOk s 4 t 8
  | _ => false

/-- Tile rules of R63 and R249. -/
def tileOk (d : Desc) (t : Nat × Nat × Nat × Nat) : Bool :=
  1 ≤ t.1 && 1 ≤ t.2.1 && 1 ≤ t.2.2.1 && 1 ≤ t.2.2.2 &&
    (match d.arr with
     | .plain => t.1 * fmtBits d.fmt % 32 == 0
     | a => t.1 % arrBlock a == 0)

/-- A packed tensor of tiles (R248): rank 3 with room for every tile. -/
def tilesFit (d : Desc) (t : Nat × Nat × Nat × Nat) (count : Nat) : Bool :=
  d.rank == 4 && decide (t.1 ≤ d.size0) && decide (t.2.1 ≤ d.size1) && decide (t.2.2.1 ≤ d.size2)
    && decide (count * t.2.2.2 ≤ d.size3)

/-- Partners that the rows of a PM destination lie at. -/
def rowPartners (d : Desc) : List Nat :=
  let (lo, hi) := rowSpan d
  if sameInstance d.space lo.toNat hi.toNat then [d.base / 2 ^ 48 % 256]
  else ((List.range (rowCount d)).map (fun k => rowNo d k / 2 ^ 48 % 256)).eraseDups

/-- May a command name read-back for this destination (R250)? -/
def readBackOk (s : State) (cmd : List Nat) (d : Desc) : Bool :=
  tgCmode cmd != 0 ||
    !((d.space == 5 && tgHpath cmd == 1) || (d.space == 6 && (rowPartners d).any (noRead s)))

/-- R250: the checks a channel makes before any access. -/
def tongsAccepts (s : State) (cmd : List Nat) : Bool :=
  match tgSrc cmd, tgDst cmd with
  | some a, some d =>
    let mode := tgMode cmd
    let t := tgTile cmd
    let n := tgCount cmd
    mode ≤ 2 && tgCmode cmd ≤ 1 && tgEvKind cmd ≤ 4 && srcOk s a && dstOk s d && a.fmt == d.fmt && a.arr == d.arr
      && evOk s cmd && readBackOk s cmd d &&
      (if mode = 0 then a.size0 == d.size0 && a.size1 == d.size1 && a.size2 == d.size2 && a.size3 == d.size3
       else
         2 ≤ tgLspace cmd && tgLspace cmd ≤ 5 && 1 ≤ n && n ≤ 4096 && tileOk d t && tilesFit (if mode = 1 then d else a) t n
           && tgList cmd % 16 == 0 && addrOk s (tgLspace cmd) (tgList cmd) (16 * n))
  | _, _ => false

/-- Units of a command (R248): destination rows, or records. -/
def tgTotal (cmd : List Nat) : Nat :=
  if tgMode cmd = 0 then match tgDst cmd with | some d => rowCount d | none => 0 else tgCount cmd

/-! ### One unit as runs of bytes -/

/-- A run of a row: bytes read at the source, and where what they become is written. -/
structure Seg where
  src : Nat
  len : Nat
  dst : Nat
  /-- elements read, elements written, and the first destination element -/
  m   : Nat
  t   : Nat
  o   : Nat

/-- Offset and length in bytes of elements [o, o + m) of a row. -/
def segAt (d : Desc) (o m : Nat) : Nat × Nat :=
  match d.arr with
  | .plain => (o * fmtBits d.fmt / 8, (m * fmtBits d.fmt + 7) / 8)
  | a => (o / arrBlock a * recBytes d, m / arrBlock a * recBytes d)

/-- One row's run: m elements from element so of a source row, to t elements from element o of a destination row. -/
def mkSeg (a d : Desc) (srow drow so m o t : Nat) : Seg :=
  let (x, n) := segAt a so m
  let (y, _) := segAt d o t
  { src := srow + x, len := if m = 0 then 0 else n, dst := drow + y, m := m, t := t, o := o }

/-- The bytes a run writes: its elements or records, zeros beyond them, and the row's padding where the run reaches the row's end
(R50, R65, R249). -/
def segBytes (a d : Desc) (g : Seg) (l : List PByte) : List PByte :=
  let body := match a.arr with
    | .plain =>
      let bits := g.m * fmtBits a.fmt
      let part := if bits % 8 = 0 then [] else
        ((l.drop (bits / 8)).take 1).map (fun b => (BitVec.ofNat 8 (b.1.toNat % 2 ^ (bits % 8)), b.2))
      l.take (bits / 8) ++ part
    | r =>
      (chunksOf (recBytes a) (g.m / arrBlock r) l).flatMap (fun x =>
        x.take (recRaw r a.fmt) ++ List.replicate (recBytes d - recRaw r a.fmt) (0, false))
  let (off, n) := segAt d g.o g.t
  let total := if d.size0 ≤ g.o + g.t then rowBytes d - off else n
  (body ++ List.replicate (total - body.length) (0, false)).take total

/-- Row of a tile by its indices in dimensions 1 to 3. -/
def tileRows (t : Nat × Nat × Nat × Nat) : List (Nat × Nat × Nat) :=
  (List.range t.2.2.2).flatMap (fun k => (List.range t.2.2.1).flatMap (fun j => (List.range t.2.1).map (fun i => (i, j, k))))

/-- Runs of unit i; `o` is the origin a list record names (R63 to R65, R248). -/
def unitSegs (a d : Desc) (mode i : Nat) (t o : Nat × Nat × Nat × Nat) : List Seg :=
  if mode = 0 then
    let (i1, i2, i3) := rowIdx d i
    [mkSeg a d (rowAt a i1 i2 i3) (rowAt d i1 i2 i3) 0 a.size0 0 d.size0]
  else
    (tileRows t).filterMap (fun x =>
      let (x1, x2, x3) := x
      if mode = 1 then
        let inside := o.2.1 + x1 < a.size1 && o.2.2.1 + x2 < a.size2 && o.2.2.2 + x3 < a.size3
        let m := if inside then min t.1 (a.size0 - o.1) else 0
        some (mkSeg a d (rowAt a (o.2.1 + x1) (o.2.2.1 + x2) (o.2.2.2 + x3)) (rowAt d x1 x2 (i * t.2.2.2 + x3)) o.1 m 0 t.1)
      else
        let inside := o.2.1 + x1 < d.size1 && o.2.2.1 + x2 < d.size2 && o.2.2.2 + x3 < d.size3
        let m := min t.1 (d.size0 - o.1)
        if !inside || m = 0 then none
        else some (mkSeg a d (rowAt a x1 x2 (i * t.2.2.2 + x3)) (rowAt d (o.2.1 + x1) (o.2.2.1 + x2) (o.2.2.2 + x3)) 0 m o.1 m))

/-! ### The end of a command -/

/-- A Tongs engine as agent (R487), the source of R102 that its channel is, and its hearth (R488). -/
def tongsWho (x : Chan) : Who := ⟨3, x.tag, false⟩
def tongsSource (e c : Nat) : Nat := 64 * e + c
def tongsHearth (e : Nat) : Nat := if e < 16 then hxAnvil (e / 4) else 1

/-- Has a WRITE frame, given with its unit and partner, left the module? -/
def frameLeft (s : State) (p : Nat × Nat × Nat) : Bool := let l := link s p.2.1; decide (l.queued.length ≤ diff32 p.2.2 l.sendPsn)

/-- Units complete under R254: in read-back mode those whose every WRITE frame has been acknowledged, in leave-the-engine mode those
whose every frame has left. -/
def unitsComplete (s : State) (x : Chan) : Nat :=
  (x.pmOut.filter (fun p => tgCmode x.cmd == 0 || !frameLeft s p)).foldl (fun n p => min n p.1) x.units

/-- A channel free again; its tag and what it last committed stay. -/
def freeChan (e c : Nat) (s : State) : State :=
  let x := chan s e c
  setChan e c { abort := x.abort, last := x.last } s

/-- A command that ends in any state but DONE (R254, R255): no event. -/
def chanEnd (e c status : Nat) (s : State) : State :=
  let x := chan s e c
  let n := unitsComplete s x
  let s := journal x.qid x.idx x.tag
    { state := if x.wrote then 1 else 0, status := status, progress := n, cmode := tgCmode x.cmd } s
  syncQueue x.qid (freeChan e c s)

/-- The same with a fault record (R255). [DEDUCED, log 136] -/
def chanFault (e c code addr : Nat) (s : State) : State :=
  let x := chan s e c
  let s := faultRecord { code := code, hearth := tongsHearth e, tag := x.tag, state := if x.wrote then 1 else 0, src := 3,
                         progress := unitsComplete s x, addr := addr, qid := x.qid } s
  chanEnd e c code s

/-- A command stopped by a list record: it ends once every record before it is complete (R66, R254, R255). -/
def chanStop (e c code addr : Nat) (s : State) : State :=
  let x := chan s e c
  if unitsComplete s x = x.units then chanFault e c code addr s
  else setChan e c { x with stop := some (code, addr) } s

/-- A stopped command looked at again: its writes may be complete now. -/
def chanStopped (e c : Nat) (s : State) : State :=
  match (chan s e c).stop with
  | some (code, addr) => chanStop e c code addr s
  | none => s

/-! ### Pieces -/

/-- Pieces of a PM run: within aligned 8 KiB, at most 8,192 bytes each (R373). -/
def pmPieces : Nat → Nat → Nat → List (Nat × Nat)
  | 0, _, _ => []
  | fuel + 1, a, n =>
    if n = 0 then []
    else let k := min n (8192 - a % 8192); (a, k) :: pmPieces fuel (a + k) (n - k)
def pmRun (a n : Nat) : List (Nat × Nat) := pmPieces (n / 8192 + 2) a n

/-- The psn that the next frame handed to a partner will carry. -/
def nextPsn (s : State) (pid : Nat) : Nat := let l := link s pid; (l.sendPsn + l.queued.length) % 2 ^ 32

/-- A PM write: WRITE frames, each remembered until acknowledged. -/
def pmWrite (e c a : Nat) (l : List PByte) (s : State) : State :=
  let pid := a / 2 ^ 48 % 256
  overList (fun p s =>
    let x := chan s e c
    let bytes := (l.drop (p.1 - a)).take p.2
    let s := setChan e c { x with pmOut := x.pmOut ++ [(x.units, pid, nextPsn s pid)] } s
    sendSeq pid { ty := 8, addr := p.1 % 2 ^ 44, len := p.2, tag := x.tag, pmap := pmapOf p.1 bytes, data := bytes.map (·.1) } s)
    (pmRun a l.length) s

/-- PM reads asked for: one READ_REQ for each piece (R373). -/
def pmAsk (e c a n : Nat) (back : Bool) (s : State) : State :=
  let pid := a / 2 ^ 48 % 256
  overList (fun p s =>
    let x := chan s e c
    let s := setChan e c { x with asked := x.asked ++ [⟨pid, nextPsn s pid, p.1, p.2, back⟩] } s
    sendSeq pid { ty := 9, addr := p.1 % 2 ^ 44, len := p.2, tag := x.tag } s) (pmRun a n) s

/-- Buffer that a channel holds: reads issued and not yet written, and data read and not yet written (R244, R258). -/
def chanHeld (x : Chan) : Nat := (x.asked.filter (fun r => !r.back)).foldl (fun n r => n + r.len) 0 + x.inbox.length

/-- Buffer that a channel may still fill: its 16 KiB, and its share of the common pool as far as the other channels of its engine
leave it (R244). -/
def chanRoom (s : State) (e c : Nat) : Nat :=
  let others := (s.chans.filter (fun y => y.1 / 64 == e && y.1 % 64 != c)).foldl (fun n y => n + (chanHeld y.2 - 16384)) 0
  16384 + min (rf s (chanReg e c 0) 51 48 * 65536) (2 ^ 20 - others) - chanHeld (chan s e c)

/-- Bytes that a run writes in all. -/
def segTotal (a d : Desc) (g : Seg) : Nat := (segBytes a d g []).length

/-- The bytes of a run's source that bytes [p, p + n) of what it writes come from: offset and length. -/
def srcSpan (a d : Desc) (g : Seg) (p n : Nat) : Nat × Nat :=
  match a.arr with
  | .plain => let hi := min g.len (p + n); (min p hi, hi - min p hi)
  | r =>
    let k := g.m / arrBlock r
    let lo := min k (p / recBytes d) * recBytes a
    (lo, min g.len (min k ((p + n - 1) / recBytes d + 1) * recBytes a) - lo)

/-- A piece of a run: where it is read, from how many bytes, where it is written, and which of the run's bytes it is (R97, R246). -/
structure Piece where
  src : Nat
  got : Nat
  dst : Nat
  pos : Nat
  len : Nat

/-- The piece of a run that begins at byte p: to the next aligned 64 bytes, or the next 8 KiB at a partner, whose frame it fills. -/
def pieceAt (a d : Desc) (g : Seg) (p : Nat) : Piece :=
  let unit := if d.space = 6 then 8192 else 64
  let n := min (unit - (g.dst + p) % unit) (segTotal a d g - p)
  let (o, k) := srcSpan a d g p n
  { src := g.src + o, got := k, dst := g.dst + p, pos := p, len := n }

/-- What a piece writes, from the bytes read for it. -/
def pieceBytes (a d : Desc) (g : Seg) (z : Piece) (l : List PByte) : List PByte :=
  ((segBytes a d g (List.replicate (z.src - g.src) (0, false) ++ l)).drop z.pos).take z.len

/-- What stands in the way of a piece: nothing, something being waited for, or an end. -/
inductive UnitGate where
  | go
  | wait (s : State)
  | ends (s : State)

/-- Partners of a run are PRESENT (R255). -/
def partnerHere (s : State) (space a : Nat) : Bool := space != 6 || pmState s (a / 2 ^ 48 % 256) == 1

/-- Is a PM run in the channel's buffer? -/
def inboxHas (x : Chan) (a n : Nat) : Bool := (upFrom a n).all (fun k => x.inbox.any (fun e => e.1 == k))

/-- The rest of a PM run asked for from a piece on, as far as the channel has buffer for it (R244). -/
def askRun (e c : Nat) (g : Seg) (z : Piece) (s : State) : State :=
  let x := chan s e c
  let s := setChan e c { x with inbox := x.inbox.filter (fun b => decide (z.src ≤ b.1)) } s
  let from_ := z.src + (chan s e c).inbox.length
  pmAsk e c from_ (min (g.src + g.len - from_) (chanRoom s e c)) false s

/-- Gate of a piece (R125, R132, R244, R255, R382, R395). -/
def pieceGate (e c : Nat) (a d : Desc) (g : Seg) (z : Piece) (s : State) : UnitGate :=
  let x := chan s e c
  let src := tongsSource e c
  let total := segTotal a d g
  if ((a.space == 5 && z.got != 0) || d.space == 5) && !hmOpen s (tgHpath x.cmd) then
    .ends (chanFault e c 0x270 (if d.space = 5 then z.dst else z.src) s)
  else if (z.got != 0 && !partnerHere s a.space z.src) || !partnerHere s d.space z.dst then .ends (chanEnd e c stPartnerGone s)
  else if z.got != 0 && a.space == 6 && !inboxHas x z.src z.got then .wait (if x.asked.isEmpty then askRun e c g z s else s)
  else if (z.got == 0 || pieceReady s src a.space g.src g.len z.src z.got false)
      && pieceReady s src d.space g.dst total z.dst z.len true then .go
  else .wait (pieceAsk d.space g.dst total z.dst z.len true
    (if z.got = 0 then s else pieceAsk a.space g.src g.len z.src z.got false s))

/-- Destination instance of an address, as R251 counts them. -/
def instanceOf (space a : Nat) : Nat := if space ≤ 3 then a / 2 ^ 32 else a / 2 ^ 36

/-- The source bytes of a piece: from the channel's buffer for PM, else read at the ordering point. The narrow-port words and bursts
of a run are counted as it begins. -/
def pieceRead (e c : Nat) (a : Desc) (g : Seg) (z : Piece) (er : LinkErr) (s : State) : State × List PByte :=
  let x := chan s e c
  let s := bumpRf (tngReg e 0x10) 63 0 z.got s
  if a.space = 6 then (s, (upFrom z.src z.got).map (tabGet (0, false) x.inbox))
  else
    let s := if a.space = 4 && z.pos == 0 then countRun g.src g.len s else s
    if z.got = 0 then (s, [])
    else if a.space = 4 then linkRead er (tongsWho x) z.src z.got s
    else memRead (tongsWho x) false a.space z.src z.got s

/-- A piece written. -/
def pieceWrite (e c : Nat) (a d : Desc) (g : Seg) (z : Piece) (l : List PByte) (ew : LinkErr) (s : State) : State :=
  let s := bumpRf (tngReg e 0x18) 63 0 l.length (bumpRf (chanReg e c 0x18) 63 0 l.length s)
  let x := chan s e c
  let k := instanceOf d.space z.dst
  let s := setChan e c { x with wrote := true,
                                lastW := x.lastW.filter (fun w => w.1 != k) ++ [(k, (z.dst + z.len - 1) / 8 * 8)] } s
  match d.space with
  | 6 => pmWrite e c z.dst l s
  | 4 => linkStore ew (tongsWho x) z.dst l (countPiece g.dst (segTotal a d g) z.dst z.len s)
  | 5 => memWrite (tongsWho x) 5 z.dst l (if l.any (·.2) then satRf (hstReg 0x08) 31 16 1 s else s)
  | sp => memWrite (tongsWho x) sp z.dst l s

/-- Record i of a command's list as read over the narrow port: its coordinates, or none where it reads as poison (R64, R121, R255). [DEDUCED, log 155] -/
def listRecord (e c i : Nat) (s : State) : State × Option (Nat × Nat × Nat × Nat) :=
  let x := chan s e c
  let a := tgList x.cmd + 16 * i
  let s := if tgLspace x.cmd = 4 then countNp (smStack a) (npWords a 16) s else s
  let (s, l) := memRead (tongsWho x) false (tgLspace x.cmd) a 16 s
  let f (k : Nat) : Nat := leNat (((l.drop (4 * k)).take 4).map (·.1))
  let s := bumpRf (tngReg e 0x10) 63 0 16 (bumpRf (tngReg e 0x20) 63 0 1 s)
  (s, if l.any (·.2) then none else some (f 0, f 1, f 2, f 3))

/-- What stands in the way of the list record of the next unit (R132, R395). -/
def recordGate (e c : Nat) (s : State) : UnitGate :=
  let x := chan s e c
  let la := tgList x.cmd + 16 * x.units
  if tgLspace x.cmd = 5 && !hmOpen s (tgHpath x.cmd) then .ends (chanFault e c 0x270 la s)
  else if pieceReady s (tongsSource e c) (tgLspace x.cmd) la 16 la 16 false then .go
  else .wait (pieceAsk (tgLspace x.cmd) la 16 la 16 false s)

/-- The origin of the next unit made known: its list record is expanded, once; true when it is known (R64, R66). -/
def fetchOrigin (e c : Nat) (a d : Desc) (s : State) : State × Bool :=
  let x := chan s e c
  if x.org.isSome then (s, true)
  else if tgMode x.cmd = 0 then (setChan e c { x with org := some (0, 0, 0, 0) } s, true)
  else match recordGate e c s with
    | .wait s => (setChan e c { chan s e c with stalled := true } s, false)
    | .ends s => (s, false)
    | .go =>
      let la := tgList x.cmd + 16 * x.units
      let t := tgTile x.cmd
      let (s, r) := listRecord e c x.units s
      match r with
      | none => (chanStop e c stPoison la s, false)
      | some j =>
        let o := (j.1 * t.1, j.2.1 * t.2.1, j.2.2.1 * t.2.2.1, j.2.2.2 * t.2.2.2)
        let z := if tgMode x.cmd = 1 then a else d
        if z.size0 ≤ o.1 || z.size1 ≤ o.2.1 || z.size2 ≤ o.2.2.1 || z.size3 ≤ o.2.2.2 then (chanStop e c stAddress la s, false)
        else (setChan e c { chan s e c with org := some o } s, true)

/-- The run that the next piece of a channel belongs to; none where the unit has no run left. -/
def nextSeg (x : Chan) (a d : Desc) : Option Seg :=
  (unitSegs a d (tgMode x.cmd) x.units (tgTile x.cmd) (x.org.getD (0, 0, 0, 0)))[x.seg]?

/-- The place of the next piece after one, and the unit done when it was the last. -/
def advance (e c : Nat) (a d : Desc) (n : Nat) (s : State) : State :=
  let x := chan s e c
  let x := match nextSeg x a d with
    | some g => if segTotal a d g ≤ x.pos + n then { x with seg := x.seg + 1, pos := 0 } else { x with pos := x.pos + n }
    | none => x
  let x := if (nextSeg x a d).isNone then { x with units := x.units + 1, seg := 0, pos := 0, org := none, inbox := [] } else x
  setChan e c { x with stalled := false } s

/-- Could a channel do something now if it were its turn? -/
def couldMove (s : State) (e c : Nat) : Bool :=
  let x := chan s e c
  x.busy && !x.completing && x.stop.isNone && decide (x.units < tgTotal x.cmd) &&
    (match tgSrc x.cmd, tgDst x.cmd with
     | some a, some d =>
       let gate := if x.org.isNone && tgMode x.cmd != 0 then recordGate e c s
         else match nextSeg x a d with | some g => pieceGate e c a d g (pieceAt a d g x.pos) s | none => .go
       match gate with | .wait _ => false | _ => true
     | _, _ => false)

/-- Bytes that a channel moves in a round: 256 times its weight, 0 acting as 1 (R246, R258). -/
def quantum (s : State) (e c : Nat) : Nat := 256 * max 1 (rf s (chanReg e c 0) 55 52)

/-- The channel of an engine whose turn it is: the one being served, until it has moved its bytes or has nothing ready, then the next
ready one (R246). -/
def turnOf (s : State) (e : Nat) : Nat :=
  let (cur, moved) := tabGet (0, 0) s.tngTurn e
  let l := ((s.chans.filter (fun y => y.1 / 64 == e && couldMove s e (y.1 % 64))).map (fun y => y.1 % 64))
  if l.contains cur && decide (moved < quantum s e cur) then cur
  else match l.find? (fun k => decide (cur < k)) with
    | some k => k
    | none => l.headD cur

/-- Bytes moved in a channel's turn. -/
def takeTurn (e c n : Nat) (s : State) : State :=
  let (cur, moved) := tabGet (0, 0) s.tngTurn e
  { s with tngTurn := tabSet (0, 0) s.tngTurn e (c, (if c = cur && decide (moved < quantum s e c) then moved else 0) + n) }

/-- The next piece of a channel read and written, with the link errors it meets, when it is the channel's turn; true when it was done
(R97, R98, R246). [DEDUCED, log 149] -/
def movePiece (e c : Nat) (a d : Desc) (er ew : LinkErr) (s : State) : State × Bool :=
  if (chan s e c).stop.isSome then (s, false)
  else
    let (s, known) := fetchOrigin e c a d s
    if !known then (s, false)
    else match nextSeg (chan s e c) a d with
      | none => (advance e c a d 0 s, true)
      | some g =>
        let z := pieceAt a d g (chan s e c).pos
        match pieceGate e c a d g z s with
        | .wait s => (setChan e c { chan s e c with stalled := true } s, false)
        | .ends s => (s, false)
        | .go =>
          if turnOf s e != c then (s, false)
          else
            let (s, l) := pieceRead e c a g z er (takeTurn e c z.len s)
            (advance e c a d z.len (pieceWrite e c a d g z (pieceBytes a d g z l) ew s), true)

/-- Pieces moved, one for each entry, which holds the link errors of its read and its write. -/
def movePieces (e c : Nat) (a d : Desc) : List (LinkErr × LinkErr) → State → State
  | [], s => s
  | (er, ew) :: es, s =>
    let x := chan s e c
    if !x.busy || tgTotal x.cmd ≤ x.units then s
    else
      let (s, more) := movePiece e c a d er ew s
      if more then movePieces e c a d es s else s

/-- All units issued: step 4 begins. In read-back mode the last word written at each destination instance is to be read; at partners
it is asked for, and HM's writes complete by themselves (R251, R252). -/
def startCompleting (e c : Nat) (s : State) : State :=
  let x := chan s e c
  if !x.busy || x.completing || x.stop.isSome || x.units < tgTotal x.cmd then s
  else
    let s := setChan e c { x with completing := true, stalled := false } s
    match tgDst x.cmd with
    | some d =>
      if tgCmode x.cmd != 0 || d.space = 5 then s
      else if d.space = 6 then overList (fun w s => pmAsk e c w.2 8 true s) x.lastW s
      else setChan e c { chan s e c with backs := x.lastW.map (·.2) } s
    | none => s

/-- The local read-backs that can be served now (R251 step 4, R252); what the others wait for is set going. -/
def readBacks (e c : Nat) (s : State) : State :=
  let x := chan s e c
  match tgDst x.cmd with
  | none => s
  | some d =>
    overList (fun w s =>
      if pieceReady s (tongsSource e c) d.space w 8 w 8 false then
        let s := if d.space = 4 then countNp (smStack w) 1 s else s
        let (s, _) := memRead (tongsWho x) false d.space w 8 s
        setChan e c { chan s e c with backs := (chan s e c).backs.filter (fun v => v != w) } s
      else pieceAsk d.space w 8 w 8 false s) x.backs s

/-- Mode of the command at the head of a queue: bits [63:60] of word 16 of its body. -/
def headMode (s : State) (q : Nat) : Nat :=
  let x := queue s q
  natBits (peekNat s x.ringSpace (slotAddr x (x.taken + 3)) 8) 63 60

/-- Mode under which a row takes a command; a reserved mode is taken as a copy and rejected. -/
def rowMode (m : Nat) : Nat := if m ≤ 2 then m else 0

/-- A channel takes the command at the head of its queue (R245, R250). -/
def tongsTake (e c q : Nat) (s : State) : State :=
  withHead q (fun t s =>
    let cmd := (bytesWords t.body).take 24
    let x := chan s e c
    if !tongsAccepts s cmd then rejectCmd q t s
    else
      let s := setRf (chanReg e c 0x08) 59 58 (tgCmode cmd) s
      setChan e c { busy := true, qid := q, idx := t.idx, tag := t.tag, cmd := cmd, abort := x.abort, last := x.last } s) s

/-- A copy, gather or scatter: taken when the channel is free, then pieces moved (R248, R251). -/
def tongsRow (e c mode : Nat) (es : List (LinkErr × LinkErr)) (s : State) : Host.Outcome State Fault Refusal :=
  let go (s : State) : State :=
    let x := chan s e c
    match tgSrc x.cmd, tgDst x.cmd with
    | some a, some d => if x.busy then startCompleting e c (movePieces e c a d es s) else s
    | _, _ => s
  if (chan s e c).busy then
    if tgMode (chan s e c).cmd = mode ∧ !(chan s e c).completing then done (go s) else noEvent s
  else match chanQueue s e c with
    | none => noEvent s
    | some q =>
      if needSlots s q then done (askSlots q s)
      else if !canTake s q || (headHdr s q).cls != 2 || headRejected s q || rowMode (headMode s q) != mode then noEvent s
      else done (go (tongsTake e c q s))

/-- TONGS_COPY, TONGS_GATHER, TONGS_SCATTER (R248): engine e, channel c, and the pieces that this event moves at most, each with what the
wires do to it. -/
def execTongsCopy (e : Fin 24) (c : Fin 64) (es : List (LinkErr × LinkErr)) (s : State) :
    Host.Outcome State Fault Refusal := live s <| tongsRow e.val c.val 0 es s
def execTongsGather (e : Fin 24) (c : Fin 64) (es : List (LinkErr × LinkErr)) (s : State) :
    Host.Outcome State Fault Refusal := live s <| tongsRow e.val c.val 1 es s
def execTongsScatter (e : Fin 24) (c : Fin 64) (es : List (LinkErr × LinkErr)) (s : State) :
    Host.Outcome State Fault Refusal := live s <| tongsRow e.val c.val 2 es s

/-! ### Commit, abort, stops -/

/-- The event of step 7 (R253). -/
def tongsEvent (x : Chan) (s : State) : State :=
  let t := nth x.cmd 20 0
  let v := nth x.cmd 21 0
  match tgEvKind x.cmd with
  | 1 => countUp (natBits t 15 0) (natBits t 23 16) s
  | 2 =>
    let cl := natBits t 15 0 - 6
    overList (fun k s =>
      let y := 16 * cl + k
      if natBit (natBits t 31 16) k then setCore y (bumpDone 3 (coreSt s y)) s else s) (List.range 16) s
  | 3 => (flagAtPoc (tongsWho x) t v false s).1
  | 4 => (flagAtPoc (tongsWho x) t v true s).1
  | _ => s

/-- Have a command's writes to partners all left the module? -/
def pmLeft (s : State) (x : Chan) : Bool := x.pmOut.all (frameLeft s)

/-- Is the commit point reached (R251 step 5)? -/
def commitReached (s : State) (x : Chan) : Bool :=
  x.busy && x.completing && x.asked.isEmpty && x.backs.isEmpty && (tgCmode x.cmd != 0 || x.pmOut.isEmpty) && pmLeft s x

/-- TONGS_COMMIT (R23, R251 to R253): the read-backs that can return do; at the commit point the entry is written, and the event
delivered, which the engine's hearth pulses for. -/
def execTongsCommit (e : Fin 24) (c : Fin 64) (s : State) : Host.Outcome State Fault Refusal := live s <|
  let x := chan s e.val c.val
  let flag := tgEvKind x.cmd == 3 || tgEvKind x.cmd == 4
  let src := tongsSource e.val c.val
  if x.busy && x.completing && !x.backs.isEmpty then done (readBacks e.val c.val s)
  else if !commitReached s x then noEvent s
  else if flag && !moverReady s src 4 (nth x.cmd 20 0) 8 true then done (moverAsk 4 (nth x.cmd 20 0) 8 true s)
  else
    let s := journal x.qid x.idx x.tag { state := 2, progress := tgTotal x.cmd, cmode := tgCmode x.cmd } s
    let s := whenSt (tgEvKind x.cmd != 0) (pulse (tongsHearth e.val)) (tongsEvent x s)
    done (syncQueue x.qid (freeChan e.val c.val s))

/-- Does a FLAG or WAIT of a channel's queue run, and under which tag (R256, R258)? -/
def queueCmdTag (s : State) (e c : Nat) : Option Nat :=
  match chanQueue s e c with
  | none => none
  | some q =>
    if (waitOf s q).on then some (waitTag s q (waitOf s q)) else (s.pmWait.find? (fun w => w.qid == q)).map (·.tag)

/-- A channel has a command in progress: one that moves data, or a FLAG or WAIT (R258). -/
def chanBusy (s : State) (e c : Nat) : Bool := (chan s e c).busy || (queueCmdTag s e c).isSome

/-- A running WAIT or FLAG aborted (R256): a WAIT has written nothing; a FLAG's frame has been issued and stands. -/
def abortQueueCmd (e c tag : Nat) (s : State) : State :=
  match chanQueue s e c with
  | none => s
  | some q =>
    if (waitOf s q).on then endWait q { state := 0, status := stAborted } s
    else match s.pmWait.find? (fun w => w.qid == q && w.tag == tag) with
      | some w => journal q w.idx tag { state := 1, status := stAborted } { s with pmWait := s.pmWait.filter (fun v => v != w) }
      | none => s

/-- A write of TNG_CH_ABORT (R256). -/
def tongsAbort (e c tag : Nat) (s : State) : State :=
  let x := chan s e c
  if x.busy && x.tag == tag then
    chanEnd e c stAborted (setChan e c { x with abort := none } s)
  else if queueCmdTag s e c == some tag then abortQueueCmd e c tag (setChan e c { x with abort := none } s)
  else if x.last == some tag then setRf (chanReg e c 0x08) 57 57 1 (setChan e c { x with abort := none } s)
  else setChan e c { x with abort := some tag } s

/-- TONGS_ABORT. -/
def execTongsAbort (e : Fin 24) (c : Fin 64) (tag : BitVec 32) (s : State) : Host.Outcome State Fault Refusal := liveWrite s <|
  done (tongsAbort e.val c.val tag.toNat s)

/-- Has another channel bound a queue (R258)? -/
def boundElsewhere (s : State) (e c q : Nat) : Bool :=
  (List.range 1536).any (fun k => k != 64 * e + c && rf s (chanReg (k / 64) (k % 64) 0) 63 63 == 1
    && rf s (chanReg (k / 64) (k % 64) 0) 19 0 == q)

/-- A write of TNG_CH_CTL (R245, R258). -/
def channelBind (e c : Nat) (v : Word) (s : State) : State :=
  let r := chanReg e c 0
  let en := fieldOf v 63 63
  let q := fieldOf v 19 0
  let was := rf s r 19 0
  let changes := en != rf s r 63 63 || q != was
  if (changes && chanBusy s e c) || (en == 1 && boundElsewhere s e c q) then s
  else
    let s := setRf r 63 63 en (setRf r 55 52 (fieldOf v 55 52) (setRf r 51 48 (fieldOf v 51 48) (setRf r 19 0 q s)))
    let s := if en = 0 then setChan e c { chan s e c with abort := none } s else s
    let sync (q : Nat) (s : State) : State := if (queue s q).ckind = 3 then syncQueue q s else s
    sync was (sync q s)

/-- CHANNEL_BIND. -/
def execChannelBind (e : Fin 24) (c : Fin 64) (v : Word) (s : State) : Host.Outcome State Fault Refusal := liveWrite s <|
  done (channelBind e.val c.val v s)

/-- TONGS_HALT (R255): TNG_ENG_CTL.halt written. -/
def execTongsHalt (e : Fin 24) (h : Bool) (s : State) : Host.Outcome State Fault Refusal := liveWrite s <|
  done (setRf (tngReg e.val 0) 0 0 (b2n h) s)

/-- Does a running command reach HM, and does it read it? -/
def chanHm (x : Chan) : Bool × Bool :=
  let at5 (d : Option Desc) : Bool := match d with | some d => d.space == 5 | none => false
  let list := tgMode x.cmd != 0 && tgLspace x.cmd == 5
  (at5 (tgSrc x.cmd) || at5 (tgDst x.cmd) || list, at5 (tgSrc x.cmd) || list)

/-- HOST_ACCESS_ERROR (R255, R395): the host aborts or fails an HM access of a command. -/
def execHostAccessError (e : Fin 24) (c : Fin 64) (addr : Nat) (s : State) : Host.Outcome State Fault Refusal := live s <|
  let x := chan s e.val c.val
  if !x.busy || !(chanHm x).1 then noEvent s
  else
    let s := if (chanHm x).2 then satRf (hstReg 0x08) 63 48 1 s else s
    done (chanFault e.val c.val 0x270 addr s)

/-- HM_COMPLETION_TIMEOUT (R381, R395, R396): 50 ms without a completion. -/
def execHmCompletionTimeout (e : Fin 24) (c : Fin 64) (addr : Nat) (s : State) : Host.Outcome State Fault Refusal := live s <|
  let x := chan s e.val c.val
  if !x.busy || !(chanHm x).2 then noEvent s
  else
    let s := satRf (hstReg 0x08) 15 0 1 { s with cfg := { s.cfg with aerTimeout := true } }
    done (chanFault e.val c.val 0x270 addr s)

end Sys2Proof.Machine
end

