-- ==== Sys2Proof/Machine/Rings.lean ====
section
/-! DEFINITION. Result rings and the event ring (spec/12_serving_requests_and_sessions.md R306 to R310,
spec/15_mailboxes_and_prefen_commands.md R365): entries, room, and what waits for room or for the host. -/

namespace Sys2Proof.Machine

/-- Prefen's own state replaced through a function. -/
def updPrefen (f : Prefen → Prefen) (s : State) : State := { s with prefen := f s.prefen }

/-- A tag that a Smith core stamps for Prefen (R26, R356). [DESIGN CHOICE, log 56] -/
def smithTag (s : State) : State × Nat :=
  let (s, f) := takeFree s
  stampTag (0x58 + Config.smithCore f % 4) s

/-- Prefen's own loads and stores (R487). -/
def smithWho : Who := ⟨2, 0, false⟩

/-- A copy that a Hood Tongs engine makes for Prefen, under a tag of that engine's own (R25, R26, R487). [DESIGN CHOICE, log 63] -/
def hoodStamp (s : State) : State × Who :=
  let (s, f) := takeFree s
  let (s, t) := stampTag (0x70 + Config.hoodEngine f % 8) s
  (s, ⟨3, t, false⟩)

/-- An access of Prefen's to SM that what the PoC holds, or the host's copies, keep waiting is noted (R109, R132, R151, R158). [DESIGN CHOICE, log 169] -/
def prefenNeed (space a len : Nat) (write : Bool) (s : State) : State :=
  if moverReady s prefenSource space a len write then s else { s with blocked := s.blocked ++ [⟨a, len, write⟩] }

/-- A row of Prefen's: it happens once every access to SM that it makes can be performed; until then what they wait for is set going
and the row has no effect (R109). [DESIGN CHOICE, log 169] -/
def prefenRow (s : State) (act : State → Host.Outcome State Fault Refusal) : Host.Outcome State Fault Refusal :=
  live s (match act { s with blocked := [] } with
    | .next t =>
      if t.blocked.isEmpty then .next t
      else .next (overList (fun (r : Range) s => moverAsk 4 r.start r.len r.write s) t.blocked { s with blocked := [] })
    | o => o)

/-- A run of bytes read or written by a Hood Tongs engine for Prefen (R121); what goes to the host with poison is counted by line
(R397). -/
def hoodRead (space a n : Nat) (s : State) : State × List PByte :=
  let (s, w) := hoodStamp s
  memRead w false space a n (whenSt (space == 4) (countRun a n) (prefenNeed space a n false s))
def hoodWrite (space a : Nat) (l : List PByte) (s : State) : State :=
  let (s, w) := hoodStamp s
  let bad := (List.range (ceilDiv l.length 64)).countP (fun k => ((l.drop (64 * k)).take 64).any (·.2))
  let s := whenSt (space == 5) (satRf (hstReg 0x08) 31 16 bad) s
  memWrite w space a l (whenSt (space == 4) (countRun a l.length) (prefenNeed space a l.length true s))

/-- A run of bytes of SM loaded or stored by a Smith core for Prefen, over the narrow port (R121). -/
def smithLoad (a n : Nat) (s : State) : State × List PByte :=
  memRead smithWho false 4 a n (countNp (smStack a) (npWords a n) (prefenNeed 4 a n false s))
def smithStore (a : Nat) (bs : List Byte) (s : State) : State :=
  memWrite smithWho 4 a (cleanBytes bs) (countNp (smStack a) (npWords a bs.length) (prefenNeed 4 a bs.length true s))

/-- May Prefen reach a space now: SM rows that are free to be served, HM while the host port allows it (R395)? -/
def prefenReach (s : State) (space addr len hpath : Nat) (write : Bool) : Bool :=
  match space with
  | 5 => hmOpen s hpath
  | 6 => pmState s (addr / 2 ^ 48 % 256) == 1
  | _ => addrOk s space addr len && moverReady s prefenSource space addr len write

/-- Does the record of R306 fit (R489)? -/
def ringRecordOk (w0 w1 w2 w3 : Nat) : Bool :=
  let lg := natBits w2 55 51
  let sp := natBits w2 63 60
  let cs := natBits w2 59 56
  6 ≤ lg && lg ≤ 20 && (sp == 4 || sp == 5) && (cs == 4 || cs == 5) && w0 % 64 == 0 && w1 % 8 == 0
    && (sp != 4 || rangeOk 4 w0 (64 * 2 ^ lg)) && (cs != 4 || rangeOk 4 w1 8)
    && natBits w2 48 43 == 0 && natBits w2 31 0 == 0 && w3 == 0

/-- A ring made from its record. -/
def ringOf (w0 w1 w2 : Nat) : Ring :=
  { on := true, base := w0, consAddr := w1, space := natBits w2 63 60, consSpace := natBits w2 59 56, lg := natBits w2 55 51,
    hpath := natBits w2 50 50, irq := natBit w2 49, msix := natBits w2 42 32 }

/-- Has a ring room for n more entries, by the consumer index as last read (R309)? -/
def ringRoom (r : Ring) (n : Nat) : Bool := diff32 r.next r.cons + n ≤ 2 ^ r.lg

/-- The consumer index read when the last-read value would forbid a write; a value beyond the next entry is ignored (R309). -/
def ringConsult (n : Nat) (r : Ring) (s : State) : State × Ring :=
  if ringRoom r n || !prefenReach s r.consSpace r.consAddr 8 r.hpath false then (s, r)
  else
    let (s, l) := hoodRead r.consSpace r.consAddr 8 s
    let c := leNat (l.map (·.1)) % 2 ^ 32
    let ahead := diff32 c r.next
    if l.any (·.2) || (ahead != 0 && decide (ahead < 2 ^ 31)) then (s, r) else (s, { r with cons := c })

/-- May the next entry be written now: there is room, and its place can be reached (R309, R395)? -/
def ringMay (s : State) (r : Ring) : Bool :=
  r.on && ringRoom r 1 && prefenReach s r.space (r.base + 64 * (r.next % 2 ^ r.lg)) 64 r.hpath true

/-- The ready word of entry i (R307). -/
def readyWord (lg i : Nat) : Nat := (i / 2 ^ lg + 1) % 2 ^ 32 * 2 ^ 32 + i

/-- Bytes written through a ring's own Hood Tongs channel (R308): every entry of a ring goes through one engine, which no rule names. -/
def ringWrite (r : Ring) (a : Nat) (l : List Byte) (s : State) : State :=
  let (s, t) := stampTag (0x70 + Config.hoodEngine r.base % 8) s
  memWrite ⟨3, t, false⟩ r.space a (cleanBytes l)
    (whenSt (r.space == 4) (countRun a l.length) (prefenNeed r.space a l.length true s))

/-- An entry written: bytes 0 to 55, then the ready word (R308). -/
def ringPut (r : Ring) (body : List Byte) (s : State) : State × Ring :=
  let a := r.base + 64 * (r.next % 2 ^ r.lg)
  let s := ringWrite r a body s
  let s := ringWrite r (a + 56) (leBytes 8 (readyWord r.lg r.next)) s
  (s, { r with next := (r.next + 1) % 2 ^ 32 })

/-! ### The event ring -/

/-- Bytes 0 to 55 of an event entry (R365). -/
def eventBytes (e : Event) : List Byte :=
  leBytes 8 e.time ++ leBytes 1 e.kind ++ leBytes 1 (b2n e.late) ++ leBytes 2 e.status ++ leBytes 4 e.tag ++ leBytes 8 e.addr
    ++ leBytes 8 e.info0 ++ leBytes 8 e.info1 ++ leBytes 16 0

/-- One event written to the event ring, and its vector raised (R365, R308). -/
def eventPut (e : Event) (s : State) : State :=
  let (s, r) := ringPut s.prefen.evRing (eventBytes e) s
  let s := updPrefen (fun p => { p with evRing := r }) s
  if r.irq then msixRaise r.msix s else s

/-- The event ring with its consumer index looked up when that is needed. -/
def eventConsult (s : State) : State :=
  if !s.prefen.evRing.on then s
  else
    let (s, r) := ringConsult 1 s.prefen.evRing s
    updPrefen (fun p => { p with evRing := r }) s

/-- Held events written, oldest first, while the ring takes them, and EVENTS_LOST in its place when any was dropped (R365);
`fuel` is at least the number of entries. -/
def eventWrite : Nat → State → State
  | 0, s => s
  | fuel + 1, s =>
    let s := eventConsult s
    if !ringMay s s.prefen.evRing then s
    else if s.prefen.evLost != 0 && s.prefen.evLostAt == 0 then
      eventWrite fuel (updPrefen (fun p => { p with evLost := 0 })
        (eventPut { kind := 6, time := s.time, info0 := s.prefen.evLost } s))
    else match s.prefen.evHeld with
      | [] => s
      | e :: rest => eventWrite fuel (eventPut e (updPrefen (fun p => { p with evHeld := rest, evLostAt := p.evLostAt - 1 }) s))

/-- The event ring served as far as it can be. [DEDUCED, log 42] -/
def eventFlush (s : State) : State := eventWrite (s.prefen.evHeld.length + 2) s

/-- Prefen posts an event: written, held, or dropped and counted (R365). -/
def postEvent (e : Event) (s : State) : State := eventFlush (holdEvent e (eventFlush s))

/-! ### Result rings -/

def ringAt (s : State) (id : Nat) : Ring := tabGet {} s.prefen.rings id
def setRing (id : Nat) (r : Ring) (s : State) : State := updPrefen (fun p => { p with rings := tabSet {} p.rings id r }) s

/-- A ring's consumer index looked up when n more entries would not fit by its last-read value (R309). [DEDUCED, log 44] -/
def ringLook (id n : Nat) (s : State) : State :=
  if !(ringAt s id).on then s
  else
    let (s, r) := ringConsult n (ringAt s id) s
    setRing id r s

/-- Entries of a ring that wait to be written. -/
def ringWaiting (s : State) (id : Nat) : Nat := (s.prefen.ringOut.filter (fun e => e.ring == id)).length

/-- Has a ring room for one more entry beside those that wait (R295, R309)? -/
def ringHasRoom (s : State) (id : Nat) : Bool :=
  (ringAt s id).on && ringRoom (ringAt s id) (ringWaiting s id + 1)

/-- The index of a request's final entry is kept until the consumer has passed it (R293). -/
def noteFinal (o : RingOut) (i : Nat) (s : State) : State :=
  match o.final with
  | none => s
  | some t => updPrefen (fun p => { p with requests := p.requests.map (fun q =>
      if q.tag = t && 8 ≤ q.state && q.finalAt.isNone then { q with finalAt := some i } else q) }) s

/-- Waiting result entries written in order, ring by ring, as far as room and reach allow (R307 to R309, R395). -/
def resultFlushList (busy : List Nat) : List RingOut → State → State
  | [], s => s
  | o :: rest, s =>
    let s := ringLook o.ring 1 s
    if busy.contains o.ring || !ringMay s (ringAt s o.ring) then
      resultFlushList (o.ring :: busy) rest (updPrefen (fun p => { p with ringOut := p.ringOut ++ [o] }) s)
    else
      let i := (ringAt s o.ring).next
      let (s, r) := ringPut (ringAt s o.ring) o.body s
      let s := noteFinal o i (setRing o.ring r s)
      resultFlushList busy rest (if r.irq && o.last then msixRaise r.msix s else s)

def resultFlush (s : State) : State := resultFlushList [] s.prefen.ringOut (updPrefen (fun p => { p with ringOut := [] }) s)

/-- Everything Prefen holds for the host, tried again. [DEDUCED, log 41] -/
def prefenFlush (s : State) : State := eventFlush (resultFlush s)

end Sys2Proof.Machine
end

