-- ==== Sys2Proof/Machine/Census.lean ====
section
/-! DEFINITION. The scheduler's census of waits (spec/11_queues_flags_and_waits.md R279, R280), the service of the fault ring
(spec/20_faults_and_recovery.md R437) and of stored-data events (spec/06_stored_data_protection.md R159, R163). -/

namespace Sys2Proof.Machine

/-! ### The wait graph -/

/-! A waiting party is a number: the queue id it is ordered by, doubled, plus 1 for a stack site (R280). -/

/-- Headers of the first `k` untaken commands of a queue, as they stand. -/
def untaken (s : State) (x : Queue) : Nat → Nat → List (Nat × Hdr)
  | 0, _ => []
  | k + 1, i =>
    if i = x.prod then []
    else
      let h := hdrOf (peekSlot s x i)
      if diff32 x.prod i < h.slots then [] else (i, h) :: untaken s x k ((i + h.slots) % 2 ^ 32)

/-- Does a queue hold, among its first 64 untaken commands, one that would set a flag (R279)? [DEDUCED, log 39] -/
def wouldSet (s : State) (q addr : Nat) : Bool :=
  let x := queue s q
  (untaken s x 64 x.taken).any (fun e =>
    let (i, h) := e
    (h.cls == 3 && nth h.words 1 0 == addr) ||
    (h.cls == 2 &&
      (let body := (List.range 3).flatMap (fun k => peekSlot s x (i + 1 + k))
       (tgEvKind body == 3 || tgEvKind body == 4) && nth body 20 0 == addr)))

/-- Sites in step 2 of R204. -/
def waitingSites (s : State) : List Nat := (List.range 20).filter (fun n => (stackRun s n).phase == 4 && (stackRun s n).kind == 1)
/-- Queues whose head is a WAIT. -/
def waitingQueues (s : State) : List Nat := (s.waits.filter (fun e => e.2.on)).map (·.1)

/-- The site of a party that is one. -/
def siteOf (s : State) (p : Nat) : Option Nat := (waitingSites s).find? (fun n => 2 * (stackRun s n).qid + 1 == p)

/-- The waiting parties that would set what a party waits on (R279). -/
def partyEdges (s : State) (p : Nat) : List Nat :=
  if p % 2 = 0 then
    let q := p / 2
    let a := (waitOf s q).addr
    ((waitingQueues s).filter (fun k => k != q && wouldSet s k a)).map (2 * ·)
  else match siteOf s p with
    | none => []
    | some n =>
      let r := stackRun s n
      let late := (maskSites r.cmd).filter (fun m => m != n && !(exchOf s n).any (fun e => e.site == m && e.xkey == maskKey r.cmd))
      late.flatMap (fun m =>
        ((waitingQueues s).filter (fun k => (queue s k).ckind == 2 && (queue s k).ckey == m)).map (2 * ·)
          ++ ((waitingSites s).filter (· == m)).map (fun k => 2 * (stackRun s k).qid + 1))

/-- The wait graph. -/
def waitGraph (s : State) : List (Nat × List Nat) :=
  let ps := (waitingQueues s).map (2 * ·) ++ (waitingSites s).map (fun n => 2 * (stackRun s n).qid + 1)
  ps.map (fun (p : Nat) => (p, partyEdges s p))

/-- Cycles through `start`, its least party, that extend a path by at most `fuel` parties (R280: at most 16). -/
def cyclesFrom (g : List (Nat × List Nat)) (start : Nat) : Nat → List Nat → List (List Nat)
  | 0, _ => []
  | fuel + 1, path =>
    let next := match path with | [] => [] | p :: _ => ((g.find? (fun (e : Nat × List Nat) => e.1 == p)).map (fun (e : Nat × List Nat) => e.2)).getD []
    next.flatMap (fun q =>
      if q = start then [path.reverse]
      else if start < q && !path.contains q then cyclesFrom g start fuel (q :: path) else [])

/-- Every cycle of the graph. -/
def waitCycles (g : List (Nat × List Nat)) : List (List Nat) := g.flatMap (fun (e : Nat × List Nat) => cyclesFrom g e.1 16 [e.1])

/-- Tag of the WAIT or attention command of a party. -/
def partyTag (s : State) (p : Nat) : Nat :=
  if p % 2 = 0 then
    (((queue s (p / 2)).run.find? (fun c => c.idx == (waitOf s (p / 2)).idx)).map (·.tag)).getD 0
  else match siteOf s p with | some n => (stackRun s n).tag | none => 0

/-- Numbers in rising order. -/
def sortNat (l : List Nat) : List Nat :=
  l.foldl (fun acc x => acc.takeWhile (fun y => decide (y ≤ x)) ++ [x] ++ acc.dropWhile (fun y => decide (y ≤ x))) []

/-- The record of a new cycle: its parties in order of queue id, a queue before a site (R280, R281). -/
def reportCycle (c : List Nat) (s : State) : State :=
  let l := sortNat c
  let first := nth l 0 0
  let tag (k : Nat) : Nat := match l[k]? with | some p => partyTag s p | none => 0
  let hx := match siteOf s first with
    | some n => if first % 2 = 1 then hxStack n else consumerHearth (queue s (first / 2))
    | none => consumerHearth (queue s (first / 2))
  let s := faultRecord { code := 0x251, hearth := hx, tag := tag 0, src := 0x11, d0 := tag 2 * 2 ^ 32 + tag 1,
                         d1 := tag 3 * 2 ^ 32 + c.length, qid := first / 2 } s
  satRf (qscReg 0x20) 31 16 1 s

/-- Which of its waits a party is in: when its WAIT was taken, or the slot of its attention command. -/
def partyWait (s : State) (p : Nat) : Nat :=
  if p % 2 = 0 then (waitOf s (p / 2)).start else match siteOf s p with | some n => (stackRun s n).idx | none => 0

/-- WAIT_CENSUS (R279, R280): a cycle is reported once for as long as it lasts; one that forms again of other waits is another. -/
def execWaitCensus (s : State) : Host.Outcome State Fault Refusal := live s <|
  let named (c : List Nat) : List (Nat × Nat) := c.map (fun p => (p, partyWait s p))
  let found := waitCycles (waitGraph s)
  let fresh := found.filter (fun c => !s.cycles.contains (named c))
  let longest := found.foldl (fun m c => max m c.length) (rf s (qscReg 0x20) 4 0)
  let s := overList reportCycle fresh { s with cycles := found.map named }
  done (setRf (qscReg 0x20) 4 0 longest (bumpRf (qscReg 0x20) 63 32 1 s))

/-! ### Serving fault records -/

/-- A write of QSC_FLT_CONS (R281, R437): the records below it are served, and the fault bits they held are cleared. -/
def faultConsume (v : Nat) (s : State) : State :=
  let n := diff32 v (rf s (qscReg 0x38) 31 0)
  setRf (qscReg 0x38) 31 0 v { s with fltHearths := s.fltHearths.drop n }

/-- FAULT_RING_CONSUME. -/
def execFaultRingConsume (v : BitVec 32) (s : State) : Host.Outcome State Fault Refusal := liveWrite s <| done (faultConsume v.toNat s)

/-! ### Stored-data events -/

/-- Hearth index of block b: stacks 0 to 19, then Anvils (R22). -/
def blockHearth (b : Nat) : Nat := if b < 20 then hxStack b else hxAnvil (b - 20)

/-- A free remap entry of a channel and a free spare row of a bank (R157, R158). -/
def freeRemap (s : State) (a : Nat) : Option (Nat × Nat) :=
  let n := smStack a
  let ch := smChannel a
  let entries := (List.range 8).map (fun e => (e, rmapEntry s n ch e))
  let used (sp : Nat) : Bool := entries.any (fun e => natBit e.2 31 && natBits e.2 30 27 == smLayer a && natBits e.2 26 25 == smGroup a
    && natBits e.2 24 23 == smBank a && natBits e.2 10 10 == sp)
  match entries.find? (fun e => !natBit e.2 31), [0, 1].find? (fun sp => !used sp) with
  | some e, some sp => some (e.1, sp)
  | _, _ => none

/-- Prefen remaps the row of an SM address, or raises remap-exhausted; while a move of its stack is busy, the row stays due (R158,
R159). -/
def remapRow (a : Nat) (s : State) : State :=
  let n := smStack a
  let ch := smChannel a
  if (List.range 8).any (fun e => rmapHits (rmapEntry s n ch e) a) then s
  else if rf s (stkReg n 0x230) 63 63 = 1 then { s with remapDue := s.remapDue ++ [a] }
  else match freeRemap s a with
    | some (e, sp) =>
      rmapGo n (BitVec.ofNat 64 (ch * 2 ^ 27 + smLayer a * 2 ^ 23 + smGroup a * 2 ^ 21 + smBank a * 2 ^ 19 + smRow a * 2 ^ 7
        + e * 2 ^ 4 + sp * 2 ^ 3 + 1)) s
    | none => faultRecord { code := 0x236, hearth := hxStack n, src := 0x12, addr := a } s

/-- A row of stack n in which words at 3 distinct addresses were Corrected within 24 hours (R159). -/
def rowDue (s : State) (n : Nat) : Option Nat :=
  let day := 86400000000000
  let mine := s.corrLog.filter (fun e => smStack e.1 == n && s.time - e.2 ≤ day)
  (mine.find? (fun e => decide (3 ≤ ((mine.filter (fun f => f.1 / 2048 == e.1 / 2048)).map
    (·.1)).eraseDups.length))).map (·.1)

/-- The words logged of a row are forgotten once the row has been dealt with. -/
def forgetRow (a : Nat) (s : State) : State := { s with corrLog := s.corrLog.filter (fun e => e.1 / 2048 != a / 2048) }

/-- A latched event with the tag of a command of the step in flight taints the step; its place is kept (R440). -/
def taintBy (tag space addr : Nat) (ovfl : Bool) (s : State) : State :=
  let st := s.prefen.step
  if st.on && st.cmds.any (fun c => c.2.2 == tag) then
    updPrefen (fun p => { p with step := { st with tainted := true,
                                                   origins := st.origins ++ [(s.group.self, space, addr, ovfl)] } }) s
  else s

/-- STORED_ERROR_SERVICE (R159, R163, R440): Prefen serves the latch of block b, and remaps rows of the stack that are due. [DEDUCED, log 46] -/
def execStoredErrorService (b : Fin 24) (s : State) : Host.Outcome State Fault Refusal := live s <|
  let ri := latchInfoReg b.val
  let dueRow (s : State) : State :=
    if b.val < 20 && rf s (stkReg b.val 0x230) 63 63 == 0 then
      match s.remapDue.find? (fun a => smStack a == b.val), rowDue s b.val with
      | some a, _ => remapRow a { s with remapDue := s.remapDue.erase a }
      | none, some a => forgetRow a (remapRow a s)
      | none, none => s
    else s
  if !bitOf (rg s ri) 0 then done (dueRow s)
  else
    let kind := rf s ri 27 24
    let src := rf s ri 31 28
    let space := rf s ri 23 20
    let tag := rf s ri 63 32
    let addr := (rg s (latchAddrReg b.val)).toNat
    let s := taintBy tag space addr (rf s ri 1 1 == 1) s
    let s := postEvent { kind := 2, status := 0x230 + kind, tag := tag, addr := addr,
                         info0 := blockHearth b.val * 2 ^ 16 + space * 2 ^ 12 + src * 2 ^ 4 + kind } s
    let s := setRf ri 0 0 0 s
    done (if kind = 0 && src = 6 && space = 4 then remapRow addr s else dueRow s)

end Sys2Proof.Machine
end

