-- ==== Sys2Proof/Machine/Mailbox.lean ====
section
/-! DEFINITION. Mailboxes (spec/15_mailboxes_and_prefen_commands.md, R345 to R357): doorbells, the taking of a request and its
common checks, responses, and the one way in which an opcode acts for a mailbox or for a Prefen queue. -/

namespace Sys2Proof.Machine

/-- Status codes of R354. -/
def stBadOpcode : Nat := 0x100
def stBadParam : Nat := 0x101
def stBadLength : Nat := 0x102
def stNotLead : Nat := 0x103
def stNoModel : Nat := 0x110
def stTagInUse : Nat := 0x111
def stSessionExists : Nat := 0x112
def stSessionUnknown : Nat := 0x113
def stNoSessionSpace : Nat := 0x114
def stContextFull : Nat := 0x115
def stNotParked : Nat := 0x116
def stSessionBusy : Nat := 0x117
def stIngotBad : Nat := 0x118
def stBuildMismatch : Nat := 0x119
def stGroupMismatch : Nat := 0x11A
def stNoMemory : Nat := 0x11B
def stCrcMismatch : Nat := 0x11C
def stUnknownRequest : Nat := 0x11D
def stBadRing : Nat := 0x120
def stRingInUse : Nat := 0x121
def stAdapterAbsent : Nat := 0x130
def stAdapterGone : Nat := 0x131
def stAdapterBusy : Nat := 0x132
def stAdapterPinned : Nat := 0x133
def stManifestBad : Nat := 0x140
def stPlanInvalid : Nat := 0x141
def stStackFailed : Nat := 0x142
def stModelInUse : Nat := 0x143
def stQueueBusy : Nat := 0x150
def stQueueState : Nat := 0x151
def stChannelBusy : Nat := 0x152
def stGroupBusy : Nat := 0x160
def stPartnerAbsent : Nat := 0x161
def stTestRefused : Nat := 0x170
def stFwImageBad : Nat := 0x171

def mbox (s : State) (m : Nat) : Mbox := tabGet {} s.prefen.mbox m
def setMbox (m : Nat) (x : Mbox) (s : State) : State := updPrefen (fun p => { p with mbox := tabSet {} p.mbox m x }) s

/-- SMC_MB_STAT.state (R345): 0 IDLE, 1 BUSY, 2 DONE. -/
def mbState (s : State) (m : Nat) : Nat := rf s (mbReg m 8) 63 60

/-- SMC_FW_STAT.stage (R350). -/
def fwStage (s : State) : Nat := rf s (smcReg 0) 63 60
/-- Prefen takes commands: it is READY, awake and not frozen (R350, R417, R463). -/
def prefenReady (s : State) : Bool := fwStage s == 2 && pstate s == 2 && !frozen s

/-! ### Doorbells and the handshake -/

/-- A write of SMC_MB_DB (R345, R349). [DEDUCED, log 47] -/
def mbDoorbell (m : Nat) (v : Word) (s : State) : State :=
  if rf s (smcReg 0) 31 31 = 0 then setRf (mbReg m 8) 58 58 1 s
  else if mbState s m = 1 then setRf (mbReg m 8) 59 59 1 s
  else
    let x := mbox s m
    updPrefen (fun p => { p with arrivals := p.arrivals + 1 })
      (setMbox m { x with rung := true, rungSeq := fieldOf v 31 0, order := s.prefen.arrivals } s)

/-- MAILBOX_DOORBELL (R345, R347, R349). -/
def execMailboxDoorbell (m : Fin 16) (v : Word) (s : State) : Host.Outcome State Fault Refusal :=
  hostBar s <| liveWrite s <| done (mbDoorbell m.val v s)

/-- A write of SMC_HOST_IF (R350, R351). [DEDUCED, log 49] -/
def hostIfWrite (v : Word) (s : State) : State :=
  let s := setRf (smcReg 8) 63 48 (fieldOf v 63 48) s
  if fwStage s != 2 then s
  else if fieldOf v 63 56 = 4 then setRf (smcReg 0) 31 30 2 s
  else setRf (smcReg 0) 31 30 1 s

/-- HOST_IF_WRITE (R351). -/
def execHostIfWrite (v : Word) (s : State) : Host.Outcome State Fault Refusal :=
  hostBar s <| if running s then done (hostIfWrite v s) else liveWrite s <| done s

/-! ### Responses -/

/-- The response area written, then the state DONE, then the vector (R346, R347 steps 4 and 5). -/
def respond (m status : Nat) (words : List Nat) (s : State) : State :=
  let w0 := (rg s (mbReg m 0x400)).toNat
  let x := mbox s m
  let words := if status = 0 then words else []
  let head := natBits (nth x.req 0 w0) 63 48 * 2 ^ 48 + 8 * words.length * 2 ^ 32 + status * 2 ^ 16
  let all := head :: nth x.req 1 0 :: words
  let s := overList (fun k s => setRg (mbReg m (0x800 + 8 * k)) (BitVec.ofNat 64 (nth all k 0)) s) (List.range 128) s
  let s := setRf (mbReg m 8) 63 60 2 (setMbox m { x with taken := false } s)
  if rf s (mbReg m 0x10) 63 63 = 1 then msixRaise (rf s (mbReg m 0x10) 42 32) s else s

/-- The answer of a command that runs from a mailbox or a queue (R304, R356, R357). `st` is the journal state. -/
def answer (c : Caller) (st status progress : Nat) (late : Bool) (s : State) : State :=
  match c with
  | .mailbox m => respond m status [progress, b2n late] s
  | .queue q i t => journal q i t { state := st, status := status, progress := progress, late := late } s

/-- A command refused with a status: nothing was done. [DEDUCED, log 50] -/
def refuse (c : Caller) (status : Nat) (s : State) : State := answer c 0 status 0 false s

/-! ### Taking a request -/

/-- Payload bytes of each opcode (R358 to R364). -/
def opPlen : Nat → Option Nat
  | 0x01 => some 0 | 0x02 => some 0 | 0x03 => some 8 | 0x04 => some 32
  | 0x12 => some 8 | 0x13 => some 8 | 0x14 => some 8 | 0x15 => some 8 | 0x16 => some 32 | 0x17 => some 32
  | 0x18 => some 8 | 0x19 => some 8
  | 0x40 => some 16 | 0x41 => some 0 | 0x42 => some 0
  | 0x50 => some 24 | 0x51 => some 8 | 0x52 => some 8
  | 0x60 => some 40 | 0x61 => some 8 | 0x62 => some 8 | 0x63 => some 8 | 0x68 => some 40 | 0x69 => some 8
  | 0x70 => some 72 | 0x71 => some 0 | 0x72 => some 0
  | 0x80 => some 0 | 0x81 => some 0 | 0x82 => some 8 | 0x83 => some 16 | 0x84 => some 16
  | _ => none

/-- Bits of payload word k that are no reserved field (R358 to R364). Records of R268 and R306 are checked by R489. -/
def opMask (op k : Nat) : Nat :=
  let all := 2 ^ 64 - 1
  match op, k with
  | 0x03, 0 => 2 ^ 32 - 1
  | 0x12, 0 => 2 ^ 32 - 1 | 0x13, 0 => 2 ^ 32 - 1 | 0x15, 0 => 2 ^ 32 - 1 | 0x18, 0 => 2 ^ 32 - 1 | 0x19, 0 => 2 ^ 32 - 1
  | 0x14, 0 => 2 ^ 33 - 1
  | 0x16, 0 => 2 ^ 32 - 1
  | 0x16, 2 => 0x1F * 2 ^ 59
  | 0x17, 0 => 2 ^ 34 - 1
  | 0x17, 2 => 0x1F * 2 ^ 59
  | 0x17, 3 => 2 ^ 16 - 1
  | 0x40, 1 => 0xF * 2 ^ 60 + 2 ^ 32 - 1
  | 0x50, 0 => 2 ^ 16 - 1
  | 0x50, 2 => 0xF * 2 ^ 60 + 2 ^ 32 - 1
  | 0x51, 0 => 2 ^ 16 - 1 | 0x52, 0 => 2 ^ 16 - 1 | 0x68, 0 => 2 ^ 16 - 1 | 0x69, 0 => 2 ^ 16 - 1
  | 0x60, 0 => 2 ^ 20 - 1 | 0x61, 0 => 2 ^ 20 - 1 | 0x62, 0 => 2 ^ 20 - 1 | 0x63, 0 => 2 ^ 20 - 1
  | 0x60, 1 => 2 ^ 32 - 1
  | 0x70, 0 => 2 ^ 8 - 1
  | 0x82, 0 => 2 ^ 17 - 1
  | 0x83, 1 => 0xF * 2 ^ 60 + 0xFFFF00 + 7
  | 0x84, 1 => 2 ^ 32 - 1
  | _, _ => all

/-- Commands of R355 item 4. [DEDUCED, log 48] -/
def leadOnly (op : Nat) : Bool :=
  [0x12, 0x13, 0x14, 0x15, 0x16, 0x17, 0x40, 0x41, 0x50, 0x51, 0x60, 0x61, 0x62, 0x63, 0x70, 0x71].contains op

/-- The first failure of the common checks (R355), 0 if none. -/
def commonStatus (s : State) (req : List Nat) : Nat :=
  let w0 := nth req 0 0
  let op := natBits w0 63 48
  match opPlen op with
  | none => stBadOpcode
  | some n =>
    if natBits w0 47 32 != n then stBadLength
    else if natBits w0 31 0 != 0 || (List.range (n / 8)).any (fun k => (nth req (k + 2) 0) &&& (2 ^ 64 - 1 - opMask op k) != 0)
    then stBadParam
    else if leadOnly op && inGroup s && s.group.self != 0 then stNotLead
    else 0

/-- The mailbox whose doorbell arrived first among those not yet taken (R348). -/
def firstRung (s : State) : Option Nat :=
  let l := s.prefen.mbox.filter (fun e => e.2.rung)
  match l.find? (fun e => l.all (fun f => decide (e.2.order ≤ f.2.order))) with
  | some e => some e.1
  | none => none

/-- MAILBOX_TAKE (R347 step 2, R355). -/
def execMailboxTake (m : Fin 16) (s : State) : Host.Outcome State Fault Refusal := prefenRow s fun s =>
  if !prefenReady s || firstRung s != some m.val then noEvent s
  else
    let x := mbox s m.val
    let plen := natBits (rg s (mbReg m.val 0x400)).toNat 47 32
    let n := min 128 (2 + (plen + 7) / 8)
    let req := (List.range n).map (fun k => (rg s (mbReg m.val (0x400 + 8 * k))).toNat)
    let s := setMbox m.val { x with rung := false, taken := true, req := req } s
    let s := setRf (mbReg m.val 8) 31 0 x.rungSeq (setRf (mbReg m.val 8) 63 60 1 s)
    let st := commonStatus s req
    done (if st = 0 then s else respond m.val st [] s)

/-! ### Opcodes -/

/-- Commands that need the group wait while it holds after a partner loss; GROUP_DISSOLVE does not (R444). -/
def groupFree (s : State) : Bool := s.prefen.holdSince.isNone

/-- Opcode of the request that a mailbox holds. -/
def mbOp (x : Mbox) : Nat := natBits (nth x.req 0 0) 63 48

/-- Does the group's hold keep an opcode waiting (R444)? -/
def opHeld (s : State) (op : Nat) : Bool := leadOnly op && op != 0x71 && !groupFree s

/-- Is a command that a mailbox brought earlier than `order` still to act (R348)? What a hold of the group keeps waiting is passed. -/
def mbBefore (s : State) (order : Nat) : Bool :=
  s.prefen.mbox.any (fun e => e.2.taken && decide (e.2.order < order) && !opHeld s (mbOp e.2))

/-- Has every command that a mailbox brought acted, so that the next event of Prefen's serial order may (R297, R348)? -/
def serialFree (s : State) : Bool := !mbBefore s s.prefen.arrivals

/-- The opcode of the mailbox's request may act now: its turn in the serial order has come. -/
def mbHas (s : State) (m op : Nat) : Bool :=
  (mbox s m).taken && mbOp (mbox s m) == op && prefenReady s && !opHeld s op && !mbBefore s (mbox s m).order

/-- An opcode that only a mailbox carries, acting on its payload words. -/
def mbCmd (m op : Nat) (act : List Nat → State → State) (s : State) : Host.Outcome State Fault Refusal :=
  if !mbHas s m op then noEvent s
  else
    let x := mbox s m
    done (act (x.req.drop 2) (setMbox m { x with taken := false } s))

/-- A Prefen request class at the head of a queue, taken and handed on with its header and body words (R261, R287). -/
def queueCmd (q cls : Nat) (slots : Nat) (act : Caller → List Nat → State → State) (s : State) : Host.Outcome State Fault Refusal :=
  let h := headHdr s q
  if prefenReady s && (queue s q).ckind == 1 && needSlots s q then done (askSlots q s)
  else if !prefenReady s || !groupFree s || !serialFree s || !canTake s q || (queue s q).ckind != 1 || h.cls != cls then noEvent s
  else done (withHead q (fun t s =>
    if t.hdr.slots != slots || (cls ≤ 0x12 && t.hdr.subop != 0) || 0x17 < cls then rejectCmd q t s
    else act (.queue q t.idx t.tag) (t.hdr.words ++ bytesWords t.body) s) s)

/-- A command that comes by mailbox or by queue (R357): payload word k is header word k + 1. -/
def eitherCmd (src : CmdSrc) (cls : Nat) (act : Caller → List Nat → State → State) (s : State) : Host.Outcome State Fault Refusal :=
  match src with
  | .mailbox m => mbCmd m.val cls (act (.mailbox m.val)) s
  | .queue q => queueCmd q.toNat cls 1 (fun c w => act c (w.drop 1)) s

/-! ### Async operations -/

/-- An async command accepted (R356): from a mailbox it is answered with the tag Prefen stamps, from a queue it keeps its own. -/
def acceptOp (c : Caller) (op : Nat) (w : List Nat) (awaits : List Nat) (s : State) : State :=
  match c with
  | .mailbox m =>
    let (s, t) := smithTag s
    let s := updPrefen (fun p => { p with ops := p.ops ++ [{ op := op, tag := t, words := w, awaits := awaits }] }) s
    respond m 0 [t] s
  | .queue _ _ t =>
    updPrefen (fun p => { p with ops := p.ops ++ [{ op := op, tag := t, words := w, awaits := awaits, caller := some c }] }) s

def opByTag (s : State) (t : Nat) : Option AsyncOp := s.prefen.ops.find? (fun o => o.tag == t)
def opByCode (s : State) (op : Nat) : Option AsyncOp := s.prefen.ops.find? (fun o => o.op == op)
def setOp (o : AsyncOp) (s : State) : State :=
  updPrefen (fun p => { p with ops := p.ops.map (fun x => if x.tag = o.tag then o else x) }) s

/-- An operation's outcome: its OP_DONE event (R356), or the journal entry of a queue's command (R357). -/
def endOp (o : AsyncOp) (status info1 : Nat) (late : Bool) (s : State) : State :=
  let s := updPrefen (fun p => { p with ops := p.ops.filter (fun x => x.tag != o.tag) }) s
  let s := if status = 0 then tagHearth (prefenHearth s) o.tag s else s
  match o.caller with
  | some c => answer c (if status = 0 then 2 else 0) status (b2n (status = 0)) late s
  | none => postEvent { kind := 1, late := late, status := status, tag := o.tag, info0 := o.op, info1 := info1 } s

end Sys2Proof.Machine
end

