-- ==== Sys2Proof/Machine/Sessions.lean ====
section
/-! DEFINITION. Sessions, requests, adapters and billets as Prefen keeps them (spec/12_serving_requests_and_sessions.md R284 to
R312, spec/08_attention_in_the_stacks.md R192 to R197, spec/14_parking_and_ingots.md R330 to R334). -/

namespace Sys2Proof.Machine

/-- Most positions of a session (R285). -/
def maxLen : Nat := 2097152

/-! ### Lookups -/

def session (s : State) (id : Nat) : Option Session := (s.prefen.sessions.find? (fun e => e.1 == id)).map (·.2)
def blankSession : Session := { id := 0 }
def sessionD (s : State) (id : Nat) : Session := (session s id).getD blankSession
def setSession (x : Session) (s : State) : State :=
  updPrefen (fun p => { p with sessions := tabSet blankSession p.sessions x.id x }) s
def dropSession (id : Nat) (s : State) : State :=
  updPrefen (fun p => { p with sessions := p.sessions.filter (fun e => e.1 != id) }) s

def request (s : State) (tag : Nat) : Option Request := s.prefen.requests.find? (fun r => r.tag == tag)
def setRequest (r : Request) (s : State) : State :=
  updPrefen (fun p => { p with requests := p.requests.map (fun x => if x.tag = r.tag then r else x) }) s
def terminal (r : Request) : Bool := decide (8 ≤ r.state)
/-- A session's requests that are not retired, in admission order. -/
def requestsOf (s : State) (id : Nat) : List Request := s.prefen.requests.filter (fun r => r.session == id)
/-- The request of a session in PREFILL, DECODE or HELD, if any. -/
def activeOf (s : State) (id : Nat) : Option Request :=
  (requestsOf s id).find? (fun r => r.state == 2 || r.state == 3 || r.state == 4)
/-- The request that an ingot holds: the session's first HELD one (R331). -/
def heldOf (s : State) (sid : Nat) : Option Request := (requestsOf s sid).find? (fun r => r.state == 4)
/-- SESSION_QUERY's state (R286, R362): 0 OPEN, 1 ACTIVE, 2 PARKED. -/
def sessionState (s : State) (x : Session) : Nat :=
  if x.parked then 2 else if (requestsOf s x.id).any (fun r => r.state == 2 || r.state == 3) then 1 else 0

/-- Is a session in a row or chunk of the step in flight? -/
def inStep (s : State) (id : Nat) : Bool := s.prefen.step.on && s.prefen.step.rows.any (fun r => r.session == id)

/-! ### Adapters -/

def adapter (s : State) (slot : Nat) : Adapter := tabGet {} s.prefen.adapters slot
def setAdapter (slot : Nat) (a : Adapter) (s : State) : State :=
  updPrefen (fun p => { p with adapters := tabSet {} p.adapters slot a }) s
def hasVersion (s : State) (slot ver : Nat) : Bool := (adapter s slot).versions.any (fun v => v.num == ver)

/-- Pins on a version (R299, R300): requests not retired, ingots, and the pins that a step holds until it commits. -/
def pins (s : State) (slot ver : Nat) : Nat :=
  (s.prefen.requests.filter (fun r => r.aslot == slot && r.aver == ver)).length
    + (s.prefen.sessions.filter (fun e => e.2.parked && e.2.aslot == slot && e.2.aver == ver)).length
    + (s.prefen.step.rows.filter (fun r => s.prefen.step.on && r.aslot == slot && r.oldVer == some ver)).length

/-- Versions that are not current and hold no pin are retired at a commit (R299). -/
def retireVersions (s : State) : State :=
  let keep (slot : Nat) (a : Adapter) : Adapter :=
    { a with versions := a.versions.filter (fun v => v.num == a.current || pins s slot v.num != 0) }
  updPrefen (fun p => { p with adapters := (p.adapters.map (fun e => (e.1, keep e.1 e.2))).filter (fun e => e.2 != {}) }) s

/-! ### The model's shape on this module -/

/-- KV heads of a layer that this member holds: head h with h mod G = group.self (R378). -/
def memberHeads (s : State) : List Nat :=
  (List.range s.prefen.build.heads).filter (fun h => h % s.group.modules == s.group.self % s.group.modules)

/-- Billets of a (layer, head) that positions 0 to L - 2 need (R338). -/
def billetsFor (len : Nat) : Nat := ceilDiv (len - 1) 512

/-! ### Placement in SM -/

/-- A place of `bytes` bytes, aligned, in the populated SM of one stack: which one is a free value. [DESIGN CHOICE, log 115] -/
def placeSm (bytes align : Nat) (s : State) : State × Nat :=
  let (s, f) := takeFree s
  let v := Config.place f
  (s, v % 20 * 2 ^ 36 + v / 20 % ((stackBytes - bytes) / align + 1) * align)

/-- Every billet on this module with its session. -/
def allBillets (s : State) : List Billet := s.prefen.sessions.flatMap (fun e => e.2.billets)

/-- Bases of the places in a slice that no new billet may take: those of billets, and those whose rows are still to be cleared. -/
def takenBases (s : State) (n u : Nat) : List Nat :=
  ((allBillets s).map (·.base) ++ s.prefen.clears.map (·.1)).filter (fun a => smStack a == n && unitOf a == u)

/-- Billets on stack n. -/
def billetsOn (s : State) (n : Nat) : Nat := ((allBillets s).filter (fun b => smStack b.base == n)).length

/-- The first index among 0 … n - 1 with the least value. -/
def leastIndex (f : Nat → Nat) (n : Nat) : Nat :=
  (List.range n).foldl (fun best k => if f k < f best then k else best) 0

/-- Start stack of a new session (R196). -/
def startStack (s : State) : Nat := leastIndex (billetsOn s) 20

/-- Slice of a stack for a new billet of a layer (R196). -/
def billetSlice (s : State) (n layer : Nat) : Nat :=
  leastIndex (fun u => ((allBillets s).filter (fun b => smStack b.base == n && unitOf b.base == u && b.layer == layer)).length) 512

/-- The place of a new billet in a slice: rows free of other billets there, which of them is a free value (R193). -/
def billetPlace (n u pieces : Nat) (s : State) : State × Option Nat :=
  let taken := takenBases s n u
  let rows := (List.range (0xC000 - pieces + 1)).filter (fun r =>
    taken.all (fun a => let q := natBits a 35 20; decide (q + pieces ≤ r) || decide (r + pieces ≤ q)))
  let (s, f) := takeFree s
  match rows[Config.place f % max 1 rows.length]? with
  | some r => (s, some (n * 2 ^ 36 + r * 2 ^ 20 + u % 16 * 2 ^ 16 + u / 16 * 2 ^ 11))
  | none => (s, none)

/-- Header of a billet (R194). [DEDUCED, log 65] -/
def billetHeader (sid layer head fmt index d : Nat) : List Byte :=
  leBytes 4 sid ++ leBytes 2 layer ++ leBytes 1 head ++ leBytes 1 fmt ++ leBytes 4 index ++ leBytes 2 d ++ leBytes 50 0

/-- Key of a stack-local list of a session: (layer × heads + head) × 20 + n (R197). -/
def listKey (heads layer h n : Nat) : Nat := (layer * heads + h) * 20 + n

/-- The stack-local list of a (layer, head) made when its first billet on the stack is allocated (R197). -/
def ensureList (x : Session) (heads layer h n : Nat) (s : State) : State × Session :=
  let k := listKey heads layer h n
  if x.lists.any (fun e => e.1 == k) then (s, x)
  else
    let (s, f) := takeFree s
    let a := n * 2 ^ 36 + Config.place f % (stackBytes / 2048) * 2048
    let first := (n + 20 - x.start) % 20
    let hd := leBytes 4 x.id ++ leBytes 2 layer ++ leBytes 1 h ++ leBytes 1 n ++ leBytes 2 first
    let s := smithStore a (hd ++ leBytes 2038 0) s
    let s := smithStore (x.root + 64 + 8 * k) (leBytes 8 a) s
    (s, { x with lists := tabSet 0 x.lists k a })

/-- One billet allocated and entered in its list (R194, R196, R197); none when its stack has no room. -/
def allocBillet (x : Session) (layer h index : Nat) (s : State) : State × Option Session :=
  let b := s.prefen.build
  let n := (x.start + index) % 20
  let (s, place) := billetPlace n (billetSlice s n layer) (billetPieces b.d) s
  match place with
  | none => (s, none)
  | some base =>
    let (s, x) := ensureList x (memberHeads s).length layer h n s
    let la := tabGet 0 x.lists (listKey (memberHeads s).length layer h n)
    let e := index / 20
    let s := smithStore (la + 64 + 8 * e) (leBytes 8 base) (smithStore (la + 10) (leBytes 2 (e + 1)) s)
    let s := smithStore base (billetHeader x.id layer h b.fmt index b.d) s
    let x := { x with billets := x.billets ++ [⟨layer, h, index, base, false⟩] }
    (setSession x s, some x)

/-- The (layer, head, index) of billets that a session needs for a length and does not have. -/
def missingBillets (s : State) (x : Session) (len : Nat) : List (Nat × Nat × Nat) :=
  (List.range (billetsFor len)).flatMap (fun i =>
    (List.range s.prefen.build.layers).flatMap (fun l =>
      ((List.range (memberHeads s).length).filter (fun h => !x.billets.any (fun b => b.layer == l && b.head == h && b.index == i))).map
        (fun h => (l, h, i))))

/-- Billets allocated one after another; none as soon as one has no place. -/
def allocList (x : Session) : List (Nat × Nat × Nat) → State → State × Option Session
  | [], s => (s, some x)
  | (l, h, i) :: t, s =>
    match allocBillet x l h i s with
    | (s, some x) => allocList x t s
    | (s, none) => (s, none)

/-- Billets for a length allocated, or none and nothing changed. -/
def growSession (id len : Nat) (s : State) : Option State :=
  let x := sessionD s id
  match allocList x (missingBillets s x len) s with
  | (s', some _) => some s'
  | (_, none) => none

/-- A billet freed: the slice-mode clear of its rows starts, or waits for the stack's clear engine (R151, R196). [DEDUCED, log 64] -/
def freeBillet (pieces : Nat) (b : Billet) (s : State) : State :=
  nextClear (smStack b.base) (updPrefen (fun p => { p with clears := p.clears ++ [(b.base, pieces)] }) s)

/-- The entry of a freed billet in its stack-local list reads as not allocated, and the list's count of entries in use follows (R197). -/
def unlist (x : Session) (rest : List Billet) (b : Billet) (s : State) : State :=
  let n := smStack b.base
  let la := tabGet 0 x.lists (listKey (memberHeads s).length b.layer b.head n)
  let left := rest.filter (fun y => y.layer == b.layer && y.head == b.head && smStack y.base == n)
  smithStore (la + 10) (leBytes 2 (left.foldl (fun m y => max m (y.index / 20 + 1)) 0))
    (smithStore (la + 64 + 8 * (b.index / 20)) (leBytes 8 0) s)

/-- Billets whose index satisfies `p` freed. -/
def freeBillets (id : Nat) (p : Billet → Bool) (s : State) : State :=
  let x := sessionD s id
  let rest := x.billets.filter (fun b => !p b)
  let s := setSession { x with billets := rest } s
  overList (fun b s => freeBillet (billetPieces s.prefen.build.d) b (unlist x rest b s)) (x.billets.filter p) s

/-! ### Ingot slots -/

/-- SM address of an ingot slot (R330). -/
def slotAt (s : State) (slot : Nat) : Nat := s.prefen.ingotTable + 512 * slot
/-- The state byte of a slot: 0 FREE, 1 LIVE, 2 PARKED (R330, R331). -/
def setSlotState (slot st : Nat) (s : State) : State := smithStore (slotAt s slot + 4) (leBytes 1 st) s

/-- A free slot; which one is a free value. -/
def freeSlot (s : State) : State × Option Nat :=
  let (s, f) := takeFree s
  let from_ := Config.place f % 262144
  (s, ((List.range 262144).map (fun k => (from_ + k) % 262144)).find? (fun k => !s.prefen.sessions.any (fun e => e.2.slot == k)))

/-- A session given a slot, a start stack and its billet root (R196, R197, R330); its slot keeps its state. -/
def placeSession (id k0 k1 t : Nat) (s : State) : State :=
  let b := s.prefen.build
  let (s, slot) := freeSlot s
  let n := b.layers * (memberHeads s).length * 20 * 8
  let (s, root) := placeSm (64 + n) 64 s
  let hd := leBytes 4 id ++ leBytes 2 b.layers ++ leBytes 2 (memberHeads s).length ++ leBytes 1 t ++ leBytes 55 0
  let s := smithStore root (hd ++ leBytes n 0) s
  setSession { id := id, k0 := k0, k1 := k1, build := b.id, slot := slot.getD 0, start := t, root := root, modules := s.group.modules } s

/-- A session opened: its slot LIVE (R330). -/
def openSession (id k0 k1 : Nat) (s : State) : State :=
  let s := placeSession id k0 k1 (startStack s) s
  setSlotState (sessionD s id).slot 1 s

/-- A session closed (R286, R330, R362): billets, slot and pin freed. -/
def closeSession (id : Nat) (s : State) : State :=
  match session s id with
  | none => s
  | some x =>
    let s := dropSession id (setSlotState x.slot 0 s)
    overList (freeBillet (billetPieces s.prefen.build.d)) x.billets s

/-! ### Billet bytes and checksums -/

/-- Linear bytes of a billet, read piece by piece by a reader of SM runs (R193). -/
def billetRead (rd : Nat → Nat → State → State × List PByte) (base n : Nat) (s : State) : State × List PByte :=
  let (s, l) := collect (fun j s => rd (base + j * 0x100000) (min 2048 (n - 2048 * j)) s) (List.range (ceilDiv n 2048)) s
  (s, l.flatten)

/-- Linear bytes of a billet written by a Hood Tongs engine. -/
def billetWrite (base : Nat) (l : List PByte) (s : State) : State :=
  overList (fun j s => hoodWrite 4 (base + j * 0x100000) ((l.drop (2048 * j)).take 2048) s) (List.range (ceilDiv l.length 2048)) s

/-- A piece of a billet read by its stack's CRC engine, as main-path bursts (R334). -/
def crcRead (a n : Nat) (s : State) : State × List PByte := memRead smithWho false 4 a n (countRun a n (prefenNeed 4 a n false s))

/-- The key/value CRC of a billet (R332, R334); none when a word of it is poisoned. -/
def billetCrc (base d : Nat) (s : State) : State × Option Nat :=
  let (s, l) := billetRead crcRead base (64 + 1024 * d) s
  if l.any (·.2) then (s, none) else (s, some (crc64 ((l.drop 64).map (·.1))))

/-- Contribution of a billet (R333). -/
def contribution (layer head fmt index d crc : Nat) : Nat :=
  crc64 (leBytes 2 layer ++ leBytes 1 head ++ leBytes 1 fmt ++ leBytes 4 index ++ leBytes 2 d ++ leBytes 6 0 ++ leBytes 8 crc)

/-- Number of a member's head across the whole model layer (R378). -/
def globalHead (s : State) (h : Nat) : Nat := nth (memberHeads s) h 0

/-- A billet sealed (R195, R333): CRC and bit in its header, its contribution in the session's sealed_crc. -/
def sealBillet (id : Nat) (b : Billet) (s : State) : State :=
  let m := s.prefen.build
  let (s, crc) := billetCrc b.base m.d s
  match crc with
  | none => s
  | some c =>
    let s := smithStore (b.base + 16) (leBytes 1 1) (smithStore (b.base + 24) (leBytes 8 c) s)
    let x := sessionD s id
    setSession { x with billets := x.billets.map (fun y => if y = b then { y with isSealed := true } else y),
                        sealedCrc := x.sealedCrc ^^^ contribution b.layer (globalHead s b.head) m.fmt b.index m.d c } s

/-- Billets whose last position the committed length exceeds are sealed (R195). [DEDUCED, log 54] -/
def sealDue (id : Nat) (s : State) : State :=
  let x := sessionD s id
  overList (sealBillet id) (x.billets.filter (fun b => !b.isSealed && 512 * b.index + 511 < x.len)) s

/-! ### Ingots -/

/-- The held request's part of an ingot, bytes 104 to 231 (R331). -/
def heldBytes (r : Request) : List Byte :=
  leBytes 4 r.tag ++ leBytes 4 r.qid ++ leBytes 2 r.ring
    ++ leBytes 1 (8 * b2n r.close + 4 * b2n r.spec + 2 * b2n r.follow + b2n r.express) ++ leBytes 1 0
    ++ leBytes 4 r.maxNew ++ leBytes 4 r.generated ++ leBytes 4 r.promptLeft ++ leBytes 8 r.promptAt
    ++ r.stop.flatMap (leBytes 4) ++ r.sblock

/-- Bytes 0 to 503 of an ingot (R331), with the fields that an export image sets of its own (R338). -/
def ingotBody (s : State) (x : Session) (held : Option Request) (root self heads nSealed crc nOpen : Nat) : List Byte :=
  let b := s.prefen.build
  let flags := b2n b.exact + 2 * b2n x.imported + 4 * b2n held.isSome
  let st := match held with | some r => r.before | none => 0
  leBytes 4 x.id ++ leBytes 1 2 ++ leBytes 1 1 ++ leBytes 1 flags ++ leBytes 1 st ++ leBytes 4 x.len ++ leBytes 4 0
    ++ leBytes 8 x.step ++ leBytes 8 x.build ++ leBytes 8 x.k0 ++ leBytes 8 x.k1 ++ leBytes 8 s.time
    ++ leBytes 1 s.group.modules ++ leBytes 1 self ++ leBytes 2 heads ++ leBytes 2 b.layers ++ leBytes 2 b.d
    ++ leBytes 8 root ++ leBytes 1 x.start ++ leBytes 3 0 ++ leBytes 4 nSealed ++ leBytes 8 crc
    ++ leBytes 4 nOpen ++ leBytes 4 0 ++ leBytes 2 x.aslot ++ leBytes 2 0 ++ leBytes 4 x.aver
    ++ (match held with | some r => heldBytes r | none => leBytes 128 0) ++ leBytes 272 0

/-- Sealed billets of a session on this module. -/
def sealedCount (x : Session) : Nat := (x.billets.filter (·.isSealed)).length

/-- Bytes 0 to 503 of the ingot of this member (R331). -/
def ingotBytes (s : State) (x : Session) (held : Option Request) : List Byte :=
  ingotBody s x held x.root s.group.self (memberHeads s).length (sealedCount x) x.sealedCrc (x.billets.length - sealedCount x)

/-- An ingot written, its commit word last (R331, R335 step 3). -/
def writeIngot (id : Nat) (held : Option Request) (s : State) : State :=
  let x := sessionD s id
  let count := let c := (tabGet 0 s.prefen.parkCount x.slot + 1) % 2 ^ 32; if c = 0 then 1 else c
  let body := ingotBytes s x held
  let a := slotAt s x.slot
  let s := smithStore (a + 504) (leBytes 8 (count * 2 ^ 32 + crc32 body)) (smithStore a body s)
  updPrefen (fun p => { p with parkCount := tabSet 0 p.parkCount x.slot count }) s

/-! ### Result entries -/

/-- Bytes 0 to 55 of a result entry (R307). -/
def resultBytes (step tag sid len : Nat) (toks : List Nat) (fin : Bool) (outcome : Nat) (late switched : Bool) (status : Nat) :
    List Byte :=
  leBytes 8 step ++ leBytes 4 tag ++ leBytes 4 sid ++ leBytes 4 len ++ leBytes 1 toks.length
    ++ leBytes 1 (b2n fin + 2 * (if fin then outcome else 0) + 16 * b2n late + 32 * b2n switched) ++ leBytes 2 status
    ++ (List.range 8).flatMap (fun k => leBytes 4 (nth toks k 0))

/-- A result entry handed to its ring (R307, R308). -/
def putResult (r : Request) (step len : Nat) (toks : List Nat) (switched : Bool) (s : State) : State :=
  let fin := terminal r
  let o : RingOut := ⟨r.ring, resultBytes step r.tag r.session len toks fin r.outcome r.lateCancel switched r.status, true,
    if fin then some r.tag else none⟩
  let same (e : RingOut) : Bool := e.ring == r.ring && e.body.take 8 == leBytes 8 step
  updPrefen (fun p => { p with ringOut := (p.ringOut.map (fun e => if same e then { e with last := false } else e)) ++ [o] }) s

/-- A request ends (R291, R292): its state, outcome and status, its final entry. -/
def endRequest (r : Request) (state outcome status step : Nat) (toks : List Nat) (switched : Bool) (s : State) : State :=
  let r := { r with state := state, outcome := outcome, status := status, endStep := step }
  let s := setRequest r s
  putResult r step (sessionD s r.session).len toks switched s

end Sys2Proof.Machine
end

