-- ==== Sys2Proof/Machine/Serving.lean ====
section
/-! DEFINITION. Serving (spec/12_serving_requests_and_sessions.md R287 to R305, R311; spec/13_sampling_and_speculation.md R315,
R323 to R325): admission, cancels and aborts, steps and their commit. -/

namespace Sys2Proof.Machine

/-! ### Admission -/

/-- Bytes [a, a + n) of a list as a number. -/
def bytesAt (l : List Byte) (a n : Nat) : Nat := leNat ((l.drop a).take n)

/-- Does a sampler block keep its ranges (R315)? -/
def samplerOk (b : List Byte) (spec : Bool) : Bool :=
  let temp := bytesAt b 0 4
  let topP := bytesAt b 8 4
  (temp == 0 || (0x3C000000 ≤ temp && temp ≤ 0x43000000)) && bytesAt b 4 2 ≤ 1024
    && (!spec || (1 ≤ bytesAt b 7 1 && bytesAt b 7 1 ≤ 7))
    && 1 ≤ topP && topP ≤ 0x1000000 && bytesAt b 12 4 < 2 ^ 24
    && (!spec || (bytesAt b 16 8 % 64 == 0 && (bytesAt b 24 1 == 4 || bytesAt b 24 1 == 5)))
    && bytesAt b 24 1 < 16 && bytesAt b 25 39 == 0

/-- Bytes that Prefen fetches for a request, none where they cannot be read; poison travels with them (R289). -/
def fetchIn (space addr n : Nat) (s : State) : State × Option (List PByte) :=
  if n = 0 then (s, some [])
  else if (space = 4 && addrOk s 4 addr n) || (space = 5 && hmOpen s 1 && rangeOk 5 addr n) then
    let (s, l) := hoodRead space addr n s
    (s, some l)
  else (s, none)

/-- Token ids that bytes spell. -/
def tokensOf (l : List Byte) : List Nat := (List.range (l.length / 4)).map (fun k => bytesAt l (4 * k) 4)

/-- Checks 1 to 8 of R289 on the command's words and the sampler block; 0 when all pass. [DEDUCED, log 51] [DEDUCED, log 53] -/
def generateStatus (s : State) (tag : Nat) (w : List Nat) (block : Option (List PByte)) : Nat :=
  let w1 := nth w 1 0
  let sid := natBits w1 31 0
  let isNew := natBit w1 32
  let aslot := natBits (nth w 4 0) 63 48
  let aver := natBits (nth w 4 0) 31 0
  let ptok := natBits (nth w 3 0) 31 0
  let pspace := natBits (nth w 3 0) 63 60
  let maxNew := natBits (nth w 5 0) 31 0
  let ring := natBits (nth w 5 0) 47 32
  let block := match block with | some l => if l.any (·.2) then none else some (l.map (·.1)) | none => none
  if s.prefen.build.state != 2 then stNoModel
  else if (request s tag).isSome || s.prefen.ops.any (fun o => o.held.map (·.tag) == some tag) then stTagInUse
  else if isNew && (sid == 0 || sid == 0xFFFFFFFF || (session s sid).isSome) then stSessionExists
  else if !isNew && (session s sid).isNone then stSessionUnknown
  else if isNew && 262144 ≤ s.prefen.sessions.length then stNoSessionSpace
  else if !(ringAt s ring).on then stBadRing
  else if aslot != 0xFFFF && (adapter s aslot).versions.isEmpty then stAdapterAbsent
  else if aslot != 0xFFFF && aver != 0 && !hasVersion s aslot aver then stAdapterGone
  else if !(match block with | some b => samplerOk b (natBit w1 38) | none => false) || maxNew == 0 || maxLen < maxNew
      || (ptok == 0 && isNew) || (ptok != 0 && pspace != 4 && pspace != 5) then stBadParam
  else if maxLen < (if isNew then 0 else (sessionD s sid).len) + ptok then stContextFull
  else 0

/-- The request that an admitted GENERATE makes. -/
def newRequest (s : State) (q tag : Nat) (w : List Nat) (block : List Byte) (promptAt : Nat) : Request :=
  let w1 := nth w 1 0
  let aslot := natBits (nth w 4 0) 63 48
  let aver := natBits (nth w 4 0) 31 0
  let x := sessionD s (natBits w1 31 0)
  { tag := tag, session := natBits w1 31 0, state := if x.parked then 4 else 1, before := if x.parked then 1 else 0,
    aslot := aslot, aver := if aslot = 0xFFFF then 0 else if aver = 0 then (adapter s aslot).current else aver,
    follow := natBit w1 37, express := natBit w1 36, spec := natBit w1 38, close := natBit w1 39,
    ring := natBits (nth w 5 0) 47 32, maxNew := natBits (nth w 5 0) 31 0, promptAt := promptAt,
    promptLeft := natBits (nth w 3 0) 31 0, promptLen := natBits (nth w 3 0) 31 0,
    stop := (List.range 8).map (fun k => natBits (nth w (10 + k / 2) 0) (32 * (k % 2) + 31) (32 * (k % 2))),
    sblock := block, qid := q, lastStep := s.prefen.lastStep }

/-- A GENERATE that has been taken (R289, R293, R299). [DEDUCED, log 52] -/
def generate (q : Nat) (c : Caller) (tag : Nat) (w : List Nat) (s : State) : State :=
  let w1 := nth w 1 0
  let sid := natBits w1 31 0
  let ptok := natBits (nth w 3 0) 31 0
  let (s, block) := fetchIn (natBits (nth w 7 0) 63 60) (nth w 6 0) 64 s
  let st := generateStatus s tag w block
  if st != 0 then refuse c st s
  else
    let (s, prompt) := fetchIn (natBits (nth w 3 0) 63 60) (nth w 2 0) (4 * ptok) s
    match prompt with
    | none => refuse c stBadParam s
    | some l =>
      if (tokensOf (l.map (·.1))).any (fun t => decide (s.prefen.build.vocab ≤ t)) then refuse c stBadParam s
      else
        let s := if natBit w1 32 then openSession sid (nth w 8 0) (nth w 9 0) s else s
        let (s, at_) := if ptok = 0 then (s, 0) else placeSm (4 * ptok) 64 s
        let s := if ptok = 0 then s else hoodWrite 4 at_ l s
        let r := newRequest s q tag w ((block.getD []).map (·.1)) at_
        let s := setSession { sessionD s sid with aslot := r.aslot, aver := r.aver } s
        let s := updPrefen (fun p => { p with requests := p.requests ++ [r] }) s
        answer c 2 0 ptok false s

/-- GENERATE (R287 to R289): while 65,536 requests are not retired it waits in its queue (R289, R312). [DEDUCED, log 175] -/
def execGenerate (q : BitVec 20) (s : State) : Host.Outcome State Fault Refusal := prefenRow s fun s =>
  if 65536 ≤ s.prefen.requests.length then noEvent s
  else queueCmd q.toNat 0x10 2 (fun c w s =>
    match c with
    | .queue _ _ tag => generate q.toNat c tag w s
    | .mailbox _ => s) s

/-! ### Cancel and abort -/

/-- A late cancel marks the target's final entry while that is not yet written (R304). [DEDUCED, log 62] -/
def markLate (r : Request) (s : State) : State :=
  if r.finalAt.isSome then s
  else
    let flag (l : List Byte) : List Byte := setNth l 21 (nth l 21 0 ||| 0x10)
    let s := setRequest { r with lateCancel := true } s
    updPrefen (fun p => { p with ringOut := p.ringOut.map (fun o => if o.final = some r.tag then { o with body := flag o.body } else o) }) s

/-- A request CANCELLED in step `c` (R303): L is unchanged, and the ingot of a parked session that holds it is written again without
it (R342). [DEDUCED, log 66] -/
def cancelNow (r : Request) (c : Nat) (switched : Bool) (s : State) : State :=
  let held := (heldOf s r.session).map (·.tag)
  let s := endRequest r 9 4 0 c [] switched s
  let x := sessionD s r.session
  if held = some r.tag && x.parked then writeIngot x.id none s else s

/-- A CANCEL, or an ABORT of a request (R302 to R305). -/
def cancelReq (c : Caller) (r : Request) (s : State) : State :=
  if terminal r then answer c 2 0 0 true (markLate r s)
  else if s.prefen.step.on then
    updPrefen (fun p => { p with cancels := p.cancels ++ [⟨c, r.tag, p.step.num⟩] }) s
  else resultFlush (answer c 2 0 1 false (cancelNow r ((s.prefen.lastStep + 1) % 2 ^ 64) false s))

/-- CANCEL (R287, R290, R302). -/
def execCancel (q : BitVec 20) (s : State) : Host.Outcome State Fault Refusal := prefenRow s fun s =>
  queueCmd q.toNat 0x11 1 (fun c w s =>
    match request s (natBits (nth w 1 0) 31 0) with
    | some r => cancelReq c r s
    | none => answer c 2 stUnknownRequest 0 false s) s

/-- What an operation had placed is undone when it is aborted or fails (R305, R340, R360). -/
def undoOp (o : AsyncOp) (s : State) : State :=
  let s := if o.op = 0x40 then updPrefen (fun p => { p with loading := false }) s else s
  match o.placed with
  | some x => closeSession x.id s
  | none => s

/-- ABORT (R290, R305). -/
def execAbort (src : CmdSrc) (s : State) : Host.Outcome State Fault Refusal := prefenRow s fun s =>
  eitherCmd src 0x12 (fun c w s =>
    let t := natBits (nth w 0 0) 31 0
    match request s t, opByTag s t with
    | some r, _ => cancelReq c r s
    | none, some o => answer c 2 0 1 false (endOp o stAborted 0 false (undoOp o s))
    | none, none =>
      if s.prefen.evHeld.any (fun e => e.kind == 1 && e.tag == t) then
        answer c 2 0 0 true (updPrefen (fun p => { p with evHeld := p.evHeld.map (fun e =>
          if e.kind = 1 && e.tag = t then { e with late := true } else e) }) s)
      else answer c 2 stUnknownRequest 0 false s) s

/-! ### Stamping a step -/

/-- Requests that may be selected now: of a session that is neither parked nor parking, the one in PREFILL or DECODE, else the
first ADMITTED one (R284, R292, R295). -/
def candidates (s : State) : List Request :=
  s.prefen.requests.filter (fun r =>
    let x := sessionD s r.session
    (session s r.session).isSome && !x.parked && !x.parking && !terminal r && r.state != 4 &&
    (match activeOf s r.session with
     | some a => a.tag == r.tag
     | none => ((requestsOf s r.session).find? (fun q => q.state == 1)).map (·.tag) == some r.tag))

/-- Requests in the order in which they waited longest, admission order among equals (R295). -/
def byWait (l : List Request) : List Request :=
  l.foldl (fun acc x => acc.takeWhile (fun y => decide (y.lastStep ≤ x.lastStep)) ++ [x]
    ++ acc.dropWhile (fun y => decide (y.lastStep ≤ x.lastStep))) []

/-- Length-table entries of rows. -/
def entriesOf (rows : List StepRow) : Nat := rows.foldl (fun n r => if r.chunk = 0 then n + 1 + r.drafts.length else n) 0

/-- Rows of a selection that will write an entry of a ring. -/
def rowsOnRing (s : State) (rows : List StepRow) (ring : Nat) : Nat :=
  (rows.filter (fun r => r.samples && ((request s r.req).map (·.ring)) == some ring)).length

/-- Has the ring room for the entry of one more row of this step (R295)? -/
def roomFor (s : State) (rows : List StepRow) (ring : Nat) : Bool :=
  (ringAt s ring).on && ringRoom (ringAt s ring) (ringWaiting s ring + rowsOnRing s rows ring + 1)

/-- Drafts used for a speculative row set (R323). -/
def readDrafts (r : Request) (len left : Nat) (s : State) : State × List Nat :=
  if !r.spec then (s, [])
  else
    let (s, w) := fetchIn (bytesAt r.sblock 24 1) (bytesAt r.sblock 16 8) 64 s
    match w with
    | none => (s, [])
    | some l =>
      let b := l.map (·.1)
      if l.any (·.2) || bytesAt b 0 8 != len then (s, [])
      else
        let toks := (List.range (min 7 (bytesAt b 8 1))).map (fun k => bytesAt b (16 + 4 * k) 4)
        let good := toks.takeWhile (fun t => decide (t < s.prefen.build.vocab))
        let k := min (min good.length (bytesAt r.sblock 7 1))
          (min (min (r.maxNew - r.generated - 1) (2097151 - len)) (left - 1))
        (s, good.take k)

/-- A row of the step for a request, with the adapter version it resolves to (R300). -/
def makeRow (s : State) (r : Request) (chunk : Nat) (samples : Bool) (drafts : List Nat) : StepRow :=
  let x := sessionD s r.session
  let cur := (adapter s r.aslot).current
  let moves := r.follow && r.aslot != 0xFFFF && cur != r.aver
  { req := r.tag, session := r.session, len := x.len, chunk := chunk, samples := samples, drafts := drafts, k0 := x.k0, k1 := x.k1,
    sblock := r.sblock, aslot := r.aslot, aver := if moves then cur else r.aver, switched := moves,
    oldVer := if moves then some r.aver else none }

/-- One decode row added where limits, room and memory allow (R295, R323). -/
def addDecode (rows : List StepRow) (r : Request) (s : State) : State × List StepRow :=
  let s := ringLook r.ring 1 s
  let left := 4096 - entriesOf rows
  if left = 0 || !roomFor s rows r.ring then (s, rows)
  else
    let len := (sessionD s r.session).len
    let (s, ds) := readDrafts r len left s
    match growSession r.session (len + ds.length + 1) s with
    | none => (s, rows)
    | some s => (s, rows ++ [makeRow s r 0 true ds])

/-- Padded length of an express prompt (R209). -/
def bucketLen (n : Nat) : Nat := max 512 (2 ^ log2Ceil n)

/-- Is a request prefilled on the express path (R209, R295)? -/
def onExpress (r : Request) : Bool := r.express && decide (r.promptLen ≤ 65536)

/-- One prefill chunk added where the budget of padded tokens, room and memory allow (R295). [DEDUCED, log 57] -/
def addChunk (rows : List StepRow) (used : Nat) (r : Request) (s : State) : State × List StepRow × Nat :=
  let s := ringLook r.ring 1 s
  let budget := 65536 - used
  let n := if onExpress r then r.promptLeft else min (min 8192 r.promptLeft) budget
  let cost := if onExpress r then bucketLen n else n
  let ends := n == r.promptLeft
  if n = 0 || budget < cost || (ends && !roomFor s rows r.ring) then (s, rows, used)
  else
    let len := (sessionD s r.session).len
    match growSession r.session (len + n + b2n ends) s with
    | none => (s, rows, used)
    | some s => (s, rows ++ [makeRow s r n ends []], used + cost)

def addDecodes : List Request → List StepRow → State → State × List StepRow
  | [], rows, s => (s, rows)
  | r :: t, rows, s => let (s, rows) := addDecode rows r s; addDecodes t rows s

def addChunks : List Request → List StepRow → Nat → State → State × List StepRow
  | [], rows, _, s => (s, rows)
  | r :: t, rows, used, s => let (s, rows, used) := addChunk rows used r s; addChunks t rows used s

/-- The step's work (R295). -/
def selectRows (s : State) : State × List StepRow :=
  let cs := candidates s
  let dec := byWait (cs.filter (fun r => r.promptLeft == 0))
  let pre := cs.filter (fun r => r.promptLeft != 0)
  let (s, rows) := addDecodes dec [] s
  addChunks (pre.filter onExpress ++ pre.filter (fun r => !onExpress r)) rows 0 s

/-- Bytes of the length table of a step (R198, R324). -/
def lengthTable (num : Nat) (rows : List StepRow) : List Byte :=
  let entries := (rows.filter (fun r => r.chunk == 0)).flatMap (fun r =>
    (List.range (r.drafts.length + 1)).map (fun j => leBytes 4 (r.len + j) ++ leBytes 4 0 ++ leBytes 4 r.session ++ leBytes 1 1 ++ leBytes 3 0))
  leBytes 8 num ++ leBytes 4 entries.length ++ leBytes 20 0 ++ entries.flatten

/-- Length tables written to the crucible buffers that need them (R198). [DEDUCED, log 59] -/
def writeTables (num : Nat) (rows : List StepRow) (tables : List Nat) (s : State) : State :=
  overList (fun a s =>
    let l := lengthTable num rows
    if rangeOk 3 a l.length then hoodWrite 3 a (cleanBytes l) s else s) tables s

/-- Partner ids of the other members, in increasing group.self (R32). -/
def otherMembers (s : State) : List Nat :=
  if !inGroup s then [] else ((List.range s.group.modules).filter (· != s.group.self)).map (fun g => nth s.group.members g 0xFF)
/-- Positions of the members other than the lead. -/
def memberPositions (s : State) : List Nat := if inGroup s then upFrom 1 (s.group.modules - 1) else []

/-- A message of the lead to every other member, in increasing group.self. -/
def tellMembers (m : List Nat) (s : State) : State := overList (fun pid s => sendMsg pid m s) (otherMembers s) s

/-- First selection moves a request on, and a follow request's pin (R292, R300). [DEDUCED, log 60] -/
def enterStep (num : Nat) (row : StepRow) (s : State) : State :=
  match request s row.req with
  | none => s
  | some r =>
    let s := setSession { sessionD s r.session with aslot := row.aslot, aver := row.aver } s
    setRequest { r with state := if r.state = 1 then (if row.chunk = 0 then 3 else 2) else r.state, lastStep := num,
                        aver := row.aver } s

/-- Is every member of the group PRESENT (R379, R444)? -/
def groupWhole (s : State) : Bool := (otherMembers s).all (fun pid => ptState s pid == 1)

/-- May Prefen stamp a step now (R297, R379, R444)? -/
def mayStamp (s : State) : Bool :=
  prefenReady s && isLead s && groupFree s && groupWhole s && s.prefen.build.state == 2

/-- The step in flight stamped again under its number, with the rows and drafts of its first stamp less the sessions that failed
(R442, R444). [DEDUCED, log 73] -/
def stampAgain (cmds : List (Nat × Nat × Nat)) (tables : List Nat) (s : State) : State :=
  let st := s.prefen.step
  let rows := (st.rows.filter (fun r => !st.dropped.contains r.session)).map (fun r => { r with toks := [], invalid := false })
  let st := { st with rows := rows, cmds := cmds, acked := [], tainted := false, origins := [], lost := [], execs := st.execs + 1, again := false }
  writeTables st.num rows tables (tellMembers [msgStep, st.num] (updPrefen (fun p => { p with step := st }) s))

/-- A new step stamped, when there is work for it (R294, R295, R297 steps 1 to 3). -/
def stampNew (cmds : List (Nat × Nat × Nat)) (tables : List Nat) (s : State) : State :=
  let (s', rows) := selectRows s
  if rows.isEmpty then s
  else
    let num := (s'.prefen.lastStep + 1) % 2 ^ 64
    let st : Step := { on := true, num := num, build := s'.prefen.build.id, rows := rows, cmds := cmds }
    let s := updPrefen (fun p => { p with step := st, lastStep := num, anchors := [] }) s'
    let s := overList (enterStep num) rows s
    writeTables num rows tables (tellMembers [msgStep, num] s)

/-- STEP_STAMP (R294, R295, R297 steps 1 to 3, R442): `cmds` are the commands that the build's program issues for the step, as
(queue, slot index, tag), queue 2^20 standing for a control word; `tables` the crucible buffers that need the length table. A step
that is to be executed again is stamped again, once no hearth is held in reset (R447). [DEDUCED, log 58] -/
def execStepStamp (cmds : List (Nat × Nat × Nat)) (tables : List Nat) (s : State) : Host.Outcome State Fault Refusal := prefenRow s fun s =>
  if !mayStamp s then noEvent s
  else if !s.prefen.step.on then done (stampNew cmds tables s)
  else if s.prefen.step.again && !s.hearths.any (fun e => e.2.reset) then done (stampAgain cmds tables s)
  else noEvent s

/-! ### Committing a step -/

/-- Has a command of the step ended DONE: by its journal entry, or for a control word by having left every queue (R297)? -/
def cmdDone (s : State) (c : Nat × Nat × Nat) : Bool :=
  let (q, i, t) := c
  if q < 2 ^ 20 then
    let x := queue s q
    let a := x.jrnlBase + 32 * (i % 2 ^ x.lg)
    !(x.run.any (fun e => e.idx == i)) && peekNat s x.jrnlSpace (a + 8) 4 == t && peekNat s x.jrnlSpace (a + 18) 1 % 4 == 2
  else
    !s.cores.any (fun e => (e.2.mat ++ e.2.vec ++ e.2.mov).any (fun w => w.tag == t))
      && !s.clusters.any (fun e => (e.2.bq ++ e.2.fetched ++ e.2.moving).any (fun w => w.tag == t))

/-- Has Spark returned what a row needs (R297, R321, R324)? -/
def rowReturned (r : StepRow) : Bool :=
  !r.samples || r.invalid || (List.range (r.drafts.length + 1)).all (fun j => r.toks.any (fun t => t.1 == j))

/-- A latched event with the tag of a command of the step (R440). -/
def stepLatched (s : State) : Bool :=
  (List.range 24).any (fun b => bitOf (rg s (latchInfoReg b)) 0
    && s.prefen.step.cmds.any (fun c => c.2.2 == rf s (latchInfoReg b) 63 32))

/-- May the step commit (R297, R440)? -/
def stepReady (s : State) : Bool :=
  let st := s.prefen.step
  st.on && !st.again && !st.tainted && !stepLatched s && st.cmds.all (cmdDone s) && st.rows.all rowReturned

/-- Token j of a row. -/
def rowTok (r : StepRow) (j : Nat) : Nat := ((r.toks.find? (fun t => t.1 == j)).map (·.2)).getD 0

/-- The tokens that verification accepts: y_0 to y_(a-1) (R325 step 1). [DEDUCED, log 146] -/
def acceptedOf (r : StepRow) : List Nat :=
  let a := ((List.range r.drafts.length).takeWhile (fun j => rowTok r j == nth r.drafts j 0)).length + 1
  (List.range a).map (rowTok r)

/-- A list up to and including its first element that satisfies p. -/
def throughFirst (p : Nat → Bool) : List Nat → List Nat
  | [] => []
  | x :: t => if p x then [x] else x :: throughFirst p t

/-- Is an id one of a request's stop tokens (R288)? -/
def isStop (q : Request) (t : Nat) : Bool := t != 0xFFFFFFFF && q.stop.contains t

/-- The accepted list truncated (R325 step 2), from length `len` on. -/
def truncated (q : Request) (len : Nat) (l : List Nat) : List Nat :=
  (throughFirst (isStop q) (l.take (q.maxNew - q.generated))).take (maxLen - len)

/-- Outcome of a request after a step that left it with these tokens: 1 STOP_TOKEN, 2 MAX_TOKENS, 3 CONTEXT_LIMIT, 0 none. [DEDUCED, log 55] -/
def outcomeOf (q : Request) (toks : List Nat) (gen len : Nat) : Nat :=
  if toks.any (isStop q) then 1 else if gen = q.maxNew then 2 else if len = maxLen then 3 else 0

/-- A row's effect at the commit point (R292, R297, R303, R321, R325). -/
def commitRow (num : Nat) (row : StepRow) (s : State) : State :=
  match request s row.req with
  | none => s
  | some q =>
    if terminal q then s
    else if s.prefen.cancels.any (fun c => c.target == q.tag && c.c == num) then cancelNow q num row.switched s
    else if row.invalid then endRequest q 0xA 5 0x290 num [] row.switched s
    else
      let len := row.len + row.chunk
      let toks := if row.samples then truncated q len (acceptedOf row) else []
      let len' := len + toks.length
      let gen := q.generated + toks.length
      let x := sessionD s q.session
      let s := setSession { x with len := len', step := num, build := s.prefen.step.build } s
      let q := { q with generated := gen, promptLeft := q.promptLeft - row.chunk,
                        promptAt := if row.chunk = 0 then q.promptAt else q.promptAt + 4 * row.chunk,
                        state := if row.samples then 3 else q.state }
      let o := outcomeOf q toks gen len'
      let s := setRequest q s
      if o != 0 then endRequest q 8 o 0 num toks row.switched s
      else if toks.isEmpty then s
      else putResult q num len' toks row.switched s

/-- Cancels stamped with the step are resolved and journaled (R303, R304): the first cancel of a request that ends CANCELLED in
this step has progress 1, every other one is late. `told` holds the requests whose first cancel has been answered. -/
def resolveCancels (num : Nat) (told : List Nat) : List Cancel → State → State
  | [], s => s
  | c :: t, s =>
    match request s c.target with
    | none => resolveCancels num told t (answer c.caller 2 0 0 true s)
    | some r =>
      if terminal r && (r.state != 9 || r.endStep != num || told.contains r.tag) then
        resolveCancels num told t (answer c.caller 2 0 0 true (markLate r s))
      else
        let s := if terminal r then s else cancelNow r num false s
        resolveCancels num (r.tag :: told) t (answer c.caller 2 0 1 false s)

/-- Commit of a member's share: reported to the lead (R32, R297 step 6). -/
def commitShare (s : State) : State :=
  let num := s.prefen.step.num
  let s := updPrefen (fun p => { p with step := {}, anchors := [] }) s
  sendMsg s.group.lead [msgAck, num] s

/-- What a commit record does on each member to the sessions it names, with their new L: billets that it passes are sealed, and those
beyond it of a cancelled request are freed (R195, R196, R303). -/
def settleSessions (ends : List (Nat × Nat × Bool)) (s : State) : State :=
  overList (fun e s =>
    let s := sealDue e.1 s
    if e.2.2 then let x := sessionD s e.1; freeBillets e.1 (fun b => decide (x.len ≤ 512 * b.index)) s else s) ends s

/-- The lead's commit of the step in flight (R297); the members are told its record. -/
def commitStep (s : State) : State :=
  let st := s.prefen.step
  let inOrder := s.prefen.requests.filterMap (fun q => st.rows.find? (fun r => r.req == q.tag))
  let s := overList (commitRow st.num) inOrder s
  let sids := (st.rows.map (·.session)).eraseDups
  let cs := s.prefen.cancels.filter (fun c => c.c == st.num)
  let s := updPrefen (fun p => { p with step := {}, anchors := [], cancels := p.cancels.filter (fun c => c.c != st.num) }) s
  let gone := (st.rows.filter (fun r => ((request s r.req).map (·.state)) == some 9)).map (·.session)
  let ends := sids.map (fun id => (id, (sessionD s id).len, gone.contains id))
  let s := settleSessions ends (tellMembers ([msgForward, msgStep, st.num] ++ ends.flatMap (fun e => [e.1, e.2.1, b2n e.2.2])) s)
  retireVersions (resultFlush (resolveCancels st.num [] cs (resultFlush s)))

/-- STEP_COMMIT (R297), in its turn of the serial order. -/
def execStepCommit (s : State) : Host.Outcome State Fault Refusal := prefenRow s fun s =>
  if !stepReady s || !prefenReady s || !serialFree s then noEvent s
  else if !isLead s then done (commitShare s)
  else if !(memberPositions s).all (fun g => s.prefen.step.acked.contains g) || !groupFree s || !groupWhole s then noEvent s
  else done (commitStep s)

/-- REQUEST_RETIRE (R293): the consumer index has passed the request's final entry. A close waits for the session's other requests. [DEDUCED, log 61] -/
def execRequestRetire (tag : BitVec 32) (s : State) : Host.Outcome State Fault Refusal := prefenRow s fun s =>
  match request s tag.toNat with
  | none => noEvent s
  | some r =>
    let s := ringLook r.ring (2 ^ 32) s
    match r.finalAt with
    | none => done s
    | some i =>
      let ahead := diff32 (ringAt s r.ring).cons i
      if !terminal r || ahead = 0 || 2 ^ 31 ≤ ahead then done s
      else
        let s := updPrefen (fun p => { p with requests := p.requests.filter (fun x => x.tag != r.tag) }) s
        let x := sessionD s r.session
        let close := r.close || r.lostBillets || x.closeDue
        done (if (session s r.session).isNone || !close then s
              else if (requestsOf s r.session).any (fun q => !terminal q) then setSession { x with closeDue := true } s
              else closeSession r.session s)

end Sys2Proof.Machine
end

