-- ==== Sys2Proof/Machine/Status.lean ====
section
/-! DEFINITION. Hearth status words and the hearth table (spec/01_module_architecture.md R19 to R22, R28 to R30;
spec/19_islands_power_and_heat.md R426). -/

namespace Sys2Proof.Machine

/-! ### Own states -/

/-- Thermal state with hold that Ember has applied to a region (R413, R426): 0 Normal to 3 T3. -/
def appliedState (s : State) (region : Nat) : Nat := nth s.ember.applied region 0

/-- Stack site that a cluster of an Anvil lies beneath (R17). -/
def siteAbove (c : Nat) : Nat := if c < 4 then 0 else if c < 7 then 1 else if c < 10 then 2 else if c < 13 then 3 else 4

/-- Stack above cluster number x = 16 a + c. -/
def stackAbove (x : Nat) : Nat := 5 * (x / 16) + siteAbove (x % 16)

/-- EMB_CLK of cluster number x (R432). -/
def clkReg (x : Nat) : Nat := embReg (0x200 + 8 * x)
/-- EMB_CLK.eff and EMB_CLK.set as it acts (R412, R432). -/
def clkEff (s : State) (x : Nat) : Nat := rf s (clkReg x) 39 32
def clkSet (s : State) (x : Nat) : Nat := max 16 (min 36 (rf s (clkReg x) 7 0))

/-- Duty limit of R418: 0 100 %, 1 75 %, 2 50 %. -/
def dutyLimit (s : State) : Nat := rf s (embReg 0) 59 58

/-- Throttle field of a hearth (R19, R426). -/
def hearthThrottle (s : State) (i : Nat) : Nat :=
  let cl (x : Nat) : Nat := max (appliedState s (stackAbove x)) (appliedState s (20 + x / 16))
  if i < 2 then 0
  else if i < 6 then appliedState s (20 + (i - 2))
  else if i < 70 then cl (i - 6)
  else if i < 90 then appliedState s (i - 70)
  else if i < 1114 then cl ((i - 90) / 16)
  else appliedState s ((i - 1114) / 512)

/-- Work that a hearth has taken and not finished. [DEDUCED, log 67] -/
def hearthBusy (s : State) (i : Nat) : Bool :=
  if i = 0 then s.prefen.step.on
  else if i = 1 then s.chans.any (fun e => 1024 ≤ e.1 && e.2.busy)
  else if i < 6 then s.chans.any (fun e => e.1 / 256 == i - 2 && e.2.busy) || s.prefen.sparks.any (fun r => r.anvil == i - 2)
  else if i < 70 then
    let y := cluster s (i - 6)
    !(y.bq.isEmpty && y.fetched.isEmpty && y.moving.isEmpty && y.push.isNone)
  else if i < 90 then (stackRun s (i - 70)).phase != 0
  else if i < 1114 then
    let y := coreSt s (i - 90)
    !(y.mat.isEmpty && y.vec.isEmpty && y.mov.isEmpty)
  else
    let u := i - 1114
    (stackRun s (u / 512)).phase != 0 && !(tabGet ({} : SwgUnit) s.units u).isDone

/-- Does a hearth run reduced (R426; a Swage unit under R176)? -/
def hearthSlow (s : State) (i : Nat) : Bool :=
  if i < 6 then false
  else if i < 70 then clkEff s (i - 6) < clkSet s (i - 6)
  else if i < 90 then hearthThrottle s i == 1 || hearthThrottle s i == 2
  else if i < 1114 then clkEff s ((i - 90) / 16) < clkSet s ((i - 90) / 16)
  else hearthThrottle s i != 0 || dutyLimit s != 0

/-- Is a hearth's own state ASLEEP (R21)? -/
def hearthAsleep (s : State) (i : Nat) : Bool :=
  if i = 0 then false
  else if i < 6 then pstate s == 3
  else if i < 70 then clusterAsleep s (i - 6)
  else if i < 90 then srState s (i - 70) != 0
  else if i < 1114 then clusterAsleep s ((i - 90) / 16)
  else srState s ((i - 1114) / 512) != 0

/-- Is a hearth's own state HALTED: its own, or its cluster's, or its stack's in T3 (R176, R186, R426)? -/
def hearthHalted (s : State) (i : Nat) : Bool :=
  (hearth s i).halted || (90 ≤ i && (hearth s (hxParent i)).halted)

/-- Is a hearth FAULTED: by a fault of its own (R172, R229), or as a stack with a failed channel (R136)? -/
def hearthFaulted (s : State) (i : Nat) : Bool :=
  (hearth s i).faulted || (hearth s i).dead

/-- Is a hearth held in RESET: its own, or a unit of a stack FAULTED under R136, which startup never releases (R451 step 6)? -/
def hearthHeld (s : State) (i : Nat) : Bool := (hearth s i).reset || (1114 ≤ i && (hearth s (hxParent i)).dead)

/-- Own state code of a hearth (R19, R20, R21). -/
def ownState (s : State) (i : Nat) : Nat :=
  if frozen s then 6
  else if hearthFaulted s i then 5
  else if hearthHeld s i then 4
  else if hearthHalted s i then 3
  else if hearthAsleep s i then 7
  else if hearthSlow s i then 2
  else if hearthBusy s i then 1
  else 0

/-! ### Roll-up -/

/-- Severity of a state code: IDLE least, QUENCHED most (R20). -/
def severity (code : Nat) : Nat :=
  match code with | 0 => 0 | 1 => 1 | 2 => 2 | 7 => 3 | 3 => 4 | 4 => 5 | 5 => 6 | _ => 7
def worse (a b : Nat) : Nat := if severity a < severity b then b else a

/-- Direct children of a hearth on this module (R18, R22). -/
def children (i : Nat) : List Nat :=
  if i = 0 then [1]
  else if i = 1 then [2, 3, 4, 5]
  else if i < 6 then upFrom (6 + 16 * (i - 2)) 16 ++ upFrom (70 + 5 * (i - 2)) 5
  else if i < 70 then upFrom (90 + 16 * (i - 6)) 16
  else if i < 90 then upFrom (1114 + 512 * (i - 70)) 512
  else []

/-- Level of a hearth (R18, R22). -/
def hearthLevel (i : Nat) : Nat := if i = 0 then 4 else if i = 1 then 3 else if i < 6 then 2 else if i < 90 then 1 else 0

/-- The module status words of the other members, as the group hearth on the lead has them: FAULTED with fault set for one that has
departed (R20, R32, R379). -/
def memberWords (s : State) : List Nat :=
  if !inGroup s || !isLead s then []
  else (upFrom 1 (s.group.modules - 1)).map (fun k =>
    if ptState s (nth s.group.members k 0) == 1 then tabGet 0 s.group.status k else 5 * 2 ^ 44 + 2 ^ 41)

/-- Reported state of a hearth whose level is at most `lvl` (R20). -/
def reported (s : State) : Nat → Nat → Nat
  | 0, i => ownState s i
  | lvl + 1, i =>
    let own := (children i).foldl (fun a c => worse a (reported s lvl c)) (ownState s i)
    if i = 0 then (memberWords s).foldl (fun a w => worse a (natBits w 47 44)) own else own

/-- Ancestors of a hearth, itself first. -/
def lineage (i : Nat) : List Nat := [i, hxParent i, hxParent (hxParent i), hxParent (hxParent (hxParent i)), 0]

/-- Issuer code that a status word reports (R19, R26). -/
def hearthCode (i : Nat) : Nat :=
  if i = 0 then 0x5C else if i = 1 then 0x58 else if i < 6 then 0x54 + (i - 2) else if i < 70 then i - 6
  else if i < 90 then 0x40 + (i - 70) else 0xFF

/-- A queue of a hearth is blocked in a WAIT (R19). -/
def hearthWaits (s : State) (i : Nat) : Bool :=
  s.waits.any (fun e => e.2.on && commandHearth s (queue s e.1) == i)

/-- The status word of hearth i (R19); the group's takes the other members' module hearths in (R32). At reset every child is in RESET
and so counts in the busy field. [DEDUCED, log 166] -/
def statusOf (s : State) (i : Nat) : Nat :=
  let lvl := hearthLevel i
  let others := if i = 0 then memberWords s else []
  let busy := min 255 (((children i).filter (fun c => reported s (lvl - 1) c != 0)).length
    + (others.filter (fun w => natBits w 47 44 != 0)).length)
  lvl * 2 ^ 61 + b2n (70 ≤ i && i < 90 || 1114 ≤ i) * 2 ^ 60 + hearthCode i * 2 ^ 48 + reported s lvl i * 2 ^ 44
    + hearthThrottle s i * 2 ^ 42 + b2n (s.fltHearths.any (fun j => (lineage j).contains i) || others.any (fun w => natBit w 41)) * 2 ^ 41
    + b2n (hearthWaits s i) * 2 ^ 40 + busy * 2 ^ 32 + (hearth s i).lastTag % 2 ^ 32

/-- Status word i as it stands: index 0 of a member mirrors its lead, FAULTED while the lead is lost (R32, R379). [DESIGN CHOICE, log 167] -/
def statusWord (s : State) (i : Nat) : Nat :=
  if i = 0 && inGroup s && !isLead s then
    if s.group.leadLost then
      s.group.mirror - natBits s.group.mirror 47 44 * 2 ^ 44 - natBits s.group.mirror 41 41 * 2 ^ 41 + 5 * 2 ^ 44 + 2 ^ 41
    else s.group.mirror
  else statusOf s i

/-- Status word as a register read sees it: the snapshot while the module is frozen, with QUENCHED in every state field (R464). -/
def statusRead (s : State) (i : Nat) : Nat :=
  if 11353 < i then 0
  else if frozen s then
    let w := tabGet 0 s.board.snapshot i
    w - natBits w 47 44 * 2 ^ 44 + 6 * 2 ^ 44
  else statusWord s i

/-! ### The hearth table -/

/-- Entry i of the hearth table (R28). -/
def hearthEntry (s : State) (i : Nat) : Nat :=
  let g := s.group.modules
  match i with
  | 0 => s.group.gen
  | 1 => g
  | 2 => s.group.self
  | 3 => 20 * g
  | 4 => 1024 * g
  | 5 => 1030792151040 * g
  | 6 => 4 | 7 => 16 | 8 => 16 | 9 => 1024 | 10 => 20 | 11 => 5 | 12 => 16 | 13 => 32 | 14 => 512
  | 15 => 51539607552
  | 16 => 786432 | 17 => 75497472 | 18 => 25165824 | 19 => 1048576 | 20 => 262144 | 21 => 4096 | 22 => 12 | 23 => 16 | 24 => 24
  | _ => 0

end Sys2Proof.Machine
end

