-- ==== Sys2Proof/Machine/Resets.lean ====
section
/-! DEFINITION. Cold, warm and module resets as shared operations (spec/20_faults_and_recovery.md R446 to R450,
spec/21_bringup_test_and_quench.md R453, spec/05_crucible_stacks.md R486). -/

namespace Sys2Proof.Machine

/-! ### Leaving the fabric -/

/-- Partners whose entries are PRESENT. -/
def presentPids (s : State) : List Nat := (List.range 255).filter (fun pid => ptState s pid == 1)

/-- A BYE to a partner on one port (R372). -/
def sendBye (p pid : Nat) (s : State) : State :=
  transmit p { ty := 3, src := selfId s, dst := pid, conn := rf s (ptStat pid) 31 0 } s

/-- BYE to a partner on every port that hears it. -/
def byePartner (pid : Nat) (s : State) : State :=
  overList (fun p s => if natBit (ptPorts s pid) p then sendBye p pid s else s) (List.range 12) s

/-- BYE on every port, before a warm or a module reset (R372). -/
def byeAll (s : State) : State := overList byePartner (presentPids s) s

/-! ### Entries of commands that a reset ends -/

/-- State of a command that a core's program took, of a cluster queue or a Prefen queue, which that program alone knows. [DESIGN CHOICE, log 81] -/
def startedByProgram (s : State) : State × Nat :=
  let (s, f) := takeFree s
  (s, Config.started f % 2)

/-- The entry of a command that was taken and not journaled, as its consumer stands (R438, R449). -/
def resetEntry (q : Nat) (c : QCmd) (s : State) : State × JEntry :=
  match s.chans.find? (fun e => e.2.busy && e.2.qid == q && e.2.idx == c.idx),
        s.runs.find? (fun e => e.2.phase != 0 && e.2.qid == q && e.2.idx == c.idx) with
  | some e, _ =>
    (s, { state := b2n e.2.wrote, status := stModuleReset, progress := unitsComplete s e.2, cmode := tgCmode e.2.cmd })
  | none, some e => (s, { state := b2n e.2.wroteSm, status := stModuleReset, exc := e.2.exc })
  | none, none =>
    if (queue s q).ckind = 4 ∨ (queue s q).ckind = 1 then
      let (s, st) := startedByProgram s
      (s, { state := st, status := stModuleReset })
    else (s, { state := 0, status := stModuleReset })

/-- Every command of queue q taken and not journaled is journaled; entries in HM only while Bus Master Enable allows them (R449). -/
def resetQueue (q : Nat) (s : State) : State :=
  overList (fun c s =>
    let (s, j) := resetEntry q c s
    if (queue s q).jrnlSpace = 5 && !hmOpen s 1 then s else journal q c.idx c.tag j s) ((queue s q).run.filter (entryOwed s q)) s

/-- A queue DISABLED, its table entry written back (R268, R282). -/
def disableQueue (q : Nat) (s : State) : State :=
  let s := setQueue q { queue s q with ckind := 0, stopped := false, run := [] } (setWait q {} s)
  let s := writeBack q s
  { s with queues := s.queues.filter (fun e => e.1 != q) }

/-- Every queue journaled as R449 states, then DISABLED. -/
def resetQueues (s : State) : State :=
  let ids := s.queues.map (·.1)
  overList disableQueue ids (overList resetQueue ids s)

/-! ### Module reset -/

/-- Work that a module reset waits for (R486): a valid-bit clear, a row move, a billet CRC. -/
def moduleResetWaits (s : State) : Bool :=
  s.vclear.any (fun e => e.2.on) || s.rmove.any (fun e => e.2.on)
    || (List.range 20).any (fun n => rf s (stkReg n 0x180) 63 63 == 1)

/-- STK_SR_CTL after a reset: a stack in self-refresh leaves it, an entry completes first (R131, R132, R486). -/
def srAfter (v : Word) : Word :=
  withField (BitVec.ofNat 64 (stkReset 0x20)) 3 2 (if fieldOf v 3 2 = 2 then 3 else fieldOf v 3 2)

/-- A stack-site register after a module reset (R486). -/
def stkAfter (o : Nat) (v : Word) : Word :=
  let r : Word := BitVec.ofNat 64 (stkReset o)
  if 0x400 ≤ o ∧ o < 0x800 then v
  else if o = 0x20 then srAfter v
  else if o = 0x148 then v
  else if 0x1000 ≤ o ∧ o < 0x3000 ∧ o % 0x100 = 0 then withField v 47 24 0
  else if 0x1000 ≤ o ∧ o < 0x3000 ∧ (o % 0x100 = 8 ∨ o % 0x100 = 0x10) then v
  else r

/-- A Tuyere register after a module reset: TUY_CTL, the port controls, the links' states and the SELF entry stay (R380). -/
def tuyAfter (o : Nat) (v : Word) : Word :=
  let r : Word := BitVec.ofNat 64 (tuyReset o)
  if o = 0 ∨ (0x100 ≤ o ∧ o < 0x400 ∧ o % 0x40 = 0) then v
  else if 0x100 ≤ o ∧ o < 0x400 ∧ o % 0x40 = 8 then withField r 63 60 (fieldOf v 63 60)
  else if 0x1000 ≤ o ∧ o % 0x20 = 0 ∧ fieldOf v 63 60 = 4 then withField 0 63 60 4
  else r

/-- A register of BAR0 after a module reset (R447). [DEDUCED, log 80] -/
def moduleAfter (off : Nat) (v : Word) : Word :=
  if 0x00200000 ≤ off ∧ off < 0x00340000 then stkAfter (off % 0x10000) v
  else if 0x003F0000 ≤ off ∧ off < 0x00400000 then tuyAfter (off % 0x10000) v
  else if (0x00010000 ≤ off ∧ off < 0x00020000) ∨ (0x00140000 ≤ off ∧ off < 0x00150000)
    ∨ (0x001D0000 ≤ off ∧ off < 0x001F0000) then v
  else if off = qscReg 0 ∨ off = qscReg 0x28 then v
  else if off = smcReg 0 then withField (withField (withField v 63 60 4) 31 30 0) 15 0 0
  else regReset off

/-- The register file after a reset that maps each register through `f`. -/
def mapRegs (f : Nat → Word → Word) (s : State) : State :=
  { s with regs := (s.regs.map (fun e => (e.1, f e.1 e.2))).filter (fun e => e.2 != regReset e.1) }

/-- SMC_FW_STAT.stage written. -/
def setStage (v : Nat) (s : State) : State := setRf (smcReg 0) 63 60 v s

/-- Hearth-table entries as they were before a PREPARE, with an even generation (R30, R377). -/
def restoreEntries (s : State) : State :=
  let g := s.group
  let g' := { g with want := [], replied := [], failed := 0, phase := 0, forming := false }
  if g.gen % 2 = 0 then { s with group := g' }
  else { s with group := { g' with gen := g.gen + 1, modules := g.oldModules, self := g.oldSelf, members := g.oldMembers, lead := g.oldLead,
                                   ggen := g.oldGgen, prepared := false } }

/-- What Prefen loses and keeps in a module reset (R311, R364, R447, R450): operations whose commit point was not reached are
undone; sessions, requests, rings, the build, adapters and the last step number stay. -/
def resetPrefen (s : State) : State :=
  let s := overList undoOp s.prefen.ops s
  let still (x : Session) : Session := { x with parking := false, closing := false }
  updPrefen (fun p => { p with
    mbox := [], arrivals := 0, cancels := [], step := {}, loading := false, ops := [], sparks := [], anchors := [],
    sessions := p.sessions.map (fun e => (e.1, still e.2)) }) s

/-- Valid bits of every scratchpad, die buffer and crucible buffer cleared (R447). -/
def clearSrams (s : State) : State :=
  { s with mem := { s.mem with valid := s.mem.valid.filter (fun e => 3 < e.1 / 2 ^ 64) } }

/-- What the PoC goes on holding through a module reset: the host's accesses, and writes posted before it, the journal entries of
R449 and the writes of partners' frames among them. -/
def heldAfter (h : Held) : Option Held :=
  match h.acc with
  | .post who src a d _ => some { h with acc := .post who src a d .plain }
  | .frame _ f => if f.ty = 9 then none else some h
  | a => if accessByHost a then some h else none

/-- The blocks of the module reset, once the consumers have stopped (R447, R449, R486). -/
def resetBlocks (s : State) : State :=
  let s := clearSrams (mapRegs moduleAfter s)
  let self := rf s (tuyReg 0) 55 48
  let s := if self = 0xFF then s else setRf (tuyReg (0x1000 + 0x20 * self)) 63 60 4 s
  { s with
    sclkFrom := s.time, found := [], up := false, hearths := (s.hearths.filter (fun e => e.2.dead)).map (fun e => (e.1, { dead := true })),
    tags := [], fltHearths := [], fltSeq := 0, waits := [], pmWait := [], lastQ := [], cycles := [],
    umode := [], mcause := [], mtval := [], coreTag := [], corePc := [], belsel := [],
    cores := [], banks := [], clusters := [], dcache := [], icache := [], resv := [],
    held := s.held.filterMap heldAfter, burstQ := [], asks := [], yielded := [], srWant := [], postponed := [], scrubPos := [],
    runs := [], units := [], unitCnt := [], exch := [], chans := [], tngTurn := [], vclear := [], crcJobs := [], rmove := [], links := [],
    board := { s.board with ucieRun := [], roTag := 0 } }

/-- MODULE_RESET from its start (R449): BYE on every port, every taken command journaled, then the blocks. [DEDUCED, log 82] -/
def moduleReset (s : State) : State := resetBlocks (resetPrefen (resetQueues (restoreEntries (byeAll s))))

/-! ### Warm and cold resets -/

/-- Bytes of host memory, which no reset of the module touches. -/
def hostCells {α : Type} (l : List (Nat × α)) : List (Nat × α) := l.filter (fun e => 5 ≤ e.1 / 2 ^ 64)

/-- A register of BAR0 after a warm reset (R283, R447, R467, R486). -/
def warmAfter (off : Nat) (v : Word) : Word :=
  let o := off % 0x10000
  if 0x001D0000 ≤ off ∧ off < 0x001E0000 then v
  else if off = qchReg 0x40 ∨ off = qscReg 0 ∨ off = qscReg 0x28 then v
  else if 0x00200000 ≤ off ∧ off < 0x00340000 then
    (if 0x400 ≤ o ∧ o < 0x800 then v
     else if o = 0x20 then srAfter v
     else if 0x1000 ≤ o ∧ o < 0x3000 ∧ o % 0x100 = 0 then withField v 47 24 0
     else if 0x1000 ≤ o ∧ o < 0x3000 ∧ (o % 0x100 = 8 ∨ o % 0x100 = 0x10) then v
     else regReset off)
  else regReset off

/-- What stays of the state in a warm or cold reset beside registers: host memory, flash, Ember, pins and what leaves the block. -/
def bareState (s : State) : State :=
  { State.reset with
    free := s.free
    mem := { cells := hostCells s.mem.cells, poison := hostCells s.mem.poison }
    lanes := s.lanes
    laneDue := s.laneDue
    spareBad := s.spareBad
    layerRemap := s.layerRemap
    flashRemap := s.flashRemap
    flash := s.flash
    runSlot := s.runSlot
    ember := s.ember
    board := { perst := s.board.perst, quenchN := s.board.quenchN, common := s.board.common, ir := s.board.ir,
               regacc := s.board.regacc, boundary := s.board.boundary, spi := s.board.spi, erased := s.board.erased, spiEpoch := s.board.spiEpoch,
               spiNew := s.board.spiNew }
    out := s.out
    pending := s.pending }

/-- Every island but Ember reset (R453); the converters stay on, and startup goes on from step 3 when PERST_N is deasserted. [DEDUCED, log 83] -/
def warmReset (s : State) : State :=
  let t := bareState s
  mapRegs warmAfter { t with regs := s.regs, board := { t.board with boot := 2, warm := true } }

/-- A register after the main converters went off: Ember's stay (R447), and the two that R283 excepts. -/
def coldAfter (off : Nat) (v : Word) : Word :=
  if (0x001D0000 ≤ off ∧ off < 0x001E0000) ∨ off = qscReg 0 ∨ off = qscReg 0x28 then v else regReset off

/-- The main converters off, which acts on every block but Ember as a cold reset (R415, R446). -/
def coldReset (s : State) : State :=
  let t := bareState s
  mapRegs coldAfter { t with regs := s.regs, lanes := [], laneDue := [], spareBad := [], layerRemap := [], board := { t.board with boot := 1 } }

end Sys2Proof.Machine
end

