-- ==== Sys2Proof/Machine/Ember.lean ====
section
/-! DEFINITION. Ember: rounds, thermal states, holds, power limit, clocks, shutdown, PMBus and the converters
(spec/19_islands_power_and_heat.md R409 to R432; spec/21_bringup_test_and_quench.md R451; spec/22_module_interface.md R473, R480). -/

namespace Sys2Proof.Machine

/-- Ember's own state replaced through a function. -/
def updEmber (f : Ember → Ember) (s : State) : State := { s with ember := f s.ember }

/-- Ember runs: it has booted, and the module is not frozen (R431). -/
def emberRuns (s : State) : Bool := s.ember.on && !frozen s

/-- An event of Ember's, which does not occur while Ember does not run. -/
def emberLive (s : State) (o : Host.Outcome State Fault Refusal) : Host.Outcome State Fault Refusal :=
  if emberRuns s then o else .next s

/-- EMB_NOTE bit set. -/
def emberNote (k : Nat) (s : State) : State := setRf (embReg 0x20) k k 1 s

/-- A fault record that Ember raises, written by the islands when they run (R436, R488). [DEDUCED, log 88] -/
def emberRecord (code detail : Nat) (s : State) : State :=
  whenSt (running s && s.up) (faultRecord { code := code, hearth := 1, src := 0x10, d0 := detail }) s

def setPstate (v : Nat) (s : State) : State := setRf (embReg 0) 63 60 v s

/-! ### Channels and regions -/

/-- Kind of a channel (R420): 0 thermal, 1 voltage, current or flow, 2 presence or leak, 3 reserved. -/
def chanKind (k : Nat) : Nat :=
  if k < 138 then 0 else if k < 226 then 1 else if k < 243 then 2 else if k < 245 then 1 else 3

/-- Region of a thermal channel (R420). -/
def chanRegion (k : Nat) : Nat :=
  if k < 80 then k / 4 else if k < 128 then 20 + (k - 80) / 12 else if k < 132 then 24 else if k < 136 then 25 else 26

/-- Thermal channels of a region. -/
def regionChans (r : Nat) : List Nat := (List.range 138).filter (fun k => chanRegion k == r)

def embCh (s : State) (k : Nat) : EmbCh := tabGet {} s.ember.chans k
def setEmbCh (k : Nat) (c : EmbCh) (s : State) : State := updEmber (fun e => { e with chans := tabSet {} e.chans k c }) s

/-- EMB_FLAG bit of a channel (R432). -/
def flagReg (k : Nat) : Nat := embReg (0x40 + 8 * (k / 64))
def flagged (s : State) (k : Nat) : Bool := bitOf (rg s (flagReg k)) (k % 64)

/-- Filter states of the other unflagged channels of a thermal channel's region. -/
def otherYs (s : State) (k : Nat) : List Int :=
  ((regionChans (chanRegion k)).filter (fun j => j != k && !flagged s j && (embCh s j).on)).map (fun j => (embCh s j).y)

def maxInt (l : List Int) (d : Int) : Int := l.foldl max (l.headD d)
def minInt (l : List Int) (d : Int) : Int := l.foldl min (l.headD d)

/-- How long a thermal channel has held its code, and the range of the others' filter states meanwhile (R422). -/
def holdCode (s : State) (k : Nat) (raw : Int) (c : EmbCh) : EmbCh :=
  let l := otherYs s k
  if c.on && c.samples.headD 0 == raw then
    if l.isEmpty then { c with same := c.same + 1 }
    else if c.hi < c.lo then { c with same := c.same + 1, lo := minInt l 0, hi := maxInt l 0 }
    else { c with same := c.same + 1, lo := min c.lo (minInt l 0), hi := max c.hi (maxInt l 0) }
  else if l.isEmpty then { c with same := 1, lo := 1, hi := 0 }
  else { c with same := 1, lo := minInt l 0, hi := maxInt l 0 }

/-- Does this round's sample flag the channel (R422)? `c` holds its code as `holdCode` left it. [DEDUCED, log 86] -/
def flagsNow (k : Nat) (raw : Int) (c : EmbCh) : Bool :=
  match chanKind k with
  | 0 =>
    decide (raw < -2560) || decide (9600 < raw)
      || (c.on && (decide (1024 < raw - c.samples.headD 0) || decide (1024 < c.samples.headD 0 - raw)))
      || (decide (1024 ≤ c.same) && decide (256 ≤ c.hi - c.lo))
  | 1 => decide (raw < 0) || decide (3 * Config.fullScale k < 2 * raw)
  | _ => false

/-- Four samples in ascending order. -/
def sortInts (l : List Int) : List Int :=
  l.foldl (fun acc x => acc.takeWhile (fun y => decide (y ≤ x)) ++ [x] ++ acc.dropWhile (fun y => decide (y ≤ x))) []

/-- The filter of R421, one sample on. -/
def filterCh (raw : Int) (c : EmbCh) : EmbCh :=
  if !c.on then { c with on := true, samples := List.replicate 4 raw, y := raw }
  else
    let l := (raw :: c.samples).take 4
    let t := sortInts l
    let m := (nth t 1 0 + nth t 2 0) / 2
    { c with samples := l, y := c.y + (m - c.y) / 8 }

/-- EMB_CH of a channel (R432). -/
def showCh (k : Nat) (s : State) : State :=
  let c := embCh s k
  setRg (embReg (0x1000 + 8 * k)) (BitVec.ofNat 64 (wrapInt 32 c.y * 2 ^ 32 + wrapInt 32 (c.samples.headD 0))) s

/-- One channel sampled: flagged, or filtered (R421, R422). -/
def sampleCh (raws : List Int) (k : Nat) (s : State) : State :=
  let raw := nth raws k 0
  if chanKind k = 3 || flagged s k then s
  else if chanKind k = 2 then
    let c := embCh s k
    showCh k (setEmbCh k { c with on := true, samples := (raw :: c.samples).take 2, y := raw } s)
  else
    let c := if chanKind k = 0 then holdCode s k raw (embCh s k) else embCh s k
    if flagsNow k raw c then
      showCh k (emberNote 1 (setRf (flagReg k) (k % 64) (k % 64) 1
        (setEmbCh k { c with samples := (raw :: c.samples).take 4 } s)))
    else showCh k (setEmbCh k (filterCh raw c) s)

/-- Temperature of a region: the largest y among its unflagged channels; none when all are flagged (R421, R423). -/
def regionTemp (s : State) (r : Nat) : Option Int :=
  let l := ((regionChans r).filter (fun k => !flagged s k && (embCh s k).on)).map (fun k => (embCh s k).y)
  if l.isEmpty then none else some (maxInt l 0)

def embRegion (r : Nat) : Nat := embReg (0x100 + 8 * r)

/-- Filtered value of an unfiltered-flag channel; none when flagged or not yet sampled. -/
def chanValue (s : State) (k : Nat) : Option Int := if flagged s k || !(embCh s k).on then none else some (embCh s k).y

/-! ### Thermal states -/

/-- Entry threshold of a state, in 1/64 °C (R424, R425). -/
def entryAt (r st : Nat) : Int :=
  if r < 20 then (match st with | 1 => 5632 | 2 => 6080 | _ => 6400)
  else (match st with | 1 => 6720 | 2 => 7040 | _ => 7296)

/-- The state of a region after a round (R424). -/
def nextState (r cur : Nat) (t : Int) : Nat :=
  match [3, 2, 1].find? (fun st => decide (entryAt r st ≤ t) || (decide (st ≤ cur) && decide (entryAt r st - 192 ≤ t))) with
  | some st => st
  | none => 0

/-- EMB_REG.state of a region. -/
def regionState (s : State) (r : Nat) : Nat := rf s (embRegion r) 63 62

/-- Temperatures and states of the regions (R421, R424, R425). -/
def roundStates (s : State) : State :=
  overList (fun r s =>
    match regionTemp s r with
    | none => s
    | some t =>
      let s := setRf (embRegion r) 31 0 (wrapInt 32 t) s
      if 24 ≤ r then s
      else
        let n := nextState r (regionState s r) t
        whenSt (n != regionState s r) (emberNote 0) (setRf (embRegion r) 63 62 n s)) (List.range 27) s

/-- Threshold of a latched shutdown of a region (R428), and its cause. -/
def tripAt (r : Nat) : Option (Int × Nat) :=
  if r < 20 then some (6720, 1) else if r < 24 then some (7552, 2) else if r = 24 then some (7360, 3)
  else if r = 25 then some (7680, 3) else none

/-- Rounds at or above the shutdown thresholds counted; the lowest cause that is due (R428 causes 1 to 3). -/
def roundOver (s : State) : State × List Nat :=
  collect (fun r s =>
    match tripAt r, regionTemp s r with
    | some (th, cause), some t =>
      let n := rf s (embRegion r) 59 58
      if t < th then (setRf (embRegion r) 59 58 0 s, 0)
      else if n = 2 then (s, cause) else (setRf (embRegion r) 59 58 (n + 1) s, 0)
    | some _, none => (setRf (embRegion r) 59 58 0 s, 0)
    | none, _ => (s, 0)) (List.range 27) s

/-! ### Holds -/

/-- EMB_CTL.flow_min as it acts (R432). -/
def flowMin (s : State) : Nat := max 300 (rf s (embReg 8) 47 32)

/-- Is a leak asserted: both of the two most recent samples are 1 (R421)? -/
def leaking (s : State) : Bool :=
  [239, 240, 241, 242].any (fun k => let l := (embCh s k).samples; l.length == 2 && l.all (fun v => v == 1))

/-- Flow of a plate is below a value. -/
def flowBelow (s : State) (k : Nat) (v : Int) : Bool := match chanValue s k with | some y => decide (y < v) | none => false

/-- Counts of flow rounds and the flow hold (R427, R451 step 2). -/
def roundFlow (s : State) : State :=
  let a := flowBelow s 243 (flowMin s)
  let b := flowBelow s 244 (flowMin s)
  let e := s.ember
  let lowA := if a then e.lowA + 1 else 0
  let lowB := if b then e.lowB + 1 else 0
  let flowOk := if a || b then 0 else e.flowOk + 1
  let hold := if e.flowHold then decide (flowOk < 16) else decide (16 ≤ lowA) || decide (16 ≤ lowB)
  let stopA := if flowBelow s 243 300 then e.stopA + 1 else 0
  let stopB := if flowBelow s 244 300 then e.stopB + 1 else 0
  let good := if a || b || leaking s then 0 else e.good + 1
  whenSt (hold != e.flowHold) (emberNote 3)
    (updEmber (fun e => { e with lowA := lowA, lowB := lowB, flowOk := flowOk, flowHold := hold, stopA := stopA, stopB := stopB, good := good }) s)

/-- Pairs of neighbouring regions (R411, R15). -/
def regionPairs : List (Nat × Nat) :=
  (List.range 20).map (fun n => (n, 20 + n / 5)) ++ [(20, 21), (22, 23), (20, 22), (21, 23), (20, 24), (21, 24), (22, 24), (23, 24)]

/-- Thermal-skew holds begun and ended (R411). -/
def roundSkew (s : State) : State :=
  overList (fun p s =>
    match regionTemp s p.1, regionTemp s p.2 with
    | some x, some y =>
      let d := if x < y then y - x else x - y
      let held := s.ember.skew.contains p
      if !held && decide (2560 < d) then
        emberRecord 0x280 (p.1 + 256 * p.2) (emberNote 4 (updEmber (fun e => { e with skew := e.skew ++ [p] }) s))
      else if held && decide (d ≤ 2240) then
        emberNote 4 (updEmber (fun e => { e with skew := e.skew.filter (· != p) }) s)
      else s
    | _, _ => s) regionPairs s

/-- Regions with every thermal channel flagged (R423). [DEDUCED, log 85] -/
def roundBlind (s : State) : State :=
  overList (fun r s =>
    let now := (regionChans r).all (flagged s)
    let was := s.ember.blind.contains r
    if now && !was then emberRecord 0x281 r (emberNote 1 (updEmber (fun e => { e with blind := e.blind ++ [r] }) s))
    else if was && !now then updEmber (fun e => { e with blind := e.blind.filter (· != r) }) s
    else s) (List.range 27) s

/-- The hold of a region (R413). -/
def regionHold (s : State) (r : Nat) : Nat :=
  if s.ember.skew.any (fun p => p.1 == r || p.2 == r) || s.ember.blind.contains r then 3
  else if s.ember.flowHold || s.ember.blind.any (fun x => decide (24 ≤ x)) then 2 else 0

/-- EMB_REG.held, and states with holds as decided (R413, R423). -/
def roundHolds (s : State) : State :=
  let held (r : Nat) : Bool :=
    if r < 24 then regionHold s r != 0 else s.ember.skew.any (fun p => p.2 == r) || s.ember.blind.contains r
  let s' := overList (fun r s => setRf (embRegion r) 61 61 (b2n (held r)) s) (List.range 27) s
  updEmber (fun e => { e with decided := (List.range 24).map (fun r => max (regionState s' r) (regionHold s' r)) }) s'

/-! ### Power and clocks -/

/-- EMB_STAT.p. -/
def powerSteps (s : State) : Nat := rf s (embReg 0) 52 48
/-- EMB_CTL.cap_w as it acts. -/
def capW (s : State) : Nat := max 1000 (min 4000 (rf s (embReg 8) 63 48))

/-- Does the power limit act (R418)? -/
def limiting (s : State) : Bool := powerSteps s != 0 || dutyLimit s != 0

/-- The power limit adjusted on `n` samples that sum to `sum` microwatts (R418). -/
def adjustPower (sum n : Nat) (s : State) : State :=
  let cap := capW s * 1000000 * n
  if cap < sum then
    if powerSteps s < 27 then setRf (embReg 0) 52 48 (powerSteps s + 1) s
    else if dutyLimit s < 2 then setRf (embReg 0) 59 58 (dutyLimit s + 1) s else s
  else if 100 * sum < 95 * cap then
    if dutyLimit s != 0 then setRf (embReg 0) 59 58 (dutyLimit s - 1) s
    else if powerSteps s != 0 then setRf (embReg 0) 52 48 (powerSteps s - 1) s else s
  else s

/-- Input power, energy and the power limit of a round (R418, R432). [DEDUCED, log 87] -/
def roundPower (s : State) : State :=
  match chanValue s 138, chanValue s 202 with
  | some v, some i =>
    let w := (v * i).toNat
    let power := (w :: s.ember.power).take 1024
    let energy := s.ember.energy + 1024 * w
    let s := updEmber (fun e => { e with power := power, energy := energy }) s
    let sum := (power.take 8).foldl (· + ·) 0
    let n := (power.take 8).length
    let was := limiting s
    let s := adjustPower sum n s
    let s := whenSt (limiting s || was) (emberNote 2) (updEmber (fun e => { e with limited := e.limited || limiting s }) s)
    let clip (x : Nat) : Nat := min x 65535
    let pwr := clip (v.toNat / 100) * 2 ^ 48 + clip i.toNat * 2 ^ 32 + clip (sum / (n * 1000000)) * 2 ^ 16
      + clip (power.foldl max 0 / 1000000)
    setRg (embReg 0x18) (BitVec.ofNat 64 (energy / 1000000000)) (setRg (embReg 0x10) (BitVec.ofNat 64 pwr) s)
  | _, _ => s

/-- Reduction of a state, in hundredths (R413, R424, R425). -/
def reduction (st : Nat) : Nat := if st = 0 then 0 else if st = 1 then 15 else 40

/-- Effective clock and its reasons for cluster number x (R413, R432). -/
def clockOf (s : State) (x : Nat) : Nat × Nat :=
  let st := stackAbove x
  let an := 20 + x / 16
  let a := nth s.ember.decided st 0
  let b := nth s.ember.decided an 0
  let r := max (reduction a) (reduction b)
  let eff := if a = 3 ∨ b = 3 then 0 else max 9 (clkSet s x * (100 - r) / 100 - powerSteps s)
  (eff, b2n (regionState s st != 0) + 2 * b2n (regionState s an != 0) + 4 * b2n (powerSteps s != 0)
    + 8 * b2n (regionHold s st != 0 || regionHold s an != 0))

/-- Effective clocks decided at a round end (R413). -/
def roundClocks (s : State) : State := updEmber (fun e => { e with clocks := (List.range 64).map (clockOf s) }) s

/-- Clock decided for a cluster; its present one before the first round. -/
def clockDecided (s : State) (x : Nat) : Nat × Nat := nth s.ember.clocks x (clkEff s x, rf s (clkReg x) 43 40)

/-- Clock that a quadrant rail's target supports (R414): the highest decided of its clusters, 0.8 GHz at least. -/
def quadTarget (s : State) (q : Nat) : Nat := (upFrom (4 * q) 4).foldl (fun m x => max m (clockDecided s x).1) 16
def setQuad (q v : Nat) (s : State) : State := updEmber (fun e => { e with rails := tabSet 0 e.rails q v }) s

/-! ### Shutdown and the converters -/

/-- Main converters off: a cold reset of everything but Ember (R415, R429). -/
def convertersOff (pst : Nat) (s : State) : State :=
  setPstate pst (updEmber (fun e => { e with rails := [], applied := [], good := 0 }) (coldReset s))

/-- A latched shutdown (R428, R429). -/
def shutdown (cause : Nat) (s : State) : State :=
  let temps := (List.range 27).map (fun r => (regionTemp s r).getD (signedOf 32 (rf s (embRegion r) 31 0)))
  let entry : EmbLog := ⟨cause, s.time, temps⟩
  let s := setRf (embReg 0) 47 40 cause (convertersOff 6 s)
  updEmber (fun e => { e with latch := true, log := e.log ++ [entry], faultTemp := e.faultTemp || [1, 2, 3, 7].contains cause }) s

/-- The main converters are on. -/
def convertersOn (s : State) : Bool := decide (2 ≤ s.board.boot)

/-- Channels 139 to 201 with the targets they are held to: quadrant rails by their clock, none while a rail is off (R428). -/
def railTargetOf (s : State) (k : Nat) : Option Int :=
  if k < 139 ∨ 201 < k then none
  else if 140 ≤ k ∧ k < 156 then
    (if quadClock s (k - 140) = 0 then none else some (Config.railTarget k (quadClock s (k - 140))))
  else if 200 ≤ k then some (Config.railTarget k 0)
  else if convertersOn s then some (Config.railTarget k 0) else none

/-- Rounds outside ±8 % counted; is a rail due (R428 cause 6)? -/
def roundRails (s : State) : State × Bool :=
  let (s, l) := collect (fun k s =>
    match chanValue s k, railTargetOf s k with
    | some y, some t =>
      let c := embCh s k
      let out := decide (8 * t < 100 * (y - t)) || decide (8 * t < 100 * (t - y))
      let n := if out then c.off + 1 else 0
      (setEmbCh k { c with off := n } s, decide (4 ≤ n))
    | _, _ => (setEmbCh k { embCh s k with off := 0 } s, false)) (upFrom 139 63) s
  (s, l.any id)

/-- Rounds with the input out of range counted (R415). -/
def roundInput (s : State) : State :=
  match chanValue s 138 with
  | none => s
  | some v =>
    let under := if v < 255000 then s.ember.under + 1 else 0
    let above := if 420000 < v then s.ember.above + 1 else 0
    updEmber (fun e => { e with under := under, above := above,
                                inUnder := e.inUnder || decide (2 ≤ under), inOver := e.inOver || decide (2 ≤ above) }) s

/-- Is the input out of range for two rounds? -/
def inputBad (s : State) : Bool := decide (2 ≤ s.ember.under) || decide (2 ≤ s.ember.above)

/-- The cause that a round latches, if any, the first in the order of R428. [DEDUCED, log 84] -/
def roundCause (s : State) (ovfl : List Nat) (rail : Bool) : Option Nat :=
  if ovfl.contains 1 then some 1 else if ovfl.contains 2 then some 2 else if ovfl.contains 3 then some 3
  else if leaking s && convertersOn s then some 4
  else if (decide (100 ≤ s.ember.stopA) || decide (100 ≤ s.ember.stopB)) && convertersOn s then some 5
  else if rail then some 6 else none

/-- EMB_STAT.rounds. -/
def countRound (s : State) : State := bumpRf (embReg 0) 31 0 1 s

/-- EMBER_ROUND (R420 to R428): the raw samples of the 256 channels, and whether a converter's own protection has acted. [DESIGN CHOICE, log 79] -/
def execEmberRound (raw : List Int) (protection : Bool) (s : State) : Host.Outcome State Fault Refusal := emberLive s <|
  let s := overList (sampleCh raw) (List.range 256) (countRound s)
  let s := roundStates s
  let (s, ovfl) := roundOver s
  let s := roundHolds (roundBlind (roundSkew (roundFlow s)))
  let s := roundInput (roundClocks (roundPower s))
  let s := updEmber (fun e => { e with warnTemp := e.warnTemp || (List.range 24).any (fun r => regionState s r != 0) }) s
  let (s, rail) := roundRails s
  if s.ember.latch then done s
  else match roundCause s ovfl (rail || protection) with
    | some c => done (shutdown c s)
    | none => done (if inputBad s && (convertersOn s || pstate s == 1) then convertersOff 0 s else s)

/-! ### Applying -/

/-- A THERMAL event of a hearth (R365, R426). -/
def thermalEvent (i st : Nat) (s : State) : State :=
  whenSt s.up (postEvent { kind := 4, info0 := st * 2 ^ 16 + i }) s

/-- Hearths whose throttle a region's state enters: a stack, or an Anvil (R426). -/
def regionHearth (r : Nat) : Nat := if r < 20 then hxStack r else hxAnvil (r - 20)

/-- Refresh window of a stack (R129): 16 ms in T2, in T3 and under force_double. -/
def setWindow (n : Nat) (s : State) : State :=
  setRf (stkReg n 0x10) 9 8 (b2n (decide (2 ≤ appliedState s n) || rf s (stkReg n 0x10) 0 0 == 1)) s

/-- A cluster's clock as far as its rail supports the decided one (R414). -/
def switchClock (x : Nat) (s : State) : State :=
  let (eff, why) := clockDecided s x
  let s := setRf (clkReg x) 43 40 why s
  let s := if eff ≤ quadClock s (quadOf x) then setRf (clkReg x) 39 32 eff s else s
  updHearth (hxCluster (x / 16) (x % 16)) (fun h => { h with halted := clkEff s x == 0 }) s

/-- The thermal state applied to a stack: in T3 its units stop and release their column paths, which serves what waits at the PoC
(R128, R129, R186, R426), and its dispatcher is held (R171). -/
def throttleStack (n : Nat) (s : State) : State :=
  let t3 := appliedState s n == 3
  let s := setWindow n (updHearth (hxStack n) (fun h => { h with halted := t3 }) s)
  syncStack n (if t3 then releasePaths n s else s)

/-- THROTTLE_APPLY (R414, R426, R431): decided states, clocks and duty limits take effect. -/
def execThrottleApply (s : State) : Host.Outcome State Fault Refusal := emberLive s <|
  if !convertersOn s || s.ember.decided.isEmpty then noEvent s
  else
    let old := (List.range 90).map (hearthThrottle s)
    let s := updEmber (fun e => { e with applied := e.decided }) s
    let s := overList throttleStack (List.range 20) s
    let s := overList switchClock (List.range 64) s
    done (overList (fun i s =>
      if 2 ≤ i && hearthThrottle s i != nth old i 0 then thermalEvent i (hearthThrottle s i) s else s) (List.range 90) s)

/-- RAIL_RAMP_DONE (R414): quadrant rail q reaches its target, and its islands switch their clocks. -/
def execRailRampDone (q : Fin 16) (s : State) : Host.Outcome State Fault Refusal := emberLive s <|
  if !convertersOn s || (quadClock s q.val = 0 && pstate s != 5) then noEvent s
  else
    let s := setQuad q.val (quadTarget s q.val) s
    done (overList (fun x s => if s.ember.applied = s.ember.decided then switchClock x s else s) (upFrom (4 * q.val) 4) s)

/-- FAST_POWER_LIMIT (R418): the bus converter's limit acts. -/
def execFastPowerLimit (s : State) : Host.Outcome State Fault Refusal := emberLive s <|
  if !convertersOn s then noEvent s
  else
    let s := emberNote 2 (setRf (embReg 0) 52 48 27 s)
    let s := updEmber (fun e => { e with limited := true }) s
    done (overList switchClock (List.range 64) (whenSt (!s.ember.decided.isEmpty) roundClocks s))

/-- HARDWARE_TRIP (R428 cause 7, R429): a comparator acts even while the module is frozen. -/
def execHardwareTrip (s : State) : Host.Outcome State Fault Refusal :=
  if s.ember.latch then noEvent s else done (shutdown 7 s)

/-- Ember stops and everything else has been off: its state starts anew at its next boot (R415, R447). -/
def emberOff (s : State) : State :=
  let t := coldReset s
  { t with ember := { latch := s.ember.latch, log := s.ember.log, rollback := s.ember.rollback, open_ := s.ember.open_ },
           board := { t.board with boot := 0 } }

/-- LATCH_RELEASE (R430): the input below 40 V for 5 s, which also stops Ember. -/
def execLatchRelease (s : State) : Host.Outcome State Fault Refusal :=
  let t := emberOff s
  done { t with ember := { t.ember with latch := false } }

/-- STANDBY_SUPPLY_LOSS (R415, R447). -/
def execStandbySupplyLoss (s : State) : Host.Outcome State Fault Refusal := done (emberOff s)

/-- The main converters come up with every rail at 0.72 V (R451 step 2). -/
def bringUp (s : State) : State :=
  let s := setPstate 1 { s with board := { s.board with boot := 2, warm := false } }
  updEmber (fun e => { e with rails := (List.range 16).map (fun q => (q, 16)), under := 0, above := 0 }) s

/-- CONVERTERS_RESTART (R415, R451, R473): input and interlock good for 50 ms; startup goes on from step 2. -/
def execConvertersRestart (s : State) : Host.Outcome State Fault Refusal := emberLive s <|
  if pstate s != 0 || s.ember.latch || s.ember.open_ then noEvent s
  else
    let s := setPstate 1 s
    done (if 16 ≤ s.ember.good then bringUp s else s)

/-- INTERLOCK_OPEN (R473). -/
def execInterlockOpen (s : State) : Host.Outcome State Fault Refusal :=
  let s := updEmber (fun e => { e with open_ := true }) s
  if !s.ember.on || s.ember.latch then done s else done (convertersOff 0 s)

/-- INTERLOCK_CLOSE (R473). -/
def execInterlockClose (s : State) : Host.Outcome State Fault Refusal := done (updEmber (fun e => { e with open_ := false }) s)

/-- One EMB_FLAG bit cleared by a Smith core: the channel starts anew (R421, R422). -/
def clearFlag (k : Nat) (s : State) : State :=
  if !flagged s k then s else setEmbCh k {} (setRf (flagReg k) (k % 64) (k % 64) 0 s)

/-- SENSOR_FLAG_CLEAR (R422). -/
def execSensorFlagClear (k : Fin 256) (s : State) : Host.Outcome State Fault Refusal := live s <| done (clearFlag k.val s)

/-! ### PMBus and SMBus -/

/-- CLEAR_FAULTS (R419). -/
def execClearFaults (s : State) : Host.Outcome State Fault Refusal := emberLive s <|
  done (updEmber (fun e => { e with
    inUnder := e.inUnder && decide (e.under != 0), inOver := e.inOver && decide (e.above != 0),
    warnTemp := e.warnTemp && (List.range 24).any (fun r => regionState s r != 0),
    faultTemp := e.faultTemp && e.latch, limited := e.limited && limiting s }) s)

/-- STATUS_INPUT and STATUS_TEMPERATURE in the standard's bits (R419). -/
def statusInput (s : State) : Nat := 128 * b2n s.ember.inOver + 16 * b2n s.ember.inUnder
def statusTemperature (s : State) : Nat := 128 * b2n s.ember.faultTemp + 64 * b2n s.ember.warnTemp

/-- STATUS_WORD (R419): input fault, power limit, temperature fault and OFF, in the standard's bits. [PRESUMED, log 75] [DEDUCED, log 76] -/
def pmStatusWord (s : State) : Nat :=
  2 ^ 13 * b2n (statusInput s != 0) + 2 ^ 14 * b2n s.ember.limited + 4 * b2n (statusTemperature s != 0)
    + 64 * b2n (pstate s == 0 || pstate s == 6 || !convertersOn s)

/-- A PMBus answer (R419): Ember answers in every power state. -/
def pmAnswer (cmd value : Nat) (s : State) : Host.Outcome State Fault Refusal := emberLive s <| done (emit (.pmbus cmd value) s)

/-- The hottest of a run of regions, in 1/64 °C. -/
def hottest (s : State) (rs : List Nat) : Int := maxInt (rs.map (fun r => signedOf 32 (rf s (embRegion r) 31 0))) 0

/-- The read commands of R419. -/
def execCoefficients (cmd : Fin 256) (s : State) : Host.Outcome State Fault Refusal := pmAnswer 0x30 (Config.pmbusCoefficients cmd.val) s
def execStatusWord (s : State) : Host.Outcome State Fault Refusal := pmAnswer 0x79 (pmStatusWord s) s
def execStatusInput (s : State) : Host.Outcome State Fault Refusal := pmAnswer 0x7C (statusInput s) s
def execStatusTemperature (s : State) : Host.Outcome State Fault Refusal := pmAnswer 0x7D (statusTemperature s) s
def execReadEin (s : State) : Host.Outcome State Fault Refusal :=
  let j := s.ember.energy / 1000000000000
  pmAnswer 0x86 (j % 2 ^ 15 + (j / 2 ^ 15) % 256 * 2 ^ 16 + rf s (embReg 0) 31 0 % 2 ^ 24 * 2 ^ 24) s
def execReadVin (s : State) : Host.Outcome State Fault Refusal := pmAnswer 0x88 (Config.pmbusCode 0x88 (embCh s 138).y) s
def execReadIin (s : State) : Host.Outcome State Fault Refusal := pmAnswer 0x89 (Config.pmbusCode 0x89 (embCh s 202).y) s
def execReadPin (s : State) : Host.Outcome State Fault Refusal :=
  pmAnswer 0x97 (Config.pmbusCode 0x97 (s.ember.power.headD 0)) s
def execReadTemperature1 (s : State) : Host.Outcome State Fault Refusal :=
  pmAnswer 0x8D (Config.pmbusCode 0x8D (hottest s (List.range 20))) s
def execReadTemperature2 (s : State) : Host.Outcome State Fault Refusal :=
  pmAnswer 0x8E (Config.pmbusCode 0x8E (hottest s (upFrom 20 4))) s
def execReadTemperature3 (s : State) : Host.Outcome State Fault Refusal := pmAnswer 0x8F (Config.pmbusCode 0x8F (embCh s 137).y) s
def execPmbusRevision (s : State) : Host.Outcome State Fault Refusal := pmAnswer 0x98 0x33 s

/-- FRU_READ (R480): `n` bytes of the record from an offset. -/
def execFruRead (off n : Fin 256) (s : State) : Host.Outcome State Fault Refusal :=
  done (emit (.smbus ((upFrom off.val n.val).map (fun k => BitVec.ofNat 8 (Config.fruByte k)))) s)

/-! ### Startup steps 1 and 2 -/

/-- EMBER_BOOT (R430, R451 step 1, R480): straps sampled; with the shutdown latch set startup stops here. -/
def execEmberBoot (strap : Fin 8) (s : State) : Host.Outcome State Fault Refusal :=
  if s.ember.on then noEvent s
  else
    let s := resetRegsIf (fun o => 0x001D0000 ≤ o && o < 0x001E0000) s
    let s := { s with board := { s.board with boot := 1 },
                      ember := { on := true, latch := s.ember.latch, log := s.ember.log, rollback := s.ember.rollback,
                                 open_ := s.ember.open_, strap := strap.val } }
    let cause := match s.ember.log.getLast? with | some e => e.cause | none => 0
    let s := setRf (embReg 0) 47 40 cause s
    done (if s.ember.latch then setPstate 6 s else s)

/-- MAIN_CONVERTERS_ON (R451 step 2, R452): after 16 good rounds; a rail that does not come up within ±8 % latches a shutdown. -/
def execMainConvertersOn (railsOk : Bool) (s : State) : Host.Outcome State Fault Refusal := emberLive s <|
  if s.board.boot != 1 || pstate s != 1 || s.ember.good < 16 || s.ember.latch || s.ember.open_ then noEvent s
  else done (if railsOk then bringUp s else shutdown 6 (bringUp s))

end Sys2Proof.Machine
end

