-- ==== Sys2Proof/Machine/GroupCore.lean ====
section
/-! DEFINITION. Partners and groups as shared operations: departure, the hold of a group, and what ends it
(spec/16_tuyere_fabric_and_groups.md R372, R377 to R379; spec/20_faults_and_recovery.md R444, R445). -/

namespace Sys2Proof.Machine

/-- Group state replaced through a function. -/
def updGroup (f : Group → Group) (s : State) : State := { s with group := f s.group }

/-- Position of a partner id in this module's group. -/
def positionOf (s : State) (pid : Nat) : Option Nat :=
  (List.range s.group.modules).find? (fun g => inGroup s && nth s.group.members g 0xFF == pid)

/-- Is a partner a member of this module's group? -/
def isMember (s : State) (pid : Nat) : Bool := (positionOf s pid).isSome && pid != selfId s

/-- State field of a partner entry written. -/
def setPtState (pid st : Nat) (s : State) : State := setRf (ptStat pid) 63 60 st s

/-- A PARTNER event (R365). -/
def partnerEvent (pid : Nat) (present : Bool) (s : State) : State :=
  postEvent { kind := 5, info0 := b2n present * 256 + pid } s

/-- A request of status `status` at a commit record of the last step number (R291, R311, R444). -/
def failRequest (status : Nat) (r : Request) (s : State) : State :=
  if terminal r then s else endRequest r 0xA 5 status s.prefen.lastStep [] false s

/-- Every request that is not terminal ends FAILED. -/
def failRequests (status : Nat) (s : State) : State :=
  resultFlush (overList (failRequest status) s.prefen.requests s)

/-- Every session closed. -/
def closeAll (s : State) : State := overList closeSession (s.prefen.sessions.map (·.1)) s

/-- A park that does not commit leaves its session and its request as they were (R342). -/
def unpark (sid : Nat) (s : State) : State :=
  let s := if (session s sid).isSome then setSession { sessionD s sid with parking := false } s else s
  updPrefen (fun p => { p with requests := p.requests.map (fun r =>
    if r.session = sid && r.state = 4 && !(sessionD s sid).parked then { r with state := r.before } else r) }) s

/-- An operation that waits for a member that is lost: PARTIAL with PARTNER_GONE (R342). -/
def loseOp (o : AsyncOp) (s : State) : State :=
  let s := if o.op = 0x13 then unpark (natBits (nth o.words 0 0) 31 0) (undoOp o s) else undoOp o s
  let s := updPrefen (fun p => { p with ops := p.ops.filter (fun x => x.tag != o.tag) }) s
  match o.caller with
  | some c => answer c 1 stPartnerGone 0 false s
  | none => postEvent { kind := 1, status := stPartnerGone, tag := o.tag, info0 := o.op } s

/-- The step in flight dropped: L of every session stays (R89, R311). -/
def dropStep (s : State) : State := updPrefen (fun p => { p with step := {}, sparks := [], anchors := [] }) s

/-- A group of one again (R379, R445): entries 1 to 5 rewritten under an odd generation, step numbers from 1. -/
def groupOfOne (s : State) : State :=
  let g := s.group
  let gen := g.gen + g.gen % 2 + 2
  updPrefen (fun p => { p with lastStep := 0, holdSince := none }) { s with group := { gen := gen } }

/-- A member gives its old group up (R445): its sessions close and their requests end FAILED with PARTNER_LOSS. -/
def leaveGroup (s : State) : State := groupOfOne (closeAll (failRequests 0x260 (dropStep s)))

/-- The lead's hold ends without the member (R444 step 4): requests FAILED with PARTNER_LOSS, each session's CACHE_LOST recorded, and
the sessions closed on the members present. [DEDUCED, log 176] -/
def failGroup (s : State) : State :=
  let ids := s.prefen.sessions.map (·.1)
  let s := failRequests 0x260 s
  let s := overList (fun _ s => faultRecord { code := 0x291, hearth := prefenHearth s, src := 0x12 } s) ids s
  let s := overList (fun id s => tellMembers [msgForward, 0x15, id] s) ids s
  updPrefen (fun p => { p with holdSince := none, cancels := [] }) (closeAll (dropStep s))

/-- The group is whole again (R444 step 3): the uncommitted step is to be executed again under its number. -/
def resumeGroup (s : State) : State :=
  let s := updHearth 0 (fun h => { h with faulted := false }) s
  updPrefen (fun p => { p with holdSince := none, step := if p.step.on then { p.step with again := true } else p.step }) s

/-- A GROUP_FORM or GROUP_DISSOLVE given up: ABANDON to every member, entries restored (R377). -/
def abandonForm (status : Nat) (s : State) : State :=
  let tag := s.group.opTag
  let s := overList (fun pid s => sendMsg pid [msgGroup, 3] s) s.group.want s
  let s := restoreEntries s
  match opByTag s tag with
  | some o => endOp o status 0 false s
  | none => s

/-- What a partner's departure does to this module's group (R377, R379, R444, R445). -/
def groupLoss (pid : Nat) (s : State) : State :=
  if s.group.phase != 0 && s.group.want.contains pid then abandonForm stPartnerAbsent s
  else if s.group.gen % 2 == 1 && pid == s.group.lead then restoreEntries s
  else if !isMember s pid then s
  else
    let s := faultRecord { code := 0x260, hearth := if isLead s then 0 else 1, src := 0xF, d0 := pid } s
    if isLead s then
      let g := (positionOf s pid).getD 0
      let s := updHearth 0 (fun h => { h with faulted := true }) s
      let s := overList loseOp (s.prefen.ops.filter (fun o => o.awaits.contains g)) s
      updPrefen (fun p => { p with holdSince := some (p.holdSince.getD s.time) }) s
    else if pid = s.group.lead then
      updPrefen (fun p => { p with holdSince := some s.time }) (updGroup (fun g => { g with leadLost := true }) (dropStep s))
    else s

/-- Channels whose command waits for a partner. -/
def chansOn (s : State) (pid : Nat) : List Nat :=
  (s.chans.filter (fun e => e.2.busy && (e.2.asked.any (fun r => r.pid == pid) || e.2.pmOut.any (fun p => p.2.1 == pid))
    && !commitReached s e.2)).map (·.1)

/-- Commands that a lost connection ends (R255, R275, R372). -/
def endTraffic (pid : Nat) (s : State) : State :=
  let s := overList (fun k s => chanEnd (k / 64) (k % 64) stPartnerGone s) (chansOn s pid) s
  let flags := s.pmWait.filter (fun w => w.pid == pid)
  let s := { s with pmWait := s.pmWait.filter (fun w => w.pid != pid) }
  overList (fun w s => journal w.qid w.idx w.tag { state := 0, status := stPartnerGone } s) flags s

/-- What a link keeps beside its transport: the fields of the last HELLO. -/
def bareLink (l : Link) : Link :=
  { inGroup := l.inGroup, isLead := l.isLead, gmodules := l.gmodules, gself := l.gself, glead := l.glead, gproto := l.gproto,
    ggen := l.ggen, heard := l.heard, port := l.port }

/-- A PRESENT partner departs (R372). `keep` keeps its port bits. -/
def depart (pid : Nat) (keep : Bool) (s : State) : State :=
  if ptState s pid != 1 then s
  else
    let s := setPtState pid 2 (satRf (ptCnt pid) 31 16 1 s)
    let s := if keep then s else setRf (ptStat pid) 43 32 0 s
    let s := endTraffic pid s
    let s := setLink pid (bareLink (link s pid)) s
    groupLoss pid (partnerEvent pid false s)

/-- A partner becomes PRESENT on a connection (R371): both directions number from 0. -/
def attach (pid conn : Nat) (s : State) : State :=
  let s := setLink pid { bareLink (link s pid) with heard := s.time } s
  partnerEvent pid true (setPtState pid 1 (setRf (ptStat pid) 31 0 conn s))

/-- What the last HELLO of a PRESENT partner says to this module's group while that group holds, or of a group that is no more
(R379, R444, R445). [DEDUCED, log 93] -/
def groupLook (pid : Nat) (s : State) : State :=
  let l := link s pid
  if ptState s pid != 1 then s
  else if inGroup s && isMember s pid && s.prefen.holdSince.isSome then
    if isLead s then
      if l.inGroup && l.glead == selfId s && l.ggen == s.group.ggen then
        (if groupWhole s then resumeGroup s else s)
      else failGroup s
    else if pid = s.group.lead then
      if l.inGroup && l.isLead && l.ggen == s.group.ggen then
        updPrefen (fun p => { p with holdSince := none }) (updGroup (fun g => { g with leadLost := false }) s)
      else leaveGroup s
    else s
  else if l.inGroup && l.glead == selfId s && selfId s != 0xFF && (!inGroup s || l.ggen != s.group.ggen) && s.group.phase == 0 then
    sendMsg pid [msgGroup, 4] s
  else s

/-! ### Sequenced delivery -/

/-- An ACK frame (R374). -/
def sendAck (pid : Nat) (s : State) : State :=
  let l := link s pid
  sendPlain pid { ty := 4, conn := rf s (ptStat pid) 31 0, ackOk := true, ack := l.recvNext } (setLink pid { l with sinceAck := 0 } s)

/-- One more frame received: acknowledged at once when 32 have come (R374). -/
def countAck (pid : Nat) (s : State) : State :=
  let l := link s pid
  let s := setLink pid { l with sinceAck := l.sinceAck + 1 } s
  if 32 ≤ l.sinceAck + 1 then sendAck pid s else s

/-- A WRITE whose frame the partner has acknowledged, and FLAG commands that this completes (R251, R254, R275). -/
def ackedFrame (pid : Nat) (f : Frame) (s : State) : State :=
  let s := { s with chans := s.chans.map (fun (e : Nat × Chan) => (e.1, { e.2 with pmOut := e.2.pmOut.filter (fun p => !(p.2.1 == pid && p.2.2 == f.psn)) })) }
  let flags := s.pmWait.filter (fun (w : PmWait) => w.pid == pid && w.psn == f.psn)
  let s := { s with pmWait := s.pmWait.filter (fun (w : PmWait) => !(w.pid == pid && w.psn == f.psn)) }
  overList (fun w s => journal w.qid w.idx w.tag { state := 2, progress := 1 } s) flags s

/-- An acknowledgement carried by a frame (R373, R374). -/
def takeAck (pid : Nat) (f : Frame) (s : State) : State :=
  if !f.ackOk then s
  else
    let l := link s pid
    let acked (x : Frame) : Bool := let d := diff32 f.ack x.psn; decide (0 < d) && decide (d ≤ 2 ^ 31)
    let gone := l.unacked.filter acked
    let s := setLink pid { l with unacked := l.unacked.filter (fun x => !acked x) } s
    let s := pumpFrames pid 1025 (overList (ackedFrame pid) gone s)
    overList (fun k s => chanStopped (k / 64) (k % 64) s) ((s.chans.filter (fun e => e.2.stop.isSome)).map (·.1)) s

/-- Does a WRITE, READ_REQ or FLAG name bytes that R92 and R373 allow? -/
def frameAddrOk (s : State) (f : Frame) : Bool :=
  1 ≤ f.len && f.len ≤ 8192 && f.addr / 8192 == (f.addr + f.len - 1) / 8192 && addrOk s 4 f.addr f.len
    && (f.ty != 0xB || (f.addr % 8 == 0 && f.len == 8)) && (f.ty == 9 || f.data.length == f.len)

/-- A NAK (R373 to R375): the psn it is about, and its status. [DEDUCED, log 91] [DEDUCED, log 150] -/
def sendNak (pid psn status : Nat) (s : State) : State :=
  sendPlain pid { ty := 5, conn := rf s (ptStat pid) 31 0, addr := psn, status := status } s

/-- A delivered READ_RSP reaches the channel that asked (R251, R255, R373). -/
def doResponse (pid : Nat) (f : Frame) (s : State) : State :=
  match s.chans.find? (fun e => e.2.busy && e.2.asked.any (fun r => r.pid == pid && r.psn == f.addr)) with
  | none => s
  | some e =>
    let x := e.2
    match x.asked.find? (fun r => r.pid == pid && r.psn == f.addr) with
    | none => s
    | some r =>
      if f.status = 1 || f.status = 2 then chanFault (e.1 / 64) (e.1 % 64) stAddress r.addr s
      else
        let word (k : Nat) : Nat := (r.addr + k) / 32 - r.addr / 32
        let l := (List.range r.len).map (fun k => (nth f.data k 0, nth f.pmap (word k) false))
        let x := { x with asked := x.asked.filter (fun q => !(q.pid == pid && q.psn == f.addr)),
                          inbox := if r.back then x.inbox else x.inbox ++ (upFrom r.addr r.len).zip l }
        setChan (e.1 / 64) (e.1 % 64) x s

/-- The next frame in order: a response or message reaches its receiver, a WRITE, READ_REQ or FLAG goes to its ordering point, which
may hold it while the stream goes on (R109, R132, R375). [DEDUCED, log 90] -/
def deliver (pid : Nat) (f : Frame) (s : State) : State :=
  if f.ty = 0xA then doResponse pid f s
  else if f.ty = 0xC then s
  else if !frameAddrOk s f then sendNak pid f.psn 1 s
  else if f.ty == 9 && rf s (tuyReg 0) 47 47 == 1 then sendSeq pid { ty := 0xA, addr := f.psn, status := 2, tag := f.tag } s
  else serve (.frame pid f) s

/-- Frames held that can be delivered now, in psn order (R374). -/
def drainFrames (pid : Nat) : Nat → State → State
  | 0, s => s
  | fuel + 1, s =>
    let l := link s pid
    match l.ahead.find? (fun f => f.psn == l.recvNext) with
    | none => s
    | some f =>
      let s := deliver pid f s
      let l := link s pid
      drainFrames pid fuel (setLink pid { l with ahead := l.ahead.filter (fun x => x.psn != f.psn),
                                                  recvNext := (l.recvNext + 1) % 2 ^ 32 } s)

/-- Everything held for a partner tried again. -/
def drainPartner (pid : Nat) (s : State) : State := drainFrames pid ((link s pid).ahead.length + 1) s

/-- A sequenced frame of the present connection: duplicates dropped, others held until their turn (R374). -/
def takeSequenced (pid : Nat) (f : Frame) (s : State) : State :=
  let l := link s pid
  if 2 ^ 31 ≤ diff32 f.psn l.recvNext || l.ahead.any (fun x => x.psn == f.psn) then drainPartner pid (countAck pid s)
  else
    let gap := if l.ahead.isEmpty then s.time else l.gapSince
    countAck pid (drainPartner pid (setLink pid { l with ahead := l.ahead ++ [f], gapSince := gap } s))

/-- A MSG of group traffic delivered in its turn from a PRESENT partner: the row that names its payload is what it does (R375).
The frame is counted on one of the partner's ports (R380). -/
def msgIn (pid : Nat) (act : State → State) (s : State) : Host.Outcome State Fault Refusal :=
  let l := link s pid
  if ptState s pid != 1 || l.ahead.any (fun f => f.psn == l.recvNext) then noEvent s
  else
    let s := setLink pid { l with recvNext := (l.recvNext + 1) % 2 ^ 32 } s
    let (s, f) := takeFree s
    let s := bumpRf (portReg (nextPort (sendPorts s pid) (Config.msgPort f % 12)) 0x18) 63 0 1 s
    done (drainPartner pid (act (countAck pid s)))

end Sys2Proof.Machine
end

