-- ==== Sys2Proof/Machine/Fabric.lean ====
section
/-! DEFINITION. Tuyere ports, HELLO, attachment and transport (spec/16_tuyere_fabric_and_groups.md R366 to R376, R380;
spec/21_bringup_test_and_quench.md R460). -/

namespace Sys2Proof.Machine

/-! ### Ports -/

/-- TUY_PORT_STAT.link is UP. -/
def portUp (s : State) (p : Nat) : Bool := rf s (portReg p 8) 63 60 == 2

/-- TUY_PORT_CTL.loop as it acts: 5 to 7 act as 0 (R380). -/
def portLoop (s : State) (p : Nat) : Nat := let l := rf s (portReg p 0) 10 8; if 4 < l then 0 else l

/-- Is a frame for this module's address (R367, R368)? -/
def frameForUs (s : State) (f : Frame) : Bool := selfId s != 0xFF && f.dst == selfId s

/-- A frame that a port has received: counted when it is for this module, else discarded and counted as foreign (R367, R380). -/
def received (p : Nat) (f : Frame) (act : State → State) (s : State) : Host.Outcome State Fault Refusal := live s <|
  if !portUp s p then noEvent s
  else if !frameForUs s f then done (satRf (portReg p 0x20) 15 0 1 s)
  else done (act (bumpRf (portReg p 0x18) 63 0 1 s))

/-- A frame of the present connection of a partner that is PRESENT (R374); under the transport loop the module's own. -/
def ofConnection (s : State) (f : Frame) : Bool :=
  pmState s f.src == 1 && f.conn == rf s (ptStat f.src) 31 0

/-! ### HELLO -/

/-- The payload of a HELLO sent on port p (R369). -/
def helloBytes (s : State) (p : Nat) : List Byte :=
  let g := s.group
  let lead := inGroup s && isLead s
  leBytes 8 Config.serial.toNat ++ leBytes 1 (selfId s) ++ leBytes 1 p
    ++ leBytes 1 (rf s (tuyReg 0) 47 47 + 2 * b2n (inGroup s) + 4 * b2n lead)
    ++ leBytes 1 g.modules ++ leBytes 1 g.self ++ leBytes 1 (if inGroup s then g.lead else 0xFF) ++ leBytes 2 1
    ++ leBytes 8 (if inGroup s then g.ggen else 0) ++ leBytes 8 (if lead then statusWord s 0 else 0) ++ leBytes 32 0

/-- A member tells its lead the status word of its module hearth when it has changed (R20, R32). [UNVERIFIED, log 68] -/
def tellLead (s : State) : State :=
  let w := statusWord s 1
  if !inGroup s || isLead s || w == s.group.told then s
  else sendMsg s.group.lead [msgStatus, w] (updGroup (fun g => { g with told := w }) s)

/-- HELLO_SEND (R369, R460): every port that is UP and not looped. -/
def execHelloSend (s : State) : Host.Outcome State Fault Refusal := live s <|
  if selfId s = 0xFF then noEvent s
  else done (overList (fun p s =>
    if portUp s p && portLoop s p == 0 then
      transmit p { ty := 0, src := selfId s, dst := 0xFF, len := 64, data := helloBytes s p } s
    else s) (List.range 12) (tellLead s))

/-- The record of a conflict (R371, R435). -/
def conflictRecord (pid : Nat) (s : State) : State :=
  faultRecord { code := 0x261, hearth := 1, src := 0xF, d0 := pid } s

/-- A second serial claims an id: the entry becomes CONFLICT, and what was outstanding ends as for a departure (R371). [DEDUCED, log 89] -/
def enterConflict (pid ser : Nat) (s : State) : State :=
  let s := depart pid false s
  let s := setLink pid { link s pid with rival := ser, rivalAt := s.time } s
  conflictRecord pid (setPtState pid 3 s)

/-- An ATTACH sent on every port that has heard the partner, under a fresh connection number (R371 step 2). -/
def sendAttach (pid : Nat) (s : State) : State :=
  let (s, f) := takeFree s
  let c := Config.connection f % 2 ^ 32
  let s := setLink pid { link s pid with asking := true, askConn := c } s
  overList (fun p s =>
    if natBit (ptPorts s pid) p then transmit p { ty := 1, src := selfId s, dst := pid, conn := c } s else s) (List.range 12) s

/-- Fields of a HELLO kept with the partner's entry (R369, R380). -/
def noteHello (p pid : Nat) (d : Nat → Nat → Nat) (s : State) : State :=
  let fl := d 10 1
  let l := { link s pid with inGroup := natBit fl 1, isLead := natBit fl 2, gmodules := d 11 1, gself := d 12 1, glead := d 13 1,
                             gproto := d 14 2, ggen := d 16 8, heard := s.time }
  let s := setRf (ptStat pid) 59 59 (b2n (natBit fl 0)) (setRf (ptStat pid) 43 32 (ptPorts s pid ||| 2 ^ p) (setLink pid l s))
  if inGroup s && !isLead s && pid == s.group.lead && l.isLead then updGroup (fun g => { g with mirror := d 24 8 }) s else s

/-- A HELLO from another module (R369 to R371); while self_id is unset it is noted and nothing is sent. [DEDUCED, log 70] -/
def helloFrom (p pid ser : Nat) (d : Nat → Nat → Nat) (s : State) : State :=
  let st := ptState s pid
  if st = 3 then
    let l := link s pid
    if ser = (rg s (ptSerial pid)).toNat then setLink pid { l with heard := s.time } s
    else setLink pid { l with rival := ser, rivalAt := s.time } s
  else if st != 0 && rg s (ptSerial pid) != 0 && ser != (rg s (ptSerial pid)).toNat then enterConflict pid ser s
  else
    let s := noteHello p pid d (setRg (ptSerial pid) (BitVec.ofNat 64 ser) s)
    if st = 1 then groupLook pid s else if selfId s = 0xFF then s else sendAttach pid s

/-- HELLO_RECEIVE (R369 to R371, R460). -/
def execHelloReceive (p : Fin 12) (f : Frame) (s : State) : Host.Outcome State Fault Refusal := live s <|
  let d (k n : Nat) : Nat := leNat ((f.data.drop k).take n)
  let ser := d 0 8
  let pid := d 8 1
  if !portUp s p.val || portLoop s p.val != 0 || pid = 0xFF then noEvent s
  else
    let s := bumpRf (portReg p.val 0x18) 63 0 1 (setRf (portReg p.val 8) 51 48 (d 9 1) (setRf (portReg p.val 8) 59 52 pid s))
    if pid = selfId s then
      (if ser = Config.serial.toNat then done s
       else
         let s := setLink pid { link s pid with rival := ser, rivalAt := s.time } s
         done (if ptState s pid = 3 then s else conflictRecord pid (setPtState pid 3 s)))
    else done (helloFrom p.val pid ser d s)

/-! ### Attachment and departure -/

/-- ATTACH (R371 step 3): where both sides ask, the lower partner id's stands. -/
def execAttach (p : Fin 12) (f : Frame) (s : State) : Host.Outcome State Fault Refusal :=
  received p.val f (fun s =>
    if 255 ≤ f.src || ptState s f.src = 3 || ptState s f.src = 4 || ((link s f.src).asking && selfId s < f.src) then s
    else
      let s := attach f.src f.conn (depart f.src true s)
      transmit p.val { ty := 2, src := selfId s, dst := f.src, conn := f.conn } s) s

/-- ATTACH_ACK (R371 step 4). -/
def execAttachAck (p : Fin 12) (f : Frame) (s : State) : Host.Outcome State Fault Refusal :=
  received p.val f (fun s =>
    let l := link s f.src
    if 255 ≤ f.src || !l.asking || l.askConn != f.conn || ptState s f.src = 3 || ptState s f.src = 4 then s
    else groupLook f.src (attach f.src f.conn (depart f.src true s))) s

/-- BYE (R372). -/
def execBye (p : Fin 12) (f : Frame) (s : State) : Host.Outcome State Fault Refusal :=
  received p.val f (fun s => if ofConnection s f && ptState s f.src == 1 then depart f.src false s else s) s

/-- PARTNER_DEPARTURE (R372): eight ticks without a HELLO. -/
def execPartnerDeparture (pid : Fin 255) (s : State) : Host.Outcome State Fault Refusal := live s <| done (depart pid.val false s)

/-- CONFLICT_EXPIRY (R371): no competing HELLO for 8 ms. -/
def execConflictExpiry (pid : Fin 255) (s : State) : Host.Outcome State Fault Refusal := live s <|
  if ptState s pid.val != 3 then noEvent s
  else if pid.val = selfId s then done (setPtState pid.val 4 (setLink pid.val {} s))
  else done (setPtState pid.val 0 (setLink pid.val {} (setRg (ptSerial pid.val) 0 s)))

/-! ### Transport -/

/-- ACK (R374). -/
def execAck (p : Fin 12) (f : Frame) (s : State) : Host.Outcome State Fault Refusal :=
  received p.val f (fun s => if ofConnection s f then drainPartner f.src (takeAck f.src f s) else s) s

/-- One unacknowledged frame sent again (R374). -/
def resend (pid : Nat) (f : Frame) (s : State) : State :=
  let l := link s pid
  let p := nextPort (sendPorts s pid) l.port
  let again (x : Frame) : Frame := if x.psn = f.psn then { x with sent := s.time, again := true } else x
  let s := setLink pid { l with port := p, unacked := l.unacked.map again } s
  transmit p { f with sent := s.time, again := true, ack := l.recvNext } (bumpRf (ptCnt pid) 63 32 1 s)

/-- What a NAK with status 1 ends: the command whose frame named an address the partner does not have (R93, R375). -/
def addressNak (pid psn : Nat) (s : State) : State :=
  let at_ (l : List Frame) : Nat := match l.find? (fun f => f.psn == psn) with | some f => f.addr | none => 0
  let a := pid * 2 ^ 48 + at_ (link s pid).unacked
  let s := overList (fun k s => chanFault (k / 64) (k % 64) stAddress a s)
    ((s.chans.filter (fun e => e.2.busy && (e.2.pmOut.any (fun q => q.2.1 == pid && q.2.2 == psn)
      || e.2.asked.any (fun r => r.pid == pid && r.psn == psn)))).map (·.1)) s
  let flags := s.pmWait.filter (fun w => w.pid == pid && w.psn == psn)
  let s := { s with pmWait := s.pmWait.filter (fun w => !(w.pid == pid && w.psn == psn)) }
  overList (fun w s =>
    let s := faultRecord { code := stAddress, hearth := consumerHearth (queue s w.qid), tag := w.tag, src := 0xE, addr := a, qid := w.qid } s
    journal w.qid w.idx w.tag { state := 0, status := stAddress } s) flags s

/-- NAK (R374, R375): status 0 names a missing psn, which is sent again; status 1 an address fault. -/
def execNak (p : Fin 12) (f : Frame) (s : State) : Host.Outcome State Fault Refusal :=
  received p.val f (fun s =>
    if !ofConnection s f then s
    else
      let s := if f.status = 1 then addressNak f.src f.addr s else takeAck f.src f s
      if f.status = 1 then takeAck f.src f s
      else match (link s f.src).unacked.find? (fun x => x.psn == f.addr) with
        | some x => resend f.src x s
        | none => s) s

/-- A sequenced frame received: its acknowledgement taken, then held, dropped or performed in psn order (R374, R375). [DEDUCED, log 71] -/
def sequenced (p : Nat) (ty : Nat) (f : Frame) (s : State) : Host.Outcome State Fault Refusal :=
  received p f (fun s => if ofConnection s f then takeSequenced f.src { f with ty := ty } (takeAck f.src f s) else s) s

/-- WRITE, READ_REQ, READ_RSP, FLAG (R373 to R375). -/
def execWrite (p : Fin 12) (f : Frame) (s : State) : Host.Outcome State Fault Refusal := sequenced p.val 8 f s
def execReadReq (p : Fin 12) (f : Frame) (s : State) : Host.Outcome State Fault Refusal := sequenced p.val 9 f s
def execReadRsp (p : Fin 12) (f : Frame) (s : State) : Host.Outcome State Fault Refusal := sequenced p.val 0xA f s
def execFlag (p : Fin 12) (f : Frame) (s : State) : Host.Outcome State Fault Refusal := sequenced p.val 0xB f s

/-- RETRANSMIT_TIMEOUT (R374): the frame unacknowledged for longest has waited 50 µs. -/
def execRetransmitTimeout (pid : Fin 255) (s : State) : Host.Outcome State Fault Refusal := live s <|
  let l := (link s pid.val).unacked
  match l.find? (fun f => l.all (fun g => decide (f.sent ≤ g.sent))) with
  | some f => if pmState s pid.val = 1 then done (resend pid.val f s) else noEvent s
  | none => noEvent s

/-- ACK_TIMER (R374). -/
def execAckTimer (pid : Fin 255) (s : State) : Host.Outcome State Fault Refusal := live s <|
  if pmState s pid.val != 1 then noEvent s
  else
    let s := drainPartner pid.val s
    done (if (link s pid.val).sinceAck = 0 then s else sendAck pid.val s)

/-- NAK_TIMER (R374): a gap has persisted for 8 µs. -/
def execNakTimer (pid : Fin 255) (s : State) : Host.Outcome State Fault Refusal := live s <|
  if pmState s pid.val != 1 then noEvent s
  else
    let s := drainPartner pid.val s
    let l := link s pid.val
    done (if l.ahead.isEmpty || l.ahead.any (fun f => f.psn == l.recvNext) then s
          else sendNak pid.val l.recvNext 0 (setLink pid.val { l with gapSince := s.time } s))

/-! ### Ports and controls -/

/-- No partner is heard on a port that is not UP (R371, R372). -/
def forgetPort (p : Nat) (s : State) : State :=
  overList (fun pid s =>
    if natBit (ptPorts s pid) p then setRf (ptStat pid) 43 32 (ptPorts s pid - 2 ^ p) s else s) (List.range 255) s

/-- PORT_LINK_CHANGE (R372, R380): 0 DOWN, 1 TRAINING, 2 UP, 3 FAULT. -/
def execPortLinkChange (p : Fin 12) (link : Fin 4) (s : State) : Host.Outcome State Fault Refusal := live s <|
  if rf s (portReg p.val 0) 0 0 = 0 then noEvent s
  else
    let s := setRf (portReg p.val 8) 63 60 link.val s
    done (if link.val = 2 then s else forgetPort p.val s)

/-- A write of TUY_PORT_CTL (R372, R380). -/
def portWrite (p : Nat) (v : Word) (s : State) : State :=
  let was := rf s (portReg p 0) 0 0 == 1
  let en := fieldOf v 0 0 == 1
  let s := if was && !en then
      overList (fun pid s => if ptPorts s pid == 2 ^ p then sendBye p pid s else s) (presentPids s) s
    else s
  let s := setRf (portReg p 0) 10 8 (fieldOf v 10 8) (setRf (portReg p 0) 5 4 (fieldOf v 5 4) (setRf (portReg p 0) 0 0 (b2n en) s))
  if was && !en then forgetPort p (setRf (portReg p 8) 63 60 0 s)
  else if en && !was then setRf (portReg p 8) 63 60 1 s
  else s

/-- PORT_ENABLE_WRITE. -/
def execPortEnableWrite (p : Fin 12) (v : Word) (s : State) : Host.Outcome State Fault Refusal := liveWrite s <| done (portWrite p.val v s)

/-- A write of TUY_CTL (R369, R380): ignored while a port is enabled or the module is in a group. -/
def tuyCtlWrite (v : Word) (s : State) : State :=
  if inGroup s || (List.range 12).any (fun p => rf s (portReg p 0) 0 0 == 1) then s
  else
    let old := selfId s
    let new := fieldOf v 55 48
    let s := setRf (tuyReg 0) 55 43 (fieldOf v 55 43) (setRf (tuyReg 0) 39 28 (fieldOf v 39 28) s)
    if old = new then s
    else
      let s := if old = 0xFF then s else setLink old {} (setRg (ptStat old) 0 s)
      if new = 0xFF then s else setLink new {} (setPtState new 4 (setRg (ptSerial new) 0 (setRg (ptStat new) 0 s)))

/-- TUY_CTL_WRITE. -/
def execTuyCtlWrite (v : Word) (s : State) : Host.Outcome State Fault Refusal := liveWrite s <| done (tuyCtlWrite v s)

/-- FOREIGN_FRAME (R367, R373, R380): kind 0 a bad FCS, 1 an uncorrectable FEC codeword, 2 any other frame that is discarded. -/
def execForeignFrame (p : Fin 12) (kind : Fin 3) (s : State) : Host.Outcome State Fault Refusal := live s <|
  if !portUp s p.val then noEvent s
  else match kind.val with
    | 0 => done (satRf (portReg p.val 0x20) 63 32 1 s)
    | 1 => done (satRf (portReg p.val 0x20) 31 16 1 s)
    | _ => done (satRf (portReg p.val 0x20) 15 0 1 s)

end Sys2Proof.Machine
end

