-- ==== Sys2Proof/Machine/Spark.lean ====
section
/-! DEFINITION. Spark: sampling and its exchange across a group (spec/13_sampling_and_speculation.md R313 to R322), and the exchange
of row anchors (spec/03_anchored_accumulation_and_determinism.md R71). -/

namespace Sys2Proof.Machine

/-! ### The pipeline over (id, logit) pairs -/

/-- An id with its logit, as code and as value. -/
structure Logit where
  id   : Nat
  code : Nat
  val  : ExNum

/-- Key order (R316): descending logit, ascending id among equals. -/
def keyBefore (a b : Logit) : Bool := numLt b.val a.val || (!numLt a.val b.val && decide (a.id < b.id))

/-- A list put in key order. -/
def keySort (l : List Logit) : List Logit :=
  l.foldl (fun acc x => acc.takeWhile (fun y => keyBefore y x) ++ [x] ++ acc.dropWhile (fun y => keyBefore y x)) []

/-- -infinity. -/
def numNegInf : ExNum := .inf true

/-- The largest logit. -/
def maxLogit (l : List Logit) : ExNum := l.foldl (fun m x => if numLt m x.val then x.val else m) numNegInf

/-- r = 1 / T in FP32; 1 under greedy (R316, R319). -/
def sparkR (temp : Nat) : ExNum := if temp = 0 then numOfInt 1 else roundFp32 (numDiv (numOfInt 1) (elemValue .fp32 temp))

/-- W of a logit (R316). -/
def sparkW (m r x : ExNum) : Nat :=
  match x with
  | .inf true => 0
  | _ => match roundFp32 (expValue (numMul (numAdd x (numFlip m)) r)) with
    | .fin neg num den exp => (numFloorAt neg num den (exp + 96)).toNat
    | _ => 0

/-- The shortest prefix whose sum of W times 2^24 reaches a threshold; all of it when none does (R317). -/
def topPrefix (limit : Nat) : Nat → List (Nat × Nat) → List (Nat × Nat)
  | _, [] => []
  | sum, c :: t => if limit ≤ (sum + c.2) * 2 ^ 24 then [c] else c :: topPrefix limit (sum + c.2) t

/-- The first (id, W) at which the running sum exceeds U (R318). -/
def runningPick (u : Nat) : Nat → List (Nat × Nat) → Option (Nat × Nat)
  | _, [] => none
  | sum, c :: t => if u < sum + c.2 then some c else runningPick u (sum + c.2) t

/-- Fields of a sampler block (R315). -/
def sbTemp (b : List Byte) : Nat := bytesAt b 0 4
def sbK (b : List Byte) : Nat := let k := bytesAt b 4 2; if k = 0 then 1024 else k
def sbDraw (b : List Byte) : Nat := bytesAt b 6 1
def sbTp (b : List Byte) : Nat := bytesAt b 8 4
def sbMp (b : List Byte) : Nat := bytesAt b 12 4

/-- The draw of R320. -/
def sparkDraw (k0 k1 pos d : Nat) : Nat :=
  let m := 2 ^ 64
  let c := mix64 ((pos * 0x9E3779B97F4A7C15 + d * 2 ^ 56) % m)
  mix64 ((mix64 (c ^^^ k0) + k1) % m)

/-- Token and FP32 code of its probability from the candidates in key order with their W, and S (R317 to R319). -/
def sparkChoose (b : List Byte) (u sum : Nat) (cands : List (Nat × Nat)) : Nat × Nat :=
  let prob (w : Nat) : Nat := (convert .fp32 true .rne (.fin false w (max 1 sum) 0)).1
  if sbTemp b = 0 then
    match cands with
    | c :: _ => (c.1, prob c.2)
    | [] => (0, 0)
  else
    let l := cands.take (sbK b)
    let l := l.takeWhile (fun c => decide (sbMp b * 2 ^ 96 ≤ c.2 * 2 ^ 24))
    let l := topPrefix (sbTp b * sum) 0 l
    let total := l.foldl (fun a c => a + c.2) 0
    match runningPick (u * total / 2 ^ 64) 0 l with
    | some c => (c.1, prob c.2)
    | none => (0, 0)

/-! ### A row -/

/-- A row of the step in flight. -/
def stepRow (s : State) (row : Nat) : Option StepRow := if s.prefen.step.on then s.prefen.step.rows[row]? else none
/-- The step's row replaced. -/
def setStepRow (row : Nat) (r : StepRow) (s : State) : State :=
  updPrefen (fun p => { p with step := { p.step with rows := setNth p.step.rows row r } }) s

/-- The slice of the vocabulary that member g holds (R322). -/
def vocabSlice (s : State) : Nat × Nat :=
  let v := s.prefen.build.vocab
  let vs := ceilDiv v (max 1 s.group.modules)
  (min v (s.group.self * vs), min v ((s.group.self + 1) * vs))

/-- A Spark unit's entry for a row and position. [DEDUCED, log 145] -/
def sparkAt (s : State) (row j : Nat) : Option SparkRow := s.prefen.sparks.find? (fun r => r.row == row && r.j == j)
def setSpark (r : SparkRow) (s : State) : State :=
  updPrefen (fun p => { p with sparks := (p.sparks.filter (fun x => !(x.row == r.row && x.j == r.j))) ++ [r] }) s
def dropSpark (r : SparkRow) (s : State) : State :=
  updPrefen (fun p => { p with sparks := p.sparks.filter (fun x => !(x.row == r.row && x.j == r.j)) }) s

/-- Spark as agent (R487). -/
def sparkWho (tag : Nat) : Who := ⟨0xD, tag, true⟩

/-- The logits of a slice as read, and whether any is poisoned (R313, R321). -/
def readLogits (r : SparkRow) (tag : Nat) (s : State) : State × List Logit × Bool :=
  let (lo, hi) := vocabSlice s
  let f := (fmtOf r.fmt).getD .fp32
  let n := fmtBits f / 8
  let (s, l) := memRead (sparkWho tag) false r.space r.addr (n * (hi - lo)) s
  let s := latchFound (sparkWho tag) s
  let code (k : Nat) : Nat := leNat (((l.drop (n * k)).take n).map (·.1))
  (s, (List.range (hi - lo)).map (fun k =>
    ⟨lo + k, (convert .fp32 true .rne (elemValue f (code k))).1, elemValue f (code k)⟩), l.any (·.2))

/-- ANV_SPK_CNT of a Spark unit (R329): a row sampled, or a row ended by R321 order 2. -/
def countSpark (r : SparkRow) (invalid : Bool) (s : State) : State :=
  if 4 ≤ r.unit then s
  else if invalid then satRf (anvReg r.anvil (0x400 + 8 * r.unit)) 31 16 1 s
  else bumpRf (anvReg r.anvil (0x400 + 8 * r.unit)) 63 32 1 s

/-- The row ends without a token: a NaN or +infinity among its logits, or all of them -infinity (R321 order 2). -/
def invalidRow (r : SparkRow) (s : State) : State :=
  match stepRow s r.row with
  | none => s
  | some x =>
    let s := countSpark r true (dropSpark r (setStepRow r.row { x with invalid := true } s))
    if !isLead s || x.invalid then s
    else faultRecord { code := 0x290, hearth := prefenHearth s, tag := x.req, src := 0xD } s

/-- Token and probability written to the DB of the unit's Anvil (R313), and kept for the commit. -/
def returnToken (r : SparkRow) (tok prob : Nat) (s : State) : State :=
  match stepRow s r.row with
  | none => s
  | some x =>
    let s := memWrite { sparkWho x.req with compute := false } 2 r.dest (cleanBytes (leBytes 4 tok ++ leBytes 4 prob)) s
    countSpark r false (dropSpark r (setStepRow r.row { x with toks := (x.toks.filter (fun t => t.1 != r.j)) ++ [(r.j, tok)] } s))

/-- Position that the sampled token will occupy (R320, R324). -/
def samplePos (x : StepRow) (j : Nat) : Nat := x.len + x.chunk + j

/-- A poisoned logit taints the step (R321 order 1, R440). -/
def taintStep (r : SparkRow) (s : State) : State :=
  updPrefen (fun p => { p with step := { p.step with tainted := true,
                                                     origins := p.step.origins ++ [(s.group.self, r.space, r.addr, false)] } }) s
/-- The row with the poisoned logit ends there. -/
def taintRow (r : SparkRow) (s : State) : State := taintStep r (dropSpark r s)

/-- Sampling on a module outside any group (R316 to R321). -/
def sampleAlone (r : SparkRow) (x : StepRow) (l : List Logit) (s : State) : State :=
  let m := maxLogit l
  let rr := sparkR (sbTemp x.sblock)
  let ws := l.map (fun y => sparkW m rr y.val)
  let sum := ws.foldl (· + ·) 0
  let sorted := (keySort l).take 1024
  let cands := (sorted.map (fun y => (y.id, sparkW m rr y.val))).filter (fun c => c.2 != 0)
  let (tok, prob) := sparkChoose x.sblock (sparkDraw x.k0 x.k1 (samplePos x r.j) (sbDraw x.sblock)) sum cands
  returnToken r tok prob s

/-- A logit of which R321 order 2 says that the row is invalid: NaN or +infinity. -/
def badLogit (y : Logit) : Bool := match y.val with | .nan => true | .inf false => true | _ => false

/-- Every member of the group has sent this value. -/
def allIn (s : State) (l : List Nat) : Bool := (List.range s.group.modules).all (fun g => l.contains g)

/-- The token chosen from every member's candidates, in increasing group.self (R322 step 6). -/
def chooseShared (r : SparkRow) (s : State) : State :=
  match stepRow s r.row with
  | none => s
  | some x =>
    let order := (List.range s.group.modules).filterMap (fun g => r.sums.find? (fun e => e.1 == g))
    let sum := order.foldl (fun a e => a + e.2.1) 0
    let l := order.flatMap (fun e => e.2.2.map (fun c => (⟨c.1, c.2, elemValue .fp32 c.2⟩ : Logit)))
    let m := r.maxes.foldl (fun m e => let v := elemValue .fp32 e.2.1; if numLt m v then v else m) numNegInf
    let rr := sparkR (sbTemp x.sblock)
    let cands := ((keySort l).map (fun y => (y.id, sparkW m rr y.val))).filter (fun c => c.2 != 0)
    let (tok, prob) := sparkChoose x.sblock (sparkDraw x.k0 x.k1 (samplePos x r.j) (sbDraw x.sblock)) sum cands
    returnToken r tok prob s

/-- Second pass of a member once every maximum is in, and the choice once every candidate list is (R322 steps 3 to 6). -/
def sparkProgress (r : SparkRow) (s : State) : State :=
  if 4 ≤ r.unit || !allIn s (r.maxes.map (·.1)) then setSpark r s
  else
    let m := r.maxes.foldl (fun m e => let v := elemValue .fp32 e.2.1; if numLt m v then v else m) numNegInf
    let dead := match m with | .inf _ => true | _ => false
    if r.maxes.any (fun e => e.2.2) || dead then invalidRow r s
    else match stepRow s r.row with
      | none => s
      | some x =>
        let (s, r) :=
          if r.second then (s, r)
          else
            let (s, l, poisoned) := readLogits r x.req s
            let s := if poisoned then taintStep r s else s
            let rr := sparkR (sbTemp x.sblock)
            let sum := (l.map (fun y => sparkW m rr y.val)).foldl (· + ·) 0
            let cands := ((keySort l).filter (fun y => sparkW m rr y.val != 0)).take (sbK x.sblock)
            let mine := (s.group.self, sum, cands.map (fun y => (y.id, y.code)))
            let s := tellMembers ([msgSparkCand, r.row, r.j, sum] ++ cands.flatMap (fun y => [y.id, y.code])) s
            (s, { r with second := true, sums := r.sums ++ [mine] })
        if allIn s (r.sums.map (·.1)) then chooseShared r s else setSpark r s

/-- A format that Spark reads: FP32, BF16 or FP16 (R68, R313). -/
def sparkFmt (fmt : Nat) : Bool := match fmtOf fmt with | some f => f = .fp32 || f = .bf16 || f = .fp16 | none => false

/-- May Spark read these logits, in the DB of its Anvil or in the CB of one of that Anvil's sites, and write its result (R313)? -/
def sparkReach (s : State) (a space addr fmt dest : Nat) : Bool :=
  let (lo, hi) := vocabSlice s
  rangeOk 2 dest 8 && dest / 2 ^ 32 == a && dest % 4 == 0 && ((space == 2 && addr / 2 ^ 32 == a) || (space == 3 && addr / 2 ^ 32 / 5 == a))
    && rangeOk space addr (fmtBits ((fmtOf fmt).getD .fp32) / 8 * (hi - lo))

/-- Does a Spark unit have a row in hand? It handles one at a time, in its order (R102, R314). -/
def sparkBusy (s : State) (a u : Nat) : Bool := s.prefen.sparks.any (fun r => r.anvil == a && r.unit == u)

/-- SPARK_SAMPLE (R35, R68, R313 to R322): unit `u` of Anvil a takes position j of a row of the step; where its logits lie and where
the token goes are the build's. One that names a format Spark does not read is rejected with the DESCRIPTOR fault before any work. -/
def execSparkSample (a u : Fin 4) (row : Nat) (j : Fin 8) (space : Fin 16) (addr : Nat) (fmt : Fin 16) (dest : Nat) (s : State) :
    Host.Outcome State Fault Refusal := live s <|
  match stepRow s row with
  | none => noEvent s
  | some x =>
    if stoppedAt s (hxAnvil a.val) || sparkBusy s a.val u.val || !x.samples || x.invalid || x.drafts.length < j.val || x.toks.any (fun t => t.1 == j.val)
      then noEvent s
    else if !sparkFmt fmt.val then
      done (faultRecord { code := stDescriptor, hearth := hxAnvil a.val, tag := x.req, src := 0xD } s)
    else if !sparkReach s a.val space.val addr fmt.val dest then noEvent s
    else
      let old := sparkAt s row j.val
      match old with
      | some o => if o.unit < 4 then noEvent s else
          done (sparkBegin o x s)
      | none => done (sparkBegin { anvil := a.val, unit := 4, row := row, j := j.val, space := 0, addr := 0, fmt := 0, dest := 0 } x s)
where
  /-- The first pass of the unit (R314, R321, R322 steps 1 and 2). -/
  sparkBegin (o : SparkRow) (x : StepRow) (s : State) : State :=
    let r := { o with anvil := a.val, unit := u.val, space := space.val, addr := addr, fmt := fmt.val, dest := dest }
    let (s, l, poisoned) := readLogits r x.req s
    if poisoned then taintRow r s
    else if !inGroup s then
      (if l.any badLogit || l.all (fun y => match y.val with | .inf _ => true | _ => false) then invalidRow r s
       else sampleAlone r x l s)
    else
      let bad := l.any badLogit
      let m := (convert .fp32 true .rne (maxLogit l)).1
      let s := tellMembers [msgSparkMax, row, j.val, m, b2n bad] s
      sparkProgress { r with maxes := r.maxes ++ [(s.group.self, m, bad)] } s

/-- The entry that a message of another member is for; one not yet begun where this module's unit has yet to start. -/
def sparkFor (s : State) (row j : Nat) : SparkRow :=
  (sparkAt s row j).getD { anvil := 0, unit := 4, row := row, j := j, space := 0, addr := 0, fmt := 0, dest := 0 }

/-- SPARK_MAX_EXCHANGE (R322 steps 2 and 3). -/
def execSparkMaxExchange (pid : Fin 255) (row : Nat) (j : Fin 8) (m : BitVec 32) (invalid : Bool) (s : State) :
    Host.Outcome State Fault Refusal := live s <|
  msgIn pid.val (fun s =>
    match positionOf s pid.val with
    | none => s
    | some g =>
      let r := sparkFor s row j.val
      if !s.prefen.step.on || r.maxes.any (fun e => e.1 == g) then s
      else sparkProgress { r with maxes := r.maxes ++ [(g, m.toNat, invalid)] } s) s

/-- SPARK_CANDIDATE_EXCHANGE (R322 steps 5 and 6). -/
def execSparkCandidateExchange (pid : Fin 255) (row : Nat) (j : Fin 8) (sum : BitVec 128) (cands : List (Nat × Nat)) (s : State) :
    Host.Outcome State Fault Refusal := live s <|
  msgIn pid.val (fun s =>
    match positionOf s pid.val with
    | none => s
    | some g =>
      let r := sparkFor s row j.val
      if !s.prefen.step.on || r.sums.any (fun e => e.1 == g) then s
      else sparkProgress { r with sums := r.sums ++ [(g, sum.toNat, cands)] } s) s

/-- The exchange of a row's anchor, begun by whoever is first. -/
def anchorAt (s : State) (key : Nat) : AnchorRow := (s.prefen.anchors.find? (fun r => r.key == key)).getD { key := key }

/-- The greater of two signed 16-bit anchors; 0x8000, of a part with no bounded block, is the least. -/
def anchorMax (a b : Nat) : Nat := if signedOf 16 a < signedOf 16 b then b else a

/-- A row's exchange goes on: once every member's maximum is in, the overall maximum stands where this module's programs take it
from, and the exchange is over (R71). -/
def anchorProgress (r : AnchorRow) (s : State) : State :=
  let rest := s.prefen.anchors.filter (fun x => x.key != r.key)
  match r.place with
  | some (space, addr) =>
    if allIn s (r.vals.map (·.1)) then
      memWriteNat smithWho space addr 2 ((r.vals.map (·.2)).foldl anchorMax 0x8000) (updPrefen (fun p => { p with anchors := rest }) s)
    else updPrefen (fun p => { p with anchors := rest ++ [r] }) s
  | none => updPrefen (fun p => { p with anchors := rest ++ [r] }) s

/-- ANCHOR_EXCHANGE (R71): the maximum that a hearth found for a row over its own part of a split axis. This module's own goes to
every other member, and names where the overall maximum is wanted; a partner's comes in a message. [DEDUCED, log 171] -/
def execAnchorExchange (src : AnchorSource) (key : Nat) (anchor : BitVec 16) (s : State) :
    Host.Outcome State Fault Refusal := live s <|
  match src with
  | .partner pid => msgIn pid.val (fun s =>
      match positionOf s pid.val with
      | none => s
      | some g =>
        let r := anchorAt s key
        if r.vals.any (fun e => e.1 == g) then s else anchorProgress { r with vals := r.vals ++ [(g, anchor.toNat)] } s) s
  | .own space addr =>
    let r := anchorAt s key
    if r.place.isSome || !(1 ≤ space.val && space.val ≤ 3) || !rangeOk space.val addr 2 then noEvent s
    else
      let s := tellMembers [msgAnchor, key, anchor.toNat] s
      done (anchorProgress { r with vals := r.vals ++ [(s.group.self, anchor.toNat)], place := some (space.val, addr) } s)

end Sys2Proof.Machine
end

