-- ==== Sys2Proof/Machine/Parking.lean ====
section
/-! DEFINITION. Park, resume, close, export and import (spec/14_parking_and_ingots.md R330 to R342; R362), and the billet CRC engine of
a stack site (R332, R334). -/

namespace Sys2Proof.Machine

/-! ### Session commands in hand -/

/-- The number under which a command that is not async is kept while it waits: its queue tag, or one beyond every tag. -/
def callerKey : Caller → Nat
  | .mailbox m => 2 ^ 32 + m
  | .queue _ _ t => t

/-- A session command that waits for a condition or for members. -/
def holdOp (c : Caller) (op : Nat) (w : List Nat) (accepted : Bool) (awaits : List Nat) (s : State) : State :=
  updPrefen (fun p => { p with ops := p.ops ++ [{ op := op, tag := callerKey c, words := w, awaits := awaits, caller := some c,
                                                  accepted := accepted }] }) s

/-- Session of an operation: payload word 0 [31:0] (R362). -/
def opSession (o : AsyncOp) : Nat := natBits (nth o.words 0 0) 31 0

/-- An export or import of a session is in progress. -/
def moving (s : State) (sid : Nat) : Bool := s.prefen.ops.any (fun o => (o.op == 0x16 || o.op == 0x17) && opSession o == sid)

/-- Any operation on a session is in hand. -/
def sessionOps (s : State) (sid : Nat) : Bool :=
  s.prefen.ops.any (fun o => 0x13 ≤ o.op && o.op ≤ 0x17 && opSession o == sid)

/-! ### Park -/

/-- PARK (R335, R342): taken, and accepted at the first point that allows it. -/
def execPark (src : CmdSrc) (s : State) : Host.Outcome State Fault Refusal := prefenRow s fun s =>
  eitherCmd src 0x13 (fun c w s =>
    let sid := natBits (nth w 0 0) 31 0
    match session s sid with
    | none => refuse c stSessionUnknown s
    | some x => if x.parked then answer c 2 0 0 false s else holdOp c 0x13 w false [] s) s

/-- Requests of a session that are not terminal become HELD (R292, R335 step 1). [DEDUCED, log 96] -/
def holdRequests (sid : Nat) (s : State) : State :=
  updPrefen (fun p => { p with requests := p.requests.map (fun r =>
    if r.session = sid && !terminal r && r.state != 4 then { r with before := r.state, state := 4 } else r) }) s

/-- The lead's ingot, which commits the park, and the answer (R335 steps 5 and 6). -/
def parkCommit (o : AsyncOp) (s : State) : State :=
  let sid := opSession o
  let s := updPrefen (fun p => { p with ops := p.ops.filter (fun x => x.tag != o.tag) }) s
  let s := holdRequests sid (setSession { sessionD s sid with parked := true, parking := false, modules := s.group.modules } s)
  let s := writeIngot sid (heldOf s sid) s
  match o.caller with
  | some c => answer c 2 0 1 false s
  | none => s

/-- PARK_ACCEPT (R335): no step, seal or cancel of the session is pending. -/
def execParkAccept (sid : BitVec 32) (s : State) : Host.Outcome State Fault Refusal := prefenRow s fun s =>
  match s.prefen.ops.find? (fun o => o.op == 0x13 && !o.accepted && opSession o == sid.toNat) with
  | none => noEvent s
  | some o =>
    if !prefenReady s || !groupFree s || inStep s sid.toNat
      || s.prefen.cancels.any (fun c => (requestsOf s sid.toNat).any (fun r => r.tag == c.target)) then noEvent s
    else match session s sid.toNat with
      | none =>
        let s := updPrefen (fun p => { p with ops := p.ops.filter (fun x => x.tag != o.tag) }) s
        done (match o.caller with | some c => refuse c stSessionUnknown s | none => s)
      | some x =>
        if x.parked then
          let s := updPrefen (fun p => { p with ops := p.ops.filter (fun y => y.tag != o.tag) }) s
          done (match o.caller with | some c => answer c 2 0 0 false s | none => s)
        else
          let s := holdRequests sid.toNat (setSession { x with parking := true } s)
          let o := { o with accepted := true, awaits := memberPositions s }
          let s := setOp o s
          done (if o.awaits.isEmpty then parkCommit o s else tellMembers [msgPark, o.tag, sid.toNat, x.len, x.step] s)

/-- PARK_FORWARD (R335 steps 3 and 4): a member writes its ingot and acknowledges. -/
def execParkForward (tag : Nat) (sid : BitVec 32) (len step : Nat) (held : Option Request) (s : State) :
    Host.Outcome State Fault Refusal := prefenRow s fun s =>
  if isLead s then noEvent s
  else msgIn s.group.lead (fun s =>
    match session s sid.toNat with
    | none => sendMsg s.group.lead [msgAck, tag, stSessionUnknown] s
    | some x =>
      let s := sealDue sid.toNat (setSession { x with len := len, step := step, modules := s.group.modules } s)
      let s := setSession { sessionD s sid.toNat with parked := true } s
      sendMsg s.group.lead [msgAck, tag, 0] (writeIngot sid.toNat held s)) s

/-! ### Resume and close -/

/-- Does this member's ingot pass its checks (R331, R337 check 3)? -/
def ingotPasses (x : Session) (s : State) : State × Bool :=
  let (s, l) := smithLoad (slotAt s x.slot) 512 s
  let b := l.map (·.1)
  let word := bytesAt b 504 8
  (s, !l.any (·.2) && bytesAt b 4 1 == 2 && word / 2 ^ 32 != 0 && word % 2 ^ 32 == crc32 (b.take 504) && bytesAt b 76 4 == sealedCount x
    && bytesAt b 88 4 == x.billets.length - sealedCount x)

/-- A parked session back in service (R337). -/
def resumeSession (sid : Nat) (s : State) : State :=
  let x := sessionD s sid
  let s := setSlotState x.slot 1 (setSession { x with parked := false, build := s.prefen.build.id } s)
  updPrefen (fun p => { p with requests := p.requests.map (fun r =>
    if r.session = sid && r.state = 4 then { r with state := r.before } else r) }) s

/-- A group command of the lead with a share on every member is committed when all have committed theirs; elsewhere at once (R32). -/
def shareOut (c : Caller) (op : Nat) (w : List Nat) (act : State → State) (s : State) : State :=
  if (memberPositions s).isEmpty then answer c 2 0 1 false (act s)
  else tellMembers ([msgForward, callerKey c, op] ++ w) (holdOp c op w true (memberPositions s) s)

/-- First failure of the checks of R337, 0 if none. -/
def resumeStatus (s : State) (x : Session) (ingotOk rebuild : Bool) : Nat :=
  if !x.parked then stNotParked
  else if moving s x.id then stSessionBusy
  else if !ingotOk then stIngotBad
  else if x.build != s.prefen.build.id && !rebuild then stBuildMismatch
  else if x.modules != s.group.modules then stGroupMismatch
  else 0

/-- RESUME (R337). -/
def execResume (src : CmdSrc) (s : State) : Host.Outcome State Fault Refusal := prefenRow s fun s =>
  eitherCmd src 0x14 (fun c w s =>
    let sid := natBits (nth w 0 0) 31 0
    match session s sid with
    | none => refuse c stSessionUnknown s
    | some x =>
      let (s, ok) := if x.parked && !moving s sid then ingotPasses x s else (s, true)
      let st := resumeStatus s x ok (natBit (nth w 0 0) 32)
      if st != 0 then refuse c st s else shareOut c 0x14 w (resumeSession sid) s) s

/-- CLOSE (R362, R342). -/
def execClose (src : CmdSrc) (s : State) : Host.Outcome State Fault Refusal := prefenRow s fun s =>
  eitherCmd src 0x15 (fun c w s =>
    let sid := natBits (nth w 0 0) 31 0
    match session s sid with
    | none => refuse c stSessionUnknown s
    | some x =>
      if sessionOps s sid || !(requestsOf s sid).isEmpty then refuse c stSessionBusy s
      else shareOut c 0x15 w (closeSession sid) (setSession { x with closing := true } s)) s

/-! ### Images -/

/-- Bytes written by a Hood Tongs channel for Prefen, to SM, HM or a partner (R339). -/
def imageWrite (space a : Nat) (l : List PByte) (s : State) : State :=
  if space = 6 then
    overList (fun p s =>
      let bytes := (l.drop (p.1 - a)).take p.2
      sendSeq (a / 2 ^ 48 % 256) { ty := 8, addr := p.1 % 2 ^ 44, len := p.2, pmap := pmapOf p.1 bytes, data := bytes.map (·.1) } s)
      (pmRun a l.length) s
  else hoodWrite space a l s

/-- Bytes read of an image: of this module's SM or of HM; of a partner's memory as `far` gives them. [DEDUCED, log 92] -/
def imageRead (far : List Byte) (space a off n : Nat) (s : State) : State × List PByte :=
  if space = 6 then (s, cleanBytes ((List.range n).map (fun k => nth far (off + k) 0)))
  else hoodRead space (a + off) n s

/-- R of R338. -/
def recordSize (d : Nat) : Nat := 64 * ceilDiv (64 + 1024 * d) 64

/-- Prompt bytes of an image, padded (R338). -/
def promptBytes (n : Nat) : Nat := 64 * ceilDiv (4 * n) 64

/-- Offset of a billet's record (R338). -/
def recordOff (b : Build) (prompt nb layer head index : Nat) : Nat :=
  1024 + promptBytes prompt + ((layer * b.heads + head) * nb + index) * recordSize b.d

/-- Bytes of an image in all (R338). -/
def imageBytes (b : Build) (prompt nb : Nat) : Nat := recordOff b prompt nb b.layers 0 0

/-- Prompt tokens that an image carries. -/
def heldPrompt (held : Option Request) : Nat := match held with | some r => r.promptLeft | none => 0

/-- Steps 2 and 3 of R339 for the billets of this member: XORs of contributions and counts, sealed then open. -/
def exportShare (sid space addr prompt : Nat) (s : State) : State × Nat × Nat × Nat × Nat :=
  let x := sessionD s sid
  let b := s.prefen.build
  let nb := billetsFor x.len
  let (s, l) := collect (fun (y : Billet) s =>
    let (s, c) : State × Nat :=
      if y.isSealed then (s, 0)
      else
        let (s, crc) := billetCrc y.base b.d s
        match crc with
        | some c => (s, contribution y.layer (globalHead s y.head) b.fmt y.index b.d c)
        | none => (s, 0)
    let (s, bytes) := billetRead (hoodRead 4) y.base (64 + 1024 * b.d) s
    let (s, crc) := if y.isSealed then (s, none) else billetCrc y.base b.d s
    let bytes := match crc with
      | some c => bytes.take 24 ++ cleanBytes (leBytes 8 c) ++ bytes.drop 32
      | none => bytes
    let pad := cleanBytes (leBytes (recordSize b.d - (64 + 1024 * b.d)) 0)
    (imageWrite space (addr + recordOff b prompt nb y.layer (globalHead s y.head) y.index) (bytes ++ pad) s, c)) x.billets s
  let nS := sealedCount x
  (s, x.sealedCrc, l.foldl (· ^^^ ·) 0, nS, x.billets.length - nS)

/-- Why an EXPORT is refused, 0 if it is not (R339). -/
def exportStatus (s : State) (x : Session) (w : List Nat) : Nat :=
  let space := natBits (nth w 2 0) 63 60
  let a := nth w 1 0
  let need := imageBytes s.prefen.build (heldPrompt (heldOf s x.id)) (billetsFor x.len)
  if !x.parked then stNotParked
  else if 1 < ((requestsOf s x.id).filter (fun r => !terminal r)).length || sessionOps s x.id then stSessionBusy
  else if !(space == 4 || space == 5 || space == 6) || nth w 3 0 < need || !addrOk s space a need then stBadParam
  else if (space == 5 && natBit (nth w 2 0) 59) || (space == 6 && noRead s (a / 2 ^ 48 % 256)) then stBadParam
  else 0

/-- EXPORT (R339 steps 1 to 3). [DEDUCED, log 178] -/
def execExport (src : CmdSrc) (s : State) : Host.Outcome State Fault Refusal := prefenRow s fun s =>
  eitherCmd src 0x16 (fun c w s =>
    let sid := natBits (nth w 0 0) 31 0
    match session s sid with
    | none => refuse c stSessionUnknown s
    | some x =>
      let st := exportStatus s x w
      if st != 0 then refuse c st s
      else
        let space := natBits (nth w 2 0) 63 60
        let a := nth w 1 0
        let before := s.prefen.ops.length
        let s := acceptOp c 0x16 w (memberPositions s) s
        let s := imageWrite space (a + 1016) (cleanBytes (leBytes 8 0)) s
        let (s, cs, co, ns, no) := exportShare sid space a (heldPrompt (heldOf s sid)) s
        match s.prefen.ops[before]? with
        | none => s
        | some o =>
          let s := setOp { o with crcS := cs, crcO := co, numS := ns, numO := no } s
          tellMembers [msgExport, o.tag, sid, space, a] s) s

/-- Bytes 0 to 1,015 of an image (R338). -/
def imageHead (s : State) (x : Session) (o : AsyncOp) : List Byte :=
  let b := s.prefen.build
  let held := heldOf s x.id
  let nb := billetsFor x.len
  let body := ingotBody s x held 0 0 b.heads o.numS o.crcS o.numO
  body ++ leBytes 8 (tabGet 0 s.prefen.parkCount x.slot * 2 ^ 32 + crc32 body)
    ++ leBytes 8 (imageBytes b (heldPrompt held) nb) ++ leBytes 4 (o.numS + o.numO) ++ leBytes 4 o.numO ++ leBytes 8 o.crcO
    ++ leBytes 4 (recordSize b.d) ++ leBytes 4 nb ++ leBytes 4 (heldPrompt held) ++ leBytes 468 0

/-- EXPORT_COMMIT (R339 steps 4 and 5): every member has reported. -/
def execExportCommit (tag : BitVec 32) (s : State) : Host.Outcome State Fault Refusal := prefenRow s fun s =>
  match s.prefen.ops.find? (fun o => o.op == 0x16 && o.tag == tag.toNat) with
  | none => noEvent s
  | some o =>
    if !prefenReady s || !groupFree s || !o.awaits.isEmpty then noEvent s
    else if o.failed != 0 then done (endOp o o.failed 0 false s)
    else match session s (opSession o) with
      | none => done (endOp o stSessionUnknown 0 false s)
      | some x =>
        let space := natBits (nth o.words 2 0) 63 60
        let a := nth o.words 1 0
        let held := heldOf s x.id
        let n := heldPrompt held
        let (s, toks) := if n = 0 then (s, []) else hoodRead 4 ((held.map (·.promptAt)).getD 0) (4 * n) s
        let s := imageWrite space (a + 1024) (toks ++ cleanBytes (leBytes (promptBytes n - 4 * n) 0)) s
        let head := imageHead s x o
        let s := imageWrite space a (cleanBytes head) s
        let s := imageWrite space (a + 1016) (cleanBytes (leBytes 8 (2 ^ 32 + crc32 head))) s
        done (endOp o 0 0 false s)

/-! ### Import -/

/-- What an image's header says (R331, R338). -/
structure ImageInfo where
  commitOk : Bool
  version  : Nat
  build    : Nat
  layers   : Nat
  heads    : Nat
  d        : Nat
  len      : Nat
  k0       : Nat
  k1       : Nat
  aslot    : Nat
  aver     : Nat
  hasHeld  : Bool
  held     : Request
  numS     : Nat
  crcS     : Nat
  numO     : Nat
  crcO     : Nat
  nb       : Nat
  prompt   : Nat

/-- The header read from its bytes. -/
def imageInfo (l : List PByte) : ImageInfo :=
  let b := l.map (·.1)
  let flags := bytesAt b 6 1
  let f := bytesAt b 114 1
  { commitOk := !l.any (·.2) && bytesAt b 1020 4 == 1 && bytesAt b 1016 4 == crc32 (b.take 1016)
    version := bytesAt b 5 1, build := bytesAt b 24 8, layers := bytesAt b 60 2, heads := bytesAt b 58 2, d := bytesAt b 62 2
    len := bytesAt b 8 4, k0 := bytesAt b 32 8, k1 := bytesAt b 40 8, aslot := bytesAt b 96 2, aver := bytesAt b 100 4
    hasHeld := natBit flags 2
    held := { tag := bytesAt b 104 4, session := 0, state := 4, before := bytesAt b 7 1, aslot := bytesAt b 96 2, aver := bytesAt b 100 4,
              follow := natBit f 1, express := natBit f 0, spec := natBit f 2, close := natBit f 3, ring := bytesAt b 112 2,
              qid := bytesAt b 108 4, maxNew := bytesAt b 116 4, generated := bytesAt b 120 4, promptLeft := bytesAt b 124 4, promptLen := bytesAt b 124 4,
              stop := (List.range 8).map (fun k => bytesAt b (136 + 4 * k) 4), sblock := (b.drop 168).take 64 }
    numS := bytesAt b 76 4, crcS := bytesAt b 80 8, numO := bytesAt b 88 4, crcO := bytesAt b 528 8
    nb := bytesAt b 540 4, prompt := bytesAt b 544 4 }

/-- Why an IMPORT is refused before it allocates, 0 if it is not (R340 checks 1 to 5). -/
def importStatus (s : State) (w : List Nat) (m : ImageInfo) : Nat :=
  let sid := natBits (nth w 0 0) 31 0
  let b := s.prefen.build
  let ring := if natBit (nth w 0 0) 33 then natBits (nth w 3 0) 15 0 else m.held.ring
  if !m.commitOk || m.version != 1 then stIngotBad
  else if b.state != 2 || (m.build != b.id && !natBit (nth w 0 0) 32) || m.layers != b.layers || m.heads != b.heads || m.d != b.d then
    stBuildMismatch
  else if sid == 0 || sid == 0xFFFFFFFF || (session s sid).isSome then stSessionExists
  else if 262144 ≤ s.prefen.sessions.length then stNoSessionSpace
  else if m.hasHeld && ((request s m.held.tag).isSome || (opByTag s m.held.tag).isSome) then stTagInUse
  else if m.hasHeld && !(ringAt s ring).on then stBadRing
  else if m.aslot != 0xFFFF && !hasVersion s m.aslot m.aver then stAdapterGone
  else 0

/-- A billet's record taken in and checked (R340 steps 2 and 3): its contribution, whether it is sealed, and whether its CRC matches. [DEDUCED, log 98] -/
def importBillet (far : List Byte) (space a : Nat) (m : ImageInfo) (sid : Nat) (y : Billet) (s : State) : State × Nat × Bool × Bool :=
  let b := s.prefen.build
  let off := recordOff b m.prompt m.nb y.layer (globalHead s y.head) y.index
  let (s, l) := imageRead far space a off (64 + 1024 * b.d) s
  let hd := (l.take 64).map (·.1)
  let s := billetWrite y.base (cleanBytes (leBytes 4 sid) ++ (l.drop 4).take 2 ++ cleanBytes (leBytes 1 y.head) ++ l.drop 7) s
  let (s, crc) := billetCrc y.base b.d s
  let isS := natBit (bytesAt hd 16 1) 0
  match crc with
  | none => (s, 0, isS, false)
  | some c => (s, contribution y.layer (globalHead s y.head) b.fmt y.index b.d c, isS, c == bytesAt hd 24 8)

/-- This member's share of an import (R340 steps 2 and 3): none without room; else XORs, counts, and whether every CRC matches. -/
def importShare (far : List Byte) (space a : Nat) (m : ImageInfo) (sid start : Nat) (s : State) :
    State × Option (Nat × Nat × Nat × Nat × Bool) :=
  let s := placeSession sid m.k0 m.k1 start s
  match growSession sid m.len s with
  | none => (closeSession sid s, none)
  | some s =>
    let x := sessionD s sid
    let (s, l) := collect (importBillet far space a m sid) x.billets s
    let x := sessionD s sid
    let marks := x.billets.zip l
    let x := { x with billets := marks.map (fun e => { e.1 with isSealed := e.2.2.1 }), len := m.len, aslot := m.aslot, aver := m.aver,
                      sealedCrc := (l.filter (·.2.1)).foldl (fun acc e => acc ^^^ e.1) 0, parked := true, imported := true,
                      modules := s.group.modules, build := s.prefen.build.id }
    let nS := (l.filter (·.2.1)).length
    (setSession x s, some (x.sealedCrc, (l.filter (fun e => !e.2.1)).foldl (fun acc e => acc ^^^ e.1) 0, nS, l.length - nS,
      l.all (·.2.2)))

/-- IMPORT (R340): `far` is the image where it lies in a partner's memory. -/
def execImport (src : CmdSrc) (far : List Byte) (s : State) : Host.Outcome State Fault Refusal := prefenRow s fun s =>
  eitherCmd src 0x17 (fun c w s =>
    let sid := natBits (nth w 0 0) 31 0
    let space := natBits (nth w 2 0) 63 60
    let a := nth w 1 0
    if !(space == 4 || space == 5 || space == 6) || !addrOk s space a 1024 then refuse c stBadParam s
    else
      let (s, l) := imageRead far space a 0 1024 s
      let m := imageInfo l
      let st := importStatus s w m
      if st != 0 then refuse c st s
      else
        let start := startStack s
        match importShare far space a m sid start s with
        | (s, none) => refuse c stNoMemory s
        | (s, some (cs, co, ns, no, ok)) =>
          let (s, at_) := if m.prompt = 0 then (s, 0) else placeSm (4 * m.prompt) 64 s
          let (s, toks) := if m.prompt = 0 then (s, []) else imageRead far space a 1024 (4 * m.prompt) s
          let s := hoodWrite 4 at_ toks s
          let ring := if natBit (nth w 0 0) 33 then natBits (nth w 3 0) 15 0 else m.held.ring
          let held : Option Request :=
            if m.hasHeld then some { m.held with session := sid, ring := ring, promptAt := at_, lastStep := s.prefen.lastStep } else none
          let before := s.prefen.ops.length
          let s := acceptOp c 0x17 (w ++ List.replicate (8 - w.length) 0 ++ [m.crcS, m.crcO, m.numS, m.numO]) (memberPositions s) s
          match s.prefen.ops[before]? with
          | none => s
          | some o =>
            let s := setOp { o with crcS := cs, crcO := co, numS := ns, numO := no, failed := if ok then 0 else stCrcMismatch,
                                    placed := some (sessionD s sid), held := held } s
            tellMembers [msgExport, o.tag, sid, space, a, start] s) s

/-- An import that does not match is undone on every member (R340, R342). -/
def importUndo (o : AsyncOp) (status : Nat) (s : State) : State :=
  endOp o status 0 false (tellMembers [msgForward, o.tag, 0x15, opSession o] (undoOp o s))

/-- The lead's ingot commits the import (R340 step 5). -/
def importFinish (o : AsyncOp) (s : State) : State :=
  let s := match o.held with
    | some r => updPrefen (fun p => { p with requests := p.requests ++ [r] }) s
    | none => s
  endOp o 0 0 false (writeIngot (opSession o) o.held s)

/-- IMPORT_COMMIT (R340 steps 4 and 5): sums checked, the members write their ingots, then the lead. -/
def execImportCommit (tag : BitVec 32) (s : State) : Host.Outcome State Fault Refusal := prefenRow s fun s =>
  match s.prefen.ops.find? (fun o => o.op == 0x17 && o.tag == tag.toNat) with
  | none => noEvent s
  | some o =>
    if !prefenReady s || !groupFree s || !o.awaits.isEmpty then noEvent s
    else if o.failed != 0 then done (importUndo o o.failed s)
    else if o.crcS != nth o.words 8 0 || o.crcO != nth o.words 9 0 || o.numS != nth o.words 10 0 || o.numO != nth o.words 11 0 then
      done (importUndo o stCrcMismatch s)
    else if o.second || (memberPositions s).isEmpty then done (importFinish o s)
    else done (tellMembers [msgPark, o.tag, opSession o] (setOp { o with second := true, awaits := memberPositions s } s))

/-! ### The billet CRC engine -/

/-- A write of STK_CRC_CTL by a Smith core (R334). -/
def crcGo (n : Nat) (v : Word) (s : State) : State :=
  let r := stkReg n 0x180
  let d16 := fieldOf v 55 48
  let base := rf s (stkReg n 0x188) 43 0
  let s := setRf r 55 48 d16 s
  if fieldOf v 0 0 = 0 then s
  else if rf s r 63 63 = 1 || d16 < 2 || 15 < d16 || !billetBaseOk n (16 * d16) base then setRf r 62 62 1 s
  else setRf r 63 62 2 { s with crcJobs := tabSet (0, 0) s.crcJobs n (base, d16) }

/-- BILLET_CRC (R334). -/
def execBilletCrc (n : Fin 20) (v : Word) (s : State) : Host.Outcome State Fault Refusal := prefenRow s fun s => done (crcGo n.val v s)

/-- BILLET_CRC_DONE (R332, R334). -/
def execBilletCrcDone (n : Fin 20) (s : State) : Host.Outcome State Fault Refusal := prefenRow s fun s =>
  let r := stkReg n.val 0x180
  if rf s r 63 63 = 0 then noEvent s
  else
    let base := (tabGet (0, 0) s.crcJobs n.val).1
    let d := 16 * (tabGet (0, 0) s.crcJobs n.val).2
    let pieces := List.range (ceilDiv (64 + 1024 * d) 2048)
    if !pieces.all (fun j => moverReady s (crcSource n.val) 4 (base + j * 0x100000) 2048 false) then
      done (overList (fun j s => moverAsk 4 (base + j * 0x100000) 2048 false s) pieces s)
    else
      let (s, c) := billetCrc base d s
      let s := setRf r 63 63 0 { s with crcJobs := tabSet (0, 0) s.crcJobs n.val (0, 0) }
      done (match c with
        | some v => setRg (stkReg n.val 0x190) (BitVec.ofNat 64 v) s
        | none => setRf r 62 62 1 s)

end Sys2Proof.Machine
end

