-- ==== Sys2Proof/Machine/Group.lean ====
section
/-! DEFINITION. Groups: formation, dissolution, forwarding and members' reports (spec/16_tuyere_fabric_and_groups.md R377 to R379;
spec/15_mailboxes_and_prefen_commands.md R363; spec/01_module_architecture.md R23, R32; spec/20_faults_and_recovery.md R444, R445). -/

namespace Sys2Proof.Machine

/-! ### Formation and dissolution -/

/-- Entries 1 to 5 written for a group of the given members, under an odd generation (R30, R377 step 2). -/
def writeEntries (members : List Nat) (self lead ggen : Nat) (s : State) : State :=
  let g := s.group
  { s with group := { g with
      gen := g.gen + 1, modules := max 1 members.length, self := self, members := members, lead := lead, ggen := ggen,
      oldModules := g.modules, oldSelf := g.self, oldMembers := g.members, oldLead := g.lead, oldGgen := g.ggen, prepared := true } }

/-- table.generation even again: the entries stand, and step numbers start at 1 (R294, R377). Until the lead's first HELLO a member's
mirror of the group status word is 0. [DESIGN CHOICE, log 167] -/
def settleEntries (s : State) : State :=
  updPrefen (fun p => { p with lastStep := 0, holdSince := none })
    { s with group := { s.group with gen := s.group.gen + 1, leadLost := false, mirror := 0, status := [], told := 0 } }

/-- Member ids named by GROUP_FORM: G - 1 bytes from w1 on (R363). -/
def formIds (w : List Nat) (g : Nat) : List Nat := (List.range (g - 1)).map (fun k => natBits (nth w (1 + k / 8) 0) (8 * (k % 8) + 7) (8 * (k % 8)))
/-- Bytes of the payload beyond them. -/
def formRest (w : List Nat) (g : Nat) : List Nat :=
  (upFrom (g - 1) (64 - (g - 1))).map (fun k => natBits (nth w (1 + k / 8) 0) (8 * (k % 8) + 7) (8 * (k % 8)))

/-- A failed check of R377, 0 if none. [DEDUCED, log 94] -/
def formStatus (s : State) (ids : List Nat) (rest : List Nat) : Nat :=
  if selfId s == 0xFF || ids.any (fun p => ptState s p != 1 || p == selfId s) || ids.eraseDups.length != ids.length
      || rest.any (· != 0) then stPartnerAbsent
  else if ids.any (fun p => (link s p).inGroup || (link s p).gproto != 1) then stGroupBusy
  else 0

/-- The operation number of an async command just accepted. -/
def lastOpTag (s : State) : Nat := match s.prefen.ops.getLast? with | some o => o.tag | none => 0

/-- PREPARE sent to members in increasing group.self (R377 step 1): their ids and positions, none for a dissolution. -/
def startGroup (forming : Bool) (want ids : List Nat) (s : State) : State :=
  let s := updGroup (fun g => { g with phase := 1, forming := forming, want := want, replied := [], failed := 0, opTag := lastOpTag s }) s
  overList (fun pid s => sendMsg pid ([msgGroup, 1, b2n forming] ++ ids) s) want s

/-- The lead's own entries: the commit point of the group command (R363, R377 step 4). [DEDUCED, log 95] -/
def groupFinish (s : State) : State :=
  let g := s.group
  let ids := if g.forming then selfId s :: g.want else []
  let tag := g.opTag
  let gen := g.gen + 2
  let s := settleEntries (writeEntries ids 0 (if g.forming then selfId s else 0xFF) (if g.forming then gen else 0) s)
  let s := updGroup (fun g => { g with phase := 0, forming := false, want := [], replied := [], failed := 0, prepared := false }) s
  let s := updHearth 0 (fun h => { h with faulted := false }) s
  match opByTag s tag with
  | some o => endOp o 0 0 false s
  | none => s

/-- GROUP_FORM (R363, R377). -/
def execGroupForm (m : Fin 16) (s : State) : Host.Outcome State Fault Refusal := prefenRow s fun s =>
  mbCmd m.val 0x70 (fun w s =>
    let c : Caller := .mailbox m.val
    let g := natBits (nth w 0 0) 7 0
    if g < 2 || 64 < g then refuse c stBadParam s
    else if inGroup s || s.group.phase != 0 || s.group.gen % 2 == 1 then refuse c stGroupBusy s
    else if s.prefen.build.state != 0 || s.prefen.loading || !s.prefen.sessions.isEmpty then refuse c stModelInUse s
    else
      let s := acceptOp c 0x70 w [] s
      let ids := formIds w g
      let st := formStatus s ids (formRest w g)
      if st != 0 then
        match opByTag s (lastOpTag s) with
        | some o => endOp o st 0 false s
        | none => s
      else startGroup true ids (selfId s :: ids) s) s

/-- GROUP_DISSOLVE (R363, R379, R444): with a hold in progress the hold ends first. -/
def execGroupDissolve (m : Fin 16) (s : State) : Host.Outcome State Fault Refusal := prefenRow s fun s =>
  mbCmd m.val 0x71 (fun w s =>
    let c : Caller := .mailbox m.val
    if !inGroup s then refuse c stNotLead s
    else if s.group.phase != 0 then refuse c stGroupBusy s
    else if s.prefen.holdSince.isNone && !s.prefen.sessions.isEmpty then refuse c stModelInUse s
    else
      let s := if s.prefen.holdSince.isSome then failGroup s else s
      let s := acceptOp c 0x71 w [] s
      let want := (otherMembers s).filter (fun pid => ptState s pid == 1)
      if want.isEmpty then groupFinish (updGroup (fun g => { g with opTag := lastOpTag s, forming := false }) s)
      else startGroup false want [] s) s

/-- GROUP_QUERY (R363). -/
def execGroupQuery (m : Fin 16) (s : State) : Host.Outcome State Fault Refusal := prefenRow s fun s =>
  mbCmd m.val 0x72 (fun _ s =>
    let g := s.group
    let ids := (g.members.drop 1).take 63
    let word (k : Nat) : Nat := leNat ((List.range 8).map (fun b => BitVec.ofNat 8 (nth ids (8 * k + b) 0)))
    respond m.val 0 ((g.modules + g.self * 2 ^ 8 + g.lead * 2 ^ 16) :: (List.range 8).map word) s) s

/-- GROUP_PREPARE (R377 step 2): from a would-be lead, or from the lead for a dissolution (`members` empty). -/
def execGroupPrepare (pid : Fin 255) (members : List Nat) (s : State) : Host.Outcome State Fault Refusal := prefenRow s fun s =>
  msgIn pid.val (fun s =>
    let no (s : State) : State := sendMsg pid.val [msgAck, msgGroup, stGroupBusy] s
    if s.group.gen % 2 == 1 || s.group.phase != 0 then no s
    else if members.isEmpty then
      (if inGroup s && s.group.lead == pid.val && !isLead s then
         sendMsg pid.val [msgAck, msgGroup, 0] (writeEntries [] 0 0xFF 0 s)
       else no s)
    else
      let self := (List.range members.length).find? (fun k => nth members k 0xFF == selfId s)
      let others := members.filter (fun p => p != selfId s)
      match self with
      | none => no s
      | some k =>
        if inGroup s || s.prefen.build.state != 0 || !s.prefen.sessions.isEmpty then no s
        else if others.any (fun p => ptState s p != 1) then sendMsg pid.val [msgAck, msgGroup, stPartnerAbsent] s
        else sendMsg pid.val [msgAck, msgGroup, 0] (writeEntries members k pid.val 0 s)) s

/-- GROUP_COMMIT (R377 step 3): `ggen` is the generation that the lead commits under. -/
def execGroupCommit (pid : Fin 255) (ggen : Nat) (s : State) : Host.Outcome State Fault Refusal := prefenRow s fun s =>
  msgIn pid.val (fun s =>
    if s.group.gen % 2 == 0 then s
    else
      let s := updGroup (fun g => { g with ggen := if 2 ≤ g.modules then ggen else 0 }) (settleEntries s)
      let s := if inGroup s then s else closeAll (failRequests 0x260 s)
      sendMsg pid.val [msgAck, msgGroup, 0] s) s

/-- GROUP_ABANDON (R377): entries as before, with an even generation. -/
def execGroupAbandon (pid : Fin 255) (s : State) : Host.Outcome State Fault Refusal := prefenRow s fun s =>
  msgIn pid.val (fun s =>
    if !s.group.prepared then s
    else if s.group.gen % 2 == 1 then restoreEntries s
    else restoreEntries (updGroup (fun g => { g with gen := g.gen + 1 }) s)) s

/-- GROUP_LEAVE (R379): the group this module remembers is no more. -/
def execGroupLeave (pid : Fin 255) (s : State) : Host.Outcome State Fault Refusal := prefenRow s fun s =>
  msgIn pid.val (fun s => if inGroup s && !isLead s && s.group.lead == pid.val then leaveGroup s else s) s

/-- PARTNER_LOSS_HOLD_EXPIRY (R444 steps 2 and 4). -/
def execPartnerLossHoldExpiry (s : State) : Host.Outcome State Fault Refusal := prefenRow s fun s =>
  if !inGroup s || !isLead s || s.prefen.holdSince.isNone then noEvent s else done (failGroup s)

/-- LEAD_LOSS_EXPIRY (R445). -/
def execLeadLossExpiry (s : State) : Host.Outcome State Fault Refusal := prefenRow s fun s =>
  if !inGroup s || !s.group.leadLost then noEvent s else done (leaveGroup s)

/-! ### A member's share -/

/-- GROUP_PULSE (R23): a member's module hearth pulses. -/
def execGroupPulse (pid : Fin 255) (s : State) : Host.Outcome State Fault Refusal := prefenRow s fun s =>
  msgIn pid.val (fun s => if inGroup s && isLead s && isMember s pid.val then countUp 0 2 s else s) s

/-- A row of a forwarded step prepared on this member: its session opened, L taken over, billets allocated (R297, R378). -/
def prepareRow (r : StepRow) (s : State) : State :=
  let s := if (session s r.session).isSome then s else openSession r.session r.k0 r.k1 s
  let s := setSession { sessionD s r.session with len := r.len, aslot := r.aslot, aver := r.aver, parked := false } s
  let s := sealDue r.session s
  (growSession r.session (r.len + r.chunk + r.drafts.length + 1) s).getD s

/-- STEP_FORWARD (R297 step 2, R442): the member takes the step, or takes it again under its number; `cmds` are the commands that
the build's program issues for it here, `tables` the crucible buffers that need the length table. [DEDUCED, log 97] -/
def execStepForward (num : Nat) (rows : List StepRow) (cmds : List (Nat × Nat × Nat)) (tables : List Nat) (s : State) :
    Host.Outcome State Fault Refusal := prefenRow s fun s =>
  if !inGroup s || isLead s then noEvent s
  else msgIn s.group.lead (fun s =>
    let s := overList prepareRow rows s
    let st : Step := { on := true, num := num, build := s.prefen.build.id, rows := rows, cmds := cmds,
                       execs := if s.prefen.step.num = num then s.prefen.step.execs + 1 else 1,
                       repaired := if s.prefen.step.num = num then s.prefen.step.repaired else [] }
    writeTables num rows tables (updPrefen (fun p => { p with step := st, lastStep := num, sparks := [], anchors := [] }) s)) s

/-- A member's report to its lead (R32). -/
def report (tag status cs co ns no : Nat) (s : State) : State := sendMsg s.group.lead [msgAck, tag, status, cs, co, ns, no] s

/-- What a member does with its share of a group command (R32, R337, R339, R340, R362). -/
def memberShare (f : FwdCmd) (s : State) : State :=
  match f with
  | .close tag sid => report tag 0 0 0 0 0 (closeSession sid s)
  | .resume tag sid =>
    (match session s sid with
     | none => report tag stSessionUnknown 0 0 0 0 s
     | some x =>
       let (s, ok) := ingotPasses x s
       if ok then report tag 0 0 0 0 0 (resumeSession sid s) else report tag stIngotBad 0 0 0 0 s)
  | .load tag b => report tag 0 0 0 0 0 (updPrefen (fun p => { p with build := b }) s)
  | .unload tag => report tag 0 0 0 0 0 (updPrefen (fun p => { p with build := {} }) s)
  | .copyOut tag sid space a =>
    let (s, cs, co, ns, no) := exportShare sid space a (heldPrompt (heldOf s sid)) s
    report tag 0 cs co ns no s
  | .copyIn tag sid space a start far =>
    let (s, l) := imageRead far space a 0 1024 s
    (match importShare far space a (imageInfo l) sid start s with
     | (s, none) => report tag stNoMemory 0 0 0 0 s
     | (s, some (cs, co, ns, no, ok)) => report tag (if ok then 0 else stCrcMismatch) cs co ns no s)
  | .importWrite tag sid => report tag 0 0 0 0 0 (writeIngot sid none s)
  | .importDrop sid => closeSession sid s
  | .committed rows =>
    settleSessions rows (overList (fun e s =>
      if (session s e.1).isSome then setSession { sessionD s e.1 with len := e.2.1 } s else s) rows s)

/-- FORWARDED_COMMAND (R32). -/
def execForwardedCommand (f : FwdCmd) (s : State) : Host.Outcome State Fault Refusal := prefenRow s fun s =>
  if !inGroup s || isLead s then noEvent s else msgIn s.group.lead (memberShare f) s

/-! ### Members' reports on the lead -/

/-- A command whose share every member has committed (R32, R335). -/
def opComplete (o : AsyncOp) (s : State) : State :=
  let ends (act : State → State) : State :=
    let s := updPrefen (fun p => { p with ops := p.ops.filter (fun x => x.tag != o.tag) }) s
    let s := if o.failed = 0 then act s else s
    match o.caller with
    | some c => if o.failed = 0 then answer c 2 0 1 false s else refuse c o.failed s
    | none => s
  match o.op with
  | 0x13 => if o.failed = 0 then parkCommit o s else ends id
  | 0x14 => ends (resumeSession (opSession o))
  | 0x15 => ends (closeSession (opSession o))
  | 0x41 =>
    let s := updPrefen (fun p => { p with ops := p.ops.filter (fun x => x.tag != o.tag) }) s
    let s := if o.failed = 0 then updPrefen (fun p => { p with build := {} }) s else s
    (match o.caller with
     | some (.mailbox m) => respond m o.failed [] s
     | _ => s)
  | _ => s

/-- A report about an operation: positions yet to report, first failure, XORs and counts. -/
def opReport (g tag status cs co ns no : Nat) (s : State) : State :=
  match opByTag s tag with
  | none => s
  | some o =>
    if !o.awaits.contains g then s
    else
      let o := { o with awaits := o.awaits.filter (· != g), failed := if o.failed = 0 then status else o.failed,
                        crcS := o.crcS ^^^ cs, crcO := o.crcO ^^^ co, numS := o.numS + ns, numO := o.numO + no }
      let s := setOp o s
      if o.awaits.isEmpty then opComplete o s else s

/-- An answer to PREPARE or a confirmation of COMMIT (R377). -/
def groupReport (pid status : Nat) (s : State) : State :=
  let g := s.group
  if g.phase = 0 || !g.want.contains pid || g.replied.contains pid then s
  else if status != 0 then abandonForm (if status = stPartnerAbsent then stPartnerAbsent else stGroupBusy) s
  else
    let s := updGroup (fun g => { g with replied := g.replied ++ [pid] }) s
    if !g.want.all (fun p => p == pid || g.replied.contains p) then s
    else if g.phase = 1 then
      let s := updGroup (fun g => { g with phase := 2, replied := [] }) s
      overList (fun p s => sendMsg p [msgGroup, 2, g.gen + 2] s) g.want s
    else groupFinish s

/-- MEMBER_ACK (R32, R297, R335, R339, R340, R377). -/
def execMemberAck (pid : Fin 255) (what : AckOf) (s : State) : Host.Outcome State Fault Refusal := prefenRow s fun s =>
  msgIn pid.val (fun s =>
    match what with
    | .group status => groupReport pid.val status s
    | .step num origins lost =>
      (match positionOf s pid.val with
       | none => s
       | some g =>
         let st := s.prefen.step
         if !st.on || st.num != num || st.again then s
         else updPrefen (fun p => { p with step := { st with
           acked := if st.acked.contains g then st.acked else st.acked ++ [g], tainted := st.tainted || !origins.isEmpty || !lost.isEmpty, lost := st.lost ++ lost,
           origins := st.origins ++ origins.map (fun o => (g, o.1, o.2.1, o.2.2)) } }) s)
    | .again num => updPrefen (fun p => if p.step.on && p.step.num == num then { p with step := { p.step with again := true } } else p) s
    | .status w => (match positionOf s pid.val with
       | none => s
       | some g => updGroup (fun y => { y with status := tabSet 0 y.status g (w % 2 ^ 64) }) s)
    | .command tag => (match positionOf s pid.val with | none => s | some g => opReport g tag 0 0 0 0 0 s)
    | .op tag status cs co ns no => (match positionOf s pid.val with | none => s | some g => opReport g tag status cs co ns no s)) s

end Sys2Proof.Machine
end

