-- ==== Sys2Proof/Machine/Bell.lean ====
section
/-! DEFINITION. The Bell interrupt controllers (spec/18_bell_interrupt_controller.md, R398 to R408): levels, source states, claims,
coalescing and the counter subtraction. -/

namespace Sys2Proof.Machine

/-! ### Registers -/

/-- BEL_SRC of a source of Bell b (R407). -/
def srcReg (b src : Nat) : Nat := belReg b (8 * src)
/-- BEL_TGT_CTL and BEL_TGT_STAT of a target. -/
def tgtCtl (b t : Nat) : Nat := belReg b (0x3000 + 0x20 * t)
def tgtStat (b t : Nat) : Nat := belReg b (0x3008 + 0x20 * t)

/-- Targets of a Bell (R398). -/
def bellTargets (b : Nat) : Nat := if b = 0 then 4 else 16

/-- Bell and target of a core (R398). -/
def bellOf (core : Nat) : Nat := if isSmith core then 0 else 1 + core / 16
def targetOf (core : Nat) : Nat := if isSmith core then core - 64 else core % 16

/-- Is a source one that a counter feeds (R399)? -/
def counterSource (b src : Nat) : Bool := if b = 0 then src < 32 else src < 352

/-- Hearth whose counter feeds a source (R399). -/
def counterHearth (b src : Nat) : Nat :=
  if b = 0 then (if src < 16 then 1 else 0)
  else if src < 256 then hxCluster (b - 1) (src / 16)
  else if src < 336 then hxStack (5 * (b - 1) + (src - 256) / 16)
  else hxAnvil (b - 1)

/-- QSC_STAT.any: a Prefen queue has prod ≠ taken (R272). -/
def anyPending (s : State) : Bool := s.queues.any (fun e => e.2.ckind == 1 && e.2.prod != e.2.taken)

/-- Level of a counter as a source (R400). -/
def counterLevel (s : State) (b src : Nat) : Bool :=
  let r := belReg b (0x4000 + 8 * src)
  decide (max 1 (rf s r 47 32) ≤ rf s r 31 0)

/-- Level of a source of a Bell (R399, R401). -/
def sourceLevel (s : State) (b src : Nat) : Bool :=
  if counterSource b src then counterLevel s b src
  else if b = 0 then
    if src < 52 then bitOf (rg s (latchInfoReg (src - 32))) 0
    else if src = 52 then anyPending s
    else if src = 53 then rf s (qscReg 0x30) 63 32 != rf s (qscReg 0x38) 31 0
    else if src < 58 then bitOf (rg s (latchInfoReg (20 + (src - 54)))) 0
    else if src < 74 then (mbox s (src - 58)).rung
    else if src = 74 then rg s (embReg 0x20) != 0
    else false
  else if src < 368 then (hearth s (hxCluster (b - 1) (src - 352))).faulted
  else if src < 373 then let h := hearth s (hxStack (5 * (b - 1) + (src - 368))); h.faulted || h.dead
  else false

/-! ### Coalescing -/

/-- May a source be claimed by target t once PENDING: enabled, of priority 1 to 7, routed to t (R403)? -/
def deliverable (s : State) (b src t : Nat) : Bool :=
  let r := srcReg b src
  rf s r 15 15 == 1 && rf s r 10 8 != 0 && rf s r 3 0 == t && decide (t < bellTargets b)

/-- Sources of a Bell that target t could claim now. -/
def claimable (s : State) (b t : Nat) : List Nat :=
  (List.range 1024).filter (fun src => rf s (srcReg b src) 61 60 == 1 && deliverable s b src t)

/-- An arrival at a target (R405). -/
def arrive (b t : Nat) (s : State) : State :=
  let r := tgtStat b t
  let count := max 1 (rf s (tgtCtl b t) 7 0)
  let n := rf s r 31 24 + 1
  match rf s r 63 62 with
  | 0 => setRf r 31 24 1 (setRf r 63 62 (if 1 < count then 1 else 2) s)
  | 1 => setRf r 31 24 n (setRf r 63 62 (if n < count then 1 else 2) s)
  | _ => s

/-- The line raised at once (R405). -/
def assertLine (b t : Nat) (s : State) : State := setRf (tgtStat b t) 63 62 2 s

/-- A target with nothing left to claim is IDLE (R405). [DEDUCED, log 99] -/
def settleTarget (b t : Nat) (s : State) : State :=
  if rf s (tgtStat b t) 63 62 = 0 || !(claimable s b t).isEmpty then s
  else setRf (tgtStat b t) 31 24 0 (setRf (tgtStat b t) 63 62 0 s)

def settleBell (b : Nat) (s : State) : State := overList (settleTarget b) (List.range (bellTargets b)) s

/-! ### Source states -/

/-- State of a source written; entering PENDING is an arrival, or raises the line at once when it comes from ACTIVE (R402, R405). -/
def moveSource (b src st : Nat) (s : State) : State :=
  let r := srcReg b src
  let was := rf s r 61 60
  let s := setRf r 61 60 st s
  let t := rf s r 3 0
  if st != 1 || was = 1 || !deliverable s b src t then s
  else if was = 0 then arrive b t s else assertLine b t s

/-- A source that is set: INACTIVE goes to PENDING, ACTIVE to ACTIVE_AND_PENDING (R402). -/
def riseSource (b src : Nat) (s : State) : State :=
  match rf s (srcReg b src) 61 60 with
  | 0 => moveSource b src 1 s
  | 2 => moveSource b src 3 s
  | _ => s

/-- A PENDING source whose level and latch are 0 is INACTIVE (R402). -/
def fallSource (b src : Nat) (s : State) : State :=
  let r := srcReg b src
  if rf s r 61 60 = 1 && rf s r 63 62 = 0 then setRf r 61 60 0 s else s

/-- The present level of a source taken over into BEL_SRC, with the change of state that it makes (R402). [DESIGN CHOICE, log 69] -/
def sampleLevel (b src : Nat) (s : State) : State :=
  let r := srcReg b src
  let now := b2n (sourceLevel s b src)
  if rf s r 63 63 = now then s
  else
    let s := setRf r 63 63 now s
    if now = 1 then riseSource b src s else fallSource b src s

/-- A source of target t completed (R402, R403). -/
def completeSource (b src : Nat) (s : State) : State :=
  let s := sampleLevel b src s
  let r := srcReg b src
  let next := if rf s r 61 60 = 3 || rf s r 63 63 = 1 then 1 else 0
  fallSource b src (setRf r 59 56 0 (moveSource b src next s))

/-- A claim by a target (R403): the source, if one qualifies. -/
def bellClaim (b t : Nat) (s : State) : State × Option Nat :=
  let l := claimable s b t
  let top := l.foldl (fun p src => max p (rf s (srcReg b src) 10 8)) 0
  match l.find? (fun src => rf s (srcReg b src) 10 8 == top) with
  | none => (s, none)
  | some src =>
    let r := srcReg b src
    (settleTarget b t (setRf r 59 56 t (setRf r 62 62 0 (setRf r 61 60 2 s))), some src)

/-- A completion by a target: ignored and counted unless the target owns the source (R403). -/
def bellComplete (b t src : Nat) (s : State) : State :=
  let r := srcReg b src
  if rf s r 61 60 < 2 || rf s r 59 56 != t then satRf (tgtStat b t) 47 32 1 s
  else settleBell b (completeSource b src s)

/-- What a hearth reset of a cluster does to its Bell (R400, R408). -/
def bellReset (a c : Nat) (s : State) : State :=
  let b := 1 + a
  let owned := (List.range 1024).filter (fun src => 2 ≤ rf s (srcReg b src) 61 60 && rf s (srcReg b src) 59 56 == c)
  let s := clearCounters (hxCluster a c) s
  let s := settleBell b (overList (completeSource b) owned s)
  setRf (tgtStat b c) 31 24 0 (setRf (tgtStat b c) 63 62 0 s)

/-! ### Commands -/

/-- Does a core run instructions: a Hammer core released and not in a stopped cluster (R234), a Smith core once Prefen is loaded
(R451)? -/
def coreRuns (s : State) (core : Nat) : Bool :=
  if isSmith core then decide (4 ≤ s.board.boot) else hammerRuns s (core / 16) (core % 16)

/-- Cause of an illegal-instruction exception. -/
def causeIllegal : Nat := 2

/-- An illegal-instruction exception: its cause, and a value that the spec does not give (R103, R406). -/
def illegal (core : Nat) (s : State) : State :=
  let (s, f) := takeFree s
  coreTrap core causeIllegal (Config.trapValue f) s

/-- A Bell CSR reached by a core: from user mode it raises an illegal-instruction exception instead (R406). [DESIGN CHOICE, log 100] -/
def bellCsr (core : Nat) (act : State → State) (s : State) : Host.Outcome State Fault Refusal :=
  if !coreRuns s core || coreWaits s core then noEvent s
  else if tabGet false s.umode core then done (illegal core s)
  else done (act s)

/-- BELL_CLAIM (R403, R406): a read of belclaim into register rd. -/
def execBellClaim (core : Fin 68) (rd : Fin 32) (s : State) : Host.Outcome State Fault Refusal := live s <|
  bellCsr core.val (fun s =>
    let (s, r) := bellClaim (bellOf core.val) (targetOf core.val) s
    match r with
    | none => setXreg core.val rd.val 0 s
    | some src => setXreg core.val rd.val (BitVec.ofNat 64 (2 ^ 63 + src)) s) s

/-- BELL_COMPLETE (R402, R403, R406): a write of beldone. -/
def execBellComplete (core : Fin 68) (src : Fin 1024) (s : State) : Host.Outcome State Fault Refusal := live s <|
  bellCsr core.val (bellComplete (bellOf core.val) (targetOf core.val) src.val) s

/-- Hearth whose counters a core's belcnt and belsel act on (R406). -/
def csrHearth (core : Nat) : Nat := if isSmith core then 1 else 6 + core

/-- COUNTER_SUBTRACT (R400, R406): a write of belcnt or of BEL_EVSUB. -/
def execCounterSubtract (w : CountWrite) (v : BitVec 32) (s : State) : Host.Outcome State Fault Refusal := live s <|
  match w with
  | .belcnt core => bellCsr core.val (fun s => countDown (csrHearth core.val) (tabGet 0 s.belsel core.val) v.toNat s) s
  | .evsub b src =>
    if !counterSource b.val src.val then noEvent s
    else
      let r := belReg b.val (0x4000 + 8 * src.val)
      done (setRf r 31 0 (rf s r 31 0 - v.toNat) s)

/-- Sources of word w that a mask names. -/
def maskSources (w : Nat) (mask : Word) : List Nat := (upFrom (64 * w) 64).filter (fun src => bitOf mask (src % 64))

/-- A software latch set: it acts as a level of 1 (R404). -/
def setLatch (b src : Nat) (s : State) : State :=
  let r := srcReg b src
  if rf s r 62 62 = 1 then s else riseSource b src (setRf r 62 62 1 s)

/-- SET_PENDING (R404, R406): a write of word w of BEL_SETP, or a core's write of belsetp. -/
def execSetPending (p : PendWrite) (s : State) : Host.Outcome State Fault Refusal :=
  match p with
  | .setp b w mask => liveWrite s <| done (overList (setLatch b.val) (maskSources w.val mask) s)
  | .belsetp core src => live s <| bellCsr core.val (setLatch (bellOf core.val) src.val) s

/-- CLEAR_PENDING (R404): a Smith core's write of word w of BEL_CLRP. -/
def execClearPending (b : Fin 5) (w : Fin 16) (mask : Word) (s : State) : Host.Outcome State Fault Refusal := live s <|
  done (settleBell b.val (overList (fun src s =>
    fallSource b.val src (setRf (srcReg b.val src) 62 62 0 (sampleLevel b.val src s))) (maskSources w.val mask) s))

/-- SOURCE_LEVEL_CHANGE (R401, R402). -/
def execSourceLevelChange (b : Fin 5) (src : Fin 1024) (s : State) : Host.Outcome State Fault Refusal := live s <|
  done (settleBell b.val (sampleLevel b.val src.val s))

/-- BELL_SOURCE_WRITE (R403, R405, R407): a Smith core's write of BEL_SRC. -/
def execBellSourceWrite (b : Fin 5) (src : Fin 1024) (v : Word) (s : State) : Host.Outcome State Fault Refusal := live s <|
  let r := srcReg b.val src.val
  let could := deliverable s b.val src.val (rf s r 3 0)
  let s := setRf r 15 15 (fieldOf v 15 15) (setRf r 10 8 (fieldOf v 10 8) (setRf r 3 0 (fieldOf v 3 0) s))
  let t := rf s r 3 0
  let s := if !could && deliverable s b.val src.val t && rf s r 61 60 == 1 then arrive b.val t s else s
  done (settleBell b.val s)

/-- COALESCE_TIMEOUT (R405). -/
def execCoalesceTimeout (b : Fin 5) (t : Fin 16) (s : State) : Host.Outcome State Fault Refusal := live s <|
  if rf s (tgtStat b.val t.val) 63 62 != 1 then noEvent s else done (assertLine b.val t.val s)

end Sys2Proof.Machine
end

