-- ==== Sys2Proof/Machine/Opcodes.lean ====
section
/-! DEFINITION. The Prefen opcodes for information, models, adapters, queues, rings and queries
(spec/15_mailboxes_and_prefen_commands.md R358 to R362, R365, R489; spec/12_serving_requests_and_sessions.md R298 to R300, R306). -/

namespace Sys2Proof.Machine

/-! ### Information -/

/-- NOP. -/
def execMbNop (m : Fin 16) (s : State) : Host.Outcome State Fault Refusal := prefenRow s fun s => mbCmd m.val 0x01 (fun _ s => respond m.val 0 [] s) s

/-- VERSION (R1, R350, R358). [DEDUCED, log 103] -/
def execVersion (m : Fin 16) (s : State) : Host.Outcome State Fault Refusal := prefenRow s fun s =>
  mbCmd m.val 0x02 (fun _ s =>
    let fw := smcReg 0
    let image := tabGet {} s.flash s.runSlot
    let w0 := rf s fw 55 48 * 2 ^ 56 + rf s fw 47 40 * 2 ^ 48 + rf s fw 39 32 * 2 ^ 40 + image.build % 2 ^ 32
    respond m.val 0 [w0, 0xB0B0, b2n Config.sample, Config.serial.toNat] s) s

/-- HEARTH_TABLE (R30, R358): answered while no group command is changing the table. [DEDUCED, log 106] -/
def execHearthTable (m : Fin 16) (s : State) : Host.Outcome State Fault Refusal := prefenRow s fun s =>
  if s.group.gen % 2 = 1 then noEvent s
  else mbCmd m.val 0x03 (fun w s =>
    let first := natBits (nth w 0 0) 15 0
    let count := natBits (nth w 0 0) 31 16
    if count = 0 || 64 < count || 512 < first + count then refuse (.mailbox m.val) stBadParam s
    else respond m.val 0 (s.group.gen :: (upFrom first count).map (hearthEntry s)) s) s

/-- EVENT_RING (R365, R489): held events move to the new ring. -/
def execEventRing (m : Fin 16) (s : State) : Host.Outcome State Fault Refusal := prefenRow s fun s =>
  mbCmd m.val 0x04 (fun w s =>
    let (a, b, c, d) := (nth w 0 0, nth w 1 0, nth w 2 0, nth w 3 0)
    if !ringRecordOk a b c d then refuse (.mailbox m.val) stBadParam s
    else
      let s := respond m.val 0 [] (updPrefen (fun p => { p with evRing := ringOf a b c }) s)
      eventFlush s) s

/-! ### Models -/

/-- MODEL_LOAD (R359): accepted. -/
def execModelLoad (m : Fin 16) (s : State) : Host.Outcome State Fault Refusal := prefenRow s fun s =>
  mbCmd m.val 0x40 (fun w s =>
    let c : Caller := .mailbox m.val
    let space := natBits (nth w 1 0) 63 60
    if !(space == 4 || space == 5) then refuse c stBadParam s
    else if (List.range 20).any (stackDead s) then refuse c stStackFailed s
    else if s.prefen.loading then refuse c stModelInUse s
    else acceptOp c 0x40 w [] (updPrefen (fun p => { p with loading := true }) s)) s

/-- Does a reduction plan record pass R83 on a group of G? -/
def planOk (g : Nat) (b : List Byte) : Bool :=
  let w0 := bytesAt b 0 8
  let width := natBits w0 15 8
  let k := bytesAt b 12 4
  let l := bytesAt b 8 4
  natBits w0 31 24 == 1 && natBits w0 23 20 ≤ 1 && 1 ≤ width && width ≤ 64 && l ≤ 2 ^ 24 && k ≤ l * width && l * (width - 1) < k
    && bytesAt b 24 4 == crc32 (b.take 24) && width % g == 0

/-- Bytes that two runs share. -/
def runsMeet (a n b m : Nat) : Bool := decide (a < b + m) && decide (b < a + n)

/-- The plan that a record holds, with the leaves g × W / G to (g + 1) × W / G − 1 that position g of a group of G holds (R82, R85, R378). -/
def planOf (g n : Nat) (b : List Byte) : Plan :=
  let w0 := bytesAt b 0 8
  let share := natBits w0 15 8 / n
  { id := natBits w0 63 32, form := natBits w0 23 20, width := natBits w0 15 8, axis := bytesAt b 12 4, leaf := bytesAt b 8 4,
    first := g * share, count := share }

/-- Is a run of SM taken by a tensor of the loaded build, by one of a resident adapter version, or by a billet? -/
def smTaken (s : State) (a n : Nat) : Bool :=
  (s.prefen.build.tensors ++ s.prefen.adapters.flatMap (fun e => e.2.versions.flatMap (·.tensors))).any
      (fun t => runsMeet a n (nth t.desc 0 0) t.bytes)
    || (allBillets s).any (fun b => (List.range (billetPieces s.prefen.build.d)).any (fun j => runsMeet a n (b.base + j * 0x100000) 2048))

/-- A tensor record of a manifest (R360). -/
def tensorOf (b : List Byte) : Tensor :=
  { desc := (List.range 8).map (fun k => bytesAt b (8 * k) 8), golden := bytesAt b 64 8, bytes := bytesAt b 72 8, crc := bytesAt b 80 8 }

/-- Why a tensor record cannot be loaded, 0 if it can: its destination descriptor is put to R57 to R61. [DEDUCED, log 107] -/
def tensorStatus (s : State) (t : Tensor) : Nat :=
  match descOf t.desc with
  | none => stManifestBad
  | some d =>
    if !(d.space == 4 || d.space == 6) || !dstOk s d || !addrOk s d.space d.base t.bytes then stManifestBad
    else if d.space == 4 && smTaken s d.base t.bytes then stNoMemory else 0

/-- Anchor of a tensor: the greatest bound exponent of its rows, taken from its golden copy in space `sp` (R73). -/
def tensorAnchor (sp : Nat) (t : Tensor) (s : State) : State × Option Int :=
  match descOf t.desc with
  | none => (s, none)
  | some d =>
    let g := { d with space := sp, base := t.golden }
    let (s, bs) := collect (fun k s =>
      let (i1, i2, i3) := rowIdx g k
      let (s, row) := hoodRead g.space (rowAt g i1 i2 i3) (rowBytes g) s
      (s, rowBound g (rowElems g row))) (List.range (rowCount g)) s
    (s, bs.foldl boundMax none)

/-- A tensor's bytes written to its place, with its anchor computed and set in its descriptor (R73). The descriptor of a tensor with
no bounded block gets the code 0x8000 that R174 gives such a row. [DESIGN CHOICE, log 170] -/
def placeTensor (sp : Nat) (t : Tensor) (l : List PByte) (s : State) : State × Tensor :=
  let s := imageWrite (natBits (nth t.desc 1 0) 63 60) (nth t.desc 0 0) l s
  let (s, a) := tensorAnchor sp t s
  (s, { t with desc := t.desc.set 7 (nth t.desc 7 0 / 2 ^ 17 * 2 ^ 17 + 2 ^ 16 + anchorCode a) })

/-- A tensor copied from its golden copy and checked, with its anchor set (R73, R360 steps 2 and 3): one with no bounded block as
`placeTensor` says. [DESIGN CHOICE, log 170] -/
def loadTensor (t : Tensor) (s : State) : State × Option Tensor :=
  let (s, l) := hoodRead 5 t.golden t.bytes s
  if l.any (·.2) || crc64 (l.map (·.1)) != t.crc then (s, none)
  else
    let (s, t) := placeTensor 5 t l s
    (s, some t)

/-- An adapter's tensors copied out of its image, which no rule gives a CRC, each with its anchor set (R73, R361). -/
def loadAdapter (sp : Nat) : List Tensor → State → State × Option (List Tensor)
  | [], s => (s, some [])
  | t :: ts, s =>
    let (s, l) := hoodRead sp t.golden t.bytes s
    if l.any (·.2) then (s, none)
    else
      let (s, t) := placeTensor sp t l s
      let (s, r) := loadAdapter sp ts s
      (s, r.map (fun ts => t :: ts))

def loadTensors : List Tensor → State → State × Option (List Tensor)
  | [], s => (s, some [])
  | t :: ts, s =>
    match loadTensor t s with
    | (s, none) => (s, none)
    | (s, some t) =>
      match loadTensors ts s with
      | (s, none) => (s, none)
      | (s, some ts) => (s, some (t :: ts))

/-- The build that a manifest names, once it is checked and its tensors are placed; else the status of the failure (R360). One whose
head dimension or vocabulary breaks R192 or R328 is no manifest. [DEDUCED, log 177] -/
def loadBuild (w : List Nat) (s : State) : State × Except Nat Build :=
  let space := natBits (nth w 1 0) 63 60
  let n := natBits (nth w 1 0) 31 0
  let (s, l) := hoodRead space (nth w 0 0) n s
  let b := l.map (·.1)
  let nT := bytesAt b 8 4
  let nP := bytesAt b 12 4
  let offP := bytesAt b 16 8
  let plans := (List.range nP).map (fun k => (b.drop (offP + 32 * k)).take 32)
  let recs := (List.range nT).map (fun k => (b.drop (64 + 96 * k)).take 96)
  let d := bytesAt b 44 2
  let fmt := bytesAt b 46 1
  if n < 64 || l.any (·.2) || crc64 (b.take 56 ++ b.drop 64) != bytesAt b 56 8 || n < 64 + 96 * nT || n < offP + 32 * nP
      || n < bytesAt b 24 8 + bytesAt b 32 4 || !(fmt == 3 || fmt == 4) || d % 16 != 0 || d < 32 || 240 < d
      || bytesAt b 36 4 < 2 || 1048576 < bytesAt b 36 4 || 1 < bytesAt b 47 1 || bytesAt b 48 8 != 0
      || recs.any (fun r => bytesAt r 88 8 != 0) then (s, .error stManifestBad)
  else if !plans.all (planOk s.group.modules) then (s, .error stPlanInvalid)
  else
    match (recs.map tensorOf).find? (fun t => tensorStatus s t != 0) with
    | some t => (s, .error (tensorStatus s t))
    | none =>
      match loadTensors (recs.map tensorOf) s with
      | (s, none) => (s, .error stManifestBad)
      | (s, some ts) =>
        (s, .ok { state := 2, id := bytesAt b 0 8, vocab := bytesAt b 36 4, layers := bytesAt b 40 2, heads := bytesAt b 42 2, d := d,
                  fmt := fmt, exact := bytesAt b 47 1 == 1, space := space, tensors := ts,
                  plans := plans.map (planOf s.group.self s.group.modules) })

/-- Micro-programs written by Prefen while mp_wen is 1 (R178). -/
def writePrograms (mp : List (Fin 20 × Fin 256 × Word)) (s : State) : State :=
  let s := overList (fun (e : Fin 20 × Fin 256 × Word) s => mpWen e.1.val true s) mp s
  let s := overList (fun (e : Fin 20 × Fin 256 × Word) s => mpWrite e.1.val e.2.1.val e.2.2 s) mp s
  overList (fun (e : Fin 20 × Fin 256 × Word) s => mpWen e.1.val false s) mp s

/-- The build made current: the commit point of a load (R89, R360 step 4). -/
def adoptBuild (o : AsyncOp) (b : Build) (s : State) : State :=
  endOp o 0 0 false (updPrefen (fun p => { p with build := b, loading := false }) s)

/-- A load that failed (R360). -/
def failLoad (o : AsyncOp) (status : Nat) (s : State) : State :=
  endOp o status 0 false (updPrefen (fun p => { p with loading := false }) s)

/-- MODEL_LOAD_COMMIT (R73, R83, R178, R360, R378): `mp` holds the store words that the manifest's program image carries for this
module, as (stack, address, word). In a group the load commits when every member has taken the build over. -/
def execModelLoadCommit (tag : BitVec 32) (mp : List (Fin 20 × Fin 256 × Word)) (s : State) : Host.Outcome State Fault Refusal := prefenRow s fun s =>
  match s.prefen.ops.find? (fun o => o.op == 0x40 && o.tag == tag.toNat) with
  | none => noEvent s
  | some o =>
    if !prefenReady s || !groupFree s || !o.awaits.isEmpty || s.prefen.step.on || mp.any (fun e => swgBusy s e.1.val) then noEvent s
    else match o.built with
      | some b => done (if o.failed = 0 then adoptBuild o b s else failLoad o o.failed s)
      | none =>
        if natBits (nth o.words 1 0) 63 60 == 5 && !hmOpen s 0 then noEvent s
        else match loadBuild o.words s with
          | (s, .error st) => done (failLoad o st s)
          | (s, .ok b) =>
            let s := writePrograms mp s
            done (if (memberPositions s).isEmpty then adoptBuild o b s
                  else tellMembers [msgForward, o.tag, 0x40] (setOp { o with built := some b, awaits := memberPositions s } s))

/-- MODEL_UNLOAD (R359). -/
def execModelUnload (m : Fin 16) (s : State) : Host.Outcome State Fault Refusal := prefenRow s fun s =>
  mbCmd m.val 0x41 (fun w s =>
    let c : Caller := .mailbox m.val
    if s.prefen.build.state != 2 then refuse c stNoModel s
    else if !s.prefen.sessions.isEmpty then refuse c stModelInUse s
    else if (memberPositions s).isEmpty then respond m.val 0 [] (updPrefen (fun p => { p with build := {} }) s)
    else shareOut c 0x41 w id s) s

/-- MODEL_QUERY (R88, R359). -/
def execModelQuery (m : Fin 16) (s : State) : Host.Outcome State Fault Refusal := prefenRow s fun s =>
  mbCmd m.val 0x42 (fun _ s =>
    let b := s.prefen.build
    let st := if b.state = 2 then 2 else if s.prefen.loading then 1 else 0
    respond m.val 0 [b.id, st * 2 ^ 60 + b2n b.exact, b.vocab, b.layers * 2 ^ 48 + b.heads * 2 ^ 32 + b.d * 2 ^ 16 + b.fmt] s) s

/-! ### Adapters -/

/-- Adapter slots (R28, R298). -/
def adapterSlots : Nat := 4096

/-- ADAPTER_LOAD (R298, R361): accepted. [DESIGN CHOICE, log 108] -/
def execAdapterLoad (m : Fin 16) (s : State) : Host.Outcome State Fault Refusal := prefenRow s fun s =>
  mbCmd m.val 0x50 (fun w s =>
    let c : Caller := .mailbox m.val
    let slot := natBits (nth w 0 0) 15 0
    let space := natBits (nth w 2 0) 63 60
    if adapterSlots ≤ slot || !(space == 4 || space == 5) then refuse c stBadParam s
    else if s.prefen.build.state != 2 then refuse c stNoModel s
    else if 4 ≤ (adapter s slot).versions.length then refuse c stAdapterBusy s
    else acceptOp c 0x50 w [] s) s

/-- The number after a version number: 2^32 − 1 is followed by 1 (R298). -/
def nextVersion (v : Nat) : Nat := if (v + 1) % 2 ^ 32 = 0 then 1 else (v + 1) % 2 ^ 32

/-- A tensor of an adapter image: the words of the destination descriptor that Prefen gives it, where its bytes stand in the image,
and how many they are. -/
def adapterTensor (sp image : Nat) (e : List Nat × Nat × Nat) : Tensor :=
  { desc := (List.range 8).map (fun k => nth e.1 k 0 % 2 ^ 64), golden := image + e.2.1, bytes := e.2.2, crc := 0,
    space := sp, ofImage := true }

/-- ADAPTER_PUBLISH (R73, R298, R361): the load ends as the check of its image came out; neither an adapter image's form nor Prefen's
allocation is given. -/
def execAdapterPublish (tag : BitVec 32) (result : AdapterEnd) (s : State) : Host.Outcome State Fault Refusal := prefenRow s fun s =>
  match s.prefen.ops.find? (fun o => o.op == 0x50 && o.tag == tag.toNat) with
  | none => noEvent s
  | some o =>
    if !prefenReady s || !groupFree s || !serialFree s then noEvent s
    else match result with
    | .bad => done (endOp o stManifestBad 0 false s)
    | .full => done (endOp o stNoMemory 0 false s)
    | .placed ts =>
      let slot := natBits (nth o.words 0 0) 15 0
      let image := nth o.words 1 0
      let sp := natBits (nth o.words 2 0) 63 60
      let n := natBits (nth o.words 2 0) 31 0
      let l := ts.map (adapterTensor sp image)
      match l.find? (fun t => tensorStatus s t != 0) with
      | some t => done (endOp o (tensorStatus s t) 0 false s)
      | none =>
        if sp == 5 && !hmOpen s 0 then noEvent s
        else if ts.any (fun e => decide (n < e.2.1 + e.2.2)) then done (endOp o stManifestBad 0 false s)
        else match loadAdapter sp l s with
          | (s, none) => done (endOp o stManifestBad 0 false s)
          | (s, some l) =>
            let a := adapter s slot
            let v := nextVersion a.current
            let ver : Version := { num := v, image := image, space := sp, bytes := n, tensors := l }
            done (endOp o 0 v false (setAdapter slot { versions := a.versions ++ [ver], current := v } s))

/-- ADAPTER_REMOVE (R298, R361). -/
def execAdapterRemove (m : Fin 16) (s : State) : Host.Outcome State Fault Refusal := prefenRow s fun s =>
  mbCmd m.val 0x51 (fun w s =>
    let c : Caller := .mailbox m.val
    let slot := natBits (nth w 0 0) 15 0
    if adapterSlots ≤ slot then refuse c stBadParam s
    else if (adapter s slot).versions.isEmpty then refuse c stAdapterAbsent s
    else if (adapter s slot).versions.any (fun v => pins s slot v.num != 0) then refuse c stAdapterPinned s
    else respond m.val 0 [] (setAdapter slot {} s)) s

/-- ADAPTER_QUERY (R361). -/
def execAdapterQuery (m : Fin 16) (s : State) : Host.Outcome State Fault Refusal := prefenRow s fun s =>
  mbCmd m.val 0x52 (fun w s =>
    let slot := natBits (nth w 0 0) 15 0
    let a := adapter s slot
    let word (k : Nat) : Nat := match a.versions[k]? with | some v => v.num * 2 ^ 32 + pins s slot v.num | none => 0
    if adapterSlots ≤ slot then refuse (.mailbox m.val) stBadParam s
    else respond m.val 0 (a.current :: (List.range 4).map word) s) s

/-! ### Queues -/

/-- R489 on a queue-table record. -/
def queueRecordOk (w0 w1 w2 : Nat) : Bool :=
  let kind := natBits w2 50 48
  let key := natBits w2 31 0
  let lg := natBits w2 55 51
  let rs := natBits w2 63 60
  let js := natBits w2 59 56
  (match kind with
   | 1 => key == 0
   | 2 => key ≤ 19
   | 3 => key ≤ 1535
   | 4 => 6 ≤ key && key ≤ 69
   | _ => false)
  && 4 ≤ lg && lg ≤ 16 && (rs == 4 || rs == 5) && (js == 4 || js == 5) && w0 % 64 == 0 && w1 % 32 == 0 && natBits w2 46 32 == 0
  && (rs != 4 || rangeOk 4 w0 (64 * 2 ^ lg)) && (js != 4 || rangeOk 4 w1 (32 * 2 ^ lg))

/-- Prefen writes words 0 to 2 of an entry and the scheduler reads them (R268, R269); a Tongs queue's channel is bound (R245). [DEDUCED, log 36] -/
def enableQueue (q start w0 w1 w2 : Nat) (s : State) : State :=
  let a := qtAddr s q
  let (s, (g, bad)) := memReadNat (schedWho 0) 4 (a + 60) 4 s
  let s := smithStore a (leBytes 8 w0 ++ leBytes 8 w1 ++ leBytes 8 w2) s
  let kind := natBits w2 50 48
  let key := natBits w2 31 0
  let x : Queue := { ringBase := w0, jrnlBase := w1, ringSpace := natBits w2 63 60, jrnlSpace := natBits w2 59 56, lg := natBits w2 55 51,
                     ckind := kind, stamp := natBit w2 47, ckey := key, prod := start, taken := start, done := start,
                     gen := ((if bad then 0 else g) + 1) % 2 ^ 32 }
  let s := setQueue q x s
  let s := if kind = 3 then
      let r := chanReg (key / 64) (key % 64) 0
      channelBind (key / 64) (key % 64) (withField (withField (rg s r) 63 63 1) 19 0 q) s
    else s
  let s := setQueue q { queue s q with shown := qstate s q } s
  writeBack q s

/-- QUEUE_ENABLE (R269, R361, R489). -/
def execQueueEnable (m : Fin 16) (s : State) : Host.Outcome State Fault Refusal := prefenRow s fun s =>
  mbCmd m.val 0x60 (fun w s =>
    let c : Caller := .mailbox m.val
    let q := natBits (nth w 0 0) 19 0
    let (w0, w1, w2) := (nth w 2 0, nth w 3 0, nth w 4 0)
    let key := natBits w2 31 0
    let r := chanReg (key / 64) (key % 64) 0
    if !queueRecordOk w0 w1 w2 then refuse c stBadParam s
    else if (queue s q).ckind != 0 then refuse c stQueueState s
    else if natBits w2 50 48 == 3 && rf s r 63 63 == 1 && rf s r 19 0 != q then refuse c stChannelBusy s
    else respond m.val 0 [] (enableQueue q (natBits (nth w 1 0) 31 0) w0 w1 w2 s)) s

/-- QUEUE_DISABLE (R269, R361). -/
def execQueueDisable (m : Fin 16) (s : State) : Host.Outcome State Fault Refusal := prefenRow s fun s =>
  mbCmd m.val 0x61 (fun w s =>
    let c : Caller := .mailbox m.val
    let q := natBits (nth w 0 0) 19 0
    let x := queue s q
    let st := qstate s q
    if st = 0 then refuse c stQueueState s
    else if st != 1 && st != 4 then refuse c stQueueBusy s
    else
      let s := disableQueue q s
      let s := if x.ckind = 3 then
          let r := chanReg (x.ckey / 64) (x.ckey % 64) 0
          channelBind (x.ckey / 64) (x.ckey % 64) (withField (rg s r) 63 63 0) s
        else s
      respond m.val 0 [] s) s

/-- QUEUE_RESUME (R271, R361). -/
def execQueueResume (m : Fin 16) (s : State) : Host.Outcome State Fault Refusal := prefenRow s fun s =>
  mbCmd m.val 0x62 (fun w s =>
    let q := natBits (nth w 0 0) 19 0
    if qstate s q != 4 then refuse (.mailbox m.val) stQueueState s
    else respond m.val 0 [] (syncQueue q (setQueue q { queue s q with stopped := false } s))) s

/-- Commands from `taken` up to prod journaled FLUSHED (R271): the count so far. -/
def flushQueue (q prod : Nat) : Nat → Nat → State → State × Nat
  | 0, n, s => (s, n)
  | fuel + 1, n, s =>
    let x := queue s q
    let h := headHdr s q
    if x.taken = prod || diff32 prod x.taken < h.slots then (s, n)
    else
      let tag := if x.stamp then 0 else h.tag
      let a := x.jrnlBase + 32 * (x.taken % 2 ^ x.lg)
      let bs := cleanBytes (jrnlBytes s.time tag (partnerByte s) x.taken q { state := 0, status := stFlushed })
      let s := if x.jrnlSpace = 4 then (postWrite (schedWho tag) schedSource a bs .plain s).1 else memWrite (schedWho tag) x.jrnlSpace a bs s
      let taken := (x.taken + h.slots) % 2 ^ 32
      flushQueue q prod fuel (n + 1) (setQueue q { x with taken := taken, done := doneAt taken x.run } s)

/-- QUEUE_FLUSH (R271, R361). -/
def execQueueFlush (m : Fin 16) (s : State) : Host.Outcome State Fault Refusal := prefenRow s fun s =>
  mbCmd m.val 0x63 (fun w s =>
    let q := natBits (nth w 0 0) 19 0
    if qstate s q != 4 then refuse (.mailbox m.val) stQueueState s
    else
      let x := queue s q
      let (s, n) := flushQueue q x.prod (diff32 x.prod x.taken) 0 s
      respond m.val 0 [n] (syncQueue q s)) s

/-! ### Rings -/

/-- A request that is not retired names a ring (R311). -/
def ringNamed (s : State) (id : Nat) : Bool := s.prefen.requests.any (fun r => r.ring == id)

/-- RING_REGISTER (R306, R361, R489). [DEDUCED, log 104] -/
def execRingRegister (m : Fin 16) (s : State) : Host.Outcome State Fault Refusal := prefenRow s fun s =>
  mbCmd m.val 0x68 (fun w s =>
    let c : Caller := .mailbox m.val
    let id := natBits (nth w 0 0) 15 0
    let (a, b, e, d) := (nth w 1 0, nth w 2 0, nth w 3 0, nth w 4 0)
    if !ringRecordOk a b e d then refuse c stBadParam s
    else if (ringAt s id).on || ringNamed s id then refuse c stRingInUse s
    else respond m.val 0 [] (setRing id (ringOf a b e) s)) s

/-- RING_UNREGISTER (R311, R361). -/
def execRingUnregister (m : Fin 16) (s : State) : Host.Outcome State Fault Refusal := prefenRow s fun s =>
  mbCmd m.val 0x69 (fun w s =>
    let c : Caller := .mailbox m.val
    let id := natBits (nth w 0 0) 15 0
    if !(ringAt s id).on then refuse c stBadRing s
    else if ringNamed s id then refuse c stRingInUse s
    else respond m.val 0 [] (setRing id {} s)) s

/-! ### Queries -/

/-- SESSION_QUERY (R362). -/
def execSessionQuery (m : Fin 16) (s : State) : Host.Outcome State Fault Refusal := prefenRow s fun s =>
  mbCmd m.val 0x18 (fun w s =>
    let id := natBits (nth w 0 0) 31 0
    match session s id with
    | none => refuse (.mailbox m.val) stSessionUnknown s
    | some x =>
      respond m.val 0 [x.len * 2 ^ 32 + sessionState s x * 2 ^ 24 + x.slot, s.prefen.ingotTable, x.build,
        x.aslot * 2 ^ 48 + x.aver, x.step, (requestsOf s id).length % 2 ^ 16] s) s

/-- REQUEST_QUERY (R362). [DEDUCED, log 105] -/
def execRequestQuery (m : Fin 16) (s : State) : Host.Outcome State Fault Refusal := prefenRow s fun s =>
  mbCmd m.val 0x19 (fun w s =>
    match request s (natBits (nth w 0 0) 31 0) with
    | none => refuse (.mailbox m.val) stUnknownRequest s
    | some r => respond m.val 0 [r.session * 2 ^ 32 + r.state, r.generated, if terminal r then r.endStep else r.lastStep] s) s

end Sys2Proof.Machine
end

