-- ==== Sys2Proof/Machine/Maintenance.lean ====
section
/-! DEFINITION. The maintenance opcodes but for MODULE_RESET: sleep and wake, hearth resets, ECC_TEST and firmware update
(spec/15_mailboxes_and_prefen_commands.md R364, R490; spec/14_parking_and_ingots.md R343; spec/19_islands_power_and_heat.md R416, R417;
spec/20_faults_and_recovery.md R446 to R450 and the reset rules of the blocks, R187, R242, R282, R408). -/

namespace Sys2Proof.Machine

/-! ### Sleep -/

/-- May the module sleep (R343)? -/
def mayRest (s : State) : Bool :=
  s.prefen.sessions.all (fun e => e.2.parked) && !s.prefen.step.on && !s.prefen.ops.any (fun o => o.op == 0x16 || o.op == 0x17)

/-- SLEEP (R343, R364, R416): answered, then every stack is asked into self-refresh. [DEDUCED, log 109] -/
def execSleep (m : Fin 16) (s : State) : Host.Outcome State Fault Refusal := live s <|
  mbCmd m.val 0x80 (fun _ s =>
    if !mayRest s then refuse (.mailbox m.val) stSessionBusy s
    else
      let s := respond m.val 0 [] s
      let s := overList srRequest (List.range 20) s
      setPstate 4 (updPrefen (fun p => { p with sleptAt := s.time }) s)) s

/-- Every cluster of the module, by number. -/
def allClusters : List Nat := List.range 64

/-- SLEEP_ENTERED (R417 steps 2 and 3): every stack is in self-refresh; the quadrant rails go off. -/
def execSleepEntered (s : State) : Host.Outcome State Fault Refusal := live s <|
  if pstate s != 4 || !(List.range 20).all (fun n => srState s n == 2 || stackDead s n) then noEvent s
  else
    let s := overList (fun x s => coreDown x s) allClusters s
    done (setPstate 3 (updEmber (fun e => { e with rails := [] }) { s with banks := [] }))

/-- WAKE (R343, R417 steps 4 and 5): a mailbox doorbell, or a doorbell to a Prefen queue, waits; the rails begin to ramp. -/
def execWake (s : State) : Host.Outcome State Fault Refusal := live s <|
  if pstate s != 3 || ((firstRung s).isNone && !anyPending s) then noEvent s
  else done (setPstate 5 s)

/-- Scrub passes started at wake after a sleep longer than the period (R343). -/
def wakeScrub (n : Nat) (s : State) : State :=
  let period := rf s (stkReg n 0x200) 15 8 * 3600000000000
  if period != 0 && period < s.time - s.prefen.sleptAt && rf s (stkReg n 0x200) 1 1 == 0 then scrubBegin n s else s

/-- A Hammer core released to its boot address (R234, R417). -/
def releaseHammer (x : Nat) (s : State) : State :=
  let r := clReg (x / 16) (x % 16) 0
  if rf s r 0 0 = 1 then
    { s with corePc := tabSet 0 s.corePc x (rg s (clReg (x / 16) (x % 16) 0x20)), umode := tabSet false s.umode x false }
  else s

/-- WAKE_DONE (R343, R417 step 6): self-refresh requests are cleared; once every stack is ACTIVE and every quadrant rail has ramped,
the module runs. -/
def execWakeDone (s : State) : Host.Outcome State Fault Refusal := live s <|
  if pstate s != 5 then noEvent s
  else
    let s := overList srRelease (List.range 20) s
    if !(List.range 20).all (fun n => srState s n == 0) || (List.range 16).any (fun q => quadClock s q == 0) then done s
    else
      let s := { s with mem := { s.mem with valid := s.mem.valid.filter (fun e => e.1 / 2 ^ 64 != 1) } }
      let s := overList (fun x s => releaseHammer x s) allClusters s
      done (setPstate 2 (overList wakeScrub (List.range 20) s))

/-! ### Hearth resets -/

/-- A fault record of an interrupted word or command (R242, R435). [DEDUCED, log 110] -/
def interruptRecord (i tag src prog : Nat) (s : State) : State :=
  faultRecord { code := 0x252, hearth := i, tag := tag, state := b2n (prog != 0), src := src, progress := prog } s

/-- The words of a core recorded, those that ran as PARTIAL and those that wait as NOT_STARTED; its queues, counters and banks
cleared (R228, R242). -/
def clearCore (x : Nat) (s : State) : State :=
  let s := overList (fun eng s =>
    overList (fun (w : EngWord) s => interruptRecord (90 + x) w.tag (engSource eng) (if w.ran then w.prog else 0) s)
      (engQueue (coreSt s x) eng) s) [0, 1, 2] s
  let s := setCore x {} s
  { s with banks := s.banks.filter (fun e => e.1 / 2 != x) }

/-- A core put into RESET by a hearth reset of its own: what its queues kept waiting goes on (R235, R242). -/
def resetCore (x : Nat) (s : State) : State := retryPush (x / 256) (x / 16 % 16) (clearCore x s)

/-- Commands of a consumer's queues that a hearth reset ends, and the queues STOPPED (R282). The command of a cluster queue was
started or not as its Hammer core's program knows. -/
def stopQueue (q : Nat) (s : State) : State :=
  let s := overList (fun (c : QCmd) s =>
    if (waitOf s q).on && (waitOf s q).idx = c.idx then endWait q { state := 0, status := stHearthReset } s
    else if (queue s q).ckind = 4 && entryOwed s q c then
      let (s, st) := startedByProgram s
      journal q c.idx c.tag { state := st, status := stHearthReset } s
    else s) (queue s q).run s
  syncQueue q (setQueue q { queue s q with stopped := true } s)

/-- Queues whose consumer is hearth i. -/
def queuesOf (s : State) (kind key : Nat) : List Nat := (s.queues.filter (fun e => e.2.ckind == kind && e.2.ckey == key)).map (·.1)

/-- A cluster put into RESET (R242, R282, R400, R408). -/
def resetCluster (a c : Nat) (s : State) : State :=
  let x := clusterNo a c
  let s := overList (fun k s => clearCore (coreNo a c k) s) (List.range 16) s
  let y := cluster s x
  let s := overList (fun (w : EngWord) s => interruptRecord (hxCluster a c) w.tag (engSource 3) (if y.moving.contains w then w.prog else 0) s)
    (y.moving ++ y.bq) s
  let s := coreDown x (setCluster x {} s)
  let s := overList stopQueue (queuesOf s 4 (hxCluster a c)) s
  restartTags (clusterCode a c) (bellReset a c s)

/-- The command running on a stack, if it has started step 3 of R169, stopped (R172, R187). -/
def interruptStack (n : Nat) (s : State) : State :=
  let r := stackRun s n
  if r.phase < 3 then s
  else
    let s := faultRecord { code := 0x252, hearth := hxStack n, tag := r.tag, state := b2n r.wroteSm, src := 5, qid := r.qid } s
    dropUnits n (stopRun n stHearthReset s)

/-- A stack put into RESET (R187, R282, R400), with the faults of its units cleared (R437). -/
def resetStack (n : Nat) (s : State) : State :=
  let mine (i : Nat) : Bool := 1114 + 512 * n ≤ i && i < 1114 + 512 * (n + 1)
  let s := overList (fun i s => updHearth i (fun h => { h with faulted := false }) s) ((s.hearths.map (·.1)).filter mine) s
  let s := overList stopQueue (queuesOf s 2 n) (interruptStack n s)
  restartTags (0x40 + n) (clearCounters (hxStack n) s)

/-- Write-backs of the queues that a hearth's reset holds or releases at its stack (R171, R268). -/
def syncReset (i : Nat) (s : State) : State :=
  if 70 ≤ i ∧ i < 90 then syncStack (i - 70) s else if 1114 ≤ i then syncStack ((i - 1114) / 512) s else s

/-- A step in flight that a hearth reset meets does not commit and is to be executed again; a member tells its lead (R89, R447). -/
def resetStep (s : State) : State :=
  if !s.prefen.step.on then s
  else
    let s := updPrefen (fun p => { p with step := { p.step with again := true } }) s
    if isLead s then s else sendMsg s.group.lead [msgAck, s.prefen.step.num, 1] s

/-- HEARTH_RESET, enter, of a hearth index (R364, R437); last_tag keeps the tag of the last command committed. [DESIGN CHOICE, log 168] -/
def hearthReset (i : Nat) (s : State) : State :=
  let s := resetStep s
  let s :=
    if i < 70 then resetCluster ((i - 6) / 16) ((i - 6) % 16) s
    else if i < 90 then resetStack (i - 70) s
    else if i < 1114 then resetCore (i - 90) s
    else interruptStack ((i - 1114) / 512) s
  syncReset i (updHearth i (fun h => { h with reset := true, faulted := false, running := false }) s)

/-- HEARTH_RESET, leave (R187, R234, R448). -/
def hearthRelease (i : Nat) (s : State) : State :=
  let s := syncReset i (updHearth i (fun h => { h with reset := false }) s)
  if i < 70 then releaseHammer (i - 6) s else s

/-- A HEARTH_RESET whose direction is that of the row. -/
def hearthRow (m : Nat) (leave : Bool) (act : Nat → State → State) (s : State) : Host.Outcome State Fault Refusal :=
  if natBit (nth (mbox s m).req 2 0) 16 != leave then noEvent s
  else mbCmd m 0x82 (fun w s =>
    let i := natBits (nth w 0 0) 15 0
    if i < 6 || 11353 < i then refuse (.mailbox m) stBadParam s else respond m 0 [] (act i s)) s

/-- HEARTH_RESET_ENTER. -/
def execHearthResetEnter (m : Fin 16) (s : State) : Host.Outcome State Fault Refusal := live s <| hearthRow m.val false hearthReset s

/-- HEARTH_RESET_LEAVE. -/
def execHearthResetLeave (m : Fin 16) (s : State) : Host.Outcome State Fault Refusal := live s <| hearthRow m.val true hearthRelease s

/-! ### ECC_TEST -/

/-- Stack or site that an ECC_TEST address names. -/
def eccSite (space a : Nat) : Nat := if space = 4 then smStack a else a / 2 ^ 32

/-- An ECC_TEST operation on its word, through the test registers of its site (R490). `pos` is the greatest position allowed for SM
and for CB. [DEDUCED, log 112] -/
def eccTest (m : Nat) (ops : List Nat) (last : Nat → Nat) (act : (b space a : Nat) → (pos val : Nat) → State → State × List Nat)
    (s : State) : Host.Outcome State Fault Refusal :=
  if !ops.contains (natBits (nth (mbox s m).req 3 0) 2 0) then noEvent s
  else mbCmd m 0x83 (fun w s =>
    let c : Caller := .mailbox m
    let a := nth w 0 0
    let w1 := nth w 1 0
    let space := natBits w1 63 60
    let op := natBits w1 2 0
    let pos := natBits w1 15 8
    let val := natBits w1 23 16
    if !(space == 3 || space == 4) || 4 < op || last space < (if op = 1 || op = 2 then pos else 0)
        || ((op = 1 || op = 2) && space == 4 && val == 0) then refuse c stBadParam s
    else
      let b := min (eccSite space a) 19
      let s' := setRg (eccCtl b + 8) (BitVec.ofNat 64 a) (setRf (eccCtl b) 27 24 space (setRf (eccCtl b) 2 2 0 s))
      if eccSite space a != b || !eccAllowed s' b then refuse c stTestRefused (setRf (eccCtl b) 2 2 1 s)
      else
        let (s, words) := act b space a pos val s'
        respond m 0 words s) s

/-- A CB word with bit `pos` of its codeword flipped (R165). -/
def flipCb (pos : Nat) (w chk : Nat) : Nat × Nat :=
  if pos < 64 then (w ^^^ 2 ^ pos, chk) else (w, chk ^^^ 2 ^ (pos - 64))

/-- An SM word with a value added to symbol `pos`: symbols 0 to 3 are the check symbols (R142, R164). -/
def addSm (pos val : Nat) (d : List Byte) (chk : List Nat) : List Byte × List Nat :=
  if pos < 4 then (d, chk.set pos (nth chk pos 0 ^^^ val)) else (d.set (pos - 4) (nth d (pos - 4) 0 ^^^ BitVec.ofNat 8 val), chk)

/-- A word read raw and written back with the named positions disturbed, its row filled first (R490). -/
def disturb (space a : Nat) (positions : List Nat) (val : Nat) (s : State) : State :=
  if space = 4 then
    let pa := smPhys s a
    let s := fillRow 4 a pa s
    let (d, chk) := positions.foldl (fun x p => addSm p val x.1 x.2) (rawBytes s 4 pa 32, rawChk s pa)
    afterWrite a d ((rsDecode chk d).1 == .poison) (rawStore pa d chk s)
  else
    let s := fillRow 3 a a s
    let k := cellKey 3 a
    let (w, chk) := positions.foldl (fun x p => flipCb p x.1 x.2) (leNat (rawBytes s 3 a 8), (tabGet 0 s.mem.chk k).toNat)
    setSramWord 3 a w chk (tabGet 0 s.mem.poison k) s

/-- A word written as poison with its data as stored (R152, R165, R490). -/
def poisonStored (space a : Nat) (s : State) : State :=
  if space = 4 then
    let pa := smPhys s a
    let s := fillRow 4 a pa s
    let d := rawBytes s 4 pa 32
    afterWrite a d true (rawStore pa d (rsPoison d) s)
  else
    let s := fillRow 3 a a s
    setSramWord 3 a (leNat (rawBytes s 3 a 8)) (tabGet 0 s.mem.chk (cellKey 3 a)).toNat 7 s

/-- Last symbol or bit position of a word of a space (R490). -/
def lastPos (space : Nat) : Nat := if space = 4 then 35 else 71

/-- ECC_TEST_READ: op 0, a decoded read (R164, R490), and every op that is not defined. -/
def execEccTestRead (m : Fin 16) (s : State) : Host.Outcome State Fault Refusal := live s <|
  eccTest m.val [0, 5, 6, 7] (fun _ => 0) (fun b _ _ _ _ s =>
    let s := eccDecodedRead b testWho s
    let c := eccCtl b
    let res := rf s c 31 28
    let data := (List.range 4).map (fun k => if res ≤ 1 then (rg s (c + 16 + 8 * k)).toNat else 0)
    let data := if rf s c 27 24 = 3 then (data.take 1) ++ [0, 0, 0] else data
    (s, (res * 2 ^ 28 + rf s c 23 16 * 2 ^ 16) :: data)) s

/-- ECC_TEST_ADD: op 1. -/
def execEccTestAdd (m : Fin 16) (s : State) : Host.Outcome State Fault Refusal := live s <|
  eccTest m.val [1] lastPos (fun _ space a pos val s => (disturb space a [pos] val s, List.replicate 5 0)) s

/-- ECC_TEST_ADD_TWO: op 2, at two adjacent positions. -/
def execEccTestAddTwo (m : Fin 16) (s : State) : Host.Outcome State Fault Refusal := live s <|
  eccTest m.val [2] (fun space => lastPos space - 1) (fun _ space a pos val s => (disturb space a [pos, pos + 1] val s, List.replicate 5 0)) s

/-- ECC_TEST_POISON: op 3. -/
def execEccTestPoison (m : Fin 16) (s : State) : Host.Outcome State Fault Refusal := live s <|
  eccTest m.val [3] lastPos (fun _ space a _ _ s => (poisonStored space a s, List.replicate 5 0)) s

/-- ECC_TEST_ZERO: op 4. -/
def execEccTestZero (m : Fin 16) (s : State) : Host.Outcome State Fault Refusal := live s <|
  eccTest m.val [4] lastPos (fun _ space a _ _ s =>
    (memWrite testWho space a (cleanBytes (List.replicate (wordBytes space) 0)) s, List.replicate 5 0)) s

/-! ### Firmware -/

/-- FW_UPDATE (R353, R364): `image` says what the bytes at the address prove to be; the slot that is not running is written. [DEDUCED, log 111] -/
def execFwUpdate (m : Fin 16) (image : Image) (s : State) : Host.Outcome State Fault Refusal := live s <|
  mbCmd m.val 0x84 (fun w s =>
    let s := acceptOp (.mailbox m.val) 0x84 w [] s
    match opByTag s (lastOpTag s) with
    | none => s
    | some o =>
      if !imageAccepted s image then endOp o stFwImageBad 0 false s
      else endOp o 0 0 false (flashTouched { s with flash := tabSet {} s.flash (1 - s.runSlot) image })) s

end Sys2Proof.Machine
end

