-- ==== Sys2Proof/Machine/Recovery.lean ====
section
/-! DEFINITION. Poison in a step: origins, repair from the golden copy, and the execution of a tainted step again
(spec/20_faults_and_recovery.md R440 to R443). -/

namespace Sys2Proof.Machine

/-! ### Origins -/

/-- Where a poisoned word lies, as far as recovery goes (R440). -/
inductive Origin where
  /-- offset in a tensor of the build -/
  | tensor (t : Tensor) (off : Nat)
  | session (id : Nat)
  | prompt (req : Nat)
  | queue (q : Nat)
  /-- written by the step itself -/
  | own
  deriving DecidableEq, Repr

/-- Linear byte of a billet at an SM address, if it lies in the billet (R193). -/
def billetOffset (pieces base a : Nat) : Option Nat :=
  ((List.range pieces).find? (fun j => base + j * 0x100000 ≤ a && a < base + j * 0x100000 + 2048)).map
    (fun j => 2048 * j + (a - (base + j * 0x100000)))

/-- Position that a linear byte of a billet belongs to; the header belongs to the billet's first position (R193, R194). -/
def billetPosition (d index l : Nat) : Nat := if l < 64 then 512 * index else 512 * index + (l - 64) / d % 512

/-- Does a session lose cache when the word at an SM address is poisoned: a billet position below L − 1, its root, a list, or its
ingot slot? -/
def losesCache (s : State) (x : Session) (a : Nat) : Bool :=
  let b := s.prefen.build
  x.billets.any (fun y => match billetOffset (billetPieces b.d) y.base a with
    | some l => decide (billetPosition b.d y.index l + 1 < x.len)
    | none => false)
  || runsMeet a 1 x.root (64 + b.layers * (memberHeads s).length * 160)
  || x.lists.any (fun e => runsMeet a 1 e.2 2048)
  || runsMeet a 1 (slotAt s x.slot) 512

/-- The tensor of the build, or of a resident adapter version, that holds an address of a space, and the offset in it. -/
def tensorAt (s : State) (space a : Nat) : Option (Tensor × Nat) :=
  ((s.prefen.build.tensors ++ s.prefen.adapters.flatMap (fun e => e.2.versions.flatMap (·.tensors))).find? (fun t =>
    natBits (nth t.desc 1 0) 63 60 == space && nth t.desc 0 0 ≤ a && a < nth t.desc 0 0 + t.bytes)).map
    (fun t => (t, a - nth t.desc 0 0))

/-- The queue whose table entry, ring or journal holds an SM address. -/
def queueAt (s : State) (a : Nat) : Option Nat :=
  (s.queues.find? (fun e =>
    let x := e.2
    runsMeet a 1 (qtAddr s e.1) 64 || (x.ringSpace == 4 && runsMeet a 1 x.ringBase (64 * 2 ^ x.lg))
      || (x.jrnlSpace == 4 && runsMeet a 1 x.jrnlBase (32 * 2 ^ x.lg)))).map (·.1)

/-- Origin of a poisoned word of this module (R440). -/
def originOf (s : State) (space a : Nat) : Origin :=
  if space != 4 then .own
  else match tensorAt s 4 a with
    | some (t, off) => .tensor t off
    | none => match queueAt s a with
      | some q => .queue q
      | none => match s.prefen.sessions.find? (fun e => losesCache s e.2 a) with
        | some e => .session e.1
        | none => match s.prefen.requests.find? (fun r => !terminal r && runsMeet a 1 r.promptAt (4 * r.promptLeft)) with
          | some r => .prompt r.tag
          | none => .own

/-- Every origin that an overflowed latch of a stack may stand for (R440). -/
def originsOfStack (s : State) (n : Nat) : List Origin :=
  (s.prefen.build.tensors.filter (fun t => natBits (nth t.desc 1 0) 63 60 == 4 && smStack (nth t.desc 0 0) == n)).flatMap
      (fun t => (List.range (ceilDiv t.bytes 65536)).map (fun k => .tensor t (65536 * k)))
    ++ (s.prefen.sessions.filter (fun e => inStep s e.1 && e.2.billets.any (fun b => smStack b.base == n))).map (fun e => .session e.1)

/-- Origins of one entry of the step's list that lies on this module. -/
def localOrigins (s : State) (o : Nat × Nat × Nat × Bool) : List Origin :=
  let (_, space, a, ovfl) := o
  originOf s space a :: (if ovfl && space == 4 then originsOfStack s (smStack a) else [])

/-- Origins of an entry of the step's list; on another member only its tensors are looked for here (R378, R441). -/
def originsOf (s : State) (o : Nat × Nat × Nat × Bool) : List Origin :=
  let (g, space, a, _) := o
  if g = s.group.self then localOrigins s o
  else if space != 4 then [.own]
  else match tensorAt s 6 (nth s.group.members g 0xFF * 2 ^ 48 + a) with
    | some (t, off) => [.tensor t off]
    | none => [.own]

/-! ### Repair -/

/-- One range of a tensor rewritten from its golden copy, or from its adapter's image, or a failed repair (R441). -/
def repairRange (t : Tensor) (off : Nat) (s : State) : State × Bool :=
  let lo := off / 65536 * 65536
  let n := min 65536 (t.bytes - lo)
  let (s, all) := hoodRead t.space t.golden t.bytes s
  if all.any (·.2) || (!t.ofImage && crc64 (all.map (·.1)) != t.crc) then (s, false)
  else (imageWrite (natBits (nth t.desc 1 0) 63 60) (nth t.desc 0 0 + lo) ((all.drop lo).take n) s, true)

/-- Repairs of every tensor origin; false as soon as one fails. [DEDUCED, log 114] -/
def repairAll : List Origin → State → State × Bool
  | [], s => (s, true)
  | .tensor t off :: rest, s =>
    (match repairRange t off s with
     | (s, true) => repairAll rest s
     | (s, false) => (s, false))
  | _ :: rest, s => repairAll rest s

/-- A fault record that Prefen raises for a request (R435, R436, R488). -/
def requestFault (code tag : Nat) (s : State) : State := faultRecord { code := code, hearth := prefenHearth s, tag := tag, src := 0x12 } s

/-- The requests of the step in a session end FAILED; the session is left out of the step's next execution (R440). -/
def dropSessionOfStep (code id : Nat) (s : State) : State :=
  let tags := (s.prefen.step.rows.filter (fun r => r.session == id)).map (·.req)
  let s := overList (fun tag s =>
    match request s tag with
    | none => s
    | some r =>
      if terminal r then s
      else
        let r := { r with lostBillets := r.lostBillets || code = 0x291 }
        endRequest r 0xA 5 code s.prefen.step.num [] false (requestFault code tag s)) tags s
  updPrefen (fun p => { p with step := { p.step with dropped := p.step.dropped ++ [id] } }) s

/-- What an origin costs the step (R440). -/
def failOrigin (o : Origin) (s : State) : State :=
  match o with
  | .session id => if inStep s id && !s.prefen.step.dropped.contains id then dropSessionOfStep 0x291 id s else s
  | .prompt tag =>
    (match s.prefen.step.rows.find? (fun r => r.req == tag) with
     | some r => if s.prefen.step.dropped.contains r.session then s else dropSessionOfStep 0x292 r.session s
     | none => s)
  | .queue q =>
    let x := queue s q
    if x.stopped then s
    else
      let s := faultRecord { code := stPoison, hearth := consumerHearth x, src := consumerSource x, qid := q } s
      syncQueue q (setQueue q { x with stopped := true } s)
  | _ => s

/-- A commit record that changes no length pointer (R443): the step is over, its cancels are resolved. -/
def endStep (s : State) : State :=
  let num := s.prefen.step.num
  let cs := s.prefen.cancels.filter (fun c => c.c == num)
  let s := updPrefen (fun p => { p with step := {}, sparks := [], anchors := [], cancels := p.cancels.filter (fun c => c.c != num) }) s
  resultFlush (resolveCancels num [] cs (resultFlush s))

/-- Every request of the step ends FAILED with REPAIR_FAILED (R443). -/
def giveUpStep (s : State) : State :=
  let num := s.prefen.step.num
  let tags := s.prefen.step.rows.map (·.req)
  endStep (overList (fun tag s =>
    match request s tag with
    | none => s
    | some r => if terminal r then s else endRequest r 0xA 5 0x293 num [] false (requestFault 0x293 tag s)) tags s)

/-! ### Recovery -/

/-- Has a command of the step run to its end, however it ended (R440)? -/
def cmdEnded (s : State) (c : Nat × Nat × Nat) : Bool :=
  let (q, i, _) := c
  if q < 2 ^ 20 then
    let x := queue s q
    !x.run.any (fun e => e.idx == i && !e.jrnl) && (x.stopped || decide (2 ^ 31 ≤ diff32 i x.taken))
  else cmdDone s c

/-- Starts of the repaired ranges among origins: (member, address). -/
def rangeOf (s : State) (o : Nat × Nat × Nat × Bool) : Nat × Nat :=
  match (originsOf s o).head? with
  | some (.tensor t off) => (o.1, nth t.desc 0 0 + off / 65536 * 65536)
  | _ => (o.1, o.2.2.1)

/-- An address of this module that was repaired for the step and is poisoned again has its row remapped (R443). -/
def remapAgain (s : State) : State :=
  let st := s.prefen.step
  overList (fun o s => if o.1 = s.group.self && o.2.1 = 4 && st.repaired.contains (rangeOf s o) then remapRow o.2.2.1 s else s)
    st.origins s

/-- Poison in the queue table, a ring or a journal alone stops the queue and does not taint the step (R440). -/
def onlyQueues (l : List Origin) : Bool := !l.isEmpty && l.all (fun o => match o with | .queue _ => true | _ => false)

/-- The step goes on, its queues stopped. -/
def clearTaint (all : List Origin) (s : State) : State :=
  updPrefen (fun p => { p with step := { p.step with tainted := false, origins := [] } }) (overList failOrigin all s)

/-- The lead decides a tainted step (R440 to R443). -/
def recoverStep (s : State) : State :=
  let st := s.prefen.step
  let all := st.origins.flatMap (originsOf s) ++ st.lost.map Origin.session
  if onlyQueues all then clearTaint all s
  else if 3 ≤ st.execs then giveUpStep (overList failOrigin all s)
  else
    let s := remapAgain s
    match repairAll all s with
    | (s, false) => giveUpStep s
    | (s, true) =>
      let s := overList failOrigin all s
      let ranges := st.origins.map (rangeOf s)
      let s := updPrefen (fun p => { p with sparks := [], anchors := [], step := { p.step with
        again := true, tainted := false, origins := [], lost := [], repaired := p.step.repaired ++ ranges } }) s
      let s := resultFlush s
      if s.prefen.step.rows.all (fun r => s.prefen.step.dropped.contains r.session) then endStep s else s

/-- A member reports what tainted its share, and remaps a row of its own that is poisoned again (R440, R443). -/
def reportTaint (s : State) : State :=
  let st := s.prefen.step
  let s := remapAgain s
  let lost := (st.origins.flatMap (localOrigins s)).filterMap (fun o => match o with | .session id => some id | _ => none)
  let flat := st.origins.flatMap (fun o => [o.2.1, o.2.2.1, b2n o.2.2.2])
  let s := updPrefen (fun p => { p with sparks := [], anchors := [], step := { p.step with
    tainted := false, again := true, origins := [], repaired := p.step.repaired ++ st.origins.map (rangeOf s) } }) s
  sendMsg s.group.lead ([msgAck, st.num, 1] ++ flat ++ lost) s

/-- POISON_RECOVERY (R440 to R443): the step is tainted, its latches are served and its commands have ended. -/
def execPoisonRecovery (s : State) : Host.Outcome State Fault Refusal := prefenRow s fun s =>
  let st := s.prefen.step
  if !prefenReady s || !st.on || st.again || !st.tainted || stepLatched s || !st.cmds.all (cmdEnded s) then noEvent s
  else if !isLead s then
    done (let all := st.origins.flatMap (localOrigins s)
          if onlyQueues all then clearTaint all s else reportTaint s)
  else if !groupFree s || !(memberPositions s).all (fun g => st.acked.contains g) then noEvent s
  else if (st.origins.flatMap (originsOf s)).any (fun o => match o with | .tensor t _ => t.space == 5 | _ => false) && !hmOpen s 0 then noEvent s
  else done (recoverStep s)

end Sys2Proof.Machine
end

