-- ==== Sys2Proof/Machine/HostPort.lean ====
section
/-! DEFINITION. The host port (spec/17_host_port.md R381 to R397, spec/21_bringup_test_and_quench.md R455, R457): link events,
configuration events, function-level resets, PERST_N, MSI-X masks and the host loop-backs. -/

namespace Sys2Proof.Machine

def updCfg (f : Cfg → Cfg) (s : State) : State := { s with cfg := f s.cfg }

/-! ### MSI-X -/

/-- Vectors whose bit is set in a word of the pending bit array. -/
def pendingIn (s : State) (k : Nat) : List Nat :=
  let w := rg s (msixPbaReg (64 * k))
  if w = 0 then [] else ((List.range 64).filter (fun j => bitOf w j)).map (fun j => 64 * k + j)

/-- Messages that were held leave, each once, where no mask holds them any more (R391, R393, R395). -/
def msixFlush (s : State) : State :=
  if !s.cfg.msixEn || frozen s then s
  else overList (fun v s => if msixOpen s v then msixSend v (setRf (msixPbaReg v) (v % 64) (v % 64) 0 s) else s)
    ((List.range 32).flatMap (pendingIn s)) s

/-- The vector control word of a vector with its mask bit written (R386). -/
def setVectorMask (v : Nat) (b : Bool) (s : State) : State := setRf (msixDataReg v) 32 32 (b2n b) s

/-- MSIX_UNMASK (R391): of one vector, or of the function where `v` is none. -/
def execMsixUnmask (v : Option (Fin 2048)) (s : State) : Host.Outcome State Fault Refusal :=
  match v with
  | some k => hostBar s <| liveWrite s <| done (msixFlush (setVectorMask k.val false s))
  | none => if !linkUp s then noEvent s else done (msixFlush (updCfg (fun c => { c with msixMask := false }) s))

/-! ### Configuration events -/

/-- BUS_MASTER_DISABLE (R395). -/
def execBusMasterDisable (s : State) : Host.Outcome State Fault Refusal :=
  if !linkUp s then noEvent s else done (updCfg (fun c => { c with bme := false }) s)

/-- What Prefen holds for the host goes out again, unless the module is frozen. -/
def hostAgain (s : State) : State := if running s then prefenFlush (msixFlush s) else s

/-- BUS_MASTER_ENABLE (R309, R391, R395). -/
def execBusMasterEnable (s : State) : Host.Outcome State Fault Refusal :=
  if !linkUp s then noEvent s else done (hostAgain (updCfg (fun c => { c with bme := true }) s))

/-- A host request held at a PoC or by a freeze (R109, R464). -/
def hostHeld (s : State) : Bool := s.held.any (fun h => accessByHost h.acc)

/-- MEMORY_SPACE_DISABLE (R395): held CXL.mem requests complete first. -/
def execMemorySpaceDisable (s : State) : Host.Outcome State Fault Refusal :=
  if !linkUp s || hostHeld s then noEvent s else done (updCfg (fun c => { c with mse := false, flrMem := false }) s)

/-- D3HOT_ENTRY (R393). -/
def execD3hotEntry (s : State) : Host.Outcome State Fault Refusal :=
  if !linkUp s then noEvent s else done (updCfg (fun c => { c with d3hot := true }) s)

/-- D3HOT_EXIT (R393). -/
def execD3hotExit (s : State) : Host.Outcome State Fault Refusal :=
  if !linkUp s then noEvent s else done (msixFlush (updCfg (fun c => { c with d3hot := false }) s))

/-- Size that the HDM decoder must have (R388). -/
def hdmSize : Nat := 960 * 2 ^ 30

/-- HDM_DECODER_COMMIT (R388): base and size of decoder 0, base of BAR4, whether the decoder is set to HDM-DB, and whether
back-invalidation is enabled in the BI decoder capability. [DEDUCED, log 119] -/
def execHdmDecoderCommit (base size bar4 : Word) (db bi : Bool) (s : State) : Host.Outcome State Fault Refusal :=
  if !linkUp s then noEvent s
  else
    let ok := size.toNat == hdmSize && base == bar4 && db && bi
    let s := updCfg (fun c => { c with hdmBase := base.toNat, hdmSize := size.toNat, biEn := bi, hdmOn := ok, hdmErr := !ok }) s
    done (setRf (hstReg 0) 49 49 (b2n bi) (setRf (hstReg 0) 48 48 (b2n ok) s))

/-! ### Link events -/

/-- May the host port train: startup has reached step 7, no test hold, PERST_N deasserted (R451, R452, R454, R456)? -/
def mayTrain (s : State) : Bool :=
  !s.board.perst && rf s (qchReg 0x40) 0 0 == 0 && (6 ≤ s.board.boot || stageFailed s)

/-- HST_LINK_STAT.state written. -/
def setLinkState (v : Nat) (s : State) : State := setRf (hstReg 0) 63 60 v s

/-- The port starts link training when it may (R451 step 7). -/
def startTraining (s : State) : State := if linkState s = 0 && mayTrain s then setLinkState 1 s else s

/-- HOST_LINK_UP (R382, R397): the link trains at a rate code, width and flit mode; `cache` and `mem` are the host's enables in the
CXL DVSEC. -/
def execHostLinkUp (rate : Fin 7) (width : Fin 32) (flit cache mem : Bool) (s : State) : Host.Outcome State Fault Refusal :=
  if 1 < linkState s || !mayTrain s || rate.val == 0 || !([1, 2, 4, 8, 16].contains width.val) then noEvent s
  else
    let cxl := rate.val == 6 && flit && (width.val == 16 || width.val == 8) && (cache || mem)
    let s := updCfg (fun c => { c with cacheEn := cxl && cache, memEn := cxl && mem, loopback := false }) s
    let s := setRf (hstReg 0) 59 56 rate.val (setRf (hstReg 0) 55 51 width.val (setRf (hstReg 0) 50 50 (b2n flit) s))
    done (hostAgain (setLinkState (if cxl then 3 else 2) s))

/-- LINK_RECOVERY (R395 to R397): the link's errors are reported through AER and its lanes' in HST_LINK_STAT; which were met is free. [DESIGN CHOICE, log 179] -/
def execLinkRecovery (s : State) : Host.Outcome State Fault Refusal :=
  if linkState s != 2 && linkState s != 3 then noEvent s
  else
    let (s, f) := takeFree s
    let s := updCfg (fun c => { c with aerCorr := c.aerCorr || Config.linkCorrected f, aerFatal := c.aerFatal || Config.linkFatal f }) s
    done (satRf (hstReg 0) 15 0 1 (setRf (hstReg 0) 31 16 (rf s (hstReg 0) 31 16 ||| (Config.linkLanes f).toNat) s))

/-- PCIE_LOOPBACK (R455). [PRESUMED, log 118] -/
def execPcieLoopback (enter : Bool) (s : State) : Host.Outcome State Fault Refusal :=
  if linkState s = 0 then noEvent s else done (updCfg (fun c => { c with loopback := enter }) s)

/-! ### Function-level reset, hot reset -/

/-- Configuration space after an FLR (R394 step 4): its reset values, but for sticky AER bits, the CXL DVSECs and the decoders;
MSI-X is disabled and every vector masked. -/
def flrConfig (s : State) : State :=
  let s := updCfg (fun c => { c with flrMem := (c.mse && !c.d3hot) || c.flrMem, bme := false, mse := false, d3hot := false, msixEn := false, msixMask := false }) s
  let s := resetRegsIf (fun o => 0x00148000 ≤ o && o < 0x00148100) s
  overList (fun e s => setRf e 32 32 1 s) ((s.regs.map (·.1)).filter (fun o => 0x00140000 ≤ o && o < 0x00148000 && o % 16 == 8)) s

/-- An FLR, hot reset or link-down that may run now (R394, R395). Before Prefen has released the hearths there is nothing for the
module reset to do. -/
def runFlr (s : State) : State := flrConfig (if s.up then moduleReset s else s)

/-- FLRs, hot resets and answered MODULE_RESETs that wait are handled once the module is not frozen and the operations of R486
have ended (R364, R464, R486). A MODULE_RESET leaves configuration space as it is. -/
def serveWaiting (s : State) : State :=
  if s.board.waiting.isEmpty || frozen s || moduleResetWaits s then s
  else
    let t := { s with board := { s.board with waiting := [] } }
    if s.board.waiting.all (· == 3) then (if s.up then moduleReset t else t) else runFlr t

/-- An FLR or hot reset arrives. [DEDUCED, log 116] -/
def askFlr (kind : Nat) (s : State) : State := serveWaiting { s with board := { s.board with waiting := s.board.waiting ++ [kind] } }

/-! ### Module reset -/

/-- MODULE_RESET (R364, R447, R449): a request is answered, and the reset then waits its turn; the row with a reset waiting, like
the passing of time, is its beginning, once the operations of R486 have ended. [DEDUCED, log 113] -/
def execModuleReset (m : Fin 16) (s : State) : Host.Outcome State Fault Refusal := live s <|
  if mbHas s m.val 0x81 then
    mbCmd m.val 0x81 (fun _ s =>
      let s := respond m.val 0 [] s
      { s with board := { s.board with waiting := s.board.waiting ++ [3] } }) s
  else done (serveWaiting s)

/-- FLR (R394). -/
def execFlr (s : State) : Host.Outcome State Fault Refusal := if !linkUp s then noEvent s else done (askFlr 0 s)

/-- The link's own fields after it went down. [DEDUCED, log 117] -/
def linkDown (v : Nat) (s : State) : State :=
  let s := setRf (hstReg 0) 59 56 0 (setRf (hstReg 0) 55 51 0 (setRf (hstReg 0) 50 50 0 s))
  setLinkState v (updCfg (fun c => { c with loopback := false, cacheEn := false, memEn := false }) s)

/-- HOT_RESET (R395): a hot reset, after which the link trains again, or a link-down other than by PERST_N. -/
def execHotReset (down : Bool) (s : State) : Host.Outcome State Fault Refusal :=
  if linkState s != 2 && linkState s != 3 then noEvent s
  else done (askFlr (if down then 2 else 1) (linkDown (if down then 0 else 1) s))

/-! ### PERST_N -/

/-- PERST_ASSERT (R453, R454): a warm reset after BYE on every port; during cold steps 1 to 6 startup goes on and holds before
step 7. -/
def execPerstAssert (s : State) : Host.Outcome State Fault Refusal :=
  let pin (s : State) : State := { s with board := { s.board with perst := true } }
  if s.board.perst || s.board.boot < 2 || (s.board.boot < 6 && !s.board.warm && !stageFailed s) then done (pin s)
  else done (setPstate 1 (pin (warmReset (byeAll s))))

/-- PERST_DEASSERT (R451 step 7, R453). -/
def execPerstDeassert (s : State) : Host.Outcome State Fault Refusal :=
  done (startTraining { s with board := { s.board with perst := false } })

/-! ### Host loop-back -/

/-- Register HST_LOOP (R457). -/
def loopReg : Nat := hstReg 0x20

/-- The control fields of HST_LOOP written (R457). -/
def loopFields (v : Word) (s : State) : State := setRf loopReg 7 4 (fieldOf v 7 4) s

/-- HOST_LOOP_START (R456, R457). -/
def hostLoopStart (v : Word) (s : State) : State :=
  let s := setRf loopReg 63 32 0 (loopFields v s)
  if rf s (qchReg 0x40) 0 0 = 1 && (fieldOf v 7 6 == 1 || fieldOf v 7 6 == 2) then setRf loopReg 3 2 1 s
  else setRf loopReg 3 3 1 s

def execHostLoopStart (v : Word) (s : State) : Host.Outcome State Fault Refusal := liveWrite s <| done (hostLoopStart v s)

/-- A run ended with so many mismatched bits on the lanes of a bitmap. -/
def hostLoopEnd (errs lanes : Nat) (s : State) : State :=
  if rf s loopReg 2 2 = 0 then s
  else
    let s := satRf loopReg 63 32 errs (setRf loopReg 2 2 0 s)
    setRf (hstReg 0) 31 16 (rf s (hstReg 0) 31 16 ||| lanes) s

/-- HOST_LOOP_STOP (R457): what the checkers had counted, and the lanes that mismatched. -/
def execHostLoopStop (v : Word) (errs : BitVec 32) (lanes : BitVec 16) (s : State) : Host.Outcome State Fault Refusal :=
  liveWrite s <| done (hostLoopEnd errs.toNat lanes.toNat (loopFields v s))

end Sys2Proof.Machine
end

