-- ==== Sys2Proof/Machine/Bringup.lean ====
section
/-! DEFINITION. Startup steps 3 to 8, the UCIe loop-back, JTAG and the SPI flash (spec/21_bringup_test_and_quench.md R451 to R461;
spec/05_crucible_stacks.md R134, R136; spec/06_stored_data_protection.md R151, R159; spec/15_mailboxes_and_prefen_commands.md R350, R353;
spec/20_faults_and_recovery.md R447, R448). -/

namespace Sys2Proof.Machine

def updBoard (f : Board → Board) (s : State) : State := { s with board := f s.board }

/-! ### Steps 3 and 4 -/

/-- Every channel's state: 0 UNTRAINED, 1 TRAINING (R134, R138). -/
def setChannels (v : Nat) (s : State) : State :=
  overList (fun n s => overList (fun ch s => setRf (chReg n ch 0) 3 0 v s) (List.range 32) s) (List.range 20) s

/-- Slots of the flash whose image may run (R353). -/
def runnable (s : State) : List Nat :=
  [0, 1].filter (fun k => imageAccepted s (tabGet ({} : Image) s.flash k))

/-- The slot that the boot ROM loads: the higher build number; between equal ones the spec does not choose. [DESIGN CHOICE, log 121] -/
def bootSlot (s : State) : State × Option Nat :=
  let build (k : Nat) : Nat := (tabGet ({} : Image) s.flash k).build
  match runnable s with
  | [] => (s, none)
  | [k] => (s, some k)
  | _ =>
    if build 0 < build 1 then (s, some 1)
    else if build 1 < build 0 then (s, some 0)
    else
      let (s, f) := takeFree s
      (s, some (Config.place f % 2))

/-- Startup ends in stage FAILED with a fault code, and goes straight to step 7 (R350, R452). -/
def startupFails (code : Nat) (s : State) : State := startTraining (setRf (smcReg 0) 15 0 code (setStage 3 s))

/-- HOOD_BOOT (R134, R353, R451 steps 3 and 4, R481): Prefen runs, and trains the channels: `a` and `b` say what the images of the two slots prove to be, where SPIPROG or the
factory wrote them; `common` is the reference-clock strap. [DESIGN CHOICE, log 77] [DEDUCED, log 122] -/
def execHoodBoot (a b : Image) (common : Bool) (s : State) : Host.Outcome State Fault Refusal := live s <|
  if s.board.boot != 2 || (s.board.warm && s.board.perst) then noEvent s
  else
    let s := if s.board.spiNew then { s with flash := tabSet {} (tabSet {} [] 0 a) 1 b } else s
    let s := updBoard (fun x => { x with boot := 4, common := common, spiNew := false }) s
    match bootSlot s with
    | (s, none) => done (startupFails 0x2A0 s)
    | (s, some k) =>
      let i := tabGet ({} : Image) s.flash k
      let s := updEmber (fun e => { e with rollback := max e.rollback i.sec }) { s with runSlot := k }
      done (setChannels 1 <| setStage 1 (setRf (smcReg 0) 29 29 (b2n i.eng) (setRf (smcReg 0) 39 32 i.patch (setRf (smcReg 0) 47 40 i.minor s))))

/-! ### Step 5 -/

/-- Remap entries that Prefen recorded in the flash (R159), written at a cold start. -/
def loadRemap (s : State) : State :=
  overList (fun (e : Nat × Word) s => setRmapEntry (e.1 / 256) (e.1 / 8 % 32) (e.1 % 8) e.2.toNat s) s.flashRemap s

/-- Is a data lane of a channel already replaced by a spare? -/
def laneMapped (s : State) (n ch lane : Nat) : Bool :=
  (List.range 8).any (fun p => let (r, sh) := laneEntry n ch p; rf s r (sh + 15) sh == 0x8000 + lane)

/-- Spares taken for failed data lanes, in increasing lane number (R134 step 5); false when they do not suffice. -/
def trainLanes (n ch : Nat) : List Nat → State → State × Bool
  | [], s => (s, true)
  | lane :: rest, s =>
    if laneMapped s n ch lane then trainLanes n ch rest s
    else match freeSpare s n ch with
      | some p => trainLanes n ch rest (takeSpare n ch p lane s)
      | none => (s, false)

/-- The spares that training finds failed are set aside (R134 steps 4 and 5). -/
def failSpares (n ch : Nat) (c : ChanTrain) (s : State) : State :=
  let m := (List.range 8).foldl (fun m p => if c.lanes.any (fun l => l.val == 256 + p) then m ||| 2 ^ p else m) (tabGet 0 s.spareBad (n * 32 + ch))
  { s with spareBad := tabSet 0 s.spareBad (n * 32 + ch) m }

/-- A channel trained (R134): READY, or FAILED when its failed lanes exceed its spares or its check fails. -/
def trainChannel (chans : List ChanTrain) (n ch : Nat) (s : State) : State :=
  match chans.find? (fun c => c.stack.val == n && c.channel.val == ch) with
  | none => setRf (chReg n ch 0) 3 0 2 s
  | some c =>
    let (s, ok) := trainLanes n ch ((List.range 256).filter (fun k => c.lanes.any (fun l => l.val == k))) (failSpares n ch c s)
    setRf (chReg n ch 0) 3 0 (if ok && !c.fails then 2 else 4) s

/-- Has a stack a FAILED channel? -/
def stackFailed (s : State) (n : Nat) : Bool := (List.range 32).any (fun ch => rf s (chReg n ch 0) 3 0 == 4)

/-- A stack with a FAILED channel: FAULTED for good, with the channel-failure record (R136). [DEDUCED, log 125] -/
def failStack (n : Nat) (s : State) : State :=
  if !stackFailed s n then s
  else faultRecord { code := 0x237, hearth := hxStack n, src := 0x12 } (updHearth (hxStack n) (fun h => { h with dead := true }) s)

/-! ### Steps 6 to 8 -/

/-- A place of Prefen's own in the populated SM of a stack that is usable. -/
def placeUsable (bytes align : Nat) (s : State) : State × Nat :=
  let (s, a) := placeSm bytes align s
  if stackFailed s (smStack a) then
    (s, a % 2 ^ 36 + 2 ^ 36 * ((List.range 20).find? (fun n => !stackFailed s n)).getD 0)
  else (s, a)

/-- Queue table, fault ring and ingot table placed (R268, R281, R330). [DEDUCED, log 126] -/
def placeTables (s : State) : State :=
  let (s, qt) := placeUsable (2 ^ 26) (2 ^ 26) s
  let (s, fl) := placeUsable (64 * 2 ^ fltLg s) 64 s
  let (s, it) := placeUsable (2 ^ 27) 512 s
  updPrefen (fun p => { p with ingotTable := it }) (setRf (qscReg 0x28) 43 0 fl (setRf (qscReg 0) 43 0 qt s))

/-- What Ember's applied states and clocks mean for the hearths and sites as they leave RESET (R129, R426). -/
def followEmber (s : State) : State :=
  let s := overList throttleStack (List.range 20) s
  overList (fun x s => updHearth (6 + x) (fun h => { h with halted := clkEff s x == 0 }) s) allClusters s

/-- The hearths leave RESET and Prefen is READY (R448, R451 steps 6 and 8). -/
def releaseAll (s : State) : State := setStage 2 (followEmber { s with up := true, board := { s.board with boot := 6 } })

/-- Steps 5 to 8 of a cold or warm startup. -/
def startUp (ucieOk : Bool) (chans : List ChanTrain) (s : State) : State :=
  if !ucieOk then startupFails 0x2A1 (setChannels 0 s)
  else
    let s := if s.board.warm then s else loadRemap s
    let s := overList (fun n s => overList (trainChannel chans n) (List.range 32) s) (List.range 20) s
    let s := { s with mem := { s.mem with valid := [] } }
    let s := overList (fun x s => setRf (clkReg x) 7 0 32 s) allClusters s
    let s := overList failStack (List.range 20) (placeTables s)
    startTraining (setPstate 2 (releaseAll s))

/-- The end of a module reset (R311, R447, R448): Prefen has rewritten the micro-program stores (R178), requests that were not terminal end FAILED, the hearths are released, and clears of freed billets not yet done start over (R151). -/
def afterReset (s : State) : State :=
  overList nextClear (List.range 20)
    (releaseAll (failRequests stModuleReset (updCfg (fun c => { c with flrMem := false }) { s with mpOwn := [] })))

/-- PREFEN_STARTUP (R134, R448, R451 steps 5 to 8, R453): `ucieOk` says whether the eight UCIe links trained, `chans` names the
channels on which training found failed lanes or a failing check. After a module reset it is Prefen's way back to READY. -/
def execPrefenStartup (ucieOk : Bool) (chans : List ChanTrain) (s : State) : Host.Outcome State Fault Refusal := live s <|
  if s.board.boot = 4 ∧ fwStage s = 1 ∧ rf s (qchReg 0x40) 0 0 = 0 then done (startUp ucieOk chans s)
  else if s.board.boot = 6 ∧ fwStage s = 4 then done (afterReset s)
  else noEvent s

/-! ### JTAG -/

/-- The chain is available from startup step 3 on (R461). -/
def jtagOn (s : State) : Bool := 4 ≤ s.board.boot

/-- An instruction selected on a TAP, and what a scan of its `n`-bit data register shifts out: ones while the chain is not
available (R461). [PRESUMED, log 123] -/
def jtagScan (tap code n : Nat) (value : State → Nat) (s : State) : State :=
  if !jtagOn s then emit (.tdo tap (2 ^ n - 1)) s
  else emit (.tdo tap (value s)) (updBoard (fun b => { b with ir := setNth (b.ir ++ List.replicate (5 - b.ir.length) 1) tap code }) s)

/-- Bits of the boundary register of a TAP as an update takes them: one on an Anvil. -/
def boundaryBits (tap : Nat) (v : Word) : Nat := if tap = 0 then v.toNat else v.toNat % 2

/-- A scan of the boundary register: it captures the pins and is updated with what was shifted in. -/
def boundaryScan (tap code : Nat) (v : Word) (s : State) : State :=
  let (s, f) := takeFree s
  let s := jtagScan tap code (if tap = 0 then 64 else 1) (fun _ => Config.boundary f % (if tap = 0 then 2 ^ 64 else 2)) s
  if jtagOn s then updBoard (fun b => { b with boundary := tabSet 0 b.boundary tap (boundaryBits tap v) }) s else s

/-- EXTEST (R461): TAP 0 is the Hood, 1 to 4 are A0 to A3. -/
def execExtest (tap : Fin 5) (v : Word) (s : State) : Host.Outcome State Fault Refusal := done (boundaryScan tap.val 0x00 v s)
/-- SAMPLE_PRELOAD (R461). -/
def execSamplePreload (tap : Fin 5) (v : Word) (s : State) : Host.Outcome State Fault Refusal := done (boundaryScan tap.val 0x02 v s)
/-- IDCODE (R461). -/
def execIdcode (tap : Fin 5) (s : State) : Host.Outcome State Fault Refusal :=
  done (jtagScan tap.val 0x01 32 (fun _ => if tap.val = 0 then 0x1C2019CB else 0x1C2029CB) s)
/-- BYPASS, and every code that selects it (R461): the 1-bit register captures 0, as IEEE 1149.1 has it. -/
def execBypass (tap : Fin 5) (code : Fin 256) (s : State) : Host.Outcome State Fault Refusal :=
  let named := [0x00, 0x01, 0x02] ++ (if tap.val = 0 then [0x10, 0x11, 0x20] else [])
  if named.contains code.val then noEvent s else done (jtagScan tap.val 0xFF 1 (fun _ => 0) s)

/-- ROSHIFT (R461): the next 8 bytes of the read-out image, least significant byte first; 0 when none are ready. -/
def execRoshift (s : State) : Host.Outcome State Fault Refusal :=
  let t := jtagScan 0 0x11 64 (fun s => leNat (s.board.shift.take 8)) s
  if !jtagOn s || s.board.shift.isEmpty then done t
  else done (bumpRf (qchReg 0x38) 47 0 (s.board.shift.take 8).length (updBoard (fun b => { b with shift := b.shift.drop 8 }) t))

/-! ### The SPI flash -/

/-- SPIPROG is allowed (R461). -/
def spiAllowed (s : State) : Bool := jtagOn s && (stageFailed s || rf s (qchReg 0x40) 0 0 == 1)

/-- A byte of the flash. [DESIGN CHOICE, log 124] -/
def spiByte (s : State) (a : Nat) : Byte :=
  match tabGet none s.board.spi a with
  | some b => b
  | none => if s.board.erased.contains (a / 65536) then 0xFF else Config.flashByte s.board.spiEpoch a

/-- SPIPROG_READ (R461): four bytes from a flash address. -/
def execSpiprogRead (addr : BitVec 32) (s : State) : Host.Outcome State Fault Refusal :=
  if !spiAllowed s then noEvent s
  else done (jtagScan 0 0x20 72 (fun s => leNat ((upFrom addr.toNat 4).map (spiByte s))) s)

/-- One byte programmed: an erased byte takes the data; what another byte becomes is not given. -/
def spiPut (a : Nat) (b : Byte) (s : State) : State :=
  if spiByte s a = 0xFF then updBoard (fun x => { x with spi := tabSet none x.spi a (some b) }) s
  else
    let (s, f) := takeFree s
    updBoard (fun x => { x with spi := tabSet none x.spi a (some (Config.flashByte f a)) }) s

/-- Bytes programmed from an address on. -/
def spiWrite (addr : Nat) (l : List Byte) (s : State) : State :=
  overList (fun k s => spiPut (addr + k) (nth l k 0) s) (List.range l.length) (updBoard (fun b => { b with spiNew := true }) s)

/-- SPIPROG_PROGRAM (R461). -/
def execSpiprogProgram (addr data : BitVec 32) (s : State) : Host.Outcome State Fault Refusal :=
  if !spiAllowed s then noEvent s else done (spiWrite addr.toNat (leBytes 4 data.toNat) (jtagScan 0 0x20 72 (fun _ => 0) s))

/-- SPIPROG_ERASE (R461): the 64 KiB that an address lies in. -/
def execSpiprogErase (addr : BitVec 32) (s : State) : Host.Outcome State Fault Refusal :=
  if !spiAllowed s then noEvent s
  else
    let k := addr.toNat / 65536
    done (updBoard (fun b => { b with spiNew := true, erased := k :: b.erased.filter (fun j => j != k),
                                      spi := b.spi.filter (fun e => e.1 / 65536 != k) }) (jtagScan 0 0x20 72 (fun _ => 0) s))

/-! ### Test hold and UCIe -/

/-- QCH_TEST.hold written through JTAG (R456). -/
def holdWrite (b : Bool) (s : State) : State := setRf (qchReg 0x40) 0 0 (b2n b) s

/-- TEST_HOLD_WRITE (R456). -/
def execTestHoldWrite (hold : Bool) (s : State) : Host.Outcome State Fault Refusal :=
  if !jtagOn s then noEvent s else done (holdWrite hold s)

/-- ANV_UCIE_TEST of Anvil a (R458). -/
def ucieReg (a : Nat) : Nat := anvReg a 0x500

/-- A start of ANV_UCIE_TEST (R456, R458). -/
def ucieStart (a : Nat) (v : Word) (s : State) : State :=
  let r := ucieReg a
  let s := setRf r 63 32 0 (setRf r 11 8 (fieldOf v 11 8) s)
  let depth := fieldOf v 9 8
  if rf s (qchReg 0x40) 0 0 = 1 && fieldOf v 11 10 != 3 && (depth == 1 || depth == 2) then
    updBoard (fun b => { b with ucieRun := a :: b.ucieRun.filter (fun x => x != a) }) (setRf r 2 1 0 s)
  else setRf r 1 1 1 s

/-- UCIE_TEST_START. -/
def execUcieTestStart (a : Fin 4) (v : Word) (s : State) : Host.Outcome State Fault Refusal := liveWrite s <| done (ucieStart a.val v s)

/-- UCIE_TEST_DONE (R458): 2^30 bits on every lane have been checked. -/
def execUcieTestDone (a : Fin 4) (errs : BitVec 32) (s : State) : Host.Outcome State Fault Refusal := live s <|
  if !s.board.ucieRun.contains a.val then noEvent s
  else
    let s := updBoard (fun b => { b with ucieRun := b.ucieRun.filter (fun x => x != a.val) }) s
    done (setRf (ucieReg a.val) 2 2 1 (satRf (ucieReg a.val) 63 32 errs.toNat s))

end Sys2Proof.Machine
end

