-- ==== Sys2Proof/Machine/Quench.lean ====
section
/-! DEFINITION. Quench and the state read-out (spec/21_bringup_test_and_quench.md R462 to R469). -/

namespace Sys2Proof.Machine

/-! ### Freeze and release -/

/-- A source of R462 is active. -/
def freezeAsked (s : State) : Bool := (s.board.quenchN && rf s (qchReg 0) 1 1 == 1) || rf s (qchReg 0) 0 0 == 1

/-- QUENCH_PIN_CHANGE (R462). -/
def execQuenchPinChange (asserted : Bool) (s : State) : Host.Outcome State Fault Refusal :=
  done (updBoard (fun b => { b with quenchN := asserted }) s)

/-- A write of QCH_CTL (R462, R467): served while the module is frozen, and after stage FAILED (R452, R464). -/
def qchCtlWrite (v : Word) (s : State) : State := setRf (qchReg 0) 1 0 (fieldOf v 1 0) s

/-- A write to the QCH_ block reaches it while the module is on (R452, R464). -/
def qchWrite (s : State) (o : Host.Outcome State Fault Refusal) : Host.Outcome State Fault Refusal :=
  if 2 ≤ s.board.boot then o else .next s

/-- FREEZE_WRITE. -/
def execFreezeWrite (v : Word) (s : State) : Host.Outcome State Fault Refusal := qchWrite s <| done (qchCtlWrite v s)

/-- Startup step 3 has begun or begins now (R454). [DEDUCED, log 129] -/
def pastStep2 (s : State) : Bool := 2 < s.board.boot || (s.board.boot == 2 && !(s.board.warm && s.board.perst))

/-- QUENCH_FREEZE (R133, R463): the timebase stops, the status array is captured, every stack goes into self-refresh, every island
stops where it stands. -/
def execQuenchFreeze (s : State) : Host.Outcome State Fault Refusal :=
  if !freezeAsked s || frozen s || !pastStep2 s then noEvent s
  else
    let snap := ((List.range 11354).map (fun i => (i, statusWord s i))).filter (fun e => e.2 != 0)
    let (s, f) := takeFree s
    let s := updBoard (fun b => { b with snapshot := snap, chainAt := f,
                                         quiet := (List.range 20).filter (fun n => srState s n != 2) }) s
    done (bumpRf (qchReg 8) 15 0 1 (setRf (qchReg 8) 63 63 1 s))

/-- Host requests that the freeze held are served in order (R464). -/
def serveHeld (s : State) : State := overList (fun n s => release n s) (List.range 20) s

/-- QUENCH_RELEASE (R465): neither source is active and no read-out runs; the freeze lasted `ns` nanoseconds. [DEDUCED, log 78] -/
def execQuenchRelease (ns : Word) (s : State) : Host.Outcome State Fault Refusal :=
  if !frozen s || freezeAsked s || rf s (qchReg 0x38) 63 63 == 1 then noEvent s
  else
    let s := setRg (qchReg 0x10) ns (setRf (qchReg 8) 63 63 0 (updBoard (fun b => { b with snapshot := [], quiet := [] }) s))
    done (serveWaiting (hostAgain (serveHeld s)))

/-! ### The image -/

/-- Bits of QCH_RO_CTL as the read-out runs under them, and its buffer. -/
def roBit (s : State) (k : Nat) : Bool := natBit (nth s.board.roGo 0 0) k
def roAddr (s : State) : Nat := nth s.board.roGo 1 0
def roLen (s : State) : Nat := nth s.board.roGo 2 0

/-- Sections of a state chain (R469 kind 1). [DESIGN CHOICE, log 128] -/
def islandSections (s : State) : List RoSection :=
  (List.range 1132).map (fun i =>
    ⟨1, 0, i, Config.chainLen i, (List.range (ceilDiv (Config.chainLen i) 8)).map (Config.chainByte s.board.chainAt i)⟩)

/-- The 16 bytes of an SRAM word's record: the word, its check bits, its poison copies (R469 kind 2). -/
def sramRecord (s : State) (space a : Nat) : List Byte :=
  rawBytes s space a 8 ++ [tabGet 0 s.mem.chk (cellKey space a), BitVec.ofNat 8 (tabGet 0 s.mem.poison (cellKey space a)).toNat]
    ++ List.replicate 6 0

/-- Sections of the 4 KiB blocks of one SRAM, `blocks` of them from an address, skipping invalid ones where told. -/
def sramSections (s : State) (skip : Bool) (space base blocks : Nat) : List RoSection :=
  ((strideList base 4096 blocks).filter (fun a => !skip || isValid s space a)).map (fun a =>
    ⟨2, b2n (isValid s space a), space, a, (strideList a 8 512).flatMap (sramRecord s space)⟩)

/-- Sections of every SRAM: SP of each core, DB of each Anvil, CB of each stack. -/
def allSramSections (s : State) (skip : Bool) : List RoSection :=
  (List.range 1024).flatMap (fun c => sramSections s skip 1 (c * 2 ^ 32) 192)
    ++ (List.range 4).flatMap (fun a => sramSections s skip 2 (a * 2 ^ 32) 18432)
    ++ (List.range 20).flatMap (fun n => sramSections s skip 3 (n * 2 ^ 32) 6144)

/-- Section of one stack row, read through the remap table; a row of a stack with a FAILED channel cannot be read (R136, R468). -/
def rowSection (s : State) (n a : Nat) : RoSection :=
  let pa := smPhys s a
  let lost := stackDead s n
  let data := if lost then List.replicate 2304 0
    else rawBytes s 4 pa 2048 ++ (strideList pa 32 64).flatMap (fun w => tabGetRun 0 s.mem.chk (cellKey 4 w) 4)
  ⟨3, b2n (isValid s 4 pa) + 2 * b2n (pa != a) + 4 * b2n lost, n, a, data⟩

/-- Sections of the rows of the selected stacks, in increasing address order. -/
def rowSections (s : State) (skip : Bool) : List RoSection :=
  ((List.range 20).filter (fun n => roBit s (44 + n))).flatMap (fun n =>
    ((strideList (n * 2 ^ 36) 2048 (stackBytes / 2048)).filter (fun a => !skip || isValid s 4 (smPhys s a))).map (rowSection s n))

/-- Every section of the image but its end (R468, R469). -/
def roSections (s : State) : List RoSection :=
  (if roBit s 4 then islandSections s else [])
    ++ (if roBit s 5 then allSramSections s (roBit s 7) else [])
    ++ (if roBit s 6 then rowSections s (roBit s 7) else [])

/-- Bytes of a section: its header, its payload padded to 32 bytes (R469). -/
def sectionBytes (time seq : Nat) (x : RoSection) : List Byte :=
  leBytes 1 x.kind ++ leBytes 1 x.flags ++ leBytes 2 x.index ++ leBytes 4 x.data.length ++ leBytes 8 x.addr
    ++ leBytes 4 (crc32 x.data) ++ leBytes 4 seq ++ leBytes 8 time
    ++ x.data ++ List.replicate ((32 - x.data.length % 32) % 32) 0

/-- Bytes that a section takes. -/
def sectionSize (x : RoSection) : Nat := 32 + 32 * ceilDiv x.data.length 32

/-- Sections that fit below a limit, room for the end section kept. -/
def sectionsWithin (limit : Nat) : Nat → List RoSection → List RoSection
  | _, [] => []
  | used, x :: rest => if used + sectionSize x + 32 ≤ limit then x :: sectionsWithin limit (used + sectionSize x) rest else []

/-- The sections an image holds: a stop ends it after a section, and the buffer of a host image limits it (R467). -/
def roTaken (s : State) : List RoSection :=
  let l := match s.board.roStop with | some k => (roSections s).take (k + 1) | none => roSections s
  if roBit s 3 then l else sectionsWithin (roLen s) 0 l

/-- The image ended early for want of buffer. -/
def roFull (s : State) : Bool :=
  !roBit s 3 && decide ((roTaken s).length < (match s.board.roStop with | some k => (roSections s).take (k + 1) | none => roSections s).length)

/-- The sections of an image one after another, numbered from `seq`. -/
def imageBody (time : Nat) : Nat → List RoSection → List Byte
  | _, [] => []
  | seq, x :: rest => sectionBytes time seq x ++ imageBody time (seq + 1) rest

/-- The whole image with its end section (R469). [DEDUCED, log 127] -/
def roImage (s : State) : List Byte :=
  let l := roTaken s
  let body := imageBody s.time 0 l
  body ++ leBytes 1 0x0F ++ leBytes 1 0 ++ leBytes 2 0 ++ leBytes 4 0 ++ leBytes 8 (body.length + 32)
    ++ leBytes 4 (crc32 body) ++ leBytes 4 l.length ++ leBytes 8 s.time

/-! ### The read-out engine -/

def roCtl : Nat := qchReg 0x20
def roStat : Nat := qchReg 0x38

/-- The RW fields of QCH_RO_CTL written, which a refused go and a running read-out do not hinder (R11). -/
def roFields (v : Word) (s : State) : State := setRf roCtl 63 44 (fieldOf v 63 44) (setRf roCtl 7 3 (fieldOf v 7 3) s)

/-- The part of a JTAG image not yet shifted out. -/
def shiftImage (s : State) : State :=
  if roBit s 3 then updBoard (fun b => { b with shift := (roImage s).drop (rf s roStat 47 0) }) s else s

/-- A write of QCH_RO_CTL with go (R467, R468): refused unless frozen and not busy, and for a host image unless Bus Master Enable is
set. -/
def readoutGo (v : Word) (s : State) : State :=
  let s := roFields v s
  if !frozen s || rf s roStat 63 63 == 1 || (fieldOf v 3 3 == 0 && !hmOpen s 1) then setRf roStat 61 61 1 s
  else shiftImage (setRg roStat (BitVec.ofNat 64 (2 ^ 63)) (updBoard (fun b => { b with
    roStop := none, shift := [], roTag := (b.roTag + 1) % 2 ^ 24,
    roGo := [(rg s roCtl).toNat, (rg s (qchReg 0x28)).toNat, (rg s (qchReg 0x30)).toNat] }) s))

/-- READOUT_GO. -/
def execReadoutGo (v : Word) (s : State) : Host.Outcome State Fault Refusal := qchWrite s <| done (readoutGo v s)

/-- READOUT_STOP (R467): the read-out is writing section number `sec`. -/
def execReadoutStop (sec : Nat) (s : State) : Host.Outcome State Fault Refusal := qchWrite s <|
  if rf s roStat 63 63 = 0 || s.board.roStop.isSome then noEvent s
  else done (shiftImage (updBoard (fun b => { b with roStop := some sec }) s))

/-- The read-out engine as an agent: issuer 0x79 with its own sequence, which each go has taken one on (R25, R26, R468). -/
def roWho (s : State) : Who := ⟨0, 0x79 * 2 ^ 24 + (s.board.roTag + 2 ^ 24 - 1) % 2 ^ 24, false⟩

/-- READOUT_DONE (R467, R468): a host image lies in its buffer and the zero-length read has returned; a JTAG image has been shifted
out whole. -/
def execReadoutDone (s : State) : Host.Outcome State Fault Refusal := qchWrite s <|
  if rf s roStat 63 63 = 0 || (roBit s 3 && !s.board.shift.isEmpty) then noEvent s
  else
    let img := roImage s
    let t := if roBit s 3 then s else memWrite (roWho s) 5 (roAddr s) (cleanBytes img) s
    let t := setRf roStat 60 60 (b2n (roFull s)) (setRf roStat 47 0 img.length t)
    done (setRf roStat 63 62 1 (updBoard (fun b => { b with roStop := none }) t))

end Sys2Proof.Machine
end

