-- ==== Sys2Proof/Machine/HostCoherence.lean ====
section
/-! DEFINITION. Host accesses to stack memory and the back-invalidation that keeps them coherent (spec/04_address_spaces_and_ordering.md
R94, R109 to R112; spec/17_host_port.md R382, R383, R388, R389, R393, R395; spec/21_bringup_test_and_quench.md R464). -/

namespace Sys2Proof.Machine

/-- SM address of a BAR4 offset (R94). -/
def barToSm (o : Nat) : Nat := o / stackBytes * 2 ^ 36 + o % stackBytes

/-- Does BAR4 serve a request at an offset (R382, R385, R388, R393, R395)? CXL.mem requests are served throughout an FLR (R394). -/
def bar4Serves (s : State) (o : Nat) : Bool :=
  linkState s == 3 && s.cfg.memEn && s.cfg.hdmOn && decide (o < 20 * stackBytes)
    && ((s.cfg.mse && !s.cfg.d3hot) || (s.cfg.flrMem && rf s (smcReg 0) 63 60 == 4))

/-- A request through BAR4: Unsupported Request, held while the module is frozen, or handed on with its SM address (R389, R464). -/
def bar4 (o : Nat) (mk : Nat → Access) (act : Nat → State → State) (s : State) : Host.Outcome State Fault Refusal :=
  let a := barToSm o
  if !linkUp s then noEvent s
  else if !bar4Serves s o then done (unsupported s)
  else if frozen s then done { s with held := s.held ++ [⟨smStack a, mk a⟩] }
  else done (act a s)

/-- Data of a read whose value is not stated. -/
def unstatedBytes (n : Nat) (s : State) : State × List Byte :=
  let (s, f) := takeFree s
  (s, (List.range n).map (Config.unstated f))

/-- HOST_SM_READ (R94, R98, R109 to R112, R389): the 64-byte line at a BAR4 offset; `want` is the tracker state the host asks for.
A stack with a FAILED channel serves no address (R136). -/
def execHostSmRead (o : OnWire (BitVec 40)) (want : Fin 3) (s : State) : Host.Outcome State Fault Refusal :=
  let line := o.at_.toNat / 64 * 64
  bar4 line (fun a => .hostRead a want.val o.link) (fun a s =>
    if stackDead s (smStack a) then
      let (s, l) := unstatedBytes 64 s
      emit (.hostData l false) s
    else serve (.hostRead a want.val o.link) s) s

/-- The 64 bytes of a line that a host write carries. -/
def lineBytes (l : List Byte) : List Byte := (l ++ List.replicate 64 0).take 64

/-- HOST_SM_WRITE (R94, R148, R154, R389). -/
def execHostSmWrite (o : BitVec 40) (data : List Byte) (poisoned : Bool) (e : LinkErr) (s : State) : Host.Outcome State Fault Refusal :=
  let line := o.toNat / 64 * 64
  bar4 line (fun a => .hostWrite a (lineBytes data) poisoned e) (fun a s =>
    if stackDead s (smStack a) then emit (.hostDone a) s else serve (.hostWrite a (lineBytes data) poisoned e) s) s

/-! ### Recalls -/

/-- Lines of stack n that a recall_all has yet to recall: those tracked when it was written (R112). -/
def recallLeft (s : State) (n : Nat) : List (Nat × Track) :=
  (trackedOf s n).filter (fun e => decide (e.2.age < tabGet 0 s.recalls n))

/-- A recall goes on: snoops for what is left, as far as 64 may be out, and its end. -/
def recallOn (n : Nat) (s : State) : State :=
  if tabGet 0 s.recalls n = 0 then s
  else
    match recallLeft s n with
    | [] => setRf (stkReg n 0x140) 31 31 0 { s with recalls := tabSet 0 s.recalls n 0 }
    | l => overList (fun (e : Nat × Track) s => sendSnoop e.1 false s) l s

/-- STK_HTRK_CTL.recall_all written 1 (R112). -/
def recallAll (n : Nat) (s : State) : State :=
  recallOn n (setRf (stkReg n 0x140) 31 31 1 { s with recalls := tabSet 0 s.recalls n (s.trackAge + 1) })

/-- HTRK_RECALL_ALL. -/
def execHtrkRecallAll (n : Fin 20) (s : State) : Host.Outcome State Fault Refusal := liveWrite s <| done (recallAll n.val s)

/-- The tracker entry of a line after the host's answer to a snoop (R109). -/
def answered (q : Snoop) (keep : Bool) (s : State) : State :=
  let t := track s q.line
  setTrack q.line (if q.data && keep && t.st != 0 then { t with st := 1 } else {}) { s with snoops := s.snoops.filter (fun x => x.line != q.line) }

/-- BACK_INVALIDATE_RESPONSE (R109, R111): the host's answer for a line, with its data where it held a modified copy; `keep` says
whether it keeps an unmodified copy after BISnpData. [DEDUCED, log 130] -/
def execBackInvalidateResponse (line : BitVec 44) (data : Option (List Byte)) (keep : Bool) (s : State) :
    Host.Outcome State Fault Refusal := live s <|
  let a := lineOf line.toNat
  match s.snoops.find? (fun x => x.line == a) with
  | none => noEvent s
  | some q =>
    let n := smStack a
    if data.isSome && rowBusy s a then done (wakeStack n s)
    else
      let s := match data with
        | some d => if (track s a).st = 2 then hostWriteSm a (lineBytes d) false {} s else s
        | none => s
      done (recallOn n (release n (answered q keep s)))

/-- The tag of what waits for a line: a held access, or the Swage command that recalls it (R109, R110). -/
def waitingTag (s : State) (line : Nat) : Nat :=
  match s.held.find? (fun h => lineOf (accessAddr h.acc) == line && !accessByHost h.acc) with
  | some h => match h.acc with
    | .path r => r.who.tag
    | x => match accessCore x with | some c => (coreWho s c).tag | none => 0
  | none => let r := stackRun s (smStack line); if r.phase = 1 then r.tag else 0

/-- HOST_COHERENCE_TIMEOUT (R389): a snoop unanswered for 10 ms; the PoC goes on holding the access. [DEDUCED, log 131] -/
def execHostCoherenceTimeout (line : BitVec 44) (s : State) : Host.Outcome State Fault Refusal := live s <|
  let a := lineOf line.toNat
  match s.snoops.find? (fun x => x.line == a && !x.late) with
  | none => noEvent s
  | some q =>
    let s := { s with time := max s.time (q.sent + 10000000),
                      snoops := s.snoops.map (fun x => if x.line = a then { x with late := true } else x) }
    done (faultRecord { code := 0x271, hearth := 1, tag := waitingTag s a, src := 0, addr := a } s)

/-- H2D_SNOOP (R383): the module caches nothing of the host's. -/
def execH2dSnoop (s : State) : Host.Outcome State Fault Refusal :=
  if linkUp s && linkState s == 3 && s.cfg.cacheEn then done (emit .rspIMiss s) else noEvent s

end Sys2Proof.Machine
end

