-- ==== Sys2Proof/Machine/RegRead.lean ====
section
/-! DEFINITION. What a read of a BAR0 register returns: the stored fields, and the fields that reflect other state (the register
tables of spec/01, 04 to 11, 15 to 19 and 21; R11, R387, R452, R464). -/

namespace Sys2Proof.Machine

/-- A register word from its value as a number. -/
def toWord (n : Nat) : Word := BitVec.ofNat 64 n

/-- A stored register with one field shown from elsewhere. -/
def withShown (s : State) (off hi lo v : Nat) : Word := withField (rg s off) hi lo v

/-! ### Stack sites -/

/-- SWG_DSP_STAT.state of a stack (R171, R177). -/
def dspState (s : State) (n : Nat) : Nat :=
  let r := stackRun s n
  let waits := s.queues.any (fun e => e.2.ckind == 2 && e.2.ckey == n && e.2.prod != e.2.taken)
  if r.phase = 0 then (if stackHeld s n && waits then 5 else 0)
  else if r.phase = 1 then (if stackHeld s n && (runRecalls s r).isEmpty then 5 else 1)
  else if r.phase = 3 && allDone s n then 4 else r.phase

/-- Units that have reached END for the command accepted (R177). -/
def doneUnits (s : State) (n : Nat) : Nat :=
  ((List.range 512).filter (fun u => (tabGet ({} : SwgUnit) s.units (n * 512 + u)).isDone)).length

/-- SWG_DSP_STAT (R177). -/
def dspStat (s : State) (n : Nat) : Word :=
  let r := stackRun s n
  let tag := if r.phase = 0 then (hearth s (hxStack n)).lastTag else r.tag
  withField (withField (withField (withShown s (stkReg n 0x808) 63 32 tag) 31 28 (dspState s n)) 25 16 (doneUnits s n)) 0 0
    (b2n (swgBusy s n))

/-- A counter of the units of a stack summed (R177). -/
def unitSum (s : State) (n : Nat) (f : UnitCount → Nat) : Nat :=
  s.unitCnt.foldl (fun k e => if e.1 / 512 = n then k + f e.2 else k) 0

/-- CRC-32 of the copy of the micro-program store that a unit holds; unit 512 stands for the image last broadcast (R177). -/
def mpCrc (s : State) (n u : Nat) : Nat := crc32 ((List.range 256).flatMap (fun k => leBytes 8 (mpCopy s n u k).1.toNat))

/-- The unit that SWG_DBG_SEL selects. -/
def dbgUnit (s : State) (n : Nat) : Nat := rf s (stkReg n 0x830) 8 0

/-- SWG_USTAT.state of a unit (R176). -/
def unitState (s : State) (n u : Nat) : Nat :=
  let x := tabGet ({} : SwgUnit) s.units (n * 512 + u)
  let r := stackRun s n
  if (hearth s (hxUnit n u)).faulted then 5
  else if r.phase = 0 then 0
  else if r.phase < 3 then 1
  else if x.isDone then 6
  else if (hearth s (hxStack n)).halted then 4
  else if tabGet 0 s.yielded (n * 512 + u) = 2 then 3 else 2

/-- Register k of the command register area of unit u (R173, R176). -/
def unitReg (s : State) (n u k : Nat) : Word :=
  let x := tabGet ({} : SwgUnit) s.units (n * 512 + u)
  let c := unitCount s n u
  let r := stackRun s n
  toWord <|
    if k < 56 then nth r.area k 0
    else match k with
      | 56 => n * 2 ^ 16 + u / 16 * 2 ^ 8 + u % 16
      | 57 => unitState s n u * 2 ^ 60 + x.exc % 16 * 2 ^ 56 + (if x.live || r.phase = 0 then x.pc else cmdEntry r.cmd) % 256 * 2 ^ 48
      | 58 => x.prog % 2 ^ 32 * 2 ^ 32
      | 59 => (List.range 4).foldl (fun w j => w + 2 ^ (16 * j) * (nth x.loops j 0 % 2 ^ 16)) 0
      | 60 => c.rdbytes
      | 61 => c.busy
      | 62 => c.macs
      | _ => c.paused * 2 ^ 32 + c.offered

/-- Test-mode registers of a block: readable by the Smith cores alone (R164). -/
def inEccTest (o : Nat) : Bool := 0x240 ≤ o && o < 0x270

/-- A register of a stack site (R112, R137, R173, R177). -/
def stkRead (smith : Bool) (s : State) (n o : Nat) : Word :=
  if inEccTest o && !smith then 0
  else if o = 0x140 then withShown s (stkReg n o) 19 0 (trackedOf s n).length
  else if o = 0x808 then dspStat s n
  else if o = 0x810 then toWord (unitSum s n (·.rdbytes))
  else if o = 0x818 then toWord (unitSum s n (·.busy))
  else if o = 0x820 then toWord ((s.time - s.sclkFrom) * 4 / 5)
  else if o = 0x828 then toWord (mpCrc s n (dbgUnit s n) * 2 ^ 32 + mpCrc s n 512)
  else if 0x3000 ≤ o ∧ o < 0x3800 then (mpCopy s n (dbgUnit s n) ((o - 0x3000) / 8)).1
  else if 0x3800 ≤ o ∧ o < 0x3A00 then unitReg s n (dbgUnit s n) ((o - 0x3800) / 8)
  else rg s (stkReg n o)

/-! ### Anvils -/

/-- ANV_CL_STAT.bstate (R241). -/
def bstate (s : State) (a c : Nat) : Nat :=
  let y := cluster s (clusterNo a c)
  if y.stopped then 4
  else if rf s (clReg a c 0) 1 1 = 1 then 3
  else match bellowsHead s a c with
    | none => 0
    | some w => if ewEng w == 3 && !allWaits s a c w then 2 else 1

/-- ANV_CL_STAT (R241). -/
def clStat (s : State) (a c : Nat) : Word :=
  let y := cluster s (clusterNo a c)
  toWord (min 255 y.bq.length * 2 ^ 56 + bstate s a c * 2 ^ 52 + min 7 y.moving.length * 2 ^ 32 + y.bdone % 2 ^ 32)

/-- ANV_CORE_DONE and ANV_CORE_Q of core x (R212, R241). -/
def coreDone (s : State) (x : Nat) : Word :=
  let c := (coreSt s x).cnt
  toWord (nth c 3 0 % 2 ^ 16 * 2 ^ 48 + nth c 2 0 % 2 ^ 16 * 2 ^ 32 + nth c 1 0 % 2 ^ 16 * 2 ^ 16 + nth c 0 0 % 2 ^ 16)
def coreQ (s : State) (x : Nat) : Word :=
  toWord (rf s (coreQReg x) 27 24 * 2 ^ 24 + queueRoom s x 2 * 2 ^ 10 + queueRoom s x 1 * 2 ^ 5 + queueRoom s x 0)

/-- A register of Anvil a (R165, R241); the value that a read of ANV_CL_TAG returns is that of `clTagRead`. -/
def anvRead (smith : Bool) (s : State) (a o : Nat) : Word :=
  if inEccTest o && !smith then 0
  else if 0x1000 ≤ o ∧ o < 0x2000 ∧ o % 0x100 = 8 then clStat s a (o / 0x100 - 0x10)
  else if 0x1000 ≤ o ∧ o < 0x2000 ∧ o % 0x100 = 0x10 then toWord (clTagRead a (o / 0x100 - 0x10) s).2
  else if 0x2000 ≤ o ∧ o < 0x4000 then
    (if o % 0x20 = 0 then coreDone s (256 * a + (o - 0x2000) / 0x20)
     else if o % 0x20 = 8 then coreQ s (256 * a + (o - 0x2000) / 0x20) else 0)
  else if o = 0xF000 then 0
  else rg s (anvReg a o)

/-! ### Tongs, scheduler, fabric -/

/-- TNG_CH_STAT.state (R258). -/
def chanState (s : State) (e c : Nat) : Nat :=
  let x := chan s e c
  if rf s (chanReg e c 0) 63 63 = 0 then 0
  else if x.busy then (if x.completing then 3 else if x.stalled then 4 else 2)
  else if chanBusy s e c then 2
  else if rf s (tngReg e 0) 0 0 = 1 then 5 else 1

/-- Buffer a channel holds, in 4 KiB units: what it has asked of partners and what has come and not been written (R258). [DEDUCED, log 132] -/
def chanBuf (s : State) (e c : Nat) : Nat :=
  let x := chan s e c
  min 244 (ceilDiv (chanHeld x) 4096)

/-- A register of Tongs engine e (R258). -/
def tngRead (s : State) (e o : Nat) : Word :=
  let busy := ((List.range 64).filter (fun c => chanBusy s e c)).length
  let buf := (List.range 64).foldl (fun n c => n + chanBuf s e c) 0
  if o = 8 then withField (withShown s (tngReg e 8) 54 48 busy) 41 32 (min 512 buf)
  else if 0x1000 ≤ o ∧ o < 0x2000 then
    let c := (o - 0x1000) / 0x40
    let x := chan s e c
    match o % 0x40 with
    | 0x08 =>
      withField (withField (withShown s (chanReg e c 8) 63 60 (chanState s e c)) 55 48 (chanBuf s e c)) 31 0 (unitsComplete s x)
    | 0x20 => 0
    | _ => rg s (tngReg e o)
  else rg s (tngReg e o)

/-- Queues WAITING (R283). -/
def queuesWaiting (s : State) : Nat := (s.queues.filter (fun e => qstate s e.1 == 3)).length

/-- A register of the scheduler (R272, R283). -/
def qscRead (s : State) (o : Nat) : Word :=
  if o = 8 then withField (withShown s (qscReg 8) 63 63 (b2n (anyPending s))) 51 32 (queuesWaiting s)
  else if o = 0x18 then 0
  else if 0x40 ≤ o ∧ o < 0x80 then toWord (liveWord s (rf s (qscReg 0x10) 19 0) ((o - 0x40) / 8))
  else rg s (qscReg o)

/-- Queues that are pending (R272). -/
def pendingQueues (s : State) : List Nat := (s.queues.filter (fun e => e.2.ckind == 1 && e.2.prod != e.2.taken)).map (·.1)

/-- The 32-bit word w of a summary level: bit b is set when a pending queue lies at 32 ^ level × (32 w + b) (R272). -/
def summaryWord (s : State) (level w : Nat) : Nat :=
  (List.range 32).foldl (fun v b => if (pendingQueues s).any (fun q => q / 32 ^ level == 32 * w + b) then v + 2 ^ b else v) 0

/-- The 32-bit word at an offset of the pending summary. -/
def summaryAt (s : State) (off : Nat) : Nat :=
  if off < 0x003E0000 then summaryWord s 0 ((off - 0x003C0000) / 4)
  else if off < 0x003E1000 then summaryWord s 1 ((off - 0x003E0000) / 4)
  else if off < 0x003E1080 then summaryWord s 2 ((off - 0x003E1000) / 4)
  else if off = 0x003E1080 then summaryWord s 3 0 else 0

/-- A register of the Tuyere block (R371, R380). -/
def tuyRead (s : State) (o : Nat) : Word :=
  let count (st : Nat) : Nat := min 255 ((List.range 255).filter (fun pid => ptState s pid == st)).length
  if o = 8 then toWord (count 1 * 2 ^ 24 + count 3 * 2 ^ 16 + b2n (selfId s != 0xFF && ptState s (selfId s) == 3))
  else if 0x1000 ≤ o ∧ o < 0x2FE0 then
    let pid := (o - 0x1000) / 0x20
    match o % 0x20 with
    | 0 => withShown s (ptStat pid) 58 58 (b2n (isMember s pid))
    | 0x10 =>
      let st := ptState s pid
      withShown s (ptCnt pid) 15 0 (if st = 0 || st = 4 then 0 else min 0xFFFF ((s.time - (link s pid).heard) / 1000000))
    | _ => rg s (tuyReg o)
  else rg s (tuyReg o)

/-! ### Bells and Quench -/

/-- A bitmap word of a Bell over the sources that satisfy `p` (R407). -/
def bellWord (w : Nat) (p : Nat → Bool) : Nat := (List.range 64).foldl (fun v k => if p (64 * w + k) then v + 2 ^ k else v) 0

/-- A register of Bell b (R407). -/
def belRead (s : State) (b o : Nat) : Word :=
  let st (src : Nat) : Nat := rf s (srcReg b src) 61 60
  if o < 0x2000 then withShown s (belReg b o) 63 63 (b2n (sourceLevel s b (o / 8)))
  else if o < 0x2080 then toWord (bellWord ((o - 0x2000) / 8) (fun src => st src == 1 || st src == 3))
  else if o < 0x2100 then toWord (bellWord ((o - 0x2080) / 8) (fun src => 2 ≤ st src))
  else if o < 0x2200 then toWord (bellWord (o % 0x80 / 8) (fun src => rf s (srcReg b src) 62 62 == 1))
  else if 0x3000 ≤ o ∧ o < 0x3200 ∧ o % 0x20 = 8 then withShown s (belReg b o) 10 0 (claimable s b ((o - 0x3000) / 0x20)).length
  else rg s (belReg b o)

/-- A register of Quench (R467). -/
def qchRead (s : State) (o : Nat) : Word := if o = 8 then withShown s (qchReg 8) 60 60 (b2n s.board.quenchN) else rg s (qchReg o)

/-! ### Configuration space -/

/-- What configuration space identifies the module by: fixed values, which no reset changes, and the serial number that VERSION
returns (R384, R385). -/
def identity : Identity :=
  { vendor := 0x1F4C, device := 0xC200, revision := 0xB0, classCode := 0x120000, subVendor := 0x1F4C,
    subId := if Config.sample then 0x096A else 0x0960, serial := Config.serial.toNat,
    bars := [(4 * 2 ^ 20, false), (8 * 2 ^ 20, false), (2 ^ 40, true)] }

/-! ### BAR0 -/

/-- The register at an aligned offset of BAR0 while it decodes (R386); `smith` says whether a Smith core reads. -/
def barValue (smith : Bool) (s : State) (off : Nat) : Word :=
  if 0x4000 ≤ off ∧ off < 0x5000 then toWord (hearthEntry s ((off - 0x4000) / 8))
  else if 0x20000 ≤ off ∧ off < 0x362D0 then toWord (statusRead s ((off - 0x20000) / 8))
  else if 0x00180000 ≤ off ∧ off < 0x001D0000 then belRead s ((off - 0x00180000) / 0x10000) (off % 0x10000)
  else if 0x001E0000 ≤ off ∧ off < 0x001F0000 then qchRead s (off % 0x10000)
  else if 0x00200000 ≤ off ∧ off < 0x00340000 then stkRead smith s ((off - 0x00200000) / 0x10000) (off % 0x10000)
  else if 0x00340000 ≤ off ∧ off < 0x00380000 then anvRead smith s ((off - 0x00340000) / 0x10000) (off % 0x10000)
  else if 0x00380000 ≤ off ∧ off < 0x003B0000 then tngRead s ((off - 0x00380000) / 0x2000) (off % 0x2000)
  else if 0x003B0000 ≤ off ∧ off < 0x003B0080 then qscRead s (off % 0x10000)
  else if 0x003C0000 ≤ off ∧ off < 0x003E1084 then toWord (summaryAt s off + 2 ^ 32 * summaryAt s (off + 4))
  else if 0x003F0000 ≤ off ∧ off < 0x00400000 then tuyRead s (off % 0x10000)
  else rg s off

/-- Is an offset in the QCH_ block, or in the part that decodes after stage FAILED (R452)? -/
def inQuench (off : Nat) : Bool := 0x001E0000 ≤ off && off < 0x001F0000
def failedDecodes (off : Nat) : Bool := inQuench off || (0x00110000 ≤ off && off < 0x00110010)

/-- What a read of an aligned 8 bytes of BAR0 returns (R452, R464). -/
def barRead (smith : Bool) (s : State) (off : Nat) : Word :=
  if s.board.boot < 2 then 0
  else if frozen s && !inQuench off && !(0x20000 ≤ off && off < 0x362D0) then 0
  else if stageFailed s && !failedDecodes off then 0
  else barValue smith s off

/-- What a read of the doorbell of queue q returns: its current producer index (R265); 0 while the module is off or frozen
(R464). -/
def bar2Read (s : State) (q : Nat) : Word := if s.board.boot < 2 || frozen s then 0 else BitVec.ofNat 64 ((queue s q).prod % 2 ^ 32)

end Sys2Proof.Machine
end

