-- ==== Sys2Proof/Machine/RegWrite.lean ====
section
/-! DEFINITION. Writes to BAR0 registers by their access codes and by what they start (R11, R387 and the register tables of the
blocks), for the host, the cores and JTAG: REGISTER_WRITE and REGACC. -/

namespace Sys2Proof.Machine

/-- The state an event leads to; what does not lead to a next state changes nothing. -/
def landed (s : State) (o : Host.Outcome State Fault Refusal) : State := match o with | .next t => t | _ => s

/-- The fields of a register that a write sets: pairs (hi, lo). -/
def writeFields (r : Nat) (v : Word) (l : List (Nat × Nat)) (s : State) : State := overList (fun f s => setRf r f.1 f.2 (fieldOf v f.1 f.2) s) l s

/-- Bits [hi:lo] of a register cleared where the value written has a 1 (R11, W1C). -/
def clearBits (r : Nat) (v : Word) (hi lo : Nat) (s : State) : State :=
  setRf r hi lo (rf s r hi lo &&& (2 ^ (hi + 1 - lo) - 1 - fieldOf v hi lo)) s

/-- A finite index from an offset that is in range. -/
def idx (n k : Nat) (h : 0 < n) : Fin n := ⟨k % n, Nat.mod_lt _ h⟩

/-! ### Stack sites -/

/-- Lanes on which a link's checker finds errors, where no operand says so: a free value. -/
def freeLanes (f : Nat) : List Nat := (List.range 264).filter (fun k => Config.unstated f k = 1)

/-- A channel's registers (R138 to R140); a write of STK_TG_CTL with start and stop both 1 is a start. [DESIGN CHOICE, log 162] -/
def chWrite (n ch o : Nat) (v : Word) (s : State) : State :=
  let r := chReg n ch o
  match o with
  | 0x20 =>
    if bitOf v 0 then landed s (execTgStart (idx 20 n (by decide)) (idx 32 ch (by decide)) v s)
    else
      let s := writeFields r v [(63, 32), (11, 8), (4, 2)] s
      if bitOf v 1 then
        let (s, f) := takeFree s
        landed s (execTgStop (idx 20 n (by decide)) (idx 32 ch (by decide)) (Config.place f) (freeLanes f) s)
      else s
  | 0x28 => writeFields r v [(31, 16), (11, 0)] s
  | 0x30 => setRg r v s
  | _ => s

/-- A checker-test register of block b: stacks 0 to 19, Anvils 20 to 23 (R164, R165). -/
def eccTestWrite (b o : Nat) (v : Word) (s : State) : State :=
  let fb := idx 24 b (by decide)
  if o = 0x240 then
    if !bitOf v 0 then writeFields (eccCtl b) v [(63, 32), (27, 24), (6, 3)] s
    else match fieldOf v 6 4 with
      | 0 => landed s (execEccRawRead fb v s)
      | 1 => landed s (execEccRawWrite fb v s)
      | 2 => landed s (execEccDecodedRead fb v s)
      | 3 => landed s (execEccEncodedWrite fb v s)
      | op => setRf (eccCtl b) 2 2 1 (eccWrite b op v s)
  else if o = 0x248 ∨ o = 0x250 ∨ (b < 20 ∧ 0x250 < o ∧ o < 0x270) then setRg (eccCtl b + (o - 0x240)) v s
  else s

/-- STK_ERR_INFO or ANV_ERR_INFO (R162). -/
def errInfoWrite (b : Nat) (v : Word) (s : State) : State := clearBits (latchInfoReg b) v 1 0 s

/-- Registers of a stack site (R112, R137, R151, R157, R158, R161, R162, R164, R177, R178, R334). [DESIGN CHOICE, log 133] -/
def stkWrite (smith : Bool) (n o : Nat) (v : Word) (s : State) : State :=
  let r := stkReg n o
  let fn := idx 20 n (by decide)
  if 0x1000 ≤ o ∧ o < 0x3000 then chWrite n ((o - 0x1000) / 0x100) (o % 0x100) v s
  else if 0x400 ≤ o ∧ o < 0x800 then
    (if ownReset s (hxStack n) then setRmapReg r (v &&& 0xFFFFFC00FFFFFC00) s else s)
  else if inEccTest o then (if smith then eccTestWrite n o v s else s)
  else if 0x3000 ≤ o ∧ o < 0x3800 then
    (if smith then mpWrite n ((o - 0x3000) / 8) v s else s)
  else match o with
    | 0x10 => setWindow n (writeFields r v [(7, 4), (0, 0)] s)
    | 0x20 => (if bitOf v 0 then srRequest n else srRelease n) (writeFields r v [(47, 32)] s)
    | 0x28 => writeFields r v [(31, 0)] s
    | 0x148 => whenSt (bitOf v 1) (recallAll n) (writeFields r v [(0, 0)] s)
    | 0x180 => if smith then crcGo n v s else s
    | 0x188 => if smith then writeFields r v [(43, 0)] s else s
    | 0x200 => whenSt (bitOf v 0) (fun s => landed s (execScrubStart fn s)) (writeFields r v [(15, 8)] s)
    | 0x220 => errInfoWrite n v s
    | 0x228 => if bitOf v 0 then vbGo n v s else writeFields r v [(63, 6)] s
    | 0x230 => if bitOf v 0 then rmapGo n v s else writeFields r v [(31, 3)] s
    | 0x800 => syncStack n (whenSt smith (mpWen n (bitOf v 2)) (writeFields r v [(63, 32), (1, 1)] s))
    | 0x830 => writeFields r v [(8, 0)] s
    | _ => s

/-! ### Anvils, Tongs, scheduler, fabric -/

/-- Registers of Anvil a (R165, R241, R458). A Smith core reaches the test mode and, for its own queues, a Hammer core QSC_QADV. -/
def anvWrite (smith : Bool) (a o : Nat) (v : Word) (s : State) : State :=
  let r := anvReg a o
  if 0x1000 ≤ o ∧ o < 0x2000 then
    let c := o / 0x100 - 0x10
    match o % 0x100 with
    | 0x00 =>
      let s := writeFields r v [(63, 48)] s
      let s := if bitOf v 1 = (rf s r 1 1 == 1) then s else clusterHalt a c (bitOf v 1) s
      if bitOf v 0 = (rf s r 0 0 == 1) then s else hammerRun a c (bitOf v 0) s
    | 0x18 => setRg r v s
    | 0x20 => setRg r v s
    | _ => s
  else if 0x2000 ≤ o ∧ o < 0x4000 then (if o % 0x20 = 8 then clearBits r v 27 24 s else s)
  else if inEccTest o then (if smith then eccTestWrite (20 + a) o v s else s)
  else match o with
    | 0x100 => traceEnable a (bitOf v 0) (writeFields r v [(63, 48), (7, 4)] s)
    | 0x108 => writeFields r v [(26, 12)] s
    | 0x220 => errInfoWrite (20 + a) v s
    | 0x500 => if bitOf v 0 then ucieStart a v s else writeFields r v [(11, 8)] s
    | _ => s

/-- Registers of Tongs engine e (R245, R255, R256, R258). -/
def tngWrite (smith : Bool) (e o : Nat) (v : Word) (s : State) : State :=
  if o = 0 then (if smith then setRf (tngReg e 0) 0 0 (fieldOf v 0 0) s else s)
  else if 0x1000 ≤ o ∧ o < 0x2000 then
    let c := (o - 0x1000) / 0x40
    match o % 0x40 with
    | 0x00 => if smith then channelBind e c v s else s
    | 0x08 => clearBits (chanReg e c 8) v 57 57 s
    | 0x20 => if smith then tongsAbort e c (fieldOf v 31 0) s else s
    | _ => s
  else s

/-- QSC_QADV as core `core` writes it (R274, R283). -/
def qadvWrite (core : Nat) (v : Word) (s : State) : State := qadv core (fieldOf v 63 44) (fieldOf v 32 32) (fieldOf v 31 0) s

/-- Registers of the scheduler (R283). -/
def qscWrite (smith : Bool) (core o : Nat) (v : Word) (s : State) : State :=
  if o = 0x10 then writeFields (qscReg o) v [(19, 0)] s
  else if !smith then s
  else match o with
    | 0x00 => writeFields (qscReg o) v [(43, 0)] s
    | 0x18 => qadvWrite core v s
    | 0x28 => writeFields (qscReg o) v [(43, 0)] s
    | 0x30 => writeFields (qscReg o) v [(4, 0)] s
    | 0x38 => faultConsume (fieldOf v 31 0) s
    | _ => s

/-- TUY_TLOOP (R460). -/
def tloopWrite (v : Word) (s : State) : State :=
  if inGroup s || selfId s == 0xFF then s else setRf (tuyReg 0x10) 0 0 (fieldOf v 0 0) s

/-- Registers of the Tuyere block (R380, R460). -/
def tuyWrite (o : Nat) (v : Word) (s : State) : State :=
  if o = 0 then tuyCtlWrite v s
  else if o = 0x10 then tloopWrite v s
  else if 0x100 ≤ o ∧ o < 0x400 ∧ o % 0x40 = 0 then portWrite ((o - 0x100) / 0x40) v s
  else s

/-! ### Bells, Ember, Quench, host port, mailboxes -/

/-- Registers of Bell b (R407): BAR0 writes reach BEL_SETP alone. -/
def belWrite (smith : Bool) (b o : Nat) (v : Word) (s : State) : State :=
  let fb := idx 5 b (by decide)
  if 0x2100 ≤ o ∧ o < 0x2180 then landed s (execSetPending (.setp fb (idx 16 ((o - 0x2100) / 8) (by decide)) v) s)
  else if !smith then s
  else if o < 0x2000 then landed s (execBellSourceWrite fb (idx 1024 (o / 8) (by decide)) v s)
  else if 0x2180 ≤ o ∧ o < 0x2200 then landed s (execClearPending fb (idx 16 ((o - 0x2180) / 8) (by decide)) v s)
  else if 0x3000 ≤ o ∧ o < 0x3200 then
    (if o % 0x20 = 0 && (o - 0x3000) / 0x20 < bellTargets b then writeFields (belReg b o) v [(41, 32), (7, 0)] s else s)
  else if 0x4000 ≤ o ∧ o < 0x6000 then
    (if counterSource b ((o - 0x4000) / 8) then clearBits (belReg b o) v 48 48 (writeFields (belReg b o) v [(47, 32)] s) else s)
  else if 0x6000 ≤ o ∧ o < 0x8000 then
    landed s (execCounterSubtract (.evsub fb (idx 1024 ((o - 0x6000) / 8) (by decide))) (BitVec.ofNat 32 (fieldOf v 31 0)) s)
  else s

/-- Registers of Ember as a Smith core writes them (R417, R418, R422, R432). -/
def embWrite (o : Nat) (v : Word) (s : State) : State :=
  let r := embReg o
  if o = 8 then
    let s := writeFields r v [(63, 48), (47, 32)] s
    if bitOf v 0 && pstate s == 2 then setPstate 4 s else s
  else if o = 0x20 then clearBits r v 4 0 s
  else if 0x40 ≤ o ∧ o < 0x60 then
    overList (fun k s => if bitOf v k then clearFlag (64 * ((o - 0x40) / 8) + k) s else s) (List.range 64) s
  else if 0x200 ≤ o ∧ o < 0x400 then writeFields r v [(7, 0)] s
  else s

/-- Registers of Quench (R456, R462, R467); `jtag` for REGACC, which alone reaches QCH_TEST. -/
def qchRegWrite (jtag : Bool) (o : Nat) (v : Word) (s : State) : State :=
  match o with
  | 0x00 => qchCtlWrite v s
  | 0x20 =>
    if bitOf v 0 then readoutGo v s
    else
      let s := roFields v s
      if bitOf v 1 then
        let (s, f) := takeFree s
        landed s (execReadoutStop (Config.place f) s)
      else s
  | 0x28 => setRg (qchReg o) v s
  | 0x30 => setRg (qchReg o) v s
  | 0x40 => if jtag then holdWrite (bitOf v 0) s else s
  | _ => s

/-- Registers of the host port (R397, R457). -/
def hstWrite (o : Nat) (v : Word) (s : State) : State :=
  match o with
  | 0x00 => clearBits (hstReg 0) v 31 16 s
  | 0x20 =>
    if bitOf v 0 then hostLoopStart v s
    else if bitOf v 1 then
      let (s, f) := takeFree s
      hostLoopEnd (Config.place f) (Config.unitCycles f) (loopFields v s)
    else loopFields v s
  | _ => s

/-- A mailbox (R345). -/
def mbWrite (m o : Nat) (v : Word) (s : State) : State :=
  let r := mbReg m o
  if o = 0 then mbDoorbell m v s
  else if o = 8 then clearBits r v 59 58 s
  else if o = 0x10 then writeFields r v [(63, 63), (42, 32)] s
  else if 0x400 ≤ o ∧ o < 0x800 then setRg r v s
  else s

/-- The MSI-X table (R386, R391): address words, data with vector control. -/
def msixWrite (off : Nat) (v : Word) (s : State) : State :=
  msixFlush (if off % 16 = 0 then setRg off v s else writeFields off v [(31, 0), (32, 32)] s)

/-! ### BAR0 -/

/-- Who writes a register. -/
def regSmith : RegAgent → Bool
  | .host => false
  | .smith _ => true
  | .hammer _ => false
  | .jtag => true

/-- The core that a QSC_QADV write counts as: REGACC acts with the rights of a Smith core (R461). -/
def regCore : RegAgent → Nat
  | .host => 64
  | .smith k => 64 + k.val
  | .hammer x => x.val
  | .jtag => 64

/-- An aligned 8-byte write to a register of BAR0 that decodes. -/
def barPut (who : RegAgent) (off : Nat) (v : Word) (s : State) : State :=
  let smith := regSmith who
  let o := off % 0x10000
  if 0x00010000 ≤ off ∧ off < 0x00020000 then hstWrite o v s
  else if 0x00100000 ≤ off ∧ off < 0x00110000 then mbWrite (o / 0x1000) (off % 0x1000) v s
  else if off = 0x00110008 then hostIfWrite v s
  else if 0x00140000 ≤ off ∧ off < 0x00148000 then msixWrite off v s
  else if 0x00180000 ≤ off ∧ off < 0x001D0000 then belWrite smith ((off - 0x00180000) / 0x10000) o v s
  else if 0x001D0000 ≤ off ∧ off < 0x001E0000 then (if smith then embWrite o v s else s)
  else if inQuench off then qchRegWrite (who == .jtag) o v s
  else if 0x00200000 ≤ off ∧ off < 0x00340000 then stkWrite smith ((off - 0x00200000) / 0x10000) o v s
  else if 0x00340000 ≤ off ∧ off < 0x00380000 then
    let a := (off - 0x00340000) / 0x10000
    (match who with
     | .hammer x => if o = 0xF000 then qadvWrite x.val v s else anvWrite false a o v s
     | _ => anvWrite smith a o v s)
  else if 0x00380000 ≤ off ∧ off < 0x003B0000 then tngWrite smith ((off - 0x00380000) / 0x2000) (off % 0x2000) v s
  else if 0x003B0000 ≤ off ∧ off < 0x003B0080 then qscWrite smith (regCore who) o v s
  else if 0x003F0000 ≤ off ∧ off < 0x00400000 then tuyWrite o v s
  else s

/-- A write as the state of the module lets it through (R452, R464). -/
def barWrite (who : RegAgent) (off : Nat) (v : Word) (s : State) : State :=
  if s.board.boot < 2 then s
  else if frozen s && !inQuench off then dropAccess s
  else if stageFailed s && !failedDecodes off then s
  else barPut who off v s

/-- Areas that take 4-byte writes (R387): the mailbox request areas, the MSI-X table and the CXL component registers. -/
def takesHalf (off : Nat) : Bool :=
  (0x00100000 ≤ off && off < 0x00110000 && 0x400 ≤ off % 0x1000 && off % 0x1000 < 0x800)
    || (0x00140000 ≤ off && off < 0x00148000) || (0x00120000 ≤ off && off < 0x00130000)

/-- A BAR0 write of a size or alignment that R387 refuses: counted in HST_ERR.bad_access, or lost as any write is while the
module is frozen or off (R452, R464). -/
def badWrite (off : Nat) (s : State) : State :=
  if s.board.boot < 2 then s
  else if frozen s && !inQuench off then dropAccess s
  else if stageFailed s && !failedDecodes off then s
  else satRf (hstReg 8) 47 32 1 s

/-- An aligned 4-byte write: one half of its register (R387). [DEDUCED, log 148] -/
def halfWrite (who : RegAgent) (off : Nat) (high : Bool) (v : Word) (s : State) : State :=
  if !takesHalf off then badWrite off s
  else
    let w := rg s off
    let v := if high then withField w 63 32 (fieldOf v 31 0) else withField w 31 0 (fieldOf v 31 0)
    barWrite who off v s

/-- The Anvil block that a Hammer core reaches (R234). -/
def ownBlock (core off : Nat) : Bool := 0x00340000 + core / 16 * 0x10000 ≤ off && off < 0x00350000 + core / 16 * 0x10000

/-- May an agent make a register access now? -/
def agentRuns (s : State) : RegAgent → Nat → Bool
  | .host, _ => true
  | .smith k, _ => coreRuns s (64 + k.val) && !coreWaits s (64 + k.val)
  | .hammer x, off => coreRuns s x.val && !coreWaits s x.val && ownBlock x.val off
  | .jtag, _ => jtagOn s

/-- REGISTER_WRITE (R11, R387, R391, R395, R406): a register of BAR0, whole or by half; belsel of a core; the Memory Space Enable
and MSI-X control of configuration space. -/
def execRegisterWrite (who : RegAgent) (d : RegDest) (v : Word) (s : State) : Host.Outcome State Fault Refusal :=
  match d with
  | .bar off half =>
    let o := off.toNat / 8 * 8
    let act (s : State) : Host.Outcome State Fault Refusal :=
      done (if off.toNat % 8 ≠ 0 then badWrite o s else match half with | none => barWrite who o v s | some h => halfWrite who o h v s)
    if !agentRuns s who o || (who != .host && off.toNat % 8 ≠ 0) then noEvent s
    else match who with
      | .host => hostBar s (act s)
      | .hammer _ => live s (act s)
      | .smith _ => live s (act s)
      | .jtag => act s
  | .belsel core => live s <|
    bellCsr core.val (fun s => { s with belsel := tabSet 0 s.belsel core.val (fieldOf v 3 0) }) s
  | .memorySpace => if !linkUp s then noEvent s else done (updCfg (fun c => { c with mse := c.mse || bitOf v 0 }) s)
  | .msixControl =>
    if !linkUp s then noEvent s
    else done (msixFlush (updCfg (fun c => { c with msixEn := bitOf v 0, msixMask := bitOf v 1 }) s))

/-- REGACC (R461): the shift of a new access, which delivers the data of the last read, and its update. -/
def execRegacc (write : Bool) (off : BitVec 22) (data : Word) (s : State) : Host.Outcome State Fault Refusal :=
  let t := jtagScan 0 0x10 87 (fun s => s.board.regacc.toNat) s
  if !jtagOn s then done t
  else
    let o := off.toNat / 8 * 8
    if write then done (barWrite .jtag o data t)
    else
      let w := barRead true t o
      let t := if 0x00340000 ≤ o ∧ o < 0x00380000 ∧ 0x1000 ≤ o % 0x10000 ∧ o % 0x10000 < 0x2000 ∧ o % 0x100 = 0x10 ∧ running t
        then (clTagRead ((o - 0x00340000) / 0x10000) (o % 0x10000 / 0x100 - 0x10) t).1 else t
      done (updBoard (fun b => { b with regacc := w }) t)

end Sys2Proof.Machine
end

