-- ==== Sys2Proof/Machine/CoreMem.lean ====
section
/-! DEFINITION. Loads, stores, fences and atomics of the Hammer and Smith cores (spec/04_address_spaces_and_ordering.md R91 to R104;
spec/09_anvil_cores_bellows_hammer.md R234 to R236; spec/11_queues_flags_and_waits.md R265). -/

namespace Sys2Proof.Machine

/-- What a core's physical address names (R234). -/
inductive CoreTarget where
  | sm (addr : Nat)
  | db (addr : Nat)
  | reg (off : Nat)
  | port (off : Nat)
  | bell (off : Nat)
  | nothing
  deriving DecidableEq, Repr

/-- Targets of a Hammer core's addresses (R234). -/
def hammerTarget (core a : Nat) : CoreTarget :=
  if a < 2 ^ 44 then .sm a
  else if a < 2 * 2 ^ 44 then (if a - 2 ^ 44 < dbBytes then .db (core / 16 * 2 ^ 32 + (a - 2 ^ 44)) else .nothing)
  else if a < 3 * 2 ^ 44 then
    let o := a - 2 * 2 ^ 44
    if o < 0x10000 then .reg (anvReg (core / 16) o) else if o < 0x10028 then .port (o - 0x10000) else .nothing
  else if a < 4 * 2 ^ 44 && a - 3 * 2 ^ 44 < 0x800000 then .bell (a - 3 * 2 ^ 44)
  else .nothing

/-- Targets of a Smith core's addresses: SM, the DB of every Anvil, the registers at their BAR0 offsets and the doorbells at their
BAR2 offsets (R97, R265), in windows placed as a Hammer core's are. [PRESUMED, log 26] -/
def smithTarget (a : Nat) : CoreTarget :=
  if a < 2 ^ 44 then .sm a
  else if a < 2 * 2 ^ 44 then (if rangeOk 2 (a - 2 ^ 44) 1 then .db (a - 2 ^ 44) else .nothing)
  else if a < 3 * 2 ^ 44 then (if a - 2 * 2 ^ 44 < 0x400000 then .reg (a - 2 * 2 ^ 44) else .nothing)
  else if a < 4 * 2 ^ 44 && a - 3 * 2 ^ 44 < 0x800000 then .bell (a - 3 * 2 ^ 44)
  else .nothing

def coreTarget (core a : Nat) : CoreTarget := if isSmith core then smithTarget a else hammerTarget core a

/-- May a core issue its next instruction: it runs, it awaits no data that the PoC holds, and no push stalls it (R103, R235)? A store
that the PoC holds does not stop it. [DEDUCED, log 28] -/
def coreReady (s : State) (core : Nat) : Bool :=
  coreRuns s core && !coreWaits s core && (isSmith core || (cluster s core).push.isNone)

/-- An instruction of a core. [PRESUMED, log 40] -/
def coreStep (core : Nat) (act : State → State) (s : State) : Host.Outcome State Fault Refusal := live s <|
  if coreReady s core then done (act s) else noEvent s

/-- An instruction that waits for every earlier store of its core to be acknowledged where `rel` is set: a fence.rel, or an atomic
with the rl bit (R103, R104). -/
def coreStepRel (core : Nat) (rel : Bool) (act : State → State) (s : State) : Host.Outcome State Fault Refusal := live s <|
  if coreReady s core && !(rel && coreStoring s core) then done (act s) else noEvent s

/-- Causes of the misaligned-address exceptions. -/
def causeLoadAlign : Nat := 4
def causeStoreAlign : Nat := 6

/-! ### Loads -/

/-- A register as a core reads it: 8 bytes, half of it, or zero for another size (R387); a read of ANV_CL_TAG takes a tag (R237). [DEDUCED, log 25] -/
def coreReadReg (core off lg : Nat) (s : State) : State × Nat :=
  let o := off / 8 * 8
  let v := (barRead (isSmith core) s o).toNat
  let tag := 0x00340000 ≤ o && o < 0x00380000 && 0x1000 ≤ o % 0x10000 && o % 0x10000 < 0x2000 && o % 0x100 == 0x10
  let s := if tag then (clTagRead ((o - 0x00340000) / 0x10000) (o % 0x10000 / 0x100 - 0x10) s).1 else s
  (s, if lg = 3 then v else if lg = 2 then natBits v (off % 8 * 8 + 31) (off % 8 * 8) else 0)

/-- A load outside SM of 2^lg aligned bytes: the value, or none where it is an access fault. -/
def loadElse (core lg : Nat) (t : CoreTarget) (s : State) : State × Option Nat :=
  match t with
  | .db a =>
    let (s, (v, p)) := memReadNat (coreWho s core) 2 a (2 ^ lg) s
    (s, if p then none else some v)
  | .reg off => let (s, v) := coreReadReg core off lg s; (s, some v)
  | .port off =>
    if lg != 3 then (s, none)
    else let y := cluster s core; (s, some (if off = 0 then y.w0 else if off = 8 then y.w1 else if off = 16 then y.w2 else 0))
  | .bell off =>
    if lg = 3 then (s, some (queue s (off / 8)).prod)
    else
      let (s, l) := unstatedBytes (2 ^ lg) s
      (s, some (leNat l))
  | _ => (s, none)

/-- An ordinary load: from the data cache where the line is present, else at its ordering point (R93, R97, R100). -/
def coreLoad (core a lg : Nat) (zext : Bool) (rd : Nat) (e : LinkErr) (s : State) : State :=
  if a % 2 ^ lg != 0 then coreTrap core causeLoadAlign a s
  else match coreTarget core a with
    | .sm _ =>
      if !addrOk s 4 a (2 ^ lg) then accessFault core causeLoad a s
      else
        let l := dcLine s core (lineOf a)
        if l.isEmpty then serve (.load core a lg zext rd e) s
        else setXreg core rd (extend lg zext (leNat ((l.drop (a % 64)).take (2 ^ lg)))) s
    | t =>
      match loadElse core lg t s with
      | (s, some v) => setXreg core rd (extend lg zext v) s
      | (s, none) => accessFault core causeLoad a s

/-- CORE_LOAD (R93, R97, R100, R153): 2^lg bytes, zero- or sign-extended into register rd. [DESIGN CHOICE, log 9] -/
def execCoreLoad (core : Fin 68) (addr : OnWire Word) (lg : Fin 4) (zext : Bool) (rd : Fin 32) (s : State) :
    Host.Outcome State Fault Refusal := coreStep core.val (coreLoad core.val addr.at_.toNat lg.val zext rd.val addr.link) s

/-- A volatile load (R101): at the PoC for SM; elsewhere nothing is cached and it is a load. [DEDUCED, log 27] -/
def coreLoadV (core a rd : Nat) (e : LinkErr) (s : State) : State :=
  if a % 8 != 0 then coreTrap core causeLoadAlign a s
  else match coreTarget core a with
    | .sm _ => if addrOk s 4 a 8 then serve (.loadV core a rd e) s else accessFault core causeLoad a s
    | _ => coreLoad core a 3 false rd e s

/-- LD_V (R101). -/
def execLdV (core : Fin 68) (addr : OnWire Word) (rd : Fin 32) (s : State) : Host.Outcome State Fault Refusal :=
  coreStep core.val (coreLoadV core.val addr.at_.toNat rd.val addr.link) s

/-! ### Stores -/

/-- Who writes when a core stores to a register. -/
def coreAgent (core : Nat) : RegAgent :=
  if isSmith core then .smith (idx 4 (core - 64) (by decide)) else .hammer (idx 64 core (by decide))

/-- A store to a push port (R235): a staging register, or word 3, which pushes. -/
def portStore (core off v : Nat) (s : State) : State :=
  let y := cluster s core
  match off with
  | 0 => setCluster core { y with w0 := v } s
  | 8 => setCluster core { y with w1 := v } s
  | 16 => setCluster core { y with w2 := v } s
  | 24 => pushWord (core / 16) (core % 16) false v s
  | _ => pushWord (core / 16) (core % 16) true v s

/-- A store outside SM of 2^lg aligned bytes; none where it is an access fault. -/
def storeElse (core lg v : Nat) (t : CoreTarget) (s : State) : Option State :=
  match t with
  | .db a => some (memWriteNat (coreWho s core) 2 a (2 ^ lg) v s)
  | .reg off =>
    some (if lg = 3 then barWrite (coreAgent core) off (toWord v) s
      else if lg = 2 && takesHalf (off / 8 * 8) then halfWrite (coreAgent core) (off / 8 * 8) (off % 8 == 4) (toWord v) s
      else s)
  | .port off => if lg = 3 then some (portStore core off v s) else none
  | .bell off => some (if lg = 3 then doorbell (off / 8) (v % 2 ^ 32) s else s)
  | _ => none

/-- A store: write-through to its ordering point, and into the cached line (R93, R97, R100). -/
def coreStore (core a lg v : Nat) (e : LinkErr) (s : State) : State :=
  if a % 2 ^ lg != 0 then coreTrap core causeStoreAlign a s
  else match coreTarget core a with
    | .sm _ =>
      if addrOk s 4 a (2 ^ lg) then serve (.store core a lg v e) (dcUpdate core a (leBytes (2 ^ lg) v) s)
      else accessFault core causeStore a s
    | t => match storeElse core lg v t s with
      | some s => s
      | none => accessFault core causeStore a s

/-- CORE_STORE (R93, R97, R100, R234, R235). -/
def execCoreStore (core : Fin 68) (addr : OnWire Word) (lg : Fin 4) (v : Word) (s : State) :
    Host.Outcome State Fault Refusal :=
  coreStep core.val (coreStore core.val addr.at_.toNat lg.val v.toNat addr.link) s

/-! ### Fences -/

/-- FENCE_ACQ (R103): every earlier load and atomic has returned its data; the core's data cache is invalidated. -/
def execFenceAcq (core : Fin 68) (s : State) : Host.Outcome State Fault Refusal := coreStep core.val (dcFlush core.val) s

/-- FENCE_REL (R103): it waits until every earlier load has returned its data and every earlier store and atomic has been
acknowledged by its ordering point. -/
def execFenceRel (core : Fin 68) (s : State) : Host.Outcome State Fault Refusal := coreStepRel core.val true id s

/-- FENCE_FULL (R103): fence.rel, then fence.acq. Of the immediates 1 and 2 are the other two fences, and every value but 1, 2 and 3
is illegal. -/
def execFenceFull (f : FenceWord) (s : State) : Host.Outcome State Fault Refusal :=
  match f.imm with
  | some i =>
    if i = 1 then execFenceAcq f.core s
    else if i = 2 then execFenceRel f.core s
    else if i = 3 then coreStepRel f.core.val true (dcFlush f.core.val) s
    else coreStep f.core.val (illegal f.core.val) s
  | none => coreStepRel f.core.val true (dcFlush f.core.val) s

/-- FENCE_I (R103): the instruction cache alone. -/
def execFenceI (core : Fin 68) (s : State) : Host.Outcome State Fault Refusal :=
  coreStep core.val (fun s => { s with icache := s.icache.filter (fun e => e.1 / 2 ^ 64 != core.val) }) s

/-! ### Atomics -/

/-- An atomic: aligned, on SM alone (R104). -/
def coreAtomic (core a lg align cause : Nat) (x : Access) (s : State) : State :=
  if a % 2 ^ lg != 0 then coreTrap core align a s
  else match coreTarget core a with
    | .sm _ => if addrOk s 4 a (2 ^ lg) then serve x s else accessFault core cause a s
    | _ => accessFault core cause a s

/-- ATOMIC_MEMORY_OPERATION (R104): on a word, or on a double word where `dbl`. -/
def execAtomicMemoryOperation (core : Fin 68) (op : AmoOp) (addr : OnWire Word) (dbl : Bool) (v : Word) (rd : Fin 32) (aq rl : Bool)
    (s : State) : Host.Outcome State Fault Refusal :=
  let lg := 2 + b2n dbl
  coreStepRel core.val rl (coreAtomic core.val addr.at_.toNat lg causeStoreAlign causeStore
    (.amo core.val op addr.at_.toNat lg v.toNat rd.val aq addr.link)) s

/-- LOAD_RESERVED (R104). -/
def execLoadReserved (core : Fin 68) (addr : OnWire Word) (dbl : Bool) (rd : Fin 32) (aq rl : Bool) (s : State) :
    Host.Outcome State Fault Refusal :=
  let lg := 2 + b2n dbl
  coreStepRel core.val rl (coreAtomic core.val addr.at_.toNat lg causeLoadAlign causeLoad
    (.lr core.val addr.at_.toNat lg rd.val aq addr.link)) s

/-- STORE_CONDITIONAL (R104). -/
def execStoreConditional (core : Fin 68) (addr : OnWire Word) (dbl : Bool) (v : Word) (rd : Fin 32) (aq rl : Bool)
    (s : State) : Host.Outcome State Fault Refusal :=
  let lg := 2 + b2n dbl
  coreStepRel core.val rl (coreAtomic core.val addr.at_.toNat lg causeStoreAlign causeStore
    (.sc core.val addr.at_.toNat lg v.toNat rd.val aq addr.link)) s

end Sys2Proof.Machine
end

