-- ==== Sys2Proof/Machine/Dispatch.lean ====
section
/-! DEFINITION. One arm for each command: a direct call of its meaning. -/

namespace Sys2Proof.Machine

def exec (i : Instr) (s : State) : Host.Outcome State Fault Refusal :=
  match i with
  | .coreLoad core addr lg zext rd => Sys2Proof.Machine.execCoreLoad core addr lg zext rd s
  | .coreStore core addr lg v => Sys2Proof.Machine.execCoreStore core addr lg v s
  | .ldV core addr rd => Sys2Proof.Machine.execLdV core addr rd s
  | .fenceAcq core => Sys2Proof.Machine.execFenceAcq core s
  | .fenceRel core => Sys2Proof.Machine.execFenceRel core s
  | .fenceFull f => Sys2Proof.Machine.execFenceFull f s
  | .fenceI core => Sys2Proof.Machine.execFenceI core s
  | .atomicMemoryOperation core op addr dbl v rd aq rl => Sys2Proof.Machine.execAtomicMemoryOperation core op addr dbl v rd aq rl s
  | .loadReserved core addr dbl rd aq rl => Sys2Proof.Machine.execLoadReserved core addr dbl rd aq rl s
  | .storeConditional core addr dbl v rd aq rl => Sys2Proof.Machine.execStoreConditional core addr dbl v rd aq rl s
  | .hostSmRead o want => Sys2Proof.Machine.execHostSmRead o want s
  | .hostSmWrite o data poisoned e => Sys2Proof.Machine.execHostSmWrite o data poisoned e s
  | .backInvalidateResponse line data keep => Sys2Proof.Machine.execBackInvalidateResponse line data keep s
  | .hostCoherenceTimeout line => Sys2Proof.Machine.execHostCoherenceTimeout line s
  | .h2dSnoop => Sys2Proof.Machine.execH2dSnoop s
  | .htrkRecallAll n => Sys2Proof.Machine.execHtrkRecallAll n s
  | .mainPathBurst r => Sys2Proof.Machine.execMainPathBurst r s
  | .narrowPortAccess r => Sys2Proof.Machine.execNarrowPortAccess r s
  | .yieldPoint n u => Sys2Proof.Machine.execYieldPoint n u s
  | .refreshCommand n ch ly bg bank bankHeld => Sys2Proof.Machine.execRefreshCommand n ch ly bg bank bankHeld s
  | .laneRecentre n ch => Sys2Proof.Machine.execLaneRecentre n ch s
  | .srRequest n => Sys2Proof.Machine.execSrRequest n s
  | .srExitRequest n => Sys2Proof.Machine.execSrExitRequest n s
  | .srEntryDone n => Sys2Proof.Machine.execSrEntryDone n s
  | .srExitDone n => Sys2Proof.Machine.execSrExitDone n s
  | .srIdleReentry n => Sys2Proof.Machine.execSrIdleReentry n s
  | .tgStart n ch v => Sys2Proof.Machine.execTgStart n ch v s
  | .tgStop n ch ran bad => Sys2Proof.Machine.execTgStop n ch ran bad s
  | .tgRunDone n ch bad => Sys2Proof.Machine.execTgRunDone n ch bad s
  | .validBitClear n v => Sys2Proof.Machine.execValidBitClear n v s
  | .validBitClearStart n => Sys2Proof.Machine.execValidBitClearStart n s
  | .validBitClearDone n => Sys2Proof.Machine.execValidBitClearDone n s
  | .errInfoClear b overflow => Sys2Proof.Machine.execErrInfoClear b overflow s
  | .storedErrorService b => Sys2Proof.Machine.execStoredErrorService b s
  | .remapMove n v => Sys2Proof.Machine.execRemapMove n v s
  | .remapMoveDone n => Sys2Proof.Machine.execRemapMoveDone n s
  | .scrubRow n ch ly => Sys2Proof.Machine.execScrubRow n ch ly s
  | .scrubStart n => Sys2Proof.Machine.execScrubStart n s
  | .eccRawRead b v => Sys2Proof.Machine.execEccRawRead b v s
  | .eccRawWrite b v => Sys2Proof.Machine.execEccRawWrite b v s
  | .eccDecodedRead b v => Sys2Proof.Machine.execEccDecodedRead b v s
  | .eccEncodedWrite b v => Sys2Proof.Machine.execEccEncodedWrite b v s
  | .swageCommandTake n => Sys2Proof.Machine.execSwageCommandTake n s
  | .swagePrologue n => Sys2Proof.Machine.execSwagePrologue n s
  | .swageNop n u => Sys2Proof.Machine.execSwageNop n u s
  | .endCmd n u => Sys2Proof.Machine.execEnd n u s
  | .yld n u => Sys2Proof.Machine.execYld n u s
  | .setl n u => Sys2Proof.Machine.execSetl n u s
  | .loop n u => Sys2Proof.Machine.execLoop n u s
  | .ownl n u => Sys2Proof.Machine.execOwnl n u s
  | .lenl n u => Sys2Proof.Machine.execLenl n u s
  | .skip n u => Sys2Proof.Machine.execSkip n u s
  | .aclr n u => Sys2Proof.Machine.execAclr n u s
  | .mvm n u => Sys2Proof.Machine.execMvm n u s
  | .psnd n u => Sys2Proof.Machine.execPsnd n u s
  | .cwr n u => Sys2Proof.Machine.execCwr n u s
  | .dots n u => Sys2Proof.Machine.execDots n u s
  | .mclr n u => Sys2Proof.Machine.execMclr n u s
  | .smax n u => Sys2Proof.Machine.execSmax n u s
  | .sexp n u => Sys2Proof.Machine.execSexp n u s
  | .swageVacc n u => Sys2Proof.Machine.execSwageVacc n u s
  | .part n u => Sys2Proof.Machine.execPart n u s
  | .swageMerge n => Sys2Proof.Machine.execSwageMerge n s
  | .mergeExchangeReceive n src => Sys2Proof.Machine.execMergeExchangeReceive n src s
  | .mergeAbort n => Sys2Proof.Machine.execMergeAbort n s
  | .attentionMerge n => Sys2Proof.Machine.execAttentionMerge n s
  | .swageTimeout n => Sys2Proof.Machine.execSwageTimeout n s
  | .mpWrite n iv v => Sys2Proof.Machine.execMpWrite n iv v s
  | .mpWenWrite n b => Sys2Proof.Machine.execMpWenWrite n b s
  | .mma a c k => Sys2Proof.Machine.execMma a c k s
  | .engineNop a c k eng => Sys2Proof.Machine.execEngineNop a c k eng s
  | .vadd a c k => Sys2Proof.Machine.execVadd a c k s
  | .vsub a c k => Sys2Proof.Machine.execVsub a c k s
  | .vmul a c k => Sys2Proof.Machine.execVmul a c k s
  | .vdiv a c k => Sys2Proof.Machine.execVdiv a c k s
  | .vmax a c k => Sys2Proof.Machine.execVmax a c k s
  | .vmin a c k => Sys2Proof.Machine.execVmin a c k s
  | .vsqrt a c k => Sys2Proof.Machine.execVsqrt a c k s
  | .vexp a c k => Sys2Proof.Machine.execVexp a c k s
  | .vscl a c k => Sys2Proof.Machine.execVscl a c k s
  | .vcvt a c k => Sys2Proof.Machine.execVcvt a c k s
  | .vfill a c k => Sys2Proof.Machine.execVfill a c k s
  | .vrsum a c k => Sys2Proof.Machine.execVrsum a c k s
  | .vrmaxf a c k => Sys2Proof.Machine.execVrmaxf a c k s
  | .vamax a c k => Sys2Proof.Machine.execVamax a c k s
  | .vimax a c k => Sys2Proof.Machine.execVimax a c k s
  | .vacc a c k => Sys2Proof.Machine.execVacc a c k s
  | .acvt a c k => Sys2Proof.Machine.execAcvt a c k s
  | .araw a c k => Sys2Proof.Machine.execAraw a c k s
  | .racc a c k => Sys2Proof.Machine.execRacc a c k s
  | .rcvt a c k => Sys2Proof.Machine.execRcvt a c k s
  | .aquo a c k => Sys2Proof.Machine.execAquo a c k s
  | .mcpy a c k => Sys2Proof.Machine.execMcpy a c k s
  | .mtrn a c k => Sys2Proof.Machine.execMtrn a c k s
  | .load a c => Sys2Proof.Machine.execLoad a c s
  | .store a c => Sys2Proof.Machine.execStore a c s
  | .run a c => Sys2Proof.Machine.execRun a c s
  | .bar a c => Sys2Proof.Machine.execBar a c s
  | .bellowsRelease a c => Sys2Proof.Machine.execBellowsRelease a c s
  | .directPush a c v => Sys2Proof.Machine.execDirectPush a c v s
  | .bellowsPush a c v => Sys2Proof.Machine.execBellowsPush a c v s
  | .wordComplete a c k eng => Sys2Proof.Machine.execWordComplete a c k eng s
  | .engineWaitTimeout a c k eng => Sys2Proof.Machine.execEngineWaitTimeout a c k eng s
  | .pushStallTimeout a c => Sys2Proof.Machine.execPushStallTimeout a c s
  | .clTagRead a c => Sys2Proof.Machine.execClTagRead a c s
  | .hammerRun a c run => Sys2Proof.Machine.execHammerRun a c run s
  | .clusterHalt a c h => Sys2Proof.Machine.execClusterHalt a c h s
  | .traceEnable a en => Sys2Proof.Machine.execTraceEnable a en s
  | .tongsCopy e c es => Sys2Proof.Machine.execTongsCopy e c es s
  | .tongsGather e c es => Sys2Proof.Machine.execTongsGather e c es s
  | .tongsScatter e c es => Sys2Proof.Machine.execTongsScatter e c es s
  | .tongsCommit e c => Sys2Proof.Machine.execTongsCommit e c s
  | .tongsAbort e c tag => Sys2Proof.Machine.execTongsAbort e c tag s
  | .channelBind e c v => Sys2Proof.Machine.execChannelBind e c v s
  | .tongsHalt e h => Sys2Proof.Machine.execTongsHalt e h s
  | .hostAccessError e c addr => Sys2Proof.Machine.execHostAccessError e c addr s
  | .hmCompletionTimeout e c addr => Sys2Proof.Machine.execHmCompletionTimeout e c addr s
  | .doorbell q v => Sys2Proof.Machine.execDoorbell q v s
  | .qadvTaken core q v => Sys2Proof.Machine.execQadvTaken core q v s
  | .qadvDone core q v => Sys2Proof.Machine.execQadvDone core q v s
  | .queueNop q => Sys2Proof.Machine.execQueueNop q s
  | .flagAdd q => Sys2Proof.Machine.execFlagAdd q s
  | .flagSet q => Sys2Proof.Machine.execFlagSet q s
  | .waitGe q => Sys2Proof.Machine.execWaitGe q s
  | .waitEq q => Sys2Proof.Machine.execWaitEq q s
  | .waitSatisfied q => Sys2Proof.Machine.execWaitSatisfied q s
  | .waitPoll q => Sys2Proof.Machine.execWaitPoll q s
  | .waitTimeoutExpiry q => Sys2Proof.Machine.execWaitTimeoutExpiry q s
  | .waitCensus => Sys2Proof.Machine.execWaitCensus s
  | .queueTableWriteback q => Sys2Proof.Machine.execQueueTableWriteback q s
  | .faultRingConsume v => Sys2Proof.Machine.execFaultRingConsume v s
  | .generate q => Sys2Proof.Machine.execGenerate q s
  | .cancel q => Sys2Proof.Machine.execCancel q s
  | .abort src => Sys2Proof.Machine.execAbort src s
  | .stepStamp cmds tables => Sys2Proof.Machine.execStepStamp cmds tables s
  | .stepCommit => Sys2Proof.Machine.execStepCommit s
  | .requestRetire tag => Sys2Proof.Machine.execRequestRetire tag s
  | .sparkSample a u row j space addr fmt dest => Sys2Proof.Machine.execSparkSample a u row j space addr fmt dest s
  | .sparkMaxExchange pid row j m invalid => Sys2Proof.Machine.execSparkMaxExchange pid row j m invalid s
  | .sparkCandidateExchange pid row j sum cands => Sys2Proof.Machine.execSparkCandidateExchange pid row j sum cands s
  | .anchorExchange src key anchor => Sys2Proof.Machine.execAnchorExchange src key anchor s
  | .groupPulse pid => Sys2Proof.Machine.execGroupPulse pid s
  | .forwardedCommand f => Sys2Proof.Machine.execForwardedCommand f s
  | .stepForward num rows cmds tables => Sys2Proof.Machine.execStepForward num rows cmds tables s
  | .memberAck pid what => Sys2Proof.Machine.execMemberAck pid what s
  | .park src => Sys2Proof.Machine.execPark src s
  | .parkAccept sid => Sys2Proof.Machine.execParkAccept sid s
  | .parkForward tag sid len step held => Sys2Proof.Machine.execParkForward tag sid len step held s
  | .resume src => Sys2Proof.Machine.execResume src s
  | .close src => Sys2Proof.Machine.execClose src s
  | .exportCmd src => Sys2Proof.Machine.execExport src s
  | .exportCommit tag => Sys2Proof.Machine.execExportCommit tag s
  | .importCmd src far => Sys2Proof.Machine.execImport src far s
  | .importCommit tag => Sys2Proof.Machine.execImportCommit tag s
  | .billetCrc n v => Sys2Proof.Machine.execBilletCrc n v s
  | .billetCrcDone n => Sys2Proof.Machine.execBilletCrcDone n s
  | .sleep m => Sys2Proof.Machine.execSleep m s
  | .sleepEntered => Sys2Proof.Machine.execSleepEntered s
  | .wake => Sys2Proof.Machine.execWake s
  | .wakeDone => Sys2Proof.Machine.execWakeDone s
  | .mailboxDoorbell m v => Sys2Proof.Machine.execMailboxDoorbell m v s
  | .mailboxTake m => Sys2Proof.Machine.execMailboxTake m s
  | .hostIfWrite v => Sys2Proof.Machine.execHostIfWrite v s
  | .mbNop m => Sys2Proof.Machine.execMbNop m s
  | .version m => Sys2Proof.Machine.execVersion m s
  | .hearthTable m => Sys2Proof.Machine.execHearthTable m s
  | .eventRing m => Sys2Proof.Machine.execEventRing m s
  | .modelLoad m => Sys2Proof.Machine.execModelLoad m s
  | .modelLoadCommit tag mp => Sys2Proof.Machine.execModelLoadCommit tag mp s
  | .modelUnload m => Sys2Proof.Machine.execModelUnload m s
  | .modelQuery m => Sys2Proof.Machine.execModelQuery m s
  | .adapterLoad m => Sys2Proof.Machine.execAdapterLoad m s
  | .adapterPublish tag result => Sys2Proof.Machine.execAdapterPublish tag result s
  | .adapterRemove m => Sys2Proof.Machine.execAdapterRemove m s
  | .adapterQuery m => Sys2Proof.Machine.execAdapterQuery m s
  | .queueEnable m => Sys2Proof.Machine.execQueueEnable m s
  | .queueDisable m => Sys2Proof.Machine.execQueueDisable m s
  | .queueResume m => Sys2Proof.Machine.execQueueResume m s
  | .queueFlush m => Sys2Proof.Machine.execQueueFlush m s
  | .ringRegister m => Sys2Proof.Machine.execRingRegister m s
  | .ringUnregister m => Sys2Proof.Machine.execRingUnregister m s
  | .sessionQuery m => Sys2Proof.Machine.execSessionQuery m s
  | .requestQuery m => Sys2Proof.Machine.execRequestQuery m s
  | .groupForm m => Sys2Proof.Machine.execGroupForm m s
  | .groupDissolve m => Sys2Proof.Machine.execGroupDissolve m s
  | .groupQuery m => Sys2Proof.Machine.execGroupQuery m s
  | .groupPrepare pid members => Sys2Proof.Machine.execGroupPrepare pid members s
  | .groupCommit pid ggen => Sys2Proof.Machine.execGroupCommit pid ggen s
  | .groupAbandon pid => Sys2Proof.Machine.execGroupAbandon pid s
  | .groupLeave pid => Sys2Proof.Machine.execGroupLeave pid s
  | .moduleReset m => Sys2Proof.Machine.execModuleReset m s
  | .hearthResetEnter m => Sys2Proof.Machine.execHearthResetEnter m s
  | .hearthResetLeave m => Sys2Proof.Machine.execHearthResetLeave m s
  | .eccTestRead m => Sys2Proof.Machine.execEccTestRead m s
  | .eccTestAdd m => Sys2Proof.Machine.execEccTestAdd m s
  | .eccTestAddTwo m => Sys2Proof.Machine.execEccTestAddTwo m s
  | .eccTestPoison m => Sys2Proof.Machine.execEccTestPoison m s
  | .eccTestZero m => Sys2Proof.Machine.execEccTestZero m s
  | .fwUpdate m image => Sys2Proof.Machine.execFwUpdate m image s
  | .helloSend => Sys2Proof.Machine.execHelloSend s
  | .helloReceive p f => Sys2Proof.Machine.execHelloReceive p f s
  | .attach p f => Sys2Proof.Machine.execAttach p f s
  | .attachAck p f => Sys2Proof.Machine.execAttachAck p f s
  | .bye p f => Sys2Proof.Machine.execBye p f s
  | .ack p f => Sys2Proof.Machine.execAck p f s
  | .nak p f => Sys2Proof.Machine.execNak p f s
  | .write p f => Sys2Proof.Machine.execWrite p f s
  | .readReq p f => Sys2Proof.Machine.execReadReq p f s
  | .readRsp p f => Sys2Proof.Machine.execReadRsp p f s
  | .flag p f => Sys2Proof.Machine.execFlag p f s
  | .partnerDeparture pid => Sys2Proof.Machine.execPartnerDeparture pid s
  | .retransmitTimeout pid => Sys2Proof.Machine.execRetransmitTimeout pid s
  | .ackTimer pid => Sys2Proof.Machine.execAckTimer pid s
  | .nakTimer pid => Sys2Proof.Machine.execNakTimer pid s
  | .conflictExpiry pid => Sys2Proof.Machine.execConflictExpiry pid s
  | .portLinkChange p link => Sys2Proof.Machine.execPortLinkChange p link s
  | .portEnableWrite p v => Sys2Proof.Machine.execPortEnableWrite p v s
  | .tuyCtlWrite v => Sys2Proof.Machine.execTuyCtlWrite v s
  | .partnerLossHoldExpiry => Sys2Proof.Machine.execPartnerLossHoldExpiry s
  | .leadLossExpiry => Sys2Proof.Machine.execLeadLossExpiry s
  | .poisonRecovery => Sys2Proof.Machine.execPoisonRecovery s
  | .flr => Sys2Proof.Machine.execFlr s
  | .hotReset down => Sys2Proof.Machine.execHotReset down s
  | .perstAssert => Sys2Proof.Machine.execPerstAssert s
  | .perstDeassert => Sys2Proof.Machine.execPerstDeassert s
  | .busMasterDisable => Sys2Proof.Machine.execBusMasterDisable s
  | .memorySpaceDisable => Sys2Proof.Machine.execMemorySpaceDisable s
  | .linkRecovery => Sys2Proof.Machine.execLinkRecovery s
  | .d3hotEntry => Sys2Proof.Machine.execD3hotEntry s
  | .hdmDecoderCommit base size bar4 db bi => Sys2Proof.Machine.execHdmDecoderCommit base size bar4 db bi s
  | .msixUnmask v => Sys2Proof.Machine.execMsixUnmask v s
  | .hostLoopStart v => Sys2Proof.Machine.execHostLoopStart v s
  | .hostLoopStop v errs lanes => Sys2Proof.Machine.execHostLoopStop v errs lanes s
  | .bellClaim core rd => Sys2Proof.Machine.execBellClaim core rd s
  | .bellComplete core src => Sys2Proof.Machine.execBellComplete core src s
  | .counterSubtract w v => Sys2Proof.Machine.execCounterSubtract w v s
  | .setPending p => Sys2Proof.Machine.execSetPending p s
  | .clearPending b w mask => Sys2Proof.Machine.execClearPending b w mask s
  | .sourceLevelChange b src => Sys2Proof.Machine.execSourceLevelChange b src s
  | .bellSourceWrite b src v => Sys2Proof.Machine.execBellSourceWrite b src v s
  | .coalesceTimeout b t => Sys2Proof.Machine.execCoalesceTimeout b t s
  | .emberRound raw protection => Sys2Proof.Machine.execEmberRound raw protection s
  | .throttleApply => Sys2Proof.Machine.execThrottleApply s
  | .railRampDone q => Sys2Proof.Machine.execRailRampDone q s
  | .fastPowerLimit => Sys2Proof.Machine.execFastPowerLimit s
  | .hardwareTrip => Sys2Proof.Machine.execHardwareTrip s
  | .latchRelease => Sys2Proof.Machine.execLatchRelease s
  | .convertersRestart => Sys2Proof.Machine.execConvertersRestart s
  | .interlockOpen => Sys2Proof.Machine.execInterlockOpen s
  | .interlockClose => Sys2Proof.Machine.execInterlockClose s
  | .sensorFlagClear k => Sys2Proof.Machine.execSensorFlagClear k s
  | .clearFaults => Sys2Proof.Machine.execClearFaults s
  | .coefficients cmd => Sys2Proof.Machine.execCoefficients cmd s
  | .statusWord => Sys2Proof.Machine.execStatusWord s
  | .statusInput => Sys2Proof.Machine.execStatusInput s
  | .statusTemperature => Sys2Proof.Machine.execStatusTemperature s
  | .readEin => Sys2Proof.Machine.execReadEin s
  | .readVin => Sys2Proof.Machine.execReadVin s
  | .readIin => Sys2Proof.Machine.execReadIin s
  | .readPin => Sys2Proof.Machine.execReadPin s
  | .readTemperature1 => Sys2Proof.Machine.execReadTemperature1 s
  | .readTemperature2 => Sys2Proof.Machine.execReadTemperature2 s
  | .readTemperature3 => Sys2Proof.Machine.execReadTemperature3 s
  | .pmbusRevision => Sys2Proof.Machine.execPmbusRevision s
  | .fruRead off n => Sys2Proof.Machine.execFruRead off n s
  | .emberBoot strap => Sys2Proof.Machine.execEmberBoot strap s
  | .mainConvertersOn railsOk => Sys2Proof.Machine.execMainConvertersOn railsOk s
  | .hoodBoot a b common => Sys2Proof.Machine.execHoodBoot a b common s
  | .prefenStartup ucieOk chans => Sys2Proof.Machine.execPrefenStartup ucieOk chans s
  | .testHoldWrite hold => Sys2Proof.Machine.execTestHoldWrite hold s
  | .ucieTestStart a v => Sys2Proof.Machine.execUcieTestStart a v s
  | .ucieTestDone a errs => Sys2Proof.Machine.execUcieTestDone a errs s
  | .extest tap v => Sys2Proof.Machine.execExtest tap v s
  | .idcode tap => Sys2Proof.Machine.execIdcode tap s
  | .samplePreload tap v => Sys2Proof.Machine.execSamplePreload tap v s
  | .regacc write off data => Sys2Proof.Machine.execRegacc write off data s
  | .roshift => Sys2Proof.Machine.execRoshift s
  | .spiprogRead addr => Sys2Proof.Machine.execSpiprogRead addr s
  | .spiprogProgram addr data => Sys2Proof.Machine.execSpiprogProgram addr data s
  | .spiprogErase addr => Sys2Proof.Machine.execSpiprogErase addr s
  | .bypass tap code => Sys2Proof.Machine.execBypass tap code s
  | .quenchPinChange asserted => Sys2Proof.Machine.execQuenchPinChange asserted s
  | .freezeWrite v => Sys2Proof.Machine.execFreezeWrite v s
  | .quenchFreeze => Sys2Proof.Machine.execQuenchFreeze s
  | .quenchRelease ns => Sys2Proof.Machine.execQuenchRelease ns s
  | .readoutGo v => Sys2Proof.Machine.execReadoutGo v s
  | .readoutStop sec => Sys2Proof.Machine.execReadoutStop sec s
  | .readoutDone => Sys2Proof.Machine.execReadoutDone s
  | .registerWrite who d v => Sys2Proof.Machine.execRegisterWrite who d v s
  | .foreignFrame p kind => Sys2Proof.Machine.execForeignFrame p kind s
  | .hostLinkUp rate width flit cache mem => Sys2Proof.Machine.execHostLinkUp rate width flit cache mem s
  | .pcieLoopback enter => Sys2Proof.Machine.execPcieLoopback enter s
  | .busMasterEnable => Sys2Proof.Machine.execBusMasterEnable s
  | .d3hotExit => Sys2Proof.Machine.execD3hotExit s
  | .standbySupplyLoss => Sys2Proof.Machine.execStandbySupplyLoss s

end Sys2Proof.Machine
end

