-- ==== Sys2Proof/Machine/Tick.lean ====
section
/-! DEFINITION. What passing time does when no command waits: the timebase of R238 counts one nanosecond while the module runs,
resets that were waiting are handled (R464, R486), and Prefen's held results and events go out as their rings allow (R310, R365). -/

namespace Sys2Proof.Machine

/-- One nanosecond of running time (R238, R463). [DESIGN CHOICE, log 2] -/
def tick (s : State) : State :=
  let s := serveWaiting s
  if running s then hostAgain { s with time := s.time + 1 } else s

end Sys2Proof.Machine
end

