-- ==== Sys2Proof/Safety.lean ====
section
/-! DEFINITION. What a run must keep, in the terms the claims use: the canonical form of the memories, and what it means that a
command answers and leaves a part of the module alone. -/

namespace Sys2Proof.Machine

/-- The memories are in canonical form: keys strictly rising, and no entry equal to what an unlisted key reads as. -/
def Memory.wf (m : Memory) : Bool :=
  tabWf (fun _ => 0) m.cells && tabWf (fun _ => 0) m.chk && tabWf (fun _ => 0) m.poison && tabWf (fun _ => 0) m.valid

/-- Memories and registers are in canonical form. -/
def State.wf (s : State) : Bool := s.mem.wf && tabWf regReset s.regs

/-- Every byte of every space reads as before. -/
def sameBytes (s t : State) : Prop := ∀ space addr, peekByte t space addr = peekByte s space addr

/-- Only register words of BAR0 have changed, and of them only those of a list. -/
def onlyRegs (l : List Nat) (s t : State) : Prop := t = { s with regs := t.regs } ∧ ∀ o, o ∉ l → rg t o = rg s o

/-- A command answers, with a next state of which something holds. -/
def answers (c : Instr) (s : State) (p : State → Prop) : Prop := ∃ t, exec c s = .next t ∧ p t

/-- Nothing holds an access at the point of coherence: no earlier access of its source, no busy slice, no row being cleared or moved and no
stack in self-refresh, no line to recall, no tracker entry to evict. -/
def pocFree (s : State) (a : Access) : Prop :=
  mustHold s a = false ∧ (accessBursts a).any (sliceHeld s) = false ∧ rangeBusy s (accessAddr a) (accessLen a) = false ∧
    (accessByHost a = true ∨ recallLines s (accessAddr a) (accessLen a) (accessWrites a) = []) ∧ evictFor s a = none

/-- Unit u of stack n works on a command and its next instruction is the word w. -/
def UnitReady (n : Fin 20) (u : Fin 512) (w : Nat) (s : State) : Prop :=
  running s = true ∧ (stackRun s n.val).phase = 3 ∧ (unitAt s n.val u.val).isDone = false ∧
    (hearth s (hxStack n.val)).halted = false ∧ stackDead s n.val = false ∧ (unitAt s n.val u.val).pc ≤ 255 ∧
    mpWord s n.val u.val (unitAt s n.val u.val).pc = some w

/-- The unit with its pc past the instruction that runs. -/
def unitNext (n : Fin 20) (u : Fin 512) (s : State) : SwgUnit :=
  { unitAt s n.val u.val with pc := (unitAt s n.val u.val).pc + 1 }

/-- The state in which a unit's instruction acts: its start or its going on is traced where tracing is on, and an offered yield is over. -/
def unitBegun (n : Fin 20) (u : Fin 512) (s : State) : State :=
  { traceGoing n.val u.val s with found := (stackRun s n.val).found, yielded := tabSet 0 s.yielded (n.val * 512 + u.val) 0 }

/-- A unit's instruction that acted in state s leaves the unit as x: the events its reads met are kept in the run, its busy cycles, a free
value (log 32), are counted, END and a yielded pause are traced where tracing is on, and END serves what waited for the column path. -/
def unitEnded (n : Fin 20) (u : Fin 512) (x : SwgUnit) (s : State) : State :=
  let k := n.val * 512 + u.val
  let c := tabGet ({} : UnitCount) s.unitCnt k
  let t := { s with
    found := [], runs := tabSet {} s.runs n.val { stackRun s n.val with found := s.found }, units := tabSet {} s.units k x,
    free := s.free + 1, unitCnt := tabSet {} s.unitCnt k { c with busy := (c.busy + Config.unitCycles s.free) % 2 ^ 64 } }
  if x.isDone then yieldPaths n.val (traceUnit n.val u.val 2 x.exc x.prog t)
  else if tabGet 0 t.yielded k == 2 then traceUnit n.val u.val 3 0 x.prog t else t

/-- The word w at the head of engine eng of core k of cluster c of Anvil a may run now: its core and cluster run, it is defined, its
wait holds and its parameter block is inside the scratchpad. -/
def EngineReady (a : Fin 4) (c k : Fin 16) (eng : Nat) (w : EngWord) (s : State) : Prop :=
  running s = true ∧ headWord s a.val c.val k.val eng = some w ∧ ewDefined eng (ewOp w) = true ∧ ewRound w < 2 ∧
    waitHolds (coreSt s (coreNo a.val c.val k.val)) w = true ∧ prmOk w = true

/-- What an engine word starts from: the state once its start is traced and its parameter block read, and what it runs with. -/
def engStart (a : Fin 4) (c k : Fin 16) (eng : Nat) (w : EngWord) (s : State) : State × EngCtx :=
  let who : Who := ⟨engSource eng, w.tag, true⟩
  let p := readPrm (coreNo a.val c.val k.val) who w (traceIf a.val c.val (hxCore a.val c.val k.val) w 1 0 0 { s with found := [] })
  (p.1, ⟨coreNo a.val c.val k.val, w, who, p.2⟩)

/-- The head word of an engine has run in state s, with its exception bits and progress, and waits to complete: the event its reads met is
latched. -/
def wordRan (x : EngCtx) (eng exc prog : Nat) (s : State) : State :=
  let t := latchFound x.who s
  let y := coreSt t x.core
  let q := match engQueue y eng with
    | [] => []
    | v :: l => { v with ran := true, exc := exc, prog := prog } :: l
  setCore x.core (setEngQueue eng q y) t

/-- The head word w of the Bellows stream of a cluster may be done now. -/
def BellowsReady (a : Fin 4) (c : Fin 16) (w : EngWord) (s : State) : Prop :=
  running s = true ∧ bellowsHead s a.val c.val = some w ∧ bellowsOpen s a.val c.val = true ∧ bellowsBad s a.val c.val w = false

/-- The head word of the Bellows stream has been done in state s: it leaves the stream, and a stalled push goes on. -/
def bellowsPopped (a : Fin 4) (c : Fin 16) (s : State) : State :=
  retryPush a.val c.val (setCluster (clusterNo a.val c.val) (popBellows s.time (cluster s (clusterNo a.val c.val))) s)

/-! ### Prefen's commands and the group's messages -/

/-- A state from which no Prefen row has asked for an access yet. -/
def prefenStart (s : State) : State := { s with blocked := [] }

/-- A row of Prefen's answers: with its effect t where every access of the row can be made now, else with what those accesses wait for set
going (log 169). -/
def prefenAnswers (i : Instr) (s t : State) : Prop :=
  (t.blocked = [] → exec i s = .next t) ∧
    (t.blocked ≠ [] → exec i s = .next (overList (fun (r : Range) s => moverAsk 4 r.start r.len r.write s) t.blocked (prefenStart s)))

/-- The command at the head of a Prefen queue, taken. -/
def queueTaken (q : BitVec 20) (s : State) : State × Taken := takeCmd q.toNat (prefenStart s)

/-- Header and body words of the command at the head of a Prefen queue (R261). -/
def queueWords (q : BitVec 20) (s : State) : List Nat := (queueTaken q s).2.hdr.words ++ bytesWords (queueTaken q s).2.body

/-- The state in which a Prefen command acts: its request taken from the mailbox, or its command from the queue. -/
def cmdStart (src : CmdSrc) (s : State) : State :=
  match src with
  | .mailbox m => setMbox m.val { mbox s m.val with taken := false } (prefenStart s)
  | .queue q => (queueTaken q s).1

/-- Who is answered. -/
def cmdCaller (src : CmdSrc) (s : State) : Caller :=
  match src with
  | .mailbox m => .mailbox m.val
  | .queue q => .queue q.toNat (queueTaken q s).2.idx (queueTaken q s).2.tag

/-- Payload words of a command that comes either way (R357). -/
def cmdWords (src : CmdSrc) (s : State) : List Nat :=
  match src with
  | .mailbox m => (mbox s m.val).req.drop 2
  | .queue q => (queueWords q s).drop 1

/-- Prefen may act on a command of an opcode or class now: its mailbox request has been taken and passed its checks, or it stands
whole and sound at the head of its queue, in its turn. -/
def CmdReady (src : CmdSrc) (op slots : Nat) (s : State) : Prop :=
  running s = true ∧
    match src with
    | .mailbox m => mbHas s m.val op = true
    | .queue q =>
      let p := queueTaken q s
      prefenReady s = true ∧ groupFree s = true ∧ serialFree s = true ∧ needSlots s q.toNat = false ∧ canTake s q.toNat = true ∧
        (queue s q.toNat).ckind = 1 ∧ (headHdr s q.toNat).cls = op ∧ p.2.poison = false ∧
        pendingAbort p.1 (queue p.1 q.toNat) = none ∧ p.2.hdr.bad = false ∧ classAccepted (queue p.1 q.toNat).ckind p.2.hdr.cls = true ∧
        p.2.hdr.slots = slots ∧ p.2.hdr.subop = 0

/-- A partner is PRESENT, and the next place in its stream is not taken by a frame that waits there: a MSG may be delivered in its
turn. -/
def MsgReady (pid : Nat) (s : State) : Prop :=
  running s = true ∧ ptState s pid = 1 ∧ (link s pid).ahead.any (fun f => f.psn == (link s pid).recvNext) = false

/-- The message taken from its stream, counted on a port of the partner, a free value (log 71), and acknowledged where that is due. -/
def msgBegun (pid : Nat) (s : State) : State :=
  let u := setLink pid { link s pid with recvNext := ((link s pid).recvNext + 1) % 2 ^ 32 } s
  let v := (takeFree u).1
  countAck pid (bumpRf (portReg (nextPort (sendPorts v pid) (Config.msgPort (takeFree u).2 % 12)) 0x18) 63 0 1 v)

/-- A message that has done t, and the frames of its stream that could then be delivered. -/
def msgEnded (pid : Nat) (t : State) : State := drainPartner pid t

end Sys2Proof.Machine
end

