-- ==== Sys2Proof/Certificates/Slice0/Obligations.lean ====
section
/-! DEFINITION. The statements for the provers: what the commands of each family do, from the numbered rules of the spec. -/

open Sys2Proof Sys2Proof.Machine

/-- A step runs the command at the front of the queue -/
def Obligations.StepRunsTheFrontCommand : Prop :=
  ∀ (c : Instr) (rest : List Instr) (s : State), s.pending = c :: rest → step s = exec c { s with pending := rest }

/-- On an empty queue a nanosecond of running time passes: the model's own choice (assumption log 2), with the timebase of R238. -/
def Obligations.EmptyQueueLetsTimePass : Prop :=
  ∀ s : State, s.pending = [] →
    (∃ t, step s = .next t) ∧
    (frozen s = true → step s = .next s) ∧
    (running s = true → s.board.waiting = [] → hostAgain { s with time := s.time + 1 } = { s with time := s.time + 1 } →
      step s = .next { s with time := s.time + 1 })

/-- The reset state has its memories and registers in canonical form -/
def Obligations.ResetStateIsCanonical : Prop :=
  State.reset.wf = true ∧ State.reset.pending = [] ∧ running State.reset = false

/-- Every step keeps memories and registers in canonical form -/
def Obligations.EveryStepKeepsTheCanonicalForm : Prop :=
  ∀ s t : State, s.wf = true → step s = .next t → t.wf = true

/-- No command adds to the queue or takes from it -/
def Obligations.CommandsLeaveTheQueueAlone : Prop :=
  ∀ (c : Instr) (s t : State), exec c s = .next t → t.pending = s.pending

/-- Every command answers a next state -/
def Obligations.EveryCommandAnswers : Prop :=
  ∀ (c : Instr) (s : State), ∃ t, exec c s = .next t

/-- A core's load reads the cached line, the point of coherence, the die buffer, a register, a push port or a doorbell, or faults; ld.v goes to the PoC -/
def Obligations.CoreLoadsAreServedByCacheOrPoc : Prop :=
  ∀ (core : Fin 68) (a : Word) (rd : Fin 32) (e : LinkErr) (s : State), running s = true → coreReady s core.val = true →
    (∀ (lg : Fin 4) (z : Bool), a.toNat % 2 ^ lg.val = 0 →
      let got (v : Nat) (t : State) : State := setXreg core.val rd.val (extend lg.val z v) t
      let goes (t : State) : Prop := exec (.coreLoad core ⟨a, e⟩ lg z rd) s = .next t
      (∀ x, coreTarget core.val a.toNat = .sm x →
        (addrOk s 4 a.toNat (2 ^ lg.val) = false → goes (accessFault core.val 5 a.toNat s)) ∧
        (addrOk s 4 a.toNat (2 ^ lg.val) = true → dcLine s core.val (a.toNat / 64 * 64) ≠ [] →
          goes (got (leNat (((dcLine s core.val (a.toNat / 64 * 64)).drop (a.toNat % 64)).take (2 ^ lg.val))) s)) ∧
        (addrOk s 4 a.toNat (2 ^ lg.val) = true → dcLine s core.val (a.toNat / 64 * 64) = [] →
          goes (serve (.load core.val a.toNat lg.val z rd.val e) s) ∧
          (pocFree s (.load core.val a.toNat lg.val z rd.val e) → goes (loadSm core.val a.toNat lg.val z rd.val e s)))) ∧
      (∀ x, coreTarget core.val a.toNat = .db x →
        let r := memReadNat (coreWho s core.val) 2 x (2 ^ lg.val) s
        goes (if r.2.2 then accessFault core.val 5 a.toNat r.1 else got r.2.1 r.1)) ∧
      (∀ o, coreTarget core.val a.toNat = .reg o →
        goes (got (coreReadReg core.val o lg.val s).2 (coreReadReg core.val o lg.val s).1)) ∧
      (∀ o, coreTarget core.val a.toNat = .port o → lg.val = 3 →
        let y := cluster s core.val
        goes (got (if o = 0 then y.w0 else if o = 8 then y.w1 else if o = 16 then y.w2 else 0) s)) ∧
      (∀ o, coreTarget core.val a.toNat = .bell o → lg.val = 3 → goes (got (queue s (o / 8)).prod s)) ∧
      (coreTarget core.val a.toNat = .nothing → goes (accessFault core.val 5 a.toNat s))) ∧
    (a.toNat % 8 = 0 → ∀ x, coreTarget core.val a.toNat = .sm x →
      (addrOk s 4 a.toNat 8 = false → exec (.ldV core ⟨a, e⟩ rd) s = .next (accessFault core.val 5 a.toNat s)) ∧
      (addrOk s 4 a.toNat 8 = true → exec (.ldV core ⟨a, e⟩ rd) s = .next (serve (.loadV core.val a.toNat rd.val e) s) ∧
        (pocFree s (.loadV core.val a.toNat rd.val e) →
          exec (.ldV core ⟨a, e⟩ rd) s = .next (loadVolatile core.val a.toNat rd.val e s))))

/-- A core's store goes to the point of coherence, the die buffer, a register, a push port or a doorbell, or faults -/
def Obligations.CoreStoresReachTheOrderingPoint : Prop :=
  ∀ (core : Fin 68) (a : Word) (lg : Fin 4) (v : Word) (e : LinkErr) (s : State), running s = true → coreReady s core.val = true →
    a.toNat % 2 ^ lg.val = 0 →
    let goes (t : State) : Prop := exec (.coreStore core ⟨a, e⟩ lg v) s = .next t
    let cached := dcUpdate core.val a.toNat (leBytes (2 ^ lg.val) v.toNat) s
    (∀ x, coreTarget core.val a.toNat = .sm x →
      (addrOk s 4 a.toNat (2 ^ lg.val) = false → goes (accessFault core.val 7 a.toNat s)) ∧
      (addrOk s 4 a.toNat (2 ^ lg.val) = true → goes (serve (.store core.val a.toNat lg.val v.toNat e) cached) ∧
        (pocFree cached (.store core.val a.toNat lg.val v.toNat e) → goes (storeSm core.val a.toNat lg.val v.toNat e cached)))) ∧
    (∀ x, coreTarget core.val a.toNat = .db x → goes (memWriteNat (coreWho s core.val) 2 x (2 ^ lg.val) v.toNat s)) ∧
    (∀ o, coreTarget core.val a.toNat = .reg o → lg.val = 3 → goes (barWrite (coreAgent core.val) o v s)) ∧
    (∀ o, coreTarget core.val a.toNat = .port o → lg.val = 3 → goes (portStore core.val o v.toNat s)) ∧
    (∀ o, coreTarget core.val a.toNat = .bell o → lg.val = 3 → goes (doorbell (o / 8) (v.toNat % 2 ^ 32) s)) ∧
    (coreTarget core.val a.toNat = .nothing → goes (accessFault core.val 7 a.toNat s))

/-- The fences complete; fence.acq and fence.full empty the core's data cache, FENCE.I its instruction cache -/
def Obligations.FencesInvalidateTheCoresOwnCaches : Prop :=
  ∀ (core : Fin 68) (s : State), running s = true → coreReady s core.val = true →
    let emptied (t : State) : Prop := t = { s with dcache := t.dcache } ∧ ∀ e, e ∈ t.dcache ↔ e ∈ s.dcache ∧ e.1 / 2 ^ 64 ≠ core.val
    (∀ c ∈ [Instr.fenceAcq core, Instr.fenceFull ⟨core, some 1⟩], answers c s emptied) ∧
    (coreStoring s core.val = false →
      (∀ c ∈ [Instr.fenceFull ⟨core, none⟩, Instr.fenceFull ⟨core, some 3⟩], answers c s emptied) ∧
      (∀ c ∈ [Instr.fenceRel core, Instr.fenceFull ⟨core, some 2⟩], exec c s = .next s)) ∧
    (coreStoring s core.val = true →
      ∀ c ∈ [Instr.fenceRel core, Instr.fenceFull ⟨core, none⟩, Instr.fenceFull ⟨core, some 2⟩, Instr.fenceFull ⟨core, some 3⟩],
        exec c s = .next s) ∧
    (∀ imm : BitVec 12, imm ≠ 1 → imm ≠ 2 → imm ≠ 3 → exec (.fenceFull ⟨core, some imm⟩) s = .next (illegal core.val s)) ∧
    answers (.fenceI core) s (fun t =>
      t = { s with icache := t.icache } ∧ ∀ e, e ∈ t.icache ↔ e ∈ s.icache ∧ e.1 / 2 ^ 64 ≠ core.val)

/-- Atomics, load-reserved and store-conditional are served at the point of coherence of SM and fault elsewhere -/
def Obligations.AtomicsAreServedAtThePocOfSmOnly : Prop :=
  ∀ (core : Fin 68) (a v : Word) (dbl : Bool) (rd : Fin 32) (aq rl : Bool) (e : LinkErr) (s : State), running s = true →
    coreReady s core.val = true → a.toNat % 2 ^ (2 + b2n dbl) = 0 →
    let lg := 2 + b2n dbl
    ∀ (i : Instr) (x : Access) (cause : Nat) (done : State), (i, x, cause, done) ∈
      ([(.loadReserved core ⟨a, e⟩ dbl rd aq rl, .lr core.val a.toNat lg rd.val aq e, 5, lrSm core.val a.toNat lg rd.val aq e s),
        (.storeConditional core ⟨a, e⟩ dbl v rd aq rl, .sc core.val a.toNat lg v.toNat rd.val aq e, 7, scSm core.val a.toNat lg v.toNat rd.val aq e s)]
        ++ [AmoOp.swap, .add, .xor, .and, .or, .min, .max, .minu, .maxu].map (fun op => (.atomicMemoryOperation core op ⟨a, e⟩ dbl v rd aq rl,
          .amo core.val op a.toNat lg v.toNat rd.val aq e, 7, amoSm core.val op a.toNat lg v.toNat rd.val aq e s))
        : List (Instr × Access × Nat × State)) →
      ((rl && coreStoring s core.val) = true → exec i s = .next s) ∧
      ((rl && coreStoring s core.val) = false →
        ((∃ y, coreTarget core.val a.toNat = .sm y) → addrOk s 4 a.toNat (2 ^ lg) = true → exec i s = .next (serve x s) ∧
          (pocFree s x → exec i s = .next done)) ∧
        ((∃ y, coreTarget core.val a.toNat = .sm y) → addrOk s 4 a.toNat (2 ^ lg) = false →
          exec i s = .next (accessFault core.val cause a.toNat s)) ∧
        ((∀ y, coreTarget core.val a.toNat ≠ .sm y) → exec i s = .next (accessFault core.val cause a.toNat s)))

/-- A misaligned core access takes the misaligned-address exception: the model's choice (assumption log 40). -/
def Obligations.CoreInstructionsOffTheirAlignment : Prop :=
  ∀ (core : Fin 68) (a v : Word) (lg : Fin 4) (z dbl : Bool) (op : AmoOp) (rd : Fin 32) (aq : Bool) (e : LinkErr) (s : State),
    running s = true → coreReady s core.val = true →
    let traps (i : Instr) (cause : Nat) : Prop := exec i s = .next { s with
      mcause := tabSet 0 s.mcause core.val (BitVec.ofNat 64 cause), mtval := tabSet 0 s.mtval core.val a,
      umode := tabSet false s.umode core.val false }
    (a.toNat % 2 ^ lg.val ≠ 0 → traps (.coreLoad core ⟨a, e⟩ lg z rd) 4 ∧ traps (.coreStore core ⟨a, e⟩ lg v) 6) ∧
    (a.toNat % 8 ≠ 0 → traps (.ldV core ⟨a, e⟩ rd) 4) ∧
    (a.toNat % 2 ^ (2 + b2n dbl) ≠ 0 → traps (.loadReserved core ⟨a, e⟩ dbl rd aq false) 4 ∧
      traps (.storeConditional core ⟨a, e⟩ dbl v rd aq false) 6 ∧ traps (.atomicMemoryOperation core op ⟨a, e⟩ dbl v rd aq false) 6)

/-- The point of coherence performs an access at once, or holds it and asks for what it waits for -/
def Obligations.PocHoldsOrPerforms : Prop :=
  ∀ (a : Access) (s : State),
    let ad := accessAddr a
    let n := smStack ad
    let hold (t : State) : State := { t with held := t.held ++ [⟨n, a⟩] }
    (mustHold s a = true → serve a s = hold s) ∧
    (mustHold s a = false → (accessBursts a).any (sliceHeld s) = false →
      (rangeBusy s ad (accessLen a) = true → serve a s = hold (wakeStack n s)) ∧
      (rangeBusy s ad (accessLen a) = false → accessByHost a = false → recallLines s ad (accessLen a) (accessWrites a) ≠ [] →
        serve a s = hold (recallRange ad (accessLen a) (accessWrites a) s) ∧ (serve a s).mem = s.mem)) ∧
    (pocFree s a → serve a s = perform a s)

/-- A host access through BAR4 is served at the point of coherence, completes as Unsupported Request or is held by a freeze; the host's answer to a snoop ends it -/
def Obligations.HostAccessesAndSnoops : Prop :=
  (∀ (o : BitVec 40) (want : Fin 3) (data : List Byte) (poisoned : Bool) (e : LinkErr) (s : State), linkUp s = true → data.length = 64 →
    let line := o.toNat / 64 * 64
    let a := line / 0xC00000000 * 2 ^ 36 + line % 0xC00000000
    let read (t : State) : Prop := exec (.hostSmRead ⟨o, e⟩ want) s = .next t
    let write (t : State) : Prop := exec (.hostSmWrite o data poisoned e) s = .next t
    (bar4Serves s line = true → frozen s = false → stackDead s (smStack a) = false →
      read (serve (.hostRead a want.val e) s) ∧ write (serve (.hostWrite a data poisoned e) s) ∧
      (pocFree s (.hostRead a want.val e) → read (hostReadSm a want.val e s)) ∧
      (pocFree s (.hostWrite a data poisoned e) → write (hostWriteSm a data poisoned e s))) ∧
    (bar4Serves s line = true → frozen s = false → stackDead s (smStack a) = true →
      read { s with free := s.free + 1, out := s.out ++ [.hostData ((List.range 64).map (Config.unstated s.free)) false] } ∧
      write { s with out := s.out ++ [.hostDone a] }) ∧
    (bar4Serves s line = false → read (unsupported s) ∧ write (unsupported s)) ∧
    (bar4Serves s line = true → frozen s = true →
      read { s with held := s.held ++ [⟨smStack a, .hostRead a want.val e⟩] } ∧
      write { s with held := s.held ++ [⟨smStack a, .hostWrite a data poisoned e⟩] })) ∧
  (∀ (line : BitVec 44) (data : Option (List Byte)) (keep : Bool) (s : State) (q : Snoop), running s = true →
      let a := line.toNat / 64 * 64
      let n := smStack a
      s.snoops.find? (fun x => x.line == a) = some q → (data = none ∨ rowBusy s a = false) →
      let w := match data with | some d => if (track s a).st = 2 then hostWriteSm a (lineBytes d) false {} s else s | none => s
      let t := setTrack q.line (if q.data = true ∧ keep = true ∧ (track w q.line).st ≠ 0 then { track w q.line with st := 1 } else {})
        { w with snoops := w.snoops.filter (fun x => x.line != q.line) }
      exec (.backInvalidateResponse line data keep) s = .next (recallOn n (release n t)) ∧
      (t.held = [] → tabGet 0 t.recalls n = 0 → exec (.backInvalidateResponse line data keep) s = .next t)) ∧
  (∀ (line : BitVec 44) (s : State) (q : Snoop), running s = true →
      let a := line.toNat / 64 * 64
      s.snoops.find? (fun x => x.line == a && !x.late) = some q →
      exec (.hostCoherenceTimeout line) s = .next (faultRecord { code := 0x271, hearth := 1, tag := waitingTag s a, addr := a }
        { s with time := max s.time (q.sent + 10000000),
                 snoops := s.snoops.map (fun x => if x.line = a then { x with late := true } else x) })) ∧
  (∀ s : State, linkUp s = true → linkState s = 3 → s.cfg.cacheEn = true →
      exec .h2dSnoop s = .next { s with out := s.out ++ [.rspIMiss] })

/-- recall_all marks the recall and sends a snoop for a tracked line; with nothing tracked it ends at once -/
def Obligations.RecallAllSnoopsEveryTrackedLine : Prop :=
  ∀ (n : Fin 20) (s : State), running s = true → stageFailed s = false → s.wf = true →
    (∀ e ∈ s.tracker, e.2.age ≤ s.trackAge) →
    let r := stkReg n.val 0x140
    answers (.htrkRecallAll n) s (fun t => onlyRegs [r] { s with recalls := t.recalls, snoops := t.snoops, out := t.out } t ∧
      (trackedOf s n.val = [] → t.snoops = s.snoops ∧ rf t r 31 31 = 0) ∧
      (∀ e, trackedOf s n.val = e :: (trackedOf s n.val).tail → snoopsOf s n.val = [] →
        rf t r 31 31 = 1 ∧ ∃ x ∈ t.snoops, x.line = e.1))

/-- A main-path burst and a narrow-port access that name existing bytes reach the point of coherence, and are done where nothing holds or queues them -/
def Obligations.PathAccessesReachThePoc : Prop :=
  ∀ (r : PathReq) (s : State), running s = true → addrOk s 4 r.addr r.len = true → (r.write = true → r.data.length = r.len) →
    ∀ i, (r.narrow = false ∧ r.addr % 256 = 0 ∧ r.len = 256 ∧ i = .mainPathBurst r) ∨
        (r.narrow = true ∧ 0 < r.len ∧ r.addr % 32 + r.len ≤ 32 ∧ i = .narrowPortAccess r) →
      exec i s = .next (serve (.path r) s) ∧
      (pocFree s (.path r) → pathWaits s r = false → exec i s = .next (pathDo r s)) ∧
      (pocFree s (.path r) → pathWaits s r = true → exec i s = .next { s with burstQ := s.burstQ ++ [r] })

/-- A yield point of a busy unit is counted, as a pause where a burst waits for its slice -/
def Obligations.YieldPointsAreCounted : Prop :=
  ∀ (n : Fin 20) (u : Fin 512) (s : State), running s = true → (stackRun s n.val).phase = 3 →
    (tabGet ({} : SwgUnit) s.units (n.val * 512 + u.val)).isDone = false → (hearth s (hxStack n.val)).halted = false →
    let x := n.val * 512 + u.val
    let c := tabGet ({} : UnitCount) s.unitCnt x
    let asked := tabGet false s.asks x || s.burstQ.any (fun r => sliceOf r.addr == x)
    let s1 := { s with asks := tabSet false s.asks x false, yielded := tabSet 0 s.yielded x (if asked then 2 else 1) }
    exec (.yieldPoint n u) s = .next (yieldPaths n.val (moveYielded n.val u.val (issuePostponed x
      (setUnitCount n.val u.val { c with offered := (c.offered + 1) % 2 ^ 32, paused := (c.paused + b2n asked) % 2 ^ 32 } s1)))) ∧
    (s.burstQ = [] → s.held = [] → s.postponed = [] → s.asks = [] → (tabGet ({} : RMove) s.rmove n.val).on = false → s.wf = true →
      answers (.yieldPoint n u) s (fun t => onlyRegs [] { s with unitCnt := t.unitCnt, yielded := t.yielded } t ∧
        t.unitCnt = tabSet {} s.unitCnt x { c with offered := (c.offered + 1) % 2 ^ 32, paused := c.paused % 2 ^ 32 } ∧
        t.yielded = tabSet 0 s.yielded x 1))

/-- A refresh command counts its refreshes, or waits while a busy unit holds the bank; re-centring counts on the channel -/
def Obligations.RefreshIsIssuedOrPostponed : Prop :=
  ∀ (n : Fin 20) (ch : Fin 32) (ly : Fin 16) (bg bank : Fin 4) (bankHeld : Bool) (s : State), running s = true →
    let key := ((n.val * 512 + 16 * ch.val + ly.val) * 4 + bg.val) * 4 + bank.val
    let r := stkReg n.val 0x10
    let a := n.val * 2 ^ 36 + ly.val * 2 ^ 16 + ch.val * 2 ^ 11
    let k := tabGet 0 s.postponed key
    let s1 := repairDue n.val ch.val s
    (s.laneDue = [] → s1 = s) ∧
    (srState s n.val = 0 → (bankHeld && sliceBusy s1 a && decide (k < min 8 (rf s r 7 4))) = false →
      exec (.refreshCommand n ch ly bg bank bankHeld) s =
        .next (setRf r 63 32 (rf s1 r 63 32 + (k + 1)) { s1 with postponed := tabSet 0 s1.postponed key 0 })) ∧
    (srState s n.val = 0 → (bankHeld && sliceBusy s1 a && decide (k < min 8 (rf s r 7 4))) = true →
      exec (.refreshCommand n ch ly bg bank bankHeld) s = .next { s1 with postponed := tabSet 0 s1.postponed key (k + 1) }) ∧
    (rf s (chReg n.val ch.val 0) 3 0 = 2 ∨ rf s (chReg n.val ch.val 0) 3 0 = 3 →
      exec (.laneRecentre n ch) s =
        .next (setRf (chReg n.val ch.val 0) 47 32 (rf s (chReg n.val ch.val 0) 47 32 + 1) s))

/-- A request for self-refresh enters it only under its conditions; entry and exit move STK_SR_CTL.state and serve what waited -/
def Obligations.SelfRefreshStates : Prop :=
  ∀ (n : Fin 20) (s : State), running s = true →
    let r := stkReg n.val 0x20
    let ok : Prop := (stackRun s n.val).phase = 0 ∧ (∀ h ∈ s.held, h.stack ≠ n.val) ∧ (∀ q ∈ s.burstQ, smStack q.addr ≠ n.val) ∧
      ∀ ch < 32, rf s (chReg n.val ch 0) 3 0 = 2 ∨ rf s (chReg n.val ch 0) 3 0 = 3
    let asked := setRf r 1 1 0 (setRf r 0 0 1 s)
    let left := setRf r 1 1 0 (setRf r 0 0 0 s)
    (stageFailed s = false → srState asked n.val = 0 → s.wf = true →
      (ok → exec (.srRequest n) s = .next (syncStack n.val (setRf r 3 2 1 asked))) ∧
      (¬ ok → exec (.srRequest n) s = .next (syncStack n.val (setRf r 1 1 1 asked)))) ∧
    (stageFailed s = false → srState asked n.val ≠ 0 → exec (.srRequest n) s = .next (syncStack n.val asked)) ∧
    (stageFailed s = false → exec (.srExitRequest n) s = .next (syncStack n.val (wakeStack n.val left)) ∧
      (srState left n.val = 2 → wakeStack n.val left = setRf r 3 2 3 left)) ∧
    (srState s n.val = 1 → exec (.srEntryDone n) s = .next (setRf r 3 2
      (if tabGet false s.srWant n.val = true ∨ rf s r 0 0 = 0 then 3 else 2) { s with srWant := tabSet false s.srWant n.val false })) ∧
    (srState s n.val = 3 → exec (.srExitDone n) s = .next (syncStack n.val (release n.val (setRf r 3 2 0 s)))) ∧
    (srState s n.val = 0 → rf s r 0 0 = 1 → ok → exec (.srIdleReentry n) s = .next (syncStack n.val (setRf r 3 2 1 s)))

/-- A traffic-generator start is accepted only where R139 allows it; a run does its bursts and ends with done -/
def Obligations.TrafficGeneratorRuns : Prop :=
  ∀ (n : Fin 20) (ch : Fin 32) (v : Word) (ran : Nat) (bad : List Nat) (s : State), running s = true →
    let st := chReg n.val ch.val 0x38
    let ad := chReg n.val ch.val 0x28
    let c := chReg n.val ch.val 0x20
    let ended (k : Nat) : State := setRf st 1 1 1 (setRf st 0 0 0 (tgBursts n.val ch.val bad k 0 s))
    let stored := setRf c 63 32 (fieldOf v 63 32) (setRf c 11 8 (fieldOf v 11 8) (setRf c 4 2 (fieldOf v 4 2) s))
    let ok : Prop := resetOrHalted s (hxStack n.val) = true ∧ rf s (chReg n.val ch.val 0) 3 0 ≠ 1 ∧ fieldOf v 9 8 ≠ 3 ∧ fieldOf v 4 2 < 6 ∧
      rf s ad 31 16 ≠ 0 ∧ rf s ad 11 0 < 3072
    (stageFailed s = false → s.wf = true → ok → exec (.tgStart n ch v) s =
      .next (setRf st 0 0 1 (resetRegs (st :: (List.range 5).map (fun k => chReg n.val ch.val (0x40 + 8 * k))) stored))) ∧
    (stageFailed s = false → s.wf = true → ¬ ok → exec (.tgStart n ch v) s = .next (setRf st 3 3 1 stored)) ∧
    (stageFailed s = false → rf s st 0 0 = 1 →
      (rf s c 63 32 = 0 → exec (.tgStop n ch ran bad) s = .next (ended ran)) ∧
      (rf s c 63 32 ≠ 0 → exec (.tgStop n ch ran bad) s = .next (ended (min ran (rf s c 63 32))))) ∧
    (stageFailed s = false → rf s st 0 0 = 0 → exec (.tgStop n ch ran bad) s = .next s) ∧
    (rf s st 0 0 = 1 → rf s c 63 32 ≠ 0 → exec (.tgRunDone n ch bad) s = .next (ended (rf s c 63 32))) ∧
    (rf s st 0 0 = 0 ∨ rf s c 63 32 = 0 → exec (.tgRunDone n ch bad) s = .next s)

/-- A valid-bit clear is accepted, starts when nothing overlaps, and ends with its rows reading as zero -/
def Obligations.ValidBitClearGoesThroughItsSteps : Prop :=
  ∀ (n : Fin 20) (v : Word) (s : State), running s = true → s.wf = true →
    let r := stkReg n.val 0x228
    let c := vclearOf s n.val
    let k := stackRun s n.val
    let asked : VClear := { on := true, first := fieldOf v 39 16, count := fieldOf v 63 40, slice := bitOf v 15, channel := fieldOf v 14 10,
                            layer := fieldOf v 9 6 }
    (stageFailed s = false → rf s r 1 1 = 0 → fieldOf v 39 16 ≤ 12582911 → exec (.validBitClear n v) s =
      .next (setVclear n.val asked (setRf r 2 2 0 (setRf r 1 1 1 (setRf r 63 6 (fieldOf v 63 6) s))))) ∧
    (stageFailed s = false → rf s r 1 1 = 1 ∨ 12582911 < fieldOf v 39 16 → exec (.validBitClear n v) s =
      .next (setRf r 2 2 1 (setRf r 63 6 (fieldOf v 63 6) s))) ∧
    (c.on = true → c.started = false → (k.phase ≠ 0 → k.ranges.any (vclearMeets n.val c) = false) →
      reachedFirst s n.val (vclearNames c) = false →
      exec (.validBitClearStart n) s = .next { s with vclear := tabSet {} s.vclear n.val { c with started := true } }) ∧
    (c.on = true → c.started = true →
      let t := clearRows (fun a => smStack a == n.val && vclearCovers c a) s
      let t' := if c.own then { t with prefen := { t.prefen with clears := dropClear n.val t.prefen.clears } } else t
      exec (.validBitClearDone n) s = .next (nextClear n.val (release n.val (setRf r 1 1 0 (setVclear n.val {} t'))))) ∧
    (c.on = true → c.started = true → (∀ h ∈ s.held, h.stack ≠ n.val) → s.prefen.clears = [] →
      answers (.validBitClearDone n) s (fun t => onlyRegs [r] { s with vclear := t.vclear, mem := { s.mem with valid := t.mem.valid } } t ∧
        rf t r 1 1 = 0 ∧ t.vclear = tabSet {} s.vclear n.val {} ∧
        (∀ space a, space ≠ 4 → a < 2 ^ 64 → peekByte t space a = peekByte s space a) ∧
        (∀ a, smStack a = n.val → servedRow s (smPhys s a / 2048 * 2048) = some (a / 2048 * 2048) →
          vclearCovers c (a / 2048 * 2048) = true → peekByte t 4 a = 0)))

/-- Prefen reports a latched event in the event ring and clears the latch's valid bit; a write of ERR_INFO clears valid, and overflow where its bit is written -/
def Obligations.StoredErrorsAreServiced : Prop :=
  ∀ (b : Fin 24) (s : State), running s = true →
    let r := latchInfoReg b.val
    let addr := (rg s (latchAddrReg b.val)).toNat
    let t := setRf r 0 0 0 (postEvent
      { kind := 2, status := 0x230 + rf s r 27 24, tag := rf s r 63 32, addr := addr,
        info0 := blockHearth b.val * 2 ^ 16 + rf s r 23 20 * 2 ^ 12 + rf s r 31 28 * 2 ^ 4 + rf s r 27 24 } s)
    let scrubbed : Prop := rf s r 27 24 = 0 ∧ rf s r 31 28 = 6 ∧ rf s r 23 20 = 4
    (∀ ov : Bool, stageFailed s = false → exec (.errInfoClear b ov) s =
      .next (let u := setRf r 0 0 0 s; if ov then setRf r 1 1 0 u else u)) ∧
    (s.prefen.step.on = false → bitOf (rg s r) 0 = false → s.corrLog = [] → s.remapDue = [] → exec (.storedErrorService b) s = .next s) ∧
    (s.prefen.step.on = false → bitOf (rg s r) 0 = true → scrubbed → exec (.storedErrorService b) s = .next (remapRow addr t)) ∧
    (s.prefen.step.on = false → bitOf (rg s r) 0 = true → ¬ scrubbed → t.corrLog = [] → t.remapDue = [] → exec (.storedErrorService b) s = .next t)

/-- A row move is accepted when its entry and spare are free, and its end copies the row and makes the entry valid -/
def Obligations.RowMovesGoThroughTheirSteps : Prop :=
  ∀ (n : Fin 20) (v : Word) (s : State), running s = true → s.wf = true →
    let r := stkReg n.val 0x230
    let ch := fieldOf v 31 27
    let used := ∃ e < 8, natBit (rmapEntry s n.val ch e) 31 = true ∧ natBits (rmapEntry s n.val ch e) 30 27 = fieldOf v 26 23 ∧
      natBits (rmapEntry s n.val ch e) 26 25 = fieldOf v 22 21 ∧ natBits (rmapEntry s n.val ch e) 24 23 = fieldOf v 20 19 ∧
      natBits (rmapEntry s n.val ch e) 10 10 = fieldOf v 3 3
    let free := rf s r 63 63 = 0 ∧ natBit (rmapEntry s n.val ch (fieldOf v 6 4)) 31 = false ∧ ¬ used
    let stored := setRf r 31 3 (fieldOf v 31 3) s
    let asked : RMove := { on := true, row := fieldOf v 18 7, channel := ch, layer := fieldOf v 26 23, bg := fieldOf v 22 21,
                           bank := fieldOf v 20 19, entry := fieldOf v 6 4, spare := fieldOf v 3 3 }
    (stageFailed s = false → free → exec (.remapMove n v) s =
      .next (setRf r 62 62 0 (setRf r 63 63 1 { stored with rmove := tabSet {} s.rmove n.val asked }))) ∧
    (stageFailed s = false → ¬ free → exec (.remapMove n v) s = .next (setRf r 62 62 1 stored)) ∧
    (let m := tabGet ({} : RMove) s.rmove n.val
     let src := rowAddr n.val m.channel m.layer m.bg m.bank m.row
     let dst := rowAddr n.val m.channel m.layer m.bg m.bank (3072 + m.spare)
     let ent := 2 ^ 31 + m.layer * 2 ^ 27 + m.bg * 2 ^ 25 + m.bank * 2 ^ 23 + m.row * 2 ^ 11 + m.spare * 2 ^ 10
     m.on = true → (sliceHeld s src = false ∨ m.yielded = true) → s.burstQ.any (fun q => moveCovers m q.addr) = false →
       let f := fixValid 4 src (layerPhys s src) s
       let t := setRmapEntry n.val m.channel m.entry ent (setValid 4 dst (isValid f 4 (layerPhys f src))
         (overList (moveWord src dst) (List.range 64) f))
       exec (.remapMoveDone n) s = .next (release n.val (setRf r 63 63 0 (flashTouched
         { t with rmove := tabSet {} t.rmove n.val {},
                  flashRemap := tabSet 0 t.flashRemap ((n.val * 32 + m.channel) * 8 + m.entry) (BitVec.ofNat 64 ent) }))))

/-- A scrub pass begins at every slice's first row, scrubs the next valid row of a slice, and is counted when no valid row is left -/
def Obligations.ScrubPassesAreCounted : Prop :=
  ∀ (n : Fin 20) (ch : Fin 32) (ly : Fin 16) (s : State), running s = true → s.wf = true →
    let r := stkReg n.val 0x200
    let k := n.val * 512 + 16 * ch.val + ly.val
    let from_ := tabGet 0 s.scrubPos k
    let row := firstRow (validRows s n.val ch.val ly.val from_)
    let t := match row with
      | some a =>
        let u := overList (fun w s => scrubWord (a + 32 * w) s) (List.range 64) (scrubCopies n.val ch.val ly.val from_ (rowInSlice a) s)
        { u with scrubPos := tabSet 0 u.scrubPos k (rowInSlice a + 1) }
      | none => scrubCopies n.val ch.val ly.val from_ 49151 s
    (stageFailed s = false → rf s r 1 1 = 0 → exec (.scrubStart n) s =
      .next (setRf r 1 1 1 { s with scrubPos := s.scrubPos.filter (fun e => e.1 / 512 != n.val) })) ∧
    (stageFailed s = false → rf s r 1 1 = 1 → exec (.scrubStart n) s = .next s) ∧
    (srState s n.val = 0 → rf s r 1 1 = 1 → sliceHeld s (rowAddr n.val ch.val ly.val 0 0 0) = false →
      (scrubFinished t n.val = true → exec (.scrubRow n ch ly) s =
        .next (setRf r 63 48 (rf (setRf r 1 1 0 t) r 63 48 + 1) (setRf r 1 1 0 t))) ∧
      (scrubFinished t n.val = false → rf t r 15 8 ≠ 0 → exec (.scrubRow n ch ly) s = .next t) ∧
      (scrubFinished t n.val = false → rf t r 15 8 = 0 → exec (.scrubRow n ch ly) s = .next (setRf r 1 1 0 t)))

/-- The checker test mode acts only on a RESET or HALTED block and a word of its own, else sets refused -/
def Obligations.CheckerTestModeActsOrRefuses : Prop :=
  ∀ (b : Fin 24) (v : Word) (s : State), running s = true → stageFailed s = false →
    let c := eccCtl b.val
    (∀ op i run, (op, i, run) ∈ [(0, Instr.eccRawRead b v, eccRawRead b.val), (1, Instr.eccRawWrite b v, eccRawWrite b.val),
        (2, Instr.eccDecodedRead b v, eccDecodedRead b.val testWho), (3, Instr.eccEncodedWrite b v, eccEncodedWrite b.val testWho)] →
      let t := setRf c 63 32 (fieldOf v 63 32) (setRf c 27 24 (fieldOf v 27 24) (setRf c 6 4 op
        (setRf c 3 3 (fieldOf v 3 3) (setRf c 2 2 0 s))))
      (eccAllowed t b.val = true → exec i s = .next (run t)) ∧
      (eccAllowed t b.val = false → exec i s = .next (setRf c 2 2 1 t)))

/-- Swage control instructions move the pc, the loop counters and the cursors as R180 says -/
def Obligations.SwageControlInstructions : Prop :=
  ∀ (n : Fin 20) (u : Fin 512) (w : Nat) (s : State), UnitReady n u w s →
    let x := unitNext n u s
    let s0 := unitBegun n u s
    let r := stackRun s0 n.val
    let k := miLc w
    let sa := miSa w
    let goes (i : Instr) (y : SwgUnit) : Prop := exec i s = .next (unitEnded n u y s0)
    let stops (i : Instr) : Prop := exec i s = .next (unitFault n.val u.val (unitAt s n.val u.val).pc fcMicro s0)
    (miDefined (miOp w) = false → exec (.swageNop n u) s =
      .next (unitFault n.val u.val (unitAt s n.val u.val).pc fcMicro { s with found := (stackRun s n.val).found })) ∧
    (miOp w = 0x00 → goes (.swageNop n u) x) ∧
    (miOp w = 0x01 → exec (.endCmd n u) s = .next (unitEnded n u { x with isDone := true } (tagHearth (hxUnit n.val u.val) r.tag s0))) ∧
    (miOp w = 0x02 → exec (.yld n u) s = .next (unitEnded n u x (offerYield n.val u.val s0))) ∧
    (miOp w = 0x03 → goes (.setl n u) (setLoop k (miCount r.cmd w) x)) ∧
    (miOp w = 0x04 → goes (.loop n u) (
      if nth x.loops k 0 = 0 then x
      else if nth x.loops k 0 = 1 then setLoop k 0 x
      else branchTo w (setLoop k (nth x.loops k 0 - 1) x))) ∧
    (miOp w = 0x05 →
      (∀ d : Desc, strmUsed r.cmd sa = true → strmBlist r.cmd sa = false → strmDesc r.cmd sa = some d →
        let rows := (ownedRows n.val u.val d).length
        let y := { setLoop k rows x with cursor := setNth x.cursor sa 0 }
        (rows ≤ 65535 → goes (.ownl n u) (if rows = 0 then branchTo w y else y)) ∧ (65535 < rows → stops (.ownl n u))) ∧
      (strmUsed r.cmd sa = false ∨ strmBlist r.cmd sa = true ∨ strmDesc r.cmd sa = none → stops (.ownl n u))) ∧
    (miOp w = 0x07 →
      (∀ d : Desc, strmUsed r.cmd sa = true → strmDesc r.cmd sa = some d →
        (strmBlist r.cmd sa = false → goes (.skip n u)
          (moveCursor sa (cursorOf x sa + miCount r.cmd w) (ownedRows n.val u.val d).length x)) ∧
        (strmBlist r.cmd sa = true → goes (.skip n u) x)) ∧
      (strmUsed r.cmd sa = false ∨ strmDesc r.cmd sa = none → stops (.skip n u))) ∧
    (miOp w = 0x08 → (miAcc w + miCnt w ≤ 2048 → goes (.aclr n u) (clearAcc (miAcc w) (miCnt w) x)) ∧
      (2048 < miAcc w + miCnt w → stops (.aclr n u)))

/-- LENL chooses the batch row whose billets the streams walk; MCLR, SMAX and SEXP work on the maxima and the score file -/
def Obligations.SwageBilletSetsAndMaxima : Prop :=
  ∀ (n : Fin 20) (u : Fin 512) (w : Nat) (s : State), UnitReady n u w s →
    let x := unitNext n u s
    let s0 := unitBegun n u s
    let r := stackRun s0 n.val
    let rows := List.range (miRw w + 1)
    let c := countOr w x
    let goes (i : Instr) (y : SwgUnit) : Prop := exec i s = .next (unitEnded n u y s0)
    let stops (i : Instr) : Prop := exec i s = .next (unitFault n.val u.val (unitAt s n.val u.val).pc fcMicro s0)
    (miOp w = 0x06 →
      let y := { x with set := miRw w, lenl := true,
                        cursor := (List.range 8).map (fun k => if strmBlist r.cmd k then 0 else cursorOf x k) }
      let m := (setBillets r u.val y).length
      (strmBlist r.cmd (miSa w) = true → goes (.lenl n u) (if m = 0 then branchTo w (setLoop (miLc w) m y) else setLoop (miLc w) m y)) ∧
      (strmBlist r.cmd (miSa w) = false → stops (.lenl n u))) ∧
    (miOp w = 0x11 → goes (.mclr n u) (overList (fun k y => { y with m := setNth y.m k 0xFF800000, n := setNth y.n k false }) rows x)) ∧
    (miOp w = 0x12 → (sfOk (miImm w) c (miRw w) = true → goes (.smax n u)
        (overList (fun p y => overList (fun k y => smaxOne k (sfOf y (miImm w + 8 * p + k)) y) rows y) (List.range c) x)) ∧
      (sfOk (miImm w) c (miRw w) = false → stops (.smax n u))) ∧
    (miOp w = 0x13 → (sfOk (miImm w) c (miRw w) = true → miAcc w + miRw w ≤ 2047 →
        let z := (List.range c).foldl (fun xe p => rows.foldl (fun xe k => sexpOne (miAcc w) (miImm w + 8 * p + k) k xe) xe) (x, 0)
        exec (.sexp n u) s = .next (unitEnded n u (noteExc n.val z.2 z.1 s0).2 (noteExc n.val z.2 z.1 s0).1)) ∧
      (sfOk (miImm w) c (miRw w) = false ∨ 2047 < miAcc w + miRw w → stops (.sexp n u)))

/-- MVM, PSND and CWR do what R180 says with the unit's accumulators, the merge entries and the rows they name -/
def Obligations.SwageRowInstructions : Prop :=
  ∀ (n : Fin 20) (u : Fin 512) (w : Nat) (s : State) (d b : Desc), UnitReady n u w s →
    let x := unitNext n u s
    let s0 := unitBegun n u s
    let r := stackRun s0 n.val
    let sa := miSa w
    let first := miAcc w
    let row? := if strmBlist r.cmd sa then none else (ownedRows n.val u.val d)[cursorOf x sa]?
    let last := (ownedRows n.val u.val d).length
    let goes (i : Instr) (y : SwgUnit) (t : State) : Prop := exec i s = .next (unitEnded n u y t)
    strmUsed r.cmd sa = true → strmDesc r.cmd sa = some d →
    (∀ w0 : Desc, miOp w = 0x09 → rbDesc r.cmd = some b → strmUsed r.cmd 0 = true → strmDesc r.cmd 0 = some w0 → first + miRw w ≤ 2047 →
      (row? = none → goes (.mvm n u) x s0) ∧
      (∀ row, row? = some row →
        let own := ownedElems n.val u.val d row
        let off (k : Nat) : Nat := 32 * miImm w + k * rowBytes b
        let read := readUnitRow n.val u.val d (rowAt d row 0 0) s0
        let ws := own.map (elemOf d read.2)
        let r1 := stackRun read.1 n.val
        own.all (rbHolds b (off (miRw w))) = true →
        let sum (k : Nat) (y : SwgUnit) : Accum := dotInto ((nth r1.anchors k none).map (fun ax => w0.anchor + ax))
          (own.map (elemOf b (rbFrom r1 x (off k)))) ws (accOf y (first + k))
        let y := overList (fun k y => setAcc (first + k) (sum k y) y) (List.range (miRw w + 1)) x
        ((∀ z, rowBound d (ws.filter (fun e => !e.poison)) = some z → z ≤ w0.anchor) →
          goes (.mvm n u) y (countMacs n.val u.val (own.length * (miRw w + 1)) read.1) ∧
          (tabWf (fun _ => accZero) x.acc = true → (∀ k ≤ miRw w, accOf y (first + k) = sum k x) ∧
            ∀ j, (j < first ∨ first + miRw w < j) → accOf y j = accOf x j)) ∧
        (∀ z, rowBound d (ws.filter (fun e => !e.poison)) = some z → w0.anchor < z →
          exec (.mvm n u) s = .next (unitFault n.val u.val (unitAt s n.val u.val).pc stAnchor read.1)))) ∧
    (miOp w = 0x0A → first + miRw w < 2048 →
      (row? = none → goes (.psnd n u) (clearAcc first (miRw w + 1) x) s0) ∧
      (∀ row, row? = some row →
        let y := moveCursor sa (cursorOf x sa + 1) last (clearAcc first (miRw w + 1) x)
        let m := (List.range (miRw w + 1)).foldl (fun m k =>
          tabSet accZero m (row * 8 + k) (accJoin (tabGet accZero m (row * 8 + k)) (accOf x (first + k)))) r.merge
        goes (.psnd n u) { y with prog := (y.prog + 1) % 2 ^ 32 } (setRun n.val { r with merge := m } s0) ∧
        (tabWf (fun _ => accZero) r.merge = true →
          (∀ k ≤ miRw w, tabGet accZero m (row * 8 + k) = accJoin (tabGet accZero r.merge (row * 8 + k)) (accOf x (first + k))) ∧
          ∀ j, (j < row * 8 ∨ row * 8 + miRw w < j) → tabGet accZero m j = tabGet accZero r.merge j))) ∧
    (miOp w = 0x0B → rbDesc r.cmd = some b →
      (row? = none → strmBlist r.cmd sa = false ∨ r.kind ≠ 2 → goes (.cwr n u) x s0) ∧
      (∀ row, row? = some row → rbHolds b (32 * miImm w + miRw w * rowBytes b) (d.size0 - 1) = true →
        let l := rbFrom r x (32 * miImm w + miRw w * rowBytes b)
        let p := packRow d (elemPos d 0 row 0 0) ((List.range d.size0).map (fun i => ((elemOf b l i).val, (elemOf b l i).poison)))
        let s1 := writeOwn n.val u.val (swgWho r) (p.1.length / 2048 + 2) (rowAt d row 0 0) p.1 s0
        let z := noteExc n.val p.2 (moveCursor sa (cursorOf x sa + 1) last x) (setRun n.val { stackRun s1 n.val with wroteSm := true } s1)
        goes (.cwr n u) { z.2 with prog := (z.2.prog + 1) % 2 ^ 32 } z.1) ∧
      (∀ s1 y, strmBlist r.cmd sa = true → r.kind = 2 → cwrBillet n.val u.val w d b x s0 = .go s1 y → goes (.cwr n u) y s1))

/-- DOTS, SWAGE_VACC and PART do what R180 says with the scores, the value sums and the partials of a billet -/
def Obligations.SwageVectorInstructions : Prop :=
  ∀ (n : Fin 20) (u : Fin 512) (w : Nat) (s : State) (d b : Desc), UnitReady n u w s →
    let x := unitNext n u s
    let s0 := unitBegun n u s
    let r := stackRun s0 n.val
    let sa := miSa w
    let rows := List.range (miRw w + 1)
    let goes (i : Instr) (y : SwgUnit) (t : State) : Prop := exec i s = .next (unitEnded n u y t)
    (∀ v : Vectors, miOp w = 0x10 → strmUsed r.cmd sa = true → strmDesc r.cmd sa = some d → rbDesc r.cmd = some b →
      vectors n.val u.val sa (miCnt w) d x s0 = some v →
      sfOk (miImm w) (if miCnt w = 0 then v.vecs.length else miCnt w) (miRw w) = true →
      (v.vecs ≠ [] → ∀ k ≤ miRw w, rbHolds b (queryOff r u.val sa v.x b d k) (d.size0 - 1) = true) →
      let query (k : Nat) : List Elem := (List.range d.size0).map (elemOf b (rbFrom r v.x (queryOff r u.val sa v.x b d k)))
      let sc (p k : Nat) : (Nat × Bool) × Nat := score (queryAnchor r u.val sa x k) d (nth v.vecs p []) (query k)
      ∃ (y : SwgUnit) (e : Nat),
        let z := noteExc n.val e y (countMacs n.val u.val (v.vecs.length * d.size0 * (miRw w + 1)) v.st)
        goes (.dots n u) { z.2 with lastCnt := v.vecs.length } z.1 ∧ y = { v.x with sf := y.sf, sfSyn := y.sfSyn } ∧
        e = ((List.range v.vecs.length).flatMap (fun p => rows.map (fun k => (sc p k).2))).foldl (· ||| ·) 0 ∧
        (v.x.sfSyn = [] → tabWf (fun _ => (0, false)) v.x.sf = true →
          (∀ p < v.vecs.length, ∀ k ≤ miRw w, tabGet (0, false) y.sf (miImm w + 8 * p + k) = (sc p k).1) ∧
          ∀ j, (∀ p < v.vecs.length, ∀ k ≤ miRw w, j ≠ miImm w + 8 * p + k) → tabGet (0, false) y.sf j = tabGet (0, false) v.x.sf j)) ∧
    (∀ fv : Int, miOp w = 0x14 → strmUsed r.cmd sa = true → strmDesc r.cmd sa = some d → valueFrame d = some fv →
      miAcc w + 7 + d.size0 * (miRw w + 1) ≤ 2047 → sfOk (miImm w) (countOr w x) (miRw w) = true →
      (countOr w x = 0 → goes (.swageVacc n u) x s0) ∧
      (∀ v : Vectors, countOr w x ≠ 0 → vectors n.val u.val sa (countOr w x) d x s0 = some v →
        ∃ y, goes (.swageVacc n u) y (countMacs n.val u.val (v.vecs.length * d.size0 * (miRw w + 1)) v.st) ∧ y = { v.x with acc := y.acc } ∧
          (tabWf (fun _ => accZero) v.x.acc = true →
            ∀ j, (j < miAcc w + 8 ∨ miAcc w + 8 + d.size0 * (miRw w + 1) ≤ j) → accOf y j = accOf v.x j) ∧
          (∀ vec, v.vecs = [vec] → y = overList (fun k y => vaccOne fv (miAcc w) d.size0 (miImm w) 0 k vec y) rows v.x))) ∧
    (∀ (q : QBillet) (s5 : Desc), miOp w = 0x15 → r.kind = 1 → strmDesc r.cmd 3 = some d → strmDesc r.cmd 5 = some s5 →
      curBillet r u.val x 3 = some q → miAcc w + 7 + d.size0 * max (miRw w + 1) (cmdRows r.cmd) ≤ 2047 →
      let rows := max (miRw w + 1) (cmdRows r.cmd)
      let z := (List.range (cmdRows r.cmd)).foldl (fun sx k => partRow n.val (miAcc w) d s5 ((valueFrame d).getD 9) q k sx.2 sx.1) (s0, x)
      let y := nextBillet r u.val (clearAcc (miAcc w) rows (clearAcc (miAcc w + 8) (d.size0 * rows) z.2))
      goes (.part n u) { y with rowBad := List.replicate 8 false, prog := (y.prog + 1) % 2 ^ 32 } z.1)

/-- A Swage command is taken, started, merged and ended through the dispatcher's states -/
def Obligations.SwageCommandsStartAndEnd : Prop :=
  ∀ (n : Fin 20) (s : State), running s = true →
    let r := stackRun s n.val
    (∀ (q : Nat) (s1 : State) (k : Taken), stackTurn s n.val = some q → (headHdr s q).cls = 1 → takeCmd q s = (s1, k) →
      k.poison = false → pendingAbort s1 (queue s1 q) = none → k.hdr.bad = false → classAccepted (queue s1 q).ckind k.hdr.cls = true →
      let cmd := ((bytesWords k.body).take 56).set 1 k.tag
      let run : StackRun := { phase := 1, qid := q, idx := k.idx, tag := k.tag, cmd := cmd,
                              kind := if !cmdBlist cmd then 0 else if cmdAttention cmd then 1 else 2,
                              ranges := cmdRanges s1 n.val cmd, area := (stackRun s1 n.val).area }
      (swageAccepts s1 n.val cmd = true → exec (.swageCommandTake n) s =
        .next (runRecall run (updHearth (hxStack n.val) (fun h => { h with running := true }) (setRun n.val run (dropUnits n.val s1))))) ∧
      (swageAccepts s1 n.val cmd = false → exec (.swageCommandTake n) s = .next (rejectCmd q k s1))) ∧
    (r.phase = 1 → stackHeld s n.val = false →
      let start (s : State) : State :=
        let t := broadcast n.val (setAnchors n.val (deliverS1 n.val s))
        setRun n.val { stackRun t n.val with phase := 3, start := t.time } t
      let s1 := broadcast n.val s
      let z := readTables n.val s1
      let items := tableItems s1 r.cmd
      let l := queueAll z.1 (r.kind == 1) items
      (runRecalls s r ≠ [] → exec (.swagePrologue n) s = .next (runRecall r s)) ∧
      (runRecalls s r = [] → r.kind = 0 → exec (.swagePrologue n) s = .next (start s1)) ∧
      (runRecalls s r = [] → r.kind ≠ 0 →
        (z.2 = true → exec (.swagePrologue n) s = .next (rejectRun n.val true z.1)) ∧
        (z.2 = false → tablesOk z.1 n.val r items l = false → exec (.swagePrologue n) s = .next (rejectRun n.val false z.1)) ∧
        (z.2 = false → tablesOk z.1 n.val r items l = true → exec (.swagePrologue n) s =
          .next (start (setRun n.val { stackRun z.1 n.val with items := items, billets := l,
                                                               layer := lookNat z.1 3 (creg r 20 + 4) 2 } z.1))))) ∧
    (r.phase = 3 → allDone s n.val = true →
      (r.kind = 0 → exec (.swageMerge n) s =
        .next (finishRun n.val (if strmUsed r.cmd 2 then cmdOuts r.cmd * cmdRows r.cmd else 0) (writeOutputs n.val s))) ∧
      (r.kind = 2 → exec (.swageMerge n) s = .next (finishRun n.val r.written.length s))) ∧
    (∀ u < 512, r.phase = 3 → rf s (stkReg n.val 0x800) 63 32 ≠ 0 →
      (∀ k < u, (unitAt s n.val k).isDone = true) → (unitAt s n.val u).isDone = false →
      exec (.swageTimeout n) s = .next (swageFault n.val 0x241 (hxUnit n.val u) (unitAt s n.val u).pc
        { s with time := max s.time (r.start + 1000 * rf s (stkReg n.val 0x800) 63 32) }))

/-- The merge exchange of attention collects every site's maxima, aborts when one aborts, and ends the command -/
def Obligations.AttentionMergeExchange : Prop :=
  ∀ (n src : Fin 20) (o : Desc) (s : State), running s = true →
    let r := stackRun s src.val
    let p := siteMax src.val r
    let me := stackRun s n.val
    let key := maskKey me.cmd
    let peers := (exchOf s n.val).filter (fun p => p.xkey == key && !p.abort)
    (n ≠ src → readyToMerge s src.val = true → n.val ∈ maskSites r.cmd → n.val ∉ r.sent →
      (∀ q ∈ exchOf s src.val, ¬ (q.xkey = p.xkey ∧ q.abort = true)) → exchRoom s n.val p.xkey = true →
      let t := setExch n.val (exchOf s n.val ++ [p]) (setRun src.val { r with phase := 4, sent := n.val :: r.sent } s)
      let q := stackRun t n.val
      let clash := mergesUnder t n.val p.xkey && 3 ≤ q.phase && !peerFits q p
      (clash = false → exec (.mergeExchangeReceive n src) s = .next t) ∧
      (clash = true → exec (.mergeExchangeReceive n src) s = .next (swageFault n.val 0x243 (hxStack n.val) 0 t))) ∧
    (mergesUnder s n.val key = true → (∃ q ∈ exchOf s n.val, q.xkey = key ∧ q.abort = true) → exec (.mergeAbort n) s =
      .next (endRun n.val (journal me.qid me.idx me.tag { state := 0, status := stMergeAbort } s))) ∧
    (readyToMerge s n.val = true → (∀ q ∈ exchOf s n.val, q.xkey = key → q.abort = false ∧ peerFits me q = true) →
      (∀ k ∈ maskSites me.cmd, k ≠ n.val → k ∈ me.sent ∧ ∃ q ∈ exchOf s n.val, q.xkey = key ∧ q.site = k) →
      strmDesc me.cmd 2 = some o →
      let rows := cmdRows me.cmd
      let t := overList (fun j t => overList (fun k t =>
          memWrite (mergeWho me) o.space (rowAt o (j * rows + k) 0 0) (attentionRow me peers (runFrame me) j k) t) (List.range rows) t)
        (List.range me.items.length) { s with found := me.found }
      exec (.attentionMerge n) s = .next (finishRun n.val (me.items.length * rows)
        (setRun n.val { stackRun t n.val with found := t.found } { t with found := [] })))

/-- The micro-program store is written only with mp_wen set and no command busy -/
def Obligations.MicroProgramStoreIsWritten : Prop :=
  ∀ (n : Fin 20) (i : Fin 256) (v : Word) (b : Bool) (s : State), running s = true → stageFailed s = false →
    let st := stkReg n.val 0x808
    let c := stkReg n.val 0x800
    let ok := rf s c 2 2 = 1 ∧ (stackRun s n.val).phase = 0
    (ok → exec (.mpWrite n i v) s = .next (setRf st 1 1 0 { s with
      mpStore := tabSet 0 s.mpStore (n.val * 256 + i.val) v,
      mpChk := tabSet 0 s.mpChk (n.val * 256 + i.val) (BitVec.ofNat 8 (sramEncode v.toNat)),
      mpOwn := s.mpOwn.filter (fun e => !(e.1 / 131072 == n.val && e.1 % 256 == i.val)) })) ∧
    (¬ ok → exec (.mpWrite n i v) s = .next (setRf st 1 1 1 s)) ∧
    ((stackRun s n.val).phase = 0 → exec (.mpWenWrite n b) s = .next (setRf st 1 1 0 (setRf c 2 2 (b2n b) s))) ∧
    ((stackRun s n.val).phase ≠ 0 → exec (.mpWenWrite n b) s = .next (setRf st 1 1 1 s))

/-- An elementwise vector word whose operands pass the checks writes every row of C from the rows of A and B -/
def Obligations.ElementwiseWordsWriteTheirRows : Prop :=
  ∀ (a : Fin 4) (c k : Fin 16) (w : EngWord) (s : State), EngineReady a c k 1 w s →
    let s1 := (engStart a c k 1 w s).1
    let x := (engStart a c k 1 w s).2
    ∀ (i : Instr) (op : Nat) (needB takesB int32 : Bool) (f : EngCtx → ExNum → ExNum → ExNum), (i, op, needB, takesB, int32, f) ∈
       ([(.vadd a c k, 0x01, true, true, false, fun _ p q => roundFp32 (numAdd p q)),
        (.vsub a c k, 0x02, true, true, false, fun _ p q => roundFp32 (numAdd p (numFlip q))),
        (.vmul a c k, 0x03, true, true, false, fun _ p q => roundFp32 (numMul p q)),
        (.vdiv a c k, 0x04, true, true, false, fun _ p q => roundFp32 (numDiv p q)),
        (.vmax a c k, 0x05, true, true, false, fun _ => vMax), (.vmin a c k, 0x06, true, true, false, fun _ => vMin),
        (.vsqrt a c k, 0x07, false, false, false, fun _ p _ => roundFp32 (numSqrt p)),
        (.vexp a c k, 0x08, false, true, false, fun x p q => expValue (if slUsed x.w.w1 then numAdd p (numFlip q) else p)),
        (.vscl a c k, 0x09, false, false, false, fun x p _ => roundFp32 (numAdd (numMul p (fp32 x.prm.s0)) (fp32 x.prm.s1))),
        (.vcvt a c k, 0x0A, false, false, true, fun _ p _ => p)] : List (Instr × Nat × Bool × Bool × Bool × (EngCtx → ExNum → ExNum → ExNum))) →
      ewOp w = op →
      (∀ tr : Trio, trioOf x s1 needB takesB int32 = some tr →
        exec i s = .next (wordRan x 1 (rowsThrough x tr (f x) s1).2 tr.a.size1 (rowsThrough x tr (f x) s1).1)) ∧
      (trioOf x s1 needB takesB int32 = none → exec i s = .next (rejectWord a.val c.val k.val 1 w s))

/-- VRSUM, VRMAXF, VFILL, VAMAX and VIMAX write the results of R217, row by row -/
def Obligations.RowWordsWriteOneResultPerRow : Prop :=
  ∀ (a : Fin 4) (c k : Fin 16) (w : EngWord) (s : State) (da dc : Desc), EngineReady a c k 1 w s →
    let s1 := (engStart a c k 1 w s).1
    let x := (engStart a c k 1 w s).2
    (∀ (i : Instr) (op : Nat) (f : Desc → List Elem → ExNum),
      (i, op, f) ∈ ([(.vrsum a c k, 0x10, rowSum), (.vrmaxf a c k, 0x11, fun _ => rowMaxF)] : List (Instr × Nat × (Desc → List Elem → ExNum))) →
      ewOp w = op → slotDesc x w.w2 = some da → slotDesc x w.w0 = some dc → srcOk s1 da = true → dstOk s1 dc = true →
      da.fmt ≠ .int32 → dc.fmt ≠ .int32 → da.size1 = dc.size1 → opsMeet da dc = false → prmClear x dc = true →
      let z := (List.range da.size1).foldl (fun (se : State × Nat) m =>
        let r := readRow x.who false da (rowAt da m 0 0) se.1
        let es := rowElems da r.2
        let p := putRow x.who dc (rowAt dc m 0 0) (drawPos x m) [(f da es, es.any (·.poison) || x.prm.bad)] r.1
        (p.1, se.2 ||| p.2)) (s1, 0)
      exec i s = .next (wordRan x 1 z.2 da.size1 z.1)) ∧
    (ewOp w = 0x0B → slotDesc x w.w0 = some dc → dstOk s1 dc = true → prmApart x 32 dc = true →
      let row := (List.range (rowBytes dc)).map (fun i => (BitVec.ofNat 8 (x.prm.s0 >>> (8 * (i % 4))), x.prm.bad))
      exec (.vfill a c k) s = .next (wordRan x 1 0 dc.size1
        (overList (fun m t => memWrite x.who 1 (rowAt dc m 0 0) row t) (List.range dc.size1) s1))) ∧
    (ewOp w = 0x12 → slotDesc x w.w2 = some da → slUsed w.w0 = true → srcOk s1 da = true → da.fmt ≠ .int32 →
      intsOk s1 (slotInts x w.w0) = true → da.size1 ≤ slN0 w.w0 → opsMeet da (slotInts x w.w0) = false →
      prmClear x (slotInts x w.w0) = true →
      exec (.vamax a c k) s = .next (wordRan x 1 0 da.size1 (overList (fun m t =>
        let r := readRow x.who false da (rowAt da m 0 0) t
        let es := rowElems da r.2
        max16At x (slotInts x w.w0) m (anchorCode (rowBound da es)) (es.any (·.poison)) r.1) (List.range da.size1) s1))) ∧
    (ewOp w = 0x13 → slUsed w.w2 = true → slUsed w.w0 = true → slN0 w.w2 = slN0 w.w0 → intsOk s1 (slotInts x w.w2) = true →
      intsOk s1 (slotInts x w.w0) = true → (opsMeet (slotInts x w.w2) (slotInts x w.w0) = false ∨ slOffset w.w2 = slOffset w.w0) →
      prmClear x (slotInts x w.w0) = true →
      exec (.vimax a c k) s = .next (wordRan x 1 0 1 (overList (fun m t =>
        let r := memRead x.who false 1 ((slotInts x w.w2).base + 2 * m) 2 t
        max16At x (slotInts x w.w0) m (leNat (r.2.map (·.1))) (r.2.any (·.2)) r.1) (List.range (slN0 w.w2)) s1)))

/-- MMA adds every pair of rows into its bank entry, in the frame of the two anchors -/
def Obligations.MatrixWordAddsEveryPair : Prop :=
  ∀ (a : Fin 4) (c k : Fin 16) (w : EngWord) (s : State) (dx dw : Desc), EngineReady a c k 0 w s → ewOp w = 1 →
    let s1 := (engStart a c k 0 w s).1
    let x := (engStart a c k 0 w s).2
    let b := natBits w.w0 63 63
    let b0 : Bank := if natBit w.w0 62 then { cleared := true, xa := x.prm.xanch, wa := x.prm.wanch } else bank s1 x.core b
    let frame (m n : Nat) : Option Int := addAnchors (nth x.prm.xanch m none) (nth x.prm.wanch n none)
    let rx := readRows x.who dx s1
    let rw := readRows x.who dw rx.1
    slotDesc x w.w2 = some dx → slotDesc x w.w1 = some dw → srcOk s1 dx = true → srcOk s1 dw = true → matrixOk dx = true →
    matrixOk dw = true → dx.size0 = dw.size0 → dx.size1 ≤ 64 → dw.size1 ≤ 64 →
    (∀ m < dx.size1, ∀ n < dw.size1, (bankEntry b0 m n).terms + dx.size0 ≤ 2 ^ 24 ∧
      ∀ z y, frame m n = some z → (bankEntry b0 m n).anchor = some y → (bankEntry b0 m n).written = true → z = y) →
    (∀ m < dx.size1, firstOver (nth x.prm.xanch m none) dx (nth rx.2 m []) = none) →
    (∀ n < dw.size1, firstOver (nth x.prm.wanch n none) dw (nth rw.2 n []) = none) →
    ∃ y : Bank, exec (.mma a c k) s = .next (wordRan x 0 0 (dx.size0 / 16) (setBank x.core b y rw.1)) ∧
      y = { b0 with cells := y.cells, syn := y.syn } ∧
      ∀ m n, n < 64 → bankEntry y m n = if m < dx.size1 ∧ n < dw.size1 then
        mmaPair (frame m n) x.prm.bad dx.size0 ((nth rx.2 m []).take dx.size0) ((nth rw.2 n []).take dx.size0) (bankEntry b0 m n)
        else bankEntry b0 m n

/-- The record words and the move words write the rows of R217 and R219 -/
def Obligations.RecordAndMoveWordsComplete : Prop :=
  ∀ (a : Fin 4) (c k : Fin 16) (w : EngWord) (s : State) (da dc : Desc),
    (EngineReady a c k 1 w s →
      let s1 := (engStart a c k 1 w s).1
      let x := (engStart a c k 1 w s).2
      let rows (f : Nat → State → State × Nat) (n : Nat) : State × Nat :=
        (List.range n).foldl (fun se m => let r := f m se.1; (r.1, se.2 ||| r.2)) (s1, 0)
      (∀ s2 e n, ewOp w = 0x14 → vaccWord x s1 = .fin s2 e n → exec (.vacc a c k) s = .next (wordRan x 1 e n s2)) ∧
      (∀ s2 e n, ewOp w = 0x1A → racc x s1 = .fin s2 e n → exec (.racc a c k) s = .next (wordRan x 1 e n s2)) ∧
      (ewOp w = 0x1A → slUsed w.w2 = true → slUsed w.w0 = true → slRows w.w2 = 1 → slRows w.w0 = 1 → slN0 w.w2 = slN0 w.w0 →
        srcOk s1 (slotRecs x w.w2) = true → dstOk s1 (slotRecs x w.w0) = true →
        apartFrom true (slotRecs x w.w2) w.w2 (slotRecs x w.w0) w.w0 = true → prmClear x (slotRecs x w.w0) = true →
        let A := slotRecs x w.w2
        let C := slotRecs x w.w0
        let ra := memRead x.who false 1 (rowAt A 0 0 0) A.size0 s1
        let rc := memRead x.who false 1 (rowAt C 0 0 0) C.size0 ra.1
        let js := (List.range (slN0 w.w0)).map (fun i => recJoin (recOf rc.2 i) (recOf ra.2 i))
        (∀ j ∈ js, j ≠ none) → exec (.racc a c k) s = .next (wordRan x 1 0 1 (memWrite x.who 1 (rowAt C 0 0 0)
          (js.flatMap (fun j => match j with | some r => recBytesOf r.acc r.code | none => [])) rc.1))) ∧
      (ewOp w = 0x18 → slotDesc x w.w0 = some dc → dstOk s1 dc = true → dc.fmt ≠ .int32 → bankCols w.w2 ≤ dc.size0 →
        bankRows w.w2 ≤ dc.size1 → prmClear x dc = true →
        let b := bank s1 x.core (natBits w.w2 63 63)
        let z := rows (fun m t => putRow x.who dc (rowAt dc m 0 0) (drawPos x m) ((List.range (bankCols w.w2)).map (fun n =>
          (accValue ((bankEntry b m n).anchor.getD 0) (bankEntry b m n).acc, (bankEntry b m n).acc.poison || x.prm.bad))) t) (bankRows w.w2)
        exec (.acvt a c k) s = .next (wordRan x 1 z.2 (bankRows w.w2) (clearEntries x z.1))) ∧
      (ewOp w = 0x19 → slUsed w.w0 = true → dstOk s1 (slotRecs x w.w0) = true → bankCols w.w2 ≤ slN0 w.w0 →
        bankRows w.w2 ≤ slRows w.w0 → prmClear x (slotRecs x w.w0) = true →
        let b := bank s1 x.core (natBits w.w2 63 63)
        exec (.araw a c k) s = .next (wordRan x 1 0 (bankRows w.w2) (clearEntries x (overList (fun m t =>
          memWrite x.who 1 (rowAt (slotRecs x w.w0) m 0 0) ((List.range (bankCols w.w2)).flatMap (fun n =>
            recBytesOf (bankEntry b m n).acc (anchorCode (bankEntry b m n).anchor))) t) (List.range (bankRows w.w2)) s1)))) ∧
      (∀ i op, (i, op) ∈ ([(.rcvt a c k, 0x1B), (.aquo a c k, 0x1C)] : List (Instr × Nat)) → ewOp w = op →
        slotDesc x w.w0 = some dc → slUsed w.w2 = true → srcOk s1 (slotRecs x w.w2) = true → dstOk s1 dc = true → dc.fmt ≠ .int32 →
        (op = 0x1B → slN0 w.w2 ≤ dc.size0) → (op = 0x1C → slN0 w.w2 = dc.size0 + 1) → slRows w.w2 = dc.size1 →
        opsMeet (slotRecs x w.w2) dc = false → prmClear x dc = true →
        let z := rows (fun m t =>
          let r := memRead x.who false 1 (rowAt (slotRecs x w.w2) m 0 0) (slotRecs x w.w2).size0 t
          let rs := (List.range (slN0 w.w2)).map (recOf r.2)
          let out := if op = 0x1C then attentionOut x rs else (rs.map (fun r => (accValue (r.anchor.getD 0) r.acc, r.acc.poison || x.prm.bad)), 0)
          let p := putRow x.who dc (rowAt dc m 0 0) (drawPos x m) out.1 r.1
          (if op = 0x1C then countRows (x.core / 256) out.2 p.1 else p.1, p.2)) dc.size1
        exec i s = .next (wordRan x 1 z.2 dc.size1 z.1))) ∧
    (EngineReady a c k 2 w s →
      let s1 := (engStart a c k 2 w s).1
      let x := (engStart a c k 2 w s).2
      slotDesc x w.w2 = some da → slotDesc x w.w0 = some dc → srcOk s1 da = true → dstOk s1 dc = true → da.fmt = dc.fmt →
      opsMeet da dc = false → prmClear x dc = true →
      (ewOp w = 1 → da.arr = dc.arr → da.size0 = dc.size0 → da.size1 = dc.size1 →
        exec (.mcpy a c k) s = .next (wordRan x 2 0 da.size1 (overList (fun m t =>
          let r := readRow x.who false da (rowAt da m 0 0) t
          memWrite x.who 1 (rowAt dc m 0 0) (repackRow da dc r.2) r.1) (List.range da.size1) s1))) ∧
      (ewOp w = 2 → da.arr = .plain → dc.arr = .plain → fmtBits da.fmt % 8 = 0 → dc.size1 = da.size0 → da.size1 ≤ dc.size0 →
        let n := fmtBits da.fmt / 8
        let z := collect (fun m t => readRow x.who false da (rowAt da m 0 0) t) (List.range da.size1) s1
        exec (.mtrn a c k) s = .next (wordRan x 2 0 da.size1 (overList (fun j t =>
          memWrite x.who 1 (rowAt dc j 0 0) (z.2.flatMap (fun l => (l.drop (n * j)).take n)) t) (List.range dc.size1) z.1))))

/-- A word that has run completes and counts; an undefined word is rejected and stops its cluster -/
def Obligations.EngineWordsCompleteOrAreRejected : Prop :=
  ∀ (a : Fin 4) (c k : Fin 16) (eng : Fin 4) (w : EngWord) (rest : List EngWord) (s : State), running s = true →
    let x := coreNo a.val c.val k.val
    let z := clusterNo a.val c.val
    let y := cluster s z
    let hx := hxCore a.val c.val k.val
    let hc := hxCluster a.val c.val
    let m := coreSt s x
    (eng.val < 3 → engQueue m eng.val = w :: rest → w.ran = true → stoppedAt s hx = false →
      let s1 := setCore x { setEngQueue eng.val (popQueue s.time (w :: rest)) m with
        cnt := setNth m.cnt eng.val ((nth m.cnt eng.val 0 + 1) % 2 ^ 16) } s
      let s2 := setRf (coreQReg x) 27 24 (rf s1 (coreQReg x) 27 24 ||| w.exc) s1
      exec (.wordComplete a c k eng) s =
        .next (retryPush a.val c.val (commit hx w.tag (ewEv w) (traceIf a.val c.val hx w 2 w.exc w.prog s2)))) ∧
    (eng.val = 3 → y.moving = w :: rest → w.ran = true → stoppedAt s hc = false →
      let s1 := overList (fun j t => let o := coreSt t (coreNo a.val c.val j)
          setCore (coreNo a.val c.val j) { o with cnt := setNth o.cnt 3 ((nth o.cnt 3 0 + 1) % 2 ^ 16) } t)
        (maskCores w) (setCluster z { y with moving := rest, bdone := (y.bdone + 1) % 2 ^ 32 } s)
      let s2 := updHearth hc (fun h => { h with lastTag := w.tag }) (traceIf a.val c.val hc w 2 0 w.prog s1)
      exec (.wordComplete a c k eng) s = .next (if ewEv w then countUp hc 2 s2 else s2)) ∧
    (eng.val < 3 → headWord s a.val c.val k.val eng.val = some w → (ewDefined eng.val (ewOp w) = false ∨ 2 ≤ ewRound w) →
      let s1 := traceIf a.val c.val hx w 5 0 0 s
      let o := setEngQueue eng.val [] (coreSt s1 x)
      let s2 := setCore x { o with mat := o.mat.filter (·.ran), vec := o.vec.filter (·.ran), mov := o.mov.filter (·.ran) } s1
      let s3 := dropPush a.val c.val (faultRecord { code := stDescriptor, hearth := hx, tag := w.tag, src := engSource eng.val } s2)
      exec (.engineNop a c k eng) s = .next (updHearth hc (fun h => { h with faulted := true })
        (setCluster z { cluster s3 z with stopped := true } s3))) ∧
    (eng.val < 3 → EngineReady a c k eng.val w s → ewOp w = 0 →
      exec (.engineNop a c k eng) s = .next (wordRan (engStart a c k eng.val w s).2 eng.val 0 0 (engStart a c k eng.val w s).1))

/-- A word or a push that waits longer than wait_ms stops its cluster -/
def Obligations.EngineWaitsTimeOut : Prop :=
  ∀ (a : Fin 4) (c k : Fin 16) (eng : Fin 4) (w : EngWord) (p : Push) (s : State), running s = true → waitMs s a.val c.val ≠ 0 →
    let z := clusterNo a.val c.val
    let at_ (since : Nat) (t : State) : State := { t with time := max t.time (since + 1000000 * waitMs s a.val c.val) }
    (eng.val < 3 → headWord s a.val c.val k.val eng.val = some w → waitHolds (coreSt s (coreNo a.val c.val k.val)) w = false →
      exec (.engineWaitTimeout a c k eng) s = .next (engineFault a.val c.val k.val eng.val 0x250 w 0 0 (at_ w.since s))) ∧
    (eng.val = 3 → bellowsHead s a.val c.val = some w → bellowsOpen s a.val c.val = true → ewEng w = 3 →
      bellowsBad s a.val c.val w = false → allWaits s a.val c.val w = false →
      exec (.engineWaitTimeout a c k eng) s = .next (bellowsFault a.val c.val 0x250 w (at_ w.since s))) ∧
    ((cluster s z).push = some p →
      let t := if p.tagged then (s, p.word.tag) else stampTag (clusterCode a.val c.val) s
      exec (.pushStallTimeout a c) s = .next (clusterFault a.val c.val (hxCluster a.val c.val) 3 0x250 t.2 0 0
        (at_ p.word.since (setCluster z { cluster t.1 z with push := none } t.1))))

/-- Bellows does its own words in order: BAR and NOP complete, LOAD and STORE start and move their pieces, RUN fetches its words -/
def Obligations.BellowsRunsItsStream : Prop :=
  ∀ (a : Fin 4) (c k : Fin 16) (eng : Fin 4) (es : List LinkErr) (er : LinkErr) (w : EngWord) (s : State),
    let z := clusterNo a.val c.val
    let s1 := (issueTag a.val c.val w s).1
    let w1 := (issueTag a.val c.val w s).2
    let waits : Prop := ewEng w = 3 ∧ allWaits s a.val c.val w = true
    let ls (es : List LinkErr) : List (Instr × Nat × Bool) := [(.load a ⟨c, es⟩, 0x30, false), (.store a ⟨c, es⟩, 0x31, true)]
    (BellowsReady a c w s →
      (∀ i op, (i, op) ∈ ([(.bar a c, 0x33), (.engineNop a c k eng, 0x00)] : List (Instr × Nat)) → (op = 0 → eng.val = 3) →
        waits → ewOp w = op → exec i s = .next (bellowsPopped a c (bellowsDone a.val c.val w1 s1))) ∧
      (∀ i op store, (i, op, store) ∈ ls es → waits → ewOp w = op → (cluster s z).moving.length < 4 → lsOk s1 a.val store w1 = true →
        let t := traceIf a.val c.val (hxCluster a.val c.val) w1 1 0 0 s1
        exec i s = .next (movePiecesLs a.val c.val store es (bellowsPopped a c (setCluster z
          { cluster t z with moving := (cluster t z).moving ++ [{ w1 with ran := false, prog := 0 }] } t)))) ∧
      (waits → ewOp w = 0x32 → (runSpace w1 = 2 ∧ w1.w2 / 2 ^ 32 = a.val ∨ runSpace w1 = 4) →
        addrOk s1 (runSpace w1) w1.w2 (32 * runCount w1) = true →
        (runSpace w = 4 → addrOk s 4 w.w2 (32 * runCount w) = true ∧
          moverReady s (bellowsSource a.val c.val) 4 w.w2 (32 * runCount w) false = true) →
        let r := memRead ⟨4, w1.tag, false⟩ false (runSpace w1) w1.w2 (32 * runCount w1)
          (whenSt (runSpace w1 == 4) (countRun w1.w2 (32 * runCount w1)) s1)
        let t := bellowsDone a.val c.val w1 r.1
        exec (.run a c) s = .next (bellowsPopped a c (setCluster z { cluster t z with
          bq := (cluster t z).bq.drop 1, fetched := ⟨0, 0, 0, 0, 0, 0, false, 0, 0⟩ :: fetchedWords t.time (ewMask w1) (runCount w1) r.2 } t))) ∧
      (ewEng w ≠ 3 → (∀ j ∈ maskCores w, queueRoom s (coreNo a.val c.val j) (ewEng w) ≠ 0) →
        exec (.bellowsRelease a c) s = .next (retryPush a.val c.val (overList (fun x t => enterQueue x (ewEng w1) w1 t)
          ((maskCores w).map (coreNo a.val c.val)) (setCluster z (popBellows s1.time (cluster s1 z)) s1))))) ∧
    (running s = true → bellowsHead s a.val c.val = some w → bellowsOpen s a.val c.val = true → bellowsBad s a.val c.val w = true →
      ∀ i ∈ ([.bar a c, .bellowsRelease a c] : List Instr), exec i s = .next (bellowsFault a.val c.val stDescriptor w s)) ∧
    (∀ i op store before v rest x, (i, op, store) ∈ ls [er] → running s = true →
      (4 ≤ (cluster s z).moving.length ∨ bellowsHead s a.val c.val = none) →
      (cluster s z).stopped = false → stoppedAt s (hxCluster a.val c.val) = false → (hearth s (hxCluster a.val c.val)).halted = false →
      nextMove (cluster s z).moving = some (before, v, rest) → (ewOp v == 0x31) = store → (lsPieces v)[v.prog]? = some x →
      pieceReady s (bellowsSource a.val c.val) (lsSpace v) (lsRemote v x.core x.row) (lsBytes v) x.addr x.len store = true →
      let t := lsCopy a.val c.val store v x er s
      exec i s = .next (setCluster z { cluster t z with
        moving := before ++ { v with prog := v.prog + 1, ran := decide ((lsPieces v).length ≤ v.prog + 1) } :: rest } t))

/-- A push enters the queues of its mask or the Bellows queue, or stalls until there is room -/
def Obligations.PushesEnterTheirQueues : Prop :=
  ∀ (a : Fin 4) (c : Fin 16) (v : Word) (s : State), running s = true → mayPush s a.val c.val = true →
    let z := clusterNo a.val c.val
    let y := cluster s z
    let code := clusterCode a.val c.val
    let w : EngWord := ⟨y.w0, y.w1, y.w2, v.toNat, 0, s.time, false, 0, 0⟩
    let pends (b : Bool) : State := setCluster z { y with push := some ⟨w, ewMask w, b, false⟩ } s
    let halted : Prop := rf s (clReg a.val c.val 0) 1 1 = 1
    (y.stopped = true → exec (.bellowsPush a c v) s = .next (stampTag code s).1 ∧ exec (.directPush a c v) s = .next (stampTag code s).1) ∧
    (y.stopped = false →
      (halted ∨ 64 ≤ y.bq.length → exec (.bellowsPush a c v) s = .next (pends true)) ∧
      (¬ halted → y.bq.length < 64 →
        let t := stampTag code (pends true)
        exec (.bellowsPush a c v) s = .next (setCluster z { y with bq := y.bq ++ [{ w with tag := t.2, since := t.1.time }], push := none } t.1)) ∧
      (ewEng w = 3 ∨ ewMask w = 0 → exec (.directPush a c v) s = .next
        (clusterFault a.val c.val (hxCluster a.val c.val) (ewEng w) stDescriptor (stampTag code s).2 0 0 (stampTag code s).1)) ∧
      (ewEng w ≠ 3 → ewMask w ≠ 0 →
        let ready := (List.range 16).filter (fun k => natBit (ewMask w) k && decide (0 < queueRoom (pends false) (coreNo a.val c.val k) (ewEng w)))
        (halted ∨ ready = [] → exec (.directPush a c v) s = .next (pends false)) ∧
        (¬ halted → ready ≠ [] →
          let t := stampTag code (pends false)
          let w1 := { w with tag := t.2 }
          let left := ready.foldl (fun m k => m - 2 ^ k) (ewMask w)
          exec (.directPush a c v) s = .next (setCluster z
            { y with push := if left = 0 then none else some ⟨w1, left, false, true⟩ }
            (overList (fun k t => enterQueue (coreNo a.val c.val k) (ewEng w) w1 t) ready t.1)))))

/-- Reads of ANV_CL_TAG, and writes of hmr_run, halt and the trace enable, act as R234 to R241 say -/
def Obligations.ClusterRegistersThatAct : Prop :=
  ∀ (a : Fin 4) (c : Fin 16) (s : State), running s = true →
    let core := clusterNo a.val c.val
    let code := clusterCode a.val c.val
    let r := clReg a.val c.val 0
    let ctl := anvReg a.val 0x100
    let n := tabGet 0 s.tags code
    exec (.clTagRead a c) s = .next { s with tags := tabSet 0 s.tags code ((n + 1) % 2 ^ 24), out := s.out ++ [.regData (code * 2 ^ 24 + n)] } ∧
    (stageFailed s = false →
      (rf s r 0 0 = 0 → let t := setRf r 0 0 1 s
        exec (.hammerRun a c true) s = .next
          { t with corePc := tabSet 0 s.corePc core (rg t (clReg a.val c.val 0x20)), umode := tabSet false s.umode core false }) ∧
      (rf s r 0 0 = 1 → exec (.hammerRun a c true) s = .next (setRf r 0 0 1 s)) ∧
      exec (.hammerRun a c false) s = .next (dcFlush core { setRf r 0 0 0 s with
        resv := s.resv.filter (fun v => v.core != core), icache := s.icache.filter (fun e => e.1 / 2 ^ 64 != core) }) ∧
      (∀ h : Bool, exec (.clusterHalt a c h) s = .next (retryPush a.val c.val (setRf r 1 1 (b2n h) s))) ∧
      exec (.traceEnable a false) s = .next (setRf ctl 0 0 0 s) ∧
      (let fits : Prop := rf s (anvReg a.val 0x108) 26 12 * 4096 + traceBytes s a.val ≤ 0x4800000
       (¬ fits → exec (.traceEnable a true) s = .next s) ∧
       (fits → rf s ctl 0 0 = 1 → exec (.traceEnable a true) s = .next (setRf ctl 47 32 0 s)) ∧
       (fits → rf s ctl 0 0 = 0 → exec (.traceEnable a true) s = .next
         (setRg (anvReg a.val 0x110) 0 (setRf ctl 47 32 0 (setRf ctl 0 0 1 s))))))

/-- A free channel takes the copy, gather or scatter at the head of its queue, and a running one moves its next piece -/
def Obligations.TongsChannelsTakeAndMove : Prop :=
  ∀ (e : Fin 24) (c : Fin 64) (es : List (LinkErr × LinkErr)) (er ew : LinkErr) (s : State), running s = true →
    let x := chan s e.val c.val
    let rows (es : List (LinkErr × LinkErr)) : List (Instr × Nat) :=
      [(.tongsCopy e c es, 0), (.tongsGather e c es, 1), (.tongsScatter e c es, 2)]
    (∀ i m q a d, (i, m) ∈ rows es →
      let p := takeCmd q s
      let cmd := (bytesWords p.2.body).take 24
      x.busy = false → chanQueue s e.val c.val = some q → needSlots s q = false → canTake s q = true →
      (headHdr s q).cls = 2 → headRejected s q = false → rowMode (headMode s q) = m →
      p.2.poison = false → pendingAbort p.1 (queue p.1 q) ≠ some p.2.tag → p.2.hdr.bad = false →
      classAccepted (queue p.1 q).ckind p.2.hdr.cls = true → tongsAccepts p.1 cmd = true → tgSrc cmd = some a → tgDst cmd = some d →
      let y := chan p.1 e.val c.val
      let t := setChan e.val c.val
        { busy := true, qid := q, idx := p.2.idx, tag := p.2.tag, cmd := cmd, abort := y.abort, last := y.last }
        (setRf (chanReg e.val c.val 0x08) 59 58 (tgCmode cmd) p.1)
      exec i s = .next (startCompleting e.val c.val (movePieces e.val c.val a d es t)) ∧
      (es = [] → 0 < tgTotal cmd → exec i s = .next t)) ∧
    (∀ i m a d s1, (i, m) ∈ rows [(er, ew)] → x.busy = true → x.completing = false → tgMode x.cmd = m → x.stop = none →
      tgSrc x.cmd = some a → tgDst x.cmd = some d → x.units < tgTotal x.cmd → fetchOrigin e.val c.val a d s = (s1, true) →
      (nextSeg (chan s1 e.val c.val) a d = none →
        exec i s = .next (startCompleting e.val c.val (advance e.val c.val a d 0 s1))) ∧
      (∀ g, nextSeg (chan s1 e.val c.val) a d = some g →
        let z := pieceAt a d g (chan s1 e.val c.val).pos
        (pieceGate e.val c.val a d g z s1 = .go → turnOf s1 e.val = c.val →
          let r := pieceRead e.val c.val a g z er (takeTurn e.val c.val z.len s1)
          exec i s = .next (startCompleting e.val c.val
            (advance e.val c.val a d z.len (pieceWrite e.val c.val a d g z (pieceBytes a d g z r.2) ew r.1)))) ∧
        (∀ t, pieceGate e.val c.val a d g z s1 = .wait t → exec i s =
          .next (startCompleting e.val c.val (setChan e.val c.val { chan t e.val c.val with stalled := true } t)))))

/-- Commit, abort, host errors, binding and halt of Tongs channels -/
def Obligations.TongsChannelsEnd : Prop :=
  ∀ (e : Fin 24) (c : Fin 64) (s : State), running s = true →
    let x := chan s e.val c.val
    let r := chanReg e.val c.val 0
    let src := tongsSource e.val c.val
    let flag : Prop := tgEvKind x.cmd = 3 ∨ tgEvKind x.cmd = 4
    (x.busy = true → x.completing = true → x.backs ≠ [] → exec (.tongsCommit e c) s = .next (readBacks e.val c.val s)) ∧
    (commitReached s x = true →
      (flag → moverReady s src 4 (nth x.cmd 20 0) 8 true = false →
        exec (.tongsCommit e c) s = .next (moverAsk 4 (nth x.cmd 20 0) 8 true s)) ∧
      ((flag → moverReady s src 4 (nth x.cmd 20 0) 8 true = true) →
        let t := tongsEvent x (journal x.qid x.idx x.tag { state := 2, progress := tgTotal x.cmd, cmode := tgCmode x.cmd } s)
        let u := if tgEvKind x.cmd = 0 then t else pulse (tongsHearth e.val) t
        exec (.tongsCommit e c) s = .next (syncQueue x.qid
          (setChan e.val c.val { abort := (chan u e.val c.val).abort, last := (chan u e.val c.val).last } u)))) ∧
    (∀ tag : BitVec 32, stageFailed s = false →
      let t := setChan e.val c.val { x with abort := none } s
      (x.busy = true → x.tag = tag.toNat → exec (.tongsAbort e c tag) s = .next (chanEnd e.val c.val stAborted t)) ∧
      (¬ (x.busy = true ∧ x.tag = tag.toNat) →
        (queueCmdTag s e.val c.val = some tag.toNat → exec (.tongsAbort e c tag) s = .next (abortQueueCmd e.val c.val tag.toNat t)) ∧
        (queueCmdTag s e.val c.val ≠ some tag.toNat → x.last = some tag.toNat → exec (.tongsAbort e c tag) s =
          .next (setRf (chanReg e.val c.val 0x08) 57 57 1 t)) ∧
        (queueCmdTag s e.val c.val ≠ some tag.toNat → x.last ≠ some tag.toNat → exec (.tongsAbort e c tag) s =
          .next (setChan e.val c.val { x with abort := some tag.toNat } s)))) ∧
    (∀ addr, x.busy = true →
      ((chanHm x).1 = true → exec (.hostAccessError e c addr) s = .next (chanFault e.val c.val 0x270 addr
        (if (chanHm x).2 then satRf (hstReg 0x08) 63 48 1 s else s))) ∧
      ((chanHm x).2 = true → exec (.hmCompletionTimeout e c addr) s = .next (chanFault e.val c.val 0x270 addr
        (satRf (hstReg 0x08) 15 0 1 { s with cfg := { s.cfg with aerTimeout := true } })))) ∧
    (∀ v : Word, stageFailed s = false →
      let en := fieldOf v 63 63
      let q := fieldOf v 19 0
      let refused : Prop := ((en ≠ rf s r 63 63 ∨ q ≠ rf s r 19 0) ∧ chanBusy s e.val c.val = true) ∨
        (en = 1 ∧ boundElsewhere s e.val c.val q = true)
      (refused → exec (.channelBind e c v) s = .next s) ∧
      (¬ refused →
        let t := setRf r 63 63 en (setRf r 55 52 (fieldOf v 55 52) (setRf r 51 48 (fieldOf v 51 48) (setRf r 19 0 q s)))
        let u := if en = 0 then setChan e.val c.val { x with abort := none } t else t
        let sync (q : Nat) (s : State) : State := if (queue s q).ckind = 3 then syncQueue q s else s
        exec (.channelBind e c v) s = .next (sync (rf s r 19 0) (sync q u)))) ∧
    (∀ h : Bool, stageFailed s = false → exec (.tongsHalt e h) s = .next (setRf (tngReg e.val 0) 0 0 (b2n h) s))

/-- Doorbells, index advances, table write-back and fault-ring consumption of the scheduler -/
def Obligations.QueuesAcceptDoorbells : Prop :=
  ∀ (q : BitVec 20) (v : BitVec 32) (s : State), running s = true →
    let k := q.toNat
    let x := queue s k
    let ahead := diff32 v.toNat x.prod
    (stageFailed s = false →
      (x.ckind = 0 → exec (.doorbell q v) s = .next (satRf (qscReg 0x08) 15 0 1 s)) ∧
      (x.ckind ≠ 0 → ahead = 0 ∨ 2 ^ 31 ≤ ahead → exec (.doorbell q v) s = .next s) ∧
      (x.ckind ≠ 0 → 0 < ahead → ahead < 2 ^ 31 → 2 ^ x.lg < diff32 v.toNat x.done → exec (.doorbell q v) s =
        .next (faultRecord { code := 0x202, hearth := consumerHearth x, src := 0xE, d0 := x.prod * 2 ^ 32 + v.toNat, qid := k } s)) ∧
      (x.ckind ≠ 0 → 0 < ahead → ahead < 2 ^ 31 → diff32 v.toNat x.done ≤ 2 ^ x.lg →
        let t := syncQueue k (setQueue k { x with prod := v.toNat } s)
        exec (.doorbell q v) s = .next (if x.ckind = 4 then countUp x.ckey 0 t else t)) ∧
      exec (.faultRingConsume v) s = .next (setRf (qscReg 0x38) 31 0 v.toNat
        { s with fltHearths := s.fltHearths.drop (diff32 v.toNat (rf s (qscReg 0x38) 31 0)) })) ∧
    (∀ core : Fin 68,
      (qadvAllowed s core.val k = true → diff32 v.toNat x.taken ≤ diff32 x.prod x.taken →
        let t := enterTaken k v.toNat (diff32 v.toNat x.taken) x.taken s
        exec (.qadvTaken core q v) s = .next (syncQueue k (setQueue k { queue t k with taken := v.toNat } t))) ∧
      (qadvAllowed s core.val k = true → diff32 v.toNat x.done ≤ diff32 x.prod x.done →
        let passed (c : QCmd) : Bool := decide (diff32 c.idx x.done < diff32 v.toNat x.done)
        let t := overList (softDone k) (x.run.filter (fun c => passed c && !c.jrnl)) s
        let y := queue t k
        let rest := y.run.filter (fun c => !passed c)
        let run := rest.dropWhile (·.jrnl)
        exec (.qadvDone core q v) s = .next (syncQueue k (setQueue k
          { y with run := run, done := if rest.isEmpty then v.toNat else doneAt y.taken run } t))) ∧
      (qadvAllowed s core.val k = false → ∀ i ∈ ([.qadvTaken core q v, .qadvDone core q v] : List Instr), exec i s = .next s)) ∧
    (x.ckind ≠ 0 → exec (.queueTableWriteback q) s = .next (writeBack k s))

/-- NOP, FLAG and WAIT commands are taken, done and journaled as R261 to R280 say -/
def Obligations.NopsFlagsAndWaits : Prop :=
  ∀ (q : BitVec 20) (s : State), running s = true →
    let k := q.toNat
    let x := queue s k
    let h := headHdr s k
    let p := (takeCmd k s).1
    let c := (takeCmd k s).2
    let a := nth c.hdr.words 1 0
    let v := nth c.hdr.words 2 0
    let w3 := nth c.hdr.words 3 0
    let turn : Prop := needSlots s k = false ∧ canTake s k = true
    let free (write : Bool) : Prop := ∀ b, headFlagAddr s k = some b → moverReady s (queueSource x) 4 b 8 write = true
    let unaborted : Prop := c.poison = false ∧ pendingAbort p (queue p k) ≠ some c.tag
    let accepted : Prop := c.hdr.bad = false ∧ classAccepted (queue p k).ckind c.hdr.cls = true
    let ends (j : JEntry) (u : State) : State := journal k (waitOf u k).idx (waitTag u k (waitOf u k)) j (setWait k {} u)
    let judged (u : State) : State :=
      let w := waitOf u k
      let r := memReadNat (schedWho (waitTag u k w)) 4 w.addr 8 (countNp (smStack w.addr) 1 u)
      if r.2.2 then ends { state := 0, status := stPoison } r.1
      else if waitMet w r.2.1 then ends { state := 2, progress := 1 } r.1 else r.1
    (turn → h.cls = 0 ∨ headRejected s k = true →
      (unaborted → accepted → exec (.queueNop q) s = .next (journal k c.idx c.tag { state := 2 } p)) ∧
      (unaborted → ¬ accepted → exec (.queueNop q) s = .next (rejectCmd k c p)) ∧
      (c.poison = true → exec (.queueNop q) s = .next (poisonCmd k c p))) ∧
    (∀ i set, (i, set) ∈ ([(.flagAdd q, false), (.flagSet q, true)] : List (Instr × Bool)) → turn → free true → unaborted → accepted →
      h.cls = 3 → h.bad = false → (h.subop == 1) = set → writesIssued s x = true →
      (c.hdr.subop ≤ 1 → a % 8 = 0 → flagIsPm a = false → addrOk p 4 a 8 = true →
        let f := flagAtPoc (schedWho c.tag) a v set p
        exec i s = .next (journal k c.idx c.tag (if f.2 then { state := 2, progress := 1 } else { state := 0, status := stPoison }) f.1)) ∧
      (c.hdr.subop ≤ 1 → a % 8 = 0 → flagIsPm a = true → addrOk p 6 a 8 = true →
        let pid := a / 2 ^ 48
        let psn := ((link p pid).sendPsn + (link p pid).queued.length) % 2 ^ 32
        exec i s = .next (if pmState p pid = 2 then journal k c.idx c.tag { state := 0, status := stPartnerGone } p
          else sendSeq pid { ty := 0xB, op := b2n set, addr := a % 2 ^ 44, len := 8, tag := c.tag, data := leBytes 8 v }
            { p with pmWait := p.pmWait ++ [⟨pid, psn, k, c.idx, c.tag⟩] })) ∧
      (1 < c.hdr.subop ∨ a % 8 ≠ 0 ∨ addrOk p (if flagIsPm a then 6 else 4) a 8 = false → exec i s = .next (rejectCmd k c p))) ∧
    (∀ i eq, (i, eq) ∈ ([(.waitGe q, false), (.waitEq q, true)] : List (Instr × Bool)) → turn → free false → unaborted → accepted →
      h.cls = 4 → h.bad = false → (h.subop == 1) = eq →
      (c.hdr.subop ≤ 1 → a % 8 = 0 → addrOk p 4 a 8 = true →
        let room := decide (watchesAt p (smStack a) < 4096)
        let w : Wait := { on := true, idx := c.idx, addr := a, value := v, eq := c.hdr.subop == 1, tmo := natBits w3 31 0,
                          tcont := natBit w3 32, start := p.time, watch := room }
        let u := if room then p else satRf (qscReg 0x08) 31 16 1 p
        exec i s = .next (syncQueue k (judged (syncQueue k (setWait k w u))))) ∧
      (1 < c.hdr.subop ∨ a % 8 ≠ 0 ∨ addrOk p 4 a 8 = false → exec i s = .next (rejectCmd k c p))) ∧
    (let w := waitOf s k
     w.on = true →
      (w.bad = true → exec (.waitSatisfied q) s = .next (ends { state := 0, status := stPoison } s)) ∧
      (w.bad = false → w.hit = true → exec (.waitSatisfied q) s = .next (ends { state := 2, progress := 1 } s)) ∧
      (w.watch = false → moverReady s (queueSource x) 4 w.addr 8 false = true → exec (.waitPoll q) s = .next (judged s)) ∧
      (w.tmo ≠ 0 → w.hit = false → w.bad = false → exec (.waitTimeoutExpiry q) s = .next
        (ends { state := if w.tcont then 2 else 0, status := stWaitTimeout } { s with time := max s.time (w.start + 1000 * w.tmo) }))) ∧
    (let named (c : List Nat) : List (Nat × Nat) := c.map (fun p => (p, partyWait s p))
     let found := waitCycles (waitGraph s)
     let longest := found.foldl (fun m c => max m c.length) (rf s (qscReg 0x20) 4 0)
     exec .waitCensus s = .next (setRf (qscReg 0x20) 4 0 longest (bumpRf (qscReg 0x20) 63 32 1
       (overList reportCycle (found.filter (fun c => !s.cycles.contains (named c))) { s with cycles := found.map named }))))

/-- A CANCEL is stamped with the step in flight or the next one, and its outcome is fixed there (R302) -/
def Obligations.CancelsAreStampedWithAStep : Prop :=
  ∀ s : State,
    (∀ (q : BitVec 20) r, CmdReady (.queue q) 0x11 1 s →
      let s1 := cmdStart (.queue q) s
      let c := cmdCaller (.queue q) s
      request s (natBits (nth (queueWords q s) 1 0) 31 0) = some r → terminal r = false →
      s1.prefen = s.prefen ∧
      (s.prefen.step.on = true → prefenAnswers (.cancel q) s
        (updPrefen (fun p => { p with cancels := p.cancels ++ [⟨c, r.tag, s.prefen.step.num⟩] }) s1)) ∧
      (s.prefen.step.on = false →
        let num := (s.prefen.lastStep + 1) % 2 ^ 64
        let t := resultFlush (answer c 2 0 1 false (cancelNow r num false s1))
        prefenAnswers (.cancel q) s t ∧ (request t r.tag).map (fun x => (x.state, x.endStep)) = some (9, num) ∧
          t.prefen.lastStep = s.prefen.lastStep)) ∧
    (∀ (c : Cancel) r, running s = true → stepReady s = true → prefenReady s = true → serialFree s = true → isLead s = true →
      groupFree s = true → groupWhole s = true → (∀ g ∈ memberPositions s, g ∈ s.prefen.step.acked) → c ∈ s.prefen.cancels →
      c.c = s.prefen.step.num → request s c.target = some r → terminal r = false →
      let t := commitStep (prefenStart s)
      prefenAnswers .stepCommit s t ∧ (request t c.target).map (fun x => (x.state, x.endStep)) = some (9, s.prefen.step.num) ∧
        ∀ d ∈ t.prefen.cancels, d.c ≠ s.prefen.step.num)

/-- GENERATE, CANCEL, the stamp and the commit of a step, and retirement act on requests as R287 to R304 say -/
def Obligations.PrefenAdmitsAndCommits : Prop :=
  ∀ (q : BitVec 20) (s : State),
    let s0 := prefenStart s
    let s1 := cmdStart (.queue q) s
    let c := cmdCaller (.queue q) s
    let w := queueWords q s
    (CmdReady (.queue q) 0x10 2 s → s.prefen.requests.length < 65536 →
      let tag := (queueTaken q s).2.tag
      let b := fetchIn (natBits (nth w 7 0) 63 60) (nth w 6 0) 64 s1
      let n := natBits (nth w 3 0) 31 0
      let st := generateStatus b.1 tag w b.2
      let pr := fetchIn (natBits (nth w 3 0) 63 60) (nth w 2 0) (4 * n) b.1
      (st ≠ 0 → prefenAnswers (.generate q) s (refuse c st b.1)) ∧
      (st = 0 → pr.2 = none → prefenAnswers (.generate q) s (refuse c stBadParam pr.1)) ∧
      (∀ l, st = 0 → pr.2 = some l →
        let bad := (tokensOf (l.map (·.1))).any (fun t => decide (pr.1.prefen.build.vocab ≤ t))
        (bad = true → prefenAnswers (.generate q) s (refuse c stBadParam pr.1)) ∧
        (bad = false →
          let sid := natBits (nth w 1 0) 31 0
          let o := if natBit (nth w 1 0) 32 then openSession sid (nth w 8 0) (nth w 9 0) pr.1 else pr.1
          let p := if n = 0 then (o, 0) else placeSm (4 * n) 64 o
          let u := if n = 0 then p.1 else hoodWrite 4 p.2 l p.1
          let r := newRequest u q.toNat tag w ((b.2.getD []).map (·.1)) p.2
          prefenAnswers (.generate q) s (answer c 2 0 n false (updPrefen (fun p => { p with requests := p.requests ++ [r] })
            (setSession { sessionD u sid with aslot := r.aslot, aver := r.aver } u)))))) ∧
    (CmdReady (.queue q) 0x11 1 s →
      let tg := natBits (nth w 1 0) 31 0
      (request s1 tg = none → prefenAnswers (.cancel q) s (answer c 2 stUnknownRequest 0 false s1)) ∧
      (∀ r, request s1 tg = some r → terminal r = true → prefenAnswers (.cancel q) s (answer c 2 0 0 true (markLate r s1)))) ∧
    (∀ cmds tables, running s = true → mayStamp s = true →
      (s.prefen.step.on = false →
        let x := selectRows s0
        let num := (x.1.prefen.lastStep + 1) % 2 ^ 64
        let st : Step := { on := true, num := num, build := x.1.prefen.build.id, rows := x.2, cmds := cmds }
        (x.2 = [] → prefenAnswers (.stepStamp cmds tables) s s0) ∧
        (x.2 ≠ [] → prefenAnswers (.stepStamp cmds tables) s (writeTables num x.2 tables (tellMembers [msgStep, num]
          (overList (enterStep num) x.2 (updPrefen (fun p => { p with step := st, lastStep := num, anchors := [] }) x.1)))))) ∧
      (s.prefen.step.on = true → s.prefen.step.again = true → s.hearths.any (fun e => e.2.reset) = false →
        prefenAnswers (.stepStamp cmds tables) s (stampAgain cmds tables s0))) ∧
    (running s = true → stepReady s = true → prefenReady s = true → serialFree s = true →
      (isLead s = true → groupFree s = true → groupWhole s = true → (∀ g ∈ memberPositions s, g ∈ s.prefen.step.acked) →
        let t := commitStep s0
        prefenAnswers .stepCommit s t ∧ t.prefen.step = {} ∧ (∀ c ∈ t.prefen.cancels, c.c ≠ s.prefen.step.num) ∧
        (∀ row r, s.prefen.step.rows = [row] → s.prefen.requests = [r] → row.req = r.tag → row.session = r.session →
          terminal r = false → s.prefen.cancels = [] → row.invalid = false → (sessionD s r.session).id = r.session →
          tabWf (fun _ => blankSession) s.prefen.sessions = true →
          (sessionD t r.session).len = row.len + row.chunk +
            (if row.samples then (truncated r (row.len + row.chunk) (acceptedOf row)).length else 0))) ∧
      (isLead s = false → prefenAnswers .stepCommit s (sendMsg s.group.lead [msgAck, s.prefen.step.num]
        (updPrefen (fun p => { p with step := {}, anchors := [] }) s0)))) ∧
    (∀ (tag : BitVec 32) r, running s = true → request s tag.toNat = some r →
      let u := ringLook r.ring (2 ^ 32) s0
      (r.finalAt = none → prefenAnswers (.requestRetire tag) s u) ∧
      (∀ i, r.finalAt = some i →
        let ahead := diff32 (ringAt u r.ring).cons i
        (terminal r = false ∨ ahead = 0 ∨ 2 ^ 31 ≤ ahead → prefenAnswers (.requestRetire tag) s u) ∧
        (terminal r = true → 0 < ahead → ahead < 2 ^ 31 →
          let v := updPrefen (fun p => { p with requests := p.requests.filter (fun x => x.tag != r.tag) }) u
          let x := sessionD v r.session
          let closes := (session v r.session).isSome && (r.close || r.lostBillets || x.closeDue)
          let others := (requestsOf v r.session).any (fun q => !terminal q)
          (closes = false → prefenAnswers (.requestRetire tag) s v) ∧
          (closes = true → others = true → prefenAnswers (.requestRetire tag) s (setSession { x with closeDue := true } v)) ∧
          (closes = true → others = false → prefenAnswers (.requestRetire tag) s (closeSession r.session v)))))

/-- Sampling and the messages of a group: what a unit returns, and what each MSG of a partner does when its turn comes -/
def Obligations.GroupMessagesAreTakenInTurn : Prop :=
  ∀ s : State,
    (∀ (a u : Fin 4) (row : Nat) (j : Fin 8) (space : Fin 16) (addr : Nat) (fmt : Fin 16) (dest : Nat) (x : StepRow),
      running s = true → stepRow s row = some x → stoppedAt s (hxAnvil a.val) = false → sparkBusy s a.val u.val = false →
      x.samples = true → x.invalid = false → j.val ≤ x.drafts.length → (∀ e ∈ x.toks, e.1 ≠ j.val) →
      let i : Instr := .sparkSample a u row j space addr fmt dest
      let r : SparkRow := { sparkFor s row j.val with
        anvil := a.val, unit := u.val, space := space.val, addr := addr, fmt := fmt.val, dest := dest }
      let l := readLogits r x.req s
      let infinite := l.2.1.all (fun y => match y.val with | .inf _ => true | _ => false)
      (sparkFmt fmt.val = false → exec i s =
        .next (faultRecord { code := stDescriptor, hearth := hxAnvil a.val, tag := x.req, src := 0xD } s)) ∧
      (sparkFmt fmt.val = true → sparkReach s a.val space.val addr fmt.val dest = true → 4 ≤ (sparkFor s row j.val).unit →
        (l.2.2 = true → exec i s = .next (taintRow r l.1)) ∧
        (l.2.2 = false → inGroup l.1 = false → l.2.1.any badLogit = true ∨ infinite = true → exec i s = .next (invalidRow r l.1)) ∧
        (l.2.2 = false → inGroup l.1 = false → l.2.1.any badLogit = false → infinite = false →
          let t := sampleAlone r x l.2.1 l.1
          exec i s = .next t ∧ sparkAt t row j.val = none ∧ ∃ tok, stepRow t row = some { x with toks := x.toks ++ [(j.val, tok)] }) ∧
        (l.2.2 = false → inGroup l.1 = true →
          let m := (convert .fp32 true .rne (maxLogit l.2.1)).1
          let t := tellMembers [msgSparkMax, row, j.val, m, b2n (l.2.1.any badLogit)] l.1
          exec i s = .next (sparkProgress { r with maxes := r.maxes ++ [(t.group.self, m, l.2.1.any badLogit)] } t)))) ∧
    (∀ key anchor (space : Fin 16) addr, running s = true → (anchorAt s key).place = none → 1 ≤ space.val → space.val ≤ 3 →
      rangeOk space.val addr 2 = true →
      let u := tellMembers [msgAnchor, key, anchor.toNat] s
      let r : AnchorRow := { anchorAt s key with
        vals := (anchorAt s key).vals ++ [(u.group.self, anchor.toNat)], place := some (space.val, addr) }
      let rest := u.prefen.anchors.filter (fun x => x.key != r.key)
      (allIn u (r.vals.map (·.1)) = true → exec (.anchorExchange (.own space addr) key anchor) s = .next (memWriteNat smithWho space.val addr 2
        ((r.vals.map (·.2)).foldl anchorMax 0x8000) (updPrefen (fun p => { p with anchors := rest }) u))) ∧
      (allIn u (r.vals.map (·.1)) = false → exec (.anchorExchange (.own space addr) key anchor) s =
        .next (updPrefen (fun p => { p with anchors := rest ++ [r] }) u))) ∧
    (∀ (pid : Fin 255) g, MsgReady pid.val s →
      let b := msgBegun pid.val s
      let b0 := msgBegun pid.val (prefenStart s)
      let takes (i : Instr) (t : State) : Prop := prefenAnswers i s (msgEnded pid.val t)
      (takes (.groupPulse pid) (if inGroup b0 && isLead b0 && isMember b0 pid.val then countUp 0 2 b0 else b0)) ∧
      (positionOf b pid.val = some g → b.prefen.step.on = true → ∀ row (j : Fin 8),
        (∀ (m : BitVec 32) inv, (∀ e ∈ (sparkFor b row j.val).maxes, e.1 ≠ g) →
          exec (.sparkMaxExchange pid row j m inv) s = .next (msgEnded pid.val (sparkProgress
            { sparkFor b row j.val with maxes := (sparkFor b row j.val).maxes ++ [(g, m.toNat, inv)] } b))) ∧
        (∀ (sum : BitVec 128) cands, (∀ e ∈ (sparkFor b row j.val).sums, e.1 ≠ g) →
          exec (.sparkCandidateExchange pid row j sum cands) s = .next (msgEnded pid.val (sparkProgress
            { sparkFor b row j.val with sums := (sparkFor b row j.val).sums ++ [(g, sum.toNat, cands)] } b)))) ∧
      (∀ key anchor, positionOf b pid.val = some g → (∀ e ∈ (anchorAt b key).vals, e.1 ≠ g) →
        exec (.anchorExchange (.partner pid) key anchor) s = .next (msgEnded pid.val (anchorProgress
          { anchorAt b key with vals := (anchorAt b key).vals ++ [(g, anchor.toNat)] } b))) ∧
      (∀ status, takes (.memberAck pid (.group status)) (groupReport pid.val status b0)) ∧
      (∀ num, takes (.memberAck pid (.again num)) (updPrefen (fun p =>
        if p.step.on && p.step.num == num then { p with step := { p.step with again := true } } else p) b0)) ∧
      (positionOf b0 pid.val = some g →
        (∀ num origins lost,
          let st := b0.prefen.step
          (st.on = true → st.num = num → st.again = false →
            takes (.memberAck pid (.step num origins lost)) (updPrefen (fun p => { p with step := { st with
              acked := if st.acked.contains g then st.acked else st.acked ++ [g],
              tainted := st.tainted || !origins.isEmpty || !lost.isEmpty, lost := st.lost ++ lost,
              origins := st.origins ++ origins.map (fun o => (g, o.1, o.2.1, o.2.2)) } }) b0)) ∧
          (st.on = false ∨ st.num ≠ num ∨ st.again = true → takes (.memberAck pid (.step num origins lost)) b0)) ∧
        (∀ v, takes (.memberAck pid (.status v)) (updGroup (fun y => { y with status := tabSet 0 y.status g (v % 2 ^ 64) }) b0)) ∧
        (∀ tag, takes (.memberAck pid (.command tag)) (opReport g tag 0 0 0 0 0 b0)) ∧
        (∀ tag status cs co ns no, takes (.memberAck pid (.op tag status cs co ns no)) (opReport g tag status cs co ns no b0)))) ∧
    (MsgReady s.group.lead s → inGroup s = true → isLead s = false →
      let b := msgBegun s.group.lead (prefenStart s)
      (∀ f, prefenAnswers (.forwardedCommand f) s (msgEnded s.group.lead (memberShare f b))) ∧
      (∀ num rows cmds tables,
        let u := overList prepareRow rows b
        let same := decide (u.prefen.step.num = num)
        let st : Step := { on := true, num := num, build := u.prefen.build.id, rows := rows, cmds := cmds,
                           execs := if same then u.prefen.step.execs + 1 else 1,
                           repaired := if same then u.prefen.step.repaired else [] }
        prefenAnswers (.stepForward num rows cmds tables) s (msgEnded s.group.lead (writeTables num rows tables
          (updPrefen (fun p => { p with step := st, lastStep := num, sparks := [], anchors := [] }) u)))))

/-- Park, resume, close, export, import and the billet CRC engine act on sessions as R332 to R342 and R362 say -/
def Obligations.SessionsParkAndMove : Prop :=
  ∀ (src : CmdSrc) (s : State),
    let s0 := prefenStart s
    let s1 := cmdStart src s
    let c := cmdCaller src s
    let w := cmdWords src s
    let sid := natBits (nth w 0 0) 31 0
    let space := natBits (nth w 2 0) 63 60
    let a := nth w 1 0
    (session s1 sid = none → ∀ i op, (i, op) ∈ ([(.park src, 0x13), (.resume src, 0x14), (.close src, 0x15), (.exportCmd src, 0x16)] :
      List (Instr × Nat)) → CmdReady src op 1 s → prefenAnswers i s (refuse c stSessionUnknown s1)) ∧
    (∀ x, session s1 sid = some x →
      (CmdReady src 0x13 1 s → prefenAnswers (.park src) s
        (if x.parked then answer c 2 0 0 false s1 else holdOp c 0x13 w false [] s1)) ∧
      (CmdReady src 0x14 1 s →
        let p := if x.parked && !moving s1 sid then ingotPasses x s1 else (s1, true)
        let st := resumeStatus p.1 x p.2 (natBit (nth w 0 0) 32)
        (st ≠ 0 → prefenAnswers (.resume src) s (refuse c st p.1)) ∧
        (st = 0 → memberPositions p.1 = [] → prefenAnswers (.resume src) s (answer c 2 0 1 false (resumeSession sid p.1))) ∧
        (st = 0 → memberPositions p.1 ≠ [] → prefenAnswers (.resume src) s
          (tellMembers ([msgForward, callerKey c, 0x14] ++ w) (holdOp c 0x14 w true (memberPositions p.1) p.1)))) ∧
      (CmdReady src 0x15 1 s →
        let u := setSession { x with closing := true } s1
        let busy := sessionOps s1 sid || !(requestsOf s1 sid).isEmpty
        (busy = true → prefenAnswers (.close src) s (refuse c stSessionBusy s1)) ∧
        (busy = false → memberPositions u = [] → prefenAnswers (.close src) s (answer c 2 0 1 false (closeSession sid u))) ∧
        (busy = false → memberPositions u ≠ [] → prefenAnswers (.close src) s
          (tellMembers ([msgForward, callerKey c, 0x15] ++ w) (holdOp c 0x15 w true (memberPositions u) u)))) ∧
      (CmdReady src 0x16 1 s →
        let st := exportStatus s1 x w
        let u := imageWrite space (a + 1016) (cleanBytes (leBytes 8 0)) (acceptOp c 0x16 w (memberPositions s1) s1)
        let e := exportShare sid space a (heldPrompt (heldOf u sid)) u
        (st ≠ 0 → prefenAnswers (.exportCmd src) s (refuse c st s1)) ∧
        (∀ o, st = 0 → e.1.prefen.ops[s1.prefen.ops.length]? = some o → prefenAnswers (.exportCmd src) s
          (tellMembers [msgExport, o.tag, sid, space, a]
            (setOp { o with crcS := e.2.1, crcO := e.2.2.1, numS := e.2.2.2.1, numO := e.2.2.2.2 } e.1))))) ∧
    (∀ far, CmdReady src 0x17 1 s →
      let l := imageRead far space a 0 1024 s1
      let m := imageInfo l.2
      let st := importStatus l.1 w m
      let start := startStack l.1
      let sh := importShare far space a m sid start l.1
      let reach := (space == 4 || space == 5 || space == 6) && addrOk s1 space a 1024
      (reach = false → prefenAnswers (.importCmd src far) s (refuse c stBadParam s1)) ∧
      (reach = true → st ≠ 0 → prefenAnswers (.importCmd src far) s (refuse c st l.1)) ∧
      (reach = true → st = 0 → sh.2 = none → prefenAnswers (.importCmd src far) s (refuse c stNoMemory sh.1)) ∧
      (∀ cs co ns no ok, reach = true → st = 0 → sh.2 = some (cs, co, ns, no, ok) →
        let p := if m.prompt = 0 then (sh.1, 0) else placeSm (4 * m.prompt) 64 sh.1
        let k := if m.prompt = 0 then (p.1, []) else imageRead far space a 1024 (4 * m.prompt) p.1
        let u := hoodWrite 4 p.2 k.2 k.1
        let ring := if natBit (nth w 0 0) 33 then natBits (nth w 3 0) 15 0 else m.held.ring
        let held : Option Request :=
          if m.hasHeld then some { m.held with session := sid, ring := ring, promptAt := p.2, lastStep := u.prefen.lastStep } else none
        let v := acceptOp c 0x17 (w ++ List.replicate (8 - w.length) 0 ++ [m.crcS, m.crcO, m.numS, m.numO]) (memberPositions u) u
        ∀ o, v.prefen.ops[u.prefen.ops.length]? = some o → prefenAnswers (.importCmd src far) s
          (tellMembers [msgExport, o.tag, sid, space, a, start]
            (setOp { o with crcS := cs, crcO := co, numS := ns, numO := no, failed := if ok then 0 else stCrcMismatch,
                            placed := some (sessionD v sid), held := held } v)))) ∧
    (∀ (id : BitVec 32) o x, running s = true → prefenReady s = true → groupFree s = true →
      s.prefen.ops.find? (fun o => o.op == 0x13 && !o.accepted && opSession o == id.toNat) = some o → inStep s id.toNat = false →
      s.prefen.cancels.any (fun c => (requestsOf s id.toNat).any (fun r => r.tag == c.target)) = false →
      session s id.toNat = some x → x.parked = false →
      let h := holdRequests id.toNat (setSession { x with parking := true } s0)
      let o1 := { o with accepted := true, awaits := memberPositions h }
      (memberPositions h = [] →
        let t := parkCommit o1 (setOp o1 h)
        prefenAnswers (.parkAccept id) s t ∧
        (x.id = id.toNat → tabWf (fun _ => blankSession) s.prefen.sessions = true →
          (session t id.toNat).map (·.parked) = some true ∧
          (∀ r ∈ t.prefen.requests, r.session = id.toNat → terminal r = true ∨ r.state = 4) ∧ ∀ y ∈ t.prefen.ops, y.tag ≠ o.tag)) ∧
      (memberPositions h ≠ [] → prefenAnswers (.parkAccept id) s
        (tellMembers [msgPark, o.tag, id.toNat, x.len, x.step] (setOp o1 h)))) ∧
    (∀ tag (id : BitVec 32) len step held, MsgReady s.group.lead s → isLead s = false →
      let lead := s.group.lead
      let b := msgBegun lead s0
      (session b id.toNat = none → prefenAnswers (.parkForward tag id len step held) s
        (msgEnded lead (sendMsg b.group.lead [msgAck, tag, stSessionUnknown] b))) ∧
      (∀ x, session b id.toNat = some x →
        let u := sealDue id.toNat (setSession { x with len := len, step := step, modules := b.group.modules } b)
        let v := setSession { sessionD u id.toNat with parked := true } u
        prefenAnswers (.parkForward tag id len step held) s
          (msgEnded lead (sendMsg v.group.lead [msgAck, tag, 0] (writeIngot id.toNat held v))))) ∧
    (∀ (tag : BitVec 32) o, running s = true → prefenReady s = true → groupFree s = true → o.awaits = [] →
      (s.prefen.ops.find? (fun o => o.op == 0x16 && o.tag == tag.toNat) = some o →
        (o.failed ≠ 0 → prefenAnswers (.exportCommit tag) s (endOp o o.failed 0 false s0)) ∧
        (∀ x, o.failed = 0 → session s (opSession o) = some x →
          let sp := natBits (nth o.words 2 0) 63 60
          let at_ := nth o.words 1 0
          let held := heldOf s0 x.id
          let n := heldPrompt held
          let p := if n = 0 then (s0, []) else hoodRead 4 ((held.map (·.promptAt)).getD 0) (4 * n) s0
          let u := imageWrite sp (at_ + 1024) (p.2 ++ cleanBytes (leBytes (promptBytes n - 4 * n) 0)) p.1
          let head := imageHead u x o
          prefenAnswers (.exportCommit tag) s (endOp o 0 0 false (imageWrite sp (at_ + 1016) (cleanBytes (leBytes 8 (2 ^ 32 + crc32 head)))
            (imageWrite sp at_ (cleanBytes head) u))))) ∧
      (s.prefen.ops.find? (fun o => o.op == 0x17 && o.tag == tag.toNat) = some o →
        let sums := o.crcS == nth o.words 8 0 && o.crcO == nth o.words 9 0 && o.numS == nth o.words 10 0 && o.numO == nth o.words 11 0
        (o.failed ≠ 0 → prefenAnswers (.importCommit tag) s (importUndo o o.failed s0)) ∧
        (o.failed = 0 → sums = false → prefenAnswers (.importCommit tag) s (importUndo o stCrcMismatch s0)) ∧
        (o.failed = 0 → sums = true → o.second = true ∨ memberPositions s = [] → prefenAnswers (.importCommit tag) s (importFinish o s0)) ∧
        (o.failed = 0 → sums = true → o.second = false → memberPositions s ≠ [] → prefenAnswers (.importCommit tag) s
          (tellMembers [msgPark, o.tag, opSession o] (setOp { o with second := true, awaits := memberPositions s } s0))))) ∧
    (∀ (n : Fin 20) (v : Word), running s = true →
      let r := stkReg n.val 0x180
      let d16 := fieldOf v 55 48
      let base := rf s (stkReg n.val 0x188) 43 0
      let u := setRf r 55 48 d16 s0
      let may : Prop := rf u r 63 63 = 0 ∧ 2 ≤ d16 ∧ d16 ≤ 15 ∧ billetBaseOk n.val (16 * d16) base = true
      (fieldOf v 0 0 = 0 → prefenAnswers (.billetCrc n v) s u) ∧
      (fieldOf v 0 0 = 1 → may → prefenAnswers (.billetCrc n v) s
        (setRf r 63 62 2 { u with crcJobs := tabSet (0, 0) u.crcJobs n.val (base, d16) })) ∧
      (fieldOf v 0 0 = 1 → ¬ may → prefenAnswers (.billetCrc n v) s (setRf r 62 62 1 u)) ∧
      (rf s r 63 63 = 1 →
        let job := tabGet (0, 0) s.crcJobs n.val
        let k := billetCrc job.1 (16 * job.2) s0
        let t := setRf r 63 63 0 { k.1 with crcJobs := tabSet (0, 0) k.1.crcJobs n.val (0, 0) }
        (∀ j < ceilDiv (64 + 1024 * (16 * job.2)) 2048, moverReady s (crcSource n.val) 4 (job.1 + j * 0x100000) 2048 false = true) →
        prefenAnswers (.billetCrcDone n) s (match k.2 with
          | some x => setRg (stkReg n.val 0x190) (BitVec.ofNat 64 x) t
          | none => setRf r 62 62 1 t)))

/-- A mailbox takes doorbells and requests as R345 to R355 say -/
def Obligations.MailboxHandshake : Prop :=
  ∀ (m : Fin 16) (v : Word) (s : State), running s = true →
    let st := mbReg m.val 8
    let x := mbox s m.val
    let plen := natBits (rg s (mbReg m.val 0x400)).toNat 47 32
    let req := (List.range (min 128 (2 + (plen + 7) / 8))).map (fun k => (rg s (mbReg m.val (0x400 + 8 * k))).toNat)
    (linkUp s = true → hostBars s = true → stageFailed s = false →
      (rf s (smcReg 0) 31 31 = 0 → exec (.mailboxDoorbell m v) s = .next (setRf st 58 58 1 s)) ∧
      (rf s (smcReg 0) 31 31 = 1 → mbState s m.val = 1 → exec (.mailboxDoorbell m v) s = .next (setRf st 59 59 1 s)) ∧
      (rf s (smcReg 0) 31 31 = 1 → mbState s m.val ≠ 1 → exec (.mailboxDoorbell m v) s =
        .next (updPrefen (fun p => { p with arrivals := p.arrivals + 1 })
          (setMbox m.val { x with rung := true, rungSeq := fieldOf v 31 0, order := s.prefen.arrivals } s)))) ∧
    (prefenReady s = true → firstRung s = some m.val →
      let t := setRf st 31 0 x.rungSeq (setRf st 63 60 1 (setMbox m.val { x with rung := false, taken := true, req := req } (prefenStart s)))
      let bad := commonStatus t req
      (bad = 0 → prefenAnswers (.mailboxTake m) s t) ∧ (bad ≠ 0 → prefenAnswers (.mailboxTake m) s (respond m.val bad [] t))) ∧
    (linkUp s = true → hostBars s = true →
      let t := setRf (smcReg 8) 63 48 (fieldOf v 63 48) s
      (fwStage t ≠ 2 → exec (.hostIfWrite v) s = .next t) ∧
      (fwStage t = 2 → exec (.hostIfWrite v) s = .next (setRf (smcReg 0) 31 30 (if fieldOf v 63 56 = 4 then 2 else 1) t)))

/-- The commands that ask answer with the words R358 to R365 give -/
def Obligations.MailboxQueriesAnswer : Prop :=
  ∀ (m : Fin 16) (s : State),
    let c : Caller := .mailbox m.val
    let s1 := cmdStart (.mailbox m) s
    let w := cmdWords (.mailbox m) s
    let w0 := nth w 0 0
    let b := s1.prefen.build
    let g := s1.group
    let fw := smcReg 0
    let slot := natBits w0 15 0
    let n := natBits w0 31 16
    let id := natBits w0 31 0
    let does (i : Instr) (op : Nat) (t : State) : Prop := CmdReady (.mailbox m) op 1 s → prefenAnswers i s t
    let asks (i : Instr) (op : Nat) (words : List Nat) : Prop := does i op (respond m.val 0 words s1)
    asks (.mbNop m) 0x01 [] ∧
    asks (.version m) 0x02 [rf s1 fw 55 48 * 2 ^ 56 + rf s1 fw 47 40 * 2 ^ 48 + rf s1 fw 39 32 * 2 ^ 40 +
      (tabGet ({} : Image) s1.flash s1.runSlot).build % 2 ^ 32, 0xB0B0, b2n Config.sample, Config.serial.toNat] ∧
    (g.gen % 2 = 0 → 1 ≤ n → n ≤ 64 → slot + n ≤ 512 →
      asks (.hearthTable m) 0x03 (g.gen :: (upFrom slot n).map (hearthEntry s1))) ∧
    (g.gen % 2 = 0 → n = 0 ∨ 64 < n ∨ 512 < slot + n → does (.hearthTable m) 0x03 (refuse c stBadParam s1)) ∧
    asks (.modelQuery m) 0x42 [b.id, (if b.state = 2 then 2 else if s1.prefen.loading then 1 else 0) * 2 ^ 60 + b2n b.exact, b.vocab,
      b.layers * 2 ^ 48 + b.heads * 2 ^ 32 + b.d * 2 ^ 16 + b.fmt] ∧
    (slot < 4096 → asks (.adapterQuery m) 0x52 ((adapter s1 slot).current :: (List.range 4).map (fun k =>
      match (adapter s1 slot).versions[k]? with | some v => v.num * 2 ^ 32 + pins s1 slot v.num | none => 0))) ∧
    (4096 ≤ slot → does (.adapterQuery m) 0x52 (refuse c stBadParam s1)) ∧
    (∀ x, session s1 id = some x → asks (.sessionQuery m) 0x18 [x.len * 2 ^ 32 + sessionState s1 x * 2 ^ 24 + x.slot,
      s1.prefen.ingotTable, x.build, x.aslot * 2 ^ 48 + x.aver, x.step, (requestsOf s1 id).length % 2 ^ 16]) ∧
    (session s1 id = none → does (.sessionQuery m) 0x18 (refuse c stSessionUnknown s1)) ∧
    (∀ r, request s1 id = some r → asks (.requestQuery m) 0x19 [r.session * 2 ^ 32 + r.state, r.generated,
      if terminal r then r.endStep else r.lastStep]) ∧
    (request s1 id = none → does (.requestQuery m) 0x19 (refuse c stUnknownRequest s1)) ∧
    asks (.groupQuery m) 0x72 ((g.modules + g.self * 2 ^ 8 + g.lead * 2 ^ 16) :: (List.range 8).map (fun k =>
      leNat ((List.range 8).map (fun j => BitVec.ofNat 8 (nth ((g.members.drop 1).take 63) (8 * k + j) 0))))) ∧
    (let fits := ringRecordOk w0 (nth w 1 0) (nth w 2 0) (nth w 3 0)
     (fits = true → does (.eventRing m) 0x04 (eventFlush (respond m.val 0 []
       (updPrefen (fun p => { p with evRing := ringOf w0 (nth w 1 0) (nth w 2 0) }) s1)))) ∧
     (fits = false → does (.eventRing m) 0x04 (refuse c stBadParam s1))) ∧
    (let fits := ringRecordOk (nth w 1 0) (nth w 2 0) (nth w 3 0) (nth w 4 0)
     let used := (ringAt s1 slot).on || ringNamed s1 slot
     (fits = true → used = false → does (.ringRegister m) 0x68
       (respond m.val 0 [] (setRing slot (ringOf (nth w 1 0) (nth w 2 0) (nth w 3 0)) s1))) ∧
     (fits = false → does (.ringRegister m) 0x68 (refuse c stBadParam s1)) ∧
     (fits = true → used = true → does (.ringRegister m) 0x68 (refuse c stRingInUse s1))) ∧
    ((ringAt s1 slot).on = true → ringNamed s1 slot = false →
      does (.ringUnregister m) 0x69 (respond m.val 0 [] (setRing slot {} s1))) ∧
    ((ringAt s1 slot).on = true → ringNamed s1 slot = true → does (.ringUnregister m) 0x69 (refuse c stRingInUse s1)) ∧
    ((ringAt s1 slot).on = false → does (.ringUnregister m) 0x69 (refuse c stBadRing s1))

/-- Model, adapter and queue commands change what they name as R269, R271, R298, R299 and R359 to R361 say -/
def Obligations.ModelsAdaptersAndQueues : Prop :=
  ∀ (m : Fin 16) (s : State),
    let c : Caller := .mailbox m.val
    let s0 := prefenStart s
    let s1 := cmdStart (.mailbox m) s
    let w := cmdWords (.mailbox m) s
    let slot := natBits (nth w 0 0) 15 0
    let q := natBits (nth w 0 0) 19 0
    let does (i : Instr) (op : Nat) (t : State) : Prop := CmdReady (.mailbox m) op 1 s → prefenAnswers i s t
    let refuses (i : Instr) (op st : Nat) : Prop := does i op (refuse c st s1)
    (let space := natBits (nth w 1 0) 63 60
     let known := space == 4 || space == 5
     let dead := (List.range 20).any (stackDead s1)
     (known = false → refuses (.modelLoad m) 0x40 stBadParam) ∧ (known = true → dead = true → refuses (.modelLoad m) 0x40 stStackFailed) ∧
     (known = true → dead = false → s1.prefen.loading = true → refuses (.modelLoad m) 0x40 stModelInUse) ∧
     (known = true → dead = false → s1.prefen.loading = false → does (.modelLoad m) 0x40
       (acceptOp c 0x40 w [] (updPrefen (fun p => { p with loading := true }) s1)))) ∧
    (∀ (tag : BitVec 32) o mp, running s = true → s.prefen.ops.find? (fun o => o.op == 0x40 && o.tag == tag.toNat) = some o →
      prefenReady s = true → groupFree s = true → o.awaits = [] → s.prefen.step.on = false → mp.any (fun e => swgBusy s e.1.val) = false →
      let adopts (b : Build) (u : State) : State := endOp o 0 0 false (updPrefen (fun p => { p with build := b, loading := false }) u)
      let fails (st : Nat) (u : State) : State := endOp o st 0 false (updPrefen (fun p => { p with loading := false }) u)
      (∀ b, o.built = some b → prefenAnswers (.modelLoadCommit tag mp) s (if o.failed = 0 then adopts b s0 else fails o.failed s0)) ∧
      (o.built = none → natBits (nth o.words 1 0) 63 60 ≠ 5 ∨ hmOpen s 0 = true →
        let l := loadBuild o.words s0
        (∀ st, l.2 = .error st → prefenAnswers (.modelLoadCommit tag mp) s (fails st l.1)) ∧
        (∀ b, l.2 = .ok b →
          let u := writePrograms mp l.1
          (memberPositions u = [] → prefenAnswers (.modelLoadCommit tag mp) s (adopts b u)) ∧
          (memberPositions u ≠ [] → prefenAnswers (.modelLoadCommit tag mp) s
            (tellMembers [msgForward, o.tag, 0x40] (setOp { o with built := some b, awaits := memberPositions u } u)))))) ∧
    (let free := s1.prefen.build.state == 2
     (free = false → refuses (.modelUnload m) 0x41 stNoModel) ∧
     (free = true → s1.prefen.sessions ≠ [] → refuses (.modelUnload m) 0x41 stModelInUse) ∧
     (free = true → s1.prefen.sessions = [] → memberPositions s1 = [] →
       does (.modelUnload m) 0x41 (respond m.val 0 [] (updPrefen (fun p => { p with build := {} }) s1))) ∧
     (free = true → s1.prefen.sessions = [] → memberPositions s1 ≠ [] → does (.modelUnload m) 0x41
       (tellMembers ([msgForward, callerKey c, 0x41] ++ w) (holdOp c 0x41 w true (memberPositions s1) s1)))) ∧
    (let space := natBits (nth w 2 0) 63 60
     let known := decide (slot < 4096) && (space == 4 || space == 5)
     (known = false → refuses (.adapterLoad m) 0x50 stBadParam) ∧
     (known = true → s1.prefen.build.state ≠ 2 → refuses (.adapterLoad m) 0x50 stNoModel) ∧
     (known = true → s1.prefen.build.state = 2 → 4 ≤ (adapter s1 slot).versions.length → refuses (.adapterLoad m) 0x50 stAdapterBusy) ∧
     (known = true → s1.prefen.build.state = 2 → (adapter s1 slot).versions.length < 4 →
       does (.adapterLoad m) 0x50 (acceptOp c 0x50 w [] s1))) ∧
    (∀ (tag : BitVec 32) (r : AdapterEnd) ts o, running s = true →
      s.prefen.ops.find? (fun o => o.op == 0x50 && o.tag == tag.toNat) = some o →
      prefenReady s = true → groupFree s = true → serialFree s = true →
      let k := natBits (nth o.words 0 0) 15 0
      let image := nth o.words 1 0
      let sp := natBits (nth o.words 2 0) 63 60
      let n := natBits (nth o.words 2 0) 31 0
      let l := ts.map (adapterTensor sp image)
      let ends (st : Nat) (u : State) : Prop := prefenAnswers (.adapterPublish tag r) s (endOp o st 0 false u)
      let beyond := ts.any (fun e => decide (n < e.2.1 + e.2.2))
      (r = .bad → ends stManifestBad s0) ∧ (r = .full → ends stNoMemory s0) ∧
      (∀ t, r = .placed ts → l.find? (fun t => tensorStatus s0 t != 0) = some t → ends (tensorStatus s0 t) s0) ∧
      (r = .placed ts → l.find? (fun t => tensorStatus s0 t != 0) = none → sp ≠ 5 ∨ hmOpen s 0 = true →
        (beyond = true → ends stManifestBad s0) ∧
        (beyond = false → (loadAdapter sp l s0).2 = none → ends stManifestBad (loadAdapter sp l s0).1) ∧
        (∀ l', beyond = false → (loadAdapter sp l s0).2 = some l' →
          let u := (loadAdapter sp l s0).1
          let v := nextVersion (adapter u k).current
          let ver : Version := { num := v, image := image, space := sp, bytes := n, tensors := l' }
          prefenAnswers (.adapterPublish tag r) s (endOp o 0 v false
            (setAdapter k { versions := (adapter u k).versions ++ [ver], current := v } u))))) ∧
    (let l := (adapter s1 slot).versions
     let pinned := l.any (fun v => pins s1 slot v.num != 0)
     (4096 ≤ slot → refuses (.adapterRemove m) 0x51 stBadParam) ∧
     (slot < 4096 → l = [] → refuses (.adapterRemove m) 0x51 stAdapterAbsent) ∧
     (slot < 4096 → l ≠ [] → pinned = true → refuses (.adapterRemove m) 0x51 stAdapterPinned) ∧
     (slot < 4096 → l ≠ [] → pinned = false → does (.adapterRemove m) 0x51 (respond m.val 0 [] (setAdapter slot {} s1)))) ∧
    (let w2 := nth w 4 0
     let start := natBits (nth w 1 0) 31 0
     let r := chanReg (natBits w2 31 0 / 64) (natBits w2 31 0 % 64) 0
     let fits := queueRecordOk (nth w 2 0) (nth w 3 0) w2
     let taken := natBits w2 50 48 == 3 && rf s1 r 63 63 == 1 && rf s1 r 19 0 != q
     let u := enableQueue q start (nth w 2 0) (nth w 3 0) w2 s1
     (fits = false → refuses (.queueEnable m) 0x60 stBadParam) ∧
     (fits = true → (queue s1 q).ckind ≠ 0 → refuses (.queueEnable m) 0x60 stQueueState) ∧
     (fits = true → (queue s1 q).ckind = 0 → taken = true → refuses (.queueEnable m) 0x60 stChannelBusy) ∧
     (fits = true → (queue s1 q).ckind = 0 → taken = false → does (.queueEnable m) 0x60 (respond m.val 0 [] u)) ∧
     (fits = true → natBits w2 50 48 ≠ 3 → tabWf (fun _ => ({} : Queue)) s.queues = true →
       let y := queue u q
       y.ringBase = nth w 2 0 ∧ y.jrnlBase = nth w 3 0 ∧ y.ckind = natBits w2 50 48 ∧ y.ckey = natBits w2 31 0 ∧
         y.prod = start ∧ y.taken = start ∧ y.done = start ∧ y.stopped = false ∧ ∀ k, k ≠ q → queue u k = queue s k)) ∧
    (let x := queue s1 q
     let r := chanReg (x.ckey / 64) (x.ckey % 64) 0
     let u := disableQueue q s1
     let u' := if x.ckind = 3 then channelBind (x.ckey / 64) (x.ckey % 64) (withField (rg u r) 63 63 0) u else u
     (qstate s1 q = 0 → refuses (.queueDisable m) 0x61 stQueueState) ∧
     (qstate s1 q ≠ 0 → qstate s1 q ≠ 1 → qstate s1 q ≠ 4 → refuses (.queueDisable m) 0x61 stQueueBusy) ∧
     (qstate s1 q = 1 ∨ qstate s1 q = 4 → does (.queueDisable m) 0x61 (respond m.val 0 [] u'))) ∧
    (qstate s1 q ≠ 4 → refuses (.queueResume m) 0x62 stQueueState ∧ refuses (.queueFlush m) 0x63 stQueueState) ∧
    (qstate s1 q = 4 →
      let x := queue s1 q
      let f := flushQueue q x.prod (diff32 x.prod x.taken) 0 s1
      does (.queueResume m) 0x62 (respond m.val 0 [] (syncQueue q (setQueue q { x with stopped := false } s1))) ∧
      does (.queueFlush m) 0x63 (respond m.val 0 [f.2] (syncQueue q f.1)))

/-- GROUP_FORM and GROUP_DISSOLVE on the lead, a member's part in them, and how a group ends on a member and on its lead -/
def Obligations.GroupsFormAndDissolve : Prop :=
  ∀ s : State,
    let s0 := prefenStart s
    (∀ m : Fin 16,
      let c : Caller := .mailbox m.val
      let s1 := cmdStart (.mailbox m) s
      let w := cmdWords (.mailbox m) s
      let n := natBits (nth w 0 0) 7 0
      let busy := inGroup s1 || s1.group.phase != 0 || s1.group.gen % 2 == 1
      let used := s1.prefen.build.state != 0 || s1.prefen.loading || !s1.prefen.sessions.isEmpty
      let forms (t : State) : Prop := CmdReady (.mailbox m) 0x70 1 s → prefenAnswers (.groupForm m) s t
      let dissolves (t : State) : Prop := CmdReady (.mailbox m) 0x71 1 s → prefenAnswers (.groupDissolve m) s t
      (n < 2 ∨ 64 < n → forms (refuse c stBadParam s1)) ∧
      (2 ≤ n → n ≤ 64 → busy = true → forms (refuse c stGroupBusy s1)) ∧
      (2 ≤ n → n ≤ 64 → busy = false → used = true → forms (refuse c stModelInUse s1)) ∧
      (2 ≤ n → n ≤ 64 → busy = false → used = false →
        let u := acceptOp c 0x70 w [] s1
        let st := formStatus u (formIds w n) (formRest w n)
        (st = 0 → forms (startGroup true (formIds w n) (selfId u :: formIds w n) u)) ∧
        (∀ o, st ≠ 0 → opByTag u (lastOpTag u) = some o → forms (endOp o st 0 false u))) ∧
      (inGroup s1 = false → dissolves (refuse c stNotLead s1)) ∧
      (inGroup s1 = true → s1.group.phase ≠ 0 → dissolves (refuse c stGroupBusy s1)) ∧
      (inGroup s1 = true → s1.group.phase = 0 → s1.prefen.holdSince = none → s1.prefen.sessions ≠ [] → dissolves (refuse c stModelInUse s1)) ∧
      (inGroup s1 = true → s1.group.phase = 0 → s1.prefen.holdSince.isSome = true ∨ s1.prefen.sessions = [] →
        let u := acceptOp c 0x71 w [] (if s1.prefen.holdSince.isSome then failGroup s1 else s1)
        let want := (otherMembers u).filter (fun pid => ptState u pid == 1)
        (want = [] → dissolves (groupFinish (updGroup (fun g => { g with opTag := lastOpTag u, forming := false }) u))) ∧
        (want ≠ [] → dissolves (startGroup false want [] u)))) ∧
    (∀ pid : Fin 255, MsgReady pid.val s →
      let b := msgBegun pid.val s0
      let takes (i : Instr) (t : State) : Prop := prefenAnswers i s (msgEnded pid.val t)
      let no (st : Nat) : State := sendMsg pid.val [msgAck, msgGroup, st] b
      (∀ members, b.group.gen % 2 = 1 ∨ b.group.phase ≠ 0 → takes (.groupPrepare pid members) (no stGroupBusy)) ∧
      (b.group.gen % 2 = 0 → b.group.phase = 0 →
        (takes (.groupPrepare pid []) (if inGroup b && b.group.lead == pid.val && !isLead b then
          sendMsg pid.val [msgAck, msgGroup, 0] (writeEntries [] 0 0xFF 0 b) else no stGroupBusy)) ∧
        (∀ members, members ≠ [] →
          let self := (List.range members.length).find? (fun k => nth members k 0xFF == selfId b)
          let used := inGroup b || b.prefen.build.state != 0 || !b.prefen.sessions.isEmpty
          let absent := (members.filter (fun p => p != selfId b)).any (fun p => ptState b p != 1)
          (self = none ∨ used = true → takes (.groupPrepare pid members) (no stGroupBusy)) ∧
          (self ≠ none → used = false → absent = true → takes (.groupPrepare pid members) (no stPartnerAbsent)) ∧
          (∀ k, self = some k → used = false → absent = false → takes (.groupPrepare pid members)
            (sendMsg pid.val [msgAck, msgGroup, 0] (writeEntries members k pid.val 0 b))))) ∧
      (∀ ggen,
        let u := updGroup (fun g => { g with ggen := if 2 ≤ g.modules then ggen else 0 }) (settleEntries b)
        (b.group.gen % 2 = 0 → takes (.groupCommit pid ggen) b) ∧
        (b.group.gen % 2 = 1 → takes (.groupCommit pid ggen)
          (sendMsg pid.val [msgAck, msgGroup, 0] (if inGroup u then u else closeAll (failRequests 0x260 u))))) ∧
      (takes (.groupAbandon pid) (if !b.group.prepared then b else if b.group.gen % 2 = 1 then restoreEntries b
        else restoreEntries (updGroup (fun g => { g with gen := g.gen + 1 }) b))) ∧
      (takes (.groupLeave pid) (if inGroup b && !isLead b && b.group.lead == pid.val then leaveGroup b else b))) ∧
    (running s = true → inGroup s = true →
      let ended (t : State) : Prop := t.prefen.holdSince = none ∧ t.prefen.step = {} ∧ t.prefen.sessions = [] ∧
        ∀ r ∈ t.prefen.requests, terminal r = true
      (isLead s = true → s.prefen.holdSince.isSome = true →
        prefenAnswers .partnerLossHoldExpiry s (failGroup s0) ∧ ended (failGroup s0)) ∧
      (s.group.leadLost = true →
        prefenAnswers .leadLossExpiry s (leaveGroup s0) ∧ ended (leaveGroup s0) ∧ (leaveGroup s0).group.modules = 1))

/-- Sleep and wake, resets, ECC_TEST, firmware update and poison recovery do what R343, R364, R417, R440 to R443, R447 and R490 say -/
def Obligations.MaintenanceCommands : Prop :=
  ∀ (m : Fin 16) (s : State), running s = true →
    let c : Caller := .mailbox m.val
    let s0 := prefenStart s
    let s1 := setMbox m.val { mbox s m.val with taken := false } s
    let w := (mbox s m.val).req.drop 2
    let i := natBits (nth w 0 0) 15 0
    let a := nth w 0 0
    let w1 := nth w 1 0
    (mbHas s m.val 0x80 = true →
      (mayRest s1 = true → exec (.sleep m) s =
        .next (let t := overList srRequest (List.range 20) (respond m.val 0 [] s1)
               setPstate 4 (updPrefen (fun p => { p with sleptAt := t.time }) t))) ∧
      (mayRest s1 = false → exec (.sleep m) s = .next (refuse c stSessionBusy s1))) ∧
    (pstate s = 4 → (∀ n < 20, srState s n = 2 ∨ stackDead s n = true) →
      exec .sleepEntered s = .next (let t := overList (fun x s => coreDown x s) allClusters s
        setPstate 3 (updEmber (fun e => { e with rails := [] }) { t with banks := [] }))) ∧
    (pstate s = 3 → (firstRung s).isSome = true ∨ anyPending s = true → exec .wake s = .next (setPstate 5 s)) ∧
    (pstate s = 5 →
      let t := overList srRelease (List.range 20) s
      let awake := (List.range 20).all (fun n => srState t n == 0) && !(List.range 16).any (fun q => quadClock t q == 0)
      (awake = false → exec .wakeDone s = .next t) ∧
      (awake = true → exec .wakeDone s = .next (setPstate 2 (overList wakeScrub (List.range 20)
        (overList (fun x s => releaseHammer x s) allClusters
          { t with mem := { t.mem with valid := t.mem.valid.filter (fun e => e.1 / 2 ^ 64 != 1) } }))))) ∧
    (mbHas s m.val 0x81 = true → exec (.moduleReset m) s =
      .next (let t := respond m.val 0 [] s1; { t with board := { t.board with waiting := t.board.waiting ++ [3] } })) ∧
    (mbHas s m.val 0x81 = false →
      let t := serveWaiting s
      exec (.moduleReset m) s = .next t ∧
      (s.board.waiting = [3] → frozen s = false → s.up = true → moduleResetWaits s = false → tabWf (fun _ => ({} : Queue)) s.queues = true →
        t.up = false ∧ fwStage t = 4 ∧ t.board.waiting = [] ∧ (∀ k, (hearth t k).reset = true) ∧ t.clusters = [] ∧ t.units = [] ∧
          t.waits = [] ∧ t.queues = [] ∧ t.prefen.ops = [] ∧ t.prefen.step = {} ∧ t.time = s.time)) ∧
    (mbHas s m.val 0x82 = true →
      let named := decide (6 ≤ i) && decide (i ≤ 11353)
      let r := resetStep s1
      let cleared :=
        if i < 70 then resetCluster ((i - 6) / 16) ((i - 6) % 16) r
        else if i < 90 then resetStack (i - 70) r
        else if i < 1114 then resetCore (i - 90) r
        else interruptStack ((i - 1114) / 512) r
      let u := syncReset i (updHearth i (fun h => { h with reset := false }) s1)
      (natBit (nth w 0 0) 16 = false →
        (named = true → exec (.hearthResetEnter m) s = .next (respond m.val 0 []
          (syncReset i (updHearth i (fun h => { h with reset := true, faulted := false, running := false }) cleared)))) ∧
        (named = false → exec (.hearthResetEnter m) s = .next (refuse c stBadParam s1))) ∧
      (natBit (nth w 0 0) 16 = true →
        (named = true → exec (.hearthResetLeave m) s = .next (respond m.val 0 [] (if i < 70 then releaseHammer (i - 6) u else u))) ∧
        (named = false → exec (.hearthResetLeave m) s = .next (refuse c stBadParam s1)))) ∧
    (mbHas s m.val 0x83 = true →
      let space := natBits w1 63 60
      let op := natBits w1 2 0
      let pos := natBits w1 15 8
      let val := natBits w1 23 16
      let b := min (eccSite space a) 19
      let e := eccCtl b
      let armed := setRg (e + 8) (BitVec.ofNat 64 a) (setRf e 27 24 space (setRf e 2 2 0 s1))
      let last := match op with | 0 => 0 | 2 => lastPos space - 1 | _ => lastPos space
      let bad := !(space == 3 || space == 4) || 4 < op || last < (if op = 1 || op = 2 then pos else 0)
        || ((op = 1 || op = 2) && space == 4 && val == 0)
      let allowed := eccSite space a == b && eccAllowed armed b
      let read := eccDecodedRead b testWho armed
      let res := rf read e 31 28
      let data := (List.range 4).map (fun k => if res ≤ 1 then (rg read (e + 16 + 8 * k)).toNat else 0)
      let shown := if rf read e 27 24 = 3 then data.take 1 ++ [0, 0, 0] else data
      let none5 := List.replicate 5 0
      ∀ j k (t : State) words,
        (j, k, t, words) ∈ [(Instr.eccTestRead m, 0, read, (res * 2 ^ 28 + rf read e 23 16 * 2 ^ 16) :: shown),
          (.eccTestAdd m, 1, disturb space a [pos] val armed, none5), (.eccTestAddTwo m, 2, disturb space a [pos, pos + 1] val armed, none5),
          (.eccTestPoison m, 3, poisonStored space a armed, none5),
          (.eccTestZero m, 4, memWrite testWho space a (cleanBytes (List.replicate (wordBytes space) 0)) armed, none5)] → op = k →
        (bad = true → exec j s = .next (refuse c stBadParam s1)) ∧
        (bad = false → allowed = false → exec j s = .next (refuse c stTestRefused (setRf e 2 2 1 s1))) ∧
        (bad = false → allowed = true → exec j s = .next (respond m.val 0 words t))) ∧
    (∀ (image : Image) o, mbHas s m.val 0x84 = true →
      let u := acceptOp c 0x84 w [] s1
      opByTag u (lastOpTag u) = some o → exec (.fwUpdate m image) s = .next
        (if imageAccepted u image then endOp o 0 0 false (flashTouched { u with flash := tabSet {} u.flash (1 - u.runSlot) image })
         else endOp o stFwImageBad 0 false u)) ∧
    (let st := s.prefen.step
     prefenReady s = true → st.on = true → st.again = false → st.tainted = true → stepLatched s = false → st.cmds.all (cmdEnded s) = true →
      (isLead s = false →
        let all := st.origins.flatMap (localOrigins s0)
        prefenAnswers .poisonRecovery s (if onlyQueues all then clearTaint all s0 else reportTaint s0)) ∧
      (isLead s = true → groupFree s = true → (∀ g ∈ memberPositions s, g ∈ st.acked) →
        (st.origins.flatMap (originsOf s)).any (fun o => match o with | .tensor t _ => t.space == 5 | _ => false) = false ∨ hmOpen s 0 = true →
        let all := st.origins.flatMap (originsOf s0) ++ st.lost.map Origin.session
        let p := repairAll all (remapAgain s0)
        let u := overList failOrigin all p.1
        let v := resultFlush (updPrefen (fun p => { p with sparks := [], anchors := [], step := { p.step with
          again := true, tainted := false, origins := [], lost := [],
          repaired := p.step.repaired ++ st.origins.map (rangeOf u) } }) u)
        (onlyQueues all = true → prefenAnswers .poisonRecovery s (clearTaint all s0)) ∧
        (onlyQueues all = false → 3 ≤ st.execs → prefenAnswers .poisonRecovery s (giveUpStep (overList failOrigin all s0))) ∧
        (onlyQueues all = false → st.execs < 3 → p.2 = false → prefenAnswers .poisonRecovery s (giveUpStep p.1)) ∧
        (onlyQueues all = false → st.execs < 3 → p.2 = true → prefenAnswers .poisonRecovery s
          (if v.prefen.step.rows.all (fun r => v.prefen.step.dropped.contains r.session) then endStep v else v))))

/-- HELLO, attachment, departure and the frames of a connection act on partners and streams as R367 to R375 and R380 say -/
def Obligations.FabricPartnersAndFrames : Prop :=
  ∀ (p : Fin 12) (f : Frame) (pid : Fin 255) (v : Word) (s : State), running s = true →
    let up : Prop := portUp s p.val = true
    let r := portReg p.val
    let got := bumpRf (r 0x18) 63 0 1 s
    let l := link got f.src
    let own := ofConnection got f
    let d (k n : Nat) : Nat := leNat ((f.data.drop k).take n)
    let seqd : List (Instr × Nat) := [(.write p f, 8), (.readReq p f, 9), (.readRsp p f, 0xA), (.flag p f, 0xB)]
    let rows : List Instr := [.attach p f, .attachAck p f, .bye p f, .ack p f, .nak p f] ++ seqd.map (·.1)
    (up → frameForUs s f = false → ∀ i ∈ rows, exec i s = .next (satRf (r 0x20) 15 0 1 s)) ∧
    (up → exec (.foreignFrame p 0) s = .next (satRf (r 0x20) 63 32 1 s) ∧ exec (.foreignFrame p 1) s = .next (satRf (r 0x20) 31 16 1 s) ∧
      exec (.foreignFrame p 2) s = .next (satRf (r 0x20) 15 0 1 s)) ∧
    (up → frameForUs s f = true →
      (let shut := decide (255 ≤ f.src) || ptState got f.src == 3 || ptState got f.src == 4
       let t := attach f.src f.conn (depart f.src true got)
       let first := l.asking && decide (selfId got < f.src)
       (exec (.attach p f) s = .next (if shut || first then got
         else transmit p.val { ty := 2, src := selfId t, dst := f.src, conn := f.conn } t)) ∧
       (exec (.attachAck p f) s = .next (if shut || !l.asking || l.askConn != f.conn then got else groupLook f.src t))) ∧
      exec (.bye p f) s = .next (if own && ptState got f.src == 1 then depart f.src false got else got) ∧
      exec (.ack p f) s = .next (if own then drainPartner f.src (takeAck f.src f got) else got) ∧
      (let t := takeAck f.src f (if f.status = 1 then addressNak f.src f.addr got else got)
       exec (.nak p f) s = .next (if !own then got else if f.status = 1 then t
         else match (link t f.src).unacked.find? (fun x => x.psn == f.addr) with | some x => resend f.src x t | none => t)) ∧
      (∀ i k, (i, k) ∈ seqd →
        let t := if own then takeSequenced f.src { f with ty := k } (takeAck f.src f got) else got
        exec i s = .next t ∧
        (s.wf = true → tabWf (fun _ => ({} : Link)) s.links = true → own = true → f.ackOk = false → l.ahead = [] →
          (2 ^ 31 ≤ diff32 f.psn l.recvNext → t.mem = s.mem ∧ (link t f.src).recvNext = l.recvNext) ∧
          (k = 8 → f.psn = l.recvNext → f.psn < 2 ^ 32 → frameAddrOk s { f with ty := 8 } = true → f.addr % 32 = 0 → f.len = 32 →
            f.pmap = [] → f.crcBad = [] → pocFree got (.frame f.src { f with ty := 8 }) →
            ∀ j < 32, peekByte t 4 (f.addr + j) = nth f.data j 0)))) ∧
    (selfId s ≠ 0xFF → exec .helloSend s = .next (overList (fun k t =>
      if portUp t k && portLoop t k == 0 then
        transmit k { ty := 0, src := selfId t, dst := 0xFF, len := 64, data := helloBytes t k } t
      else t) (List.range 12) (tellLead s))) ∧
    (up → portLoop s p.val = 0 → d 8 1 ≠ 0xFF →
      let t := bumpRf (r 0x18) 63 0 1 (setRf (r 8) 51 48 (d 9 1) (setRf (r 8) 59 52 (d 8 1) s))
      let u := setLink (d 8 1) { link t (d 8 1) with rival := d 0 8, rivalAt := t.time } t
      (d 8 1 = selfId t → d 0 8 = Config.serial.toNat → exec (.helloReceive p f) s = .next t) ∧
      (d 8 1 = selfId t → d 0 8 ≠ Config.serial.toNat → exec (.helloReceive p f) s = .next
        (if ptState u (d 8 1) = 3 then u else conflictRecord (d 8 1) (setPtState (d 8 1) 3 u))) ∧
      (d 8 1 ≠ selfId t → exec (.helloReceive p f) s = .next (helloFrom p.val (d 8 1) (d 0 8) d t))) ∧
    (ptState s pid.val ≠ 1 → exec (.partnerDeparture pid) s = .next s) ∧
    (ptState s pid.val = 1 →
      let t := setPtState pid.val 2 (satRf (ptCnt pid.val) 31 16 1 s)
      let u := endTraffic pid.val (setRf (ptStat pid.val) 43 32 0 t)
      exec (.partnerDeparture pid) s = .next (groupLoss pid.val (partnerEvent pid.val false
        (setLink pid.val (bareLink (link u pid.val)) u)))) ∧
    (ptState s pid.val = 3 → exec (.conflictExpiry pid) s = .next
      (if pid.val = selfId s then setPtState pid.val 4 (setLink pid.val {} s)
       else setPtState pid.val 0 (setLink pid.val {} (setRg (ptSerial pid.val) 0 s)))) ∧
    (pmState s pid.val = 1 →
      let un := (link s pid.val).unacked
      let t := drainPartner pid.val s
      let y := link t pid.val
      (∀ x, un.find? (fun f => un.all (fun g => decide (f.sent ≤ g.sent))) = some x →
        exec (.retransmitTimeout pid) s = .next (resend pid.val x s)) ∧
      exec (.ackTimer pid) s = .next (if y.sinceAck = 0 then t else sendAck pid.val t) ∧
      exec (.nakTimer pid) s = .next (if y.ahead.isEmpty || y.ahead.any (fun f => f.psn == y.recvNext) then t
        else sendNak pid.val y.recvNext 0 (setLink pid.val { y with gapSince := t.time } t))) ∧
    (∀ k : Fin 4, rf s (r 0) 0 0 = 1 →
      let t := setRf (r 8) 63 60 k.val s
      exec (.portLinkChange p k) s = .next (if k.val = 2 then t else forgetPort p.val t)) ∧
    (stageFailed s = false →
      let was := rf s (r 0) 0 0 == 1
      let en := fieldOf v 0 0 == 1
      let t := if was && !en then
          overList (fun k t => if ptPorts t k == 2 ^ p.val then sendBye p.val k t else t) (presentPids s) s
        else s
      let u := setRf (r 0) 10 8 (fieldOf v 10 8) (setRf (r 0) 5 4 (fieldOf v 5 4) (setRf (r 0) 0 0 (b2n en) t))
      exec (.portEnableWrite p v) s = .next (if was && !en then forgetPort p.val (setRf (r 8) 63 60 0 u)
        else if en && !was then setRf (r 8) 63 60 1 u else u)) ∧
    (stageFailed s = false →
      let shut := inGroup s || (List.range 12).any (fun k => rf s (portReg k 0) 0 0 == 1)
      let new := fieldOf v 55 48
      let t := setRf (tuyReg 0) 55 43 (fieldOf v 55 43) (setRf (tuyReg 0) 39 28 (fieldOf v 39 28) s)
      let u := if selfId s = 0xFF then t else setLink (selfId s) {} (setRg (ptStat (selfId s)) 0 t)
      (shut = true → exec (.tuyCtlWrite v) s = .next s) ∧
      (shut = false → selfId s = new → exec (.tuyCtlWrite v) s = .next t) ∧
      (shut = false → selfId s ≠ new → exec (.tuyCtlWrite v) s = .next
        (if new = 0xFF then u else setLink new {} (setPtState new 4 (setRg (ptSerial new) 0 (setRg (ptStat new) 0 u))))))

/-- Link, configuration and reset events of the host port act as R388 to R397 and R453 to R457 say -/
def Obligations.HostPortEvents : Prop :=
  ∀ s : State,
    let lk := hstReg 0
    let lp := hstReg 0x20
    let cfg (c : Cfg) : State := { s with cfg := c }
    let again (t : State) : State := if running t then prefenFlush (msixFlush t) else t
    let resets (kind : Nat) (t : State) : State :=
      let u := { t with board := { t.board with waiting := t.board.waiting ++ [kind] } }
      let v := { t with board := { t.board with waiting := [] } }
      if frozen u || moduleResetWaits u then u else flrConfig (if v.up then moduleReset v else v)
    (linkUp s = true →
      exec .busMasterDisable s = .next (cfg { s.cfg with bme := false }) ∧ exec .d3hotEntry s = .next (cfg { s.cfg with d3hot := true }) ∧
      exec .busMasterEnable s = .next (again (cfg { s.cfg with bme := true })) ∧
      exec .d3hotExit s = .next (msixFlush (cfg { s.cfg with d3hot := false })) ∧
      exec (.msixUnmask none) s = .next (msixFlush (cfg { s.cfg with msixMask := false })) ∧
      (hostHeld s = false → exec .memorySpaceDisable s = .next (cfg { s.cfg with mse := false, flrMem := false })) ∧
      (∀ base size bar4 db bi,
        let good := size.toNat == 960 * 2 ^ 30 && base == bar4 && db && bi
        exec (.hdmDecoderCommit base size bar4 db bi) s = .next (setRf lk 49 49 (b2n bi) (setRf lk 48 48 (b2n good)
          (cfg { s.cfg with hdmBase := base.toNat, hdmSize := size.toNat, biEn := bi, hdmOn := good, hdmErr := !good })))) ∧
      exec .flr s = .next (resets 0 s) ∧
      (frozen s = false → moduleResetWaits s = false → s.up = true →
        (resets 0 s).up = false ∧ (resets 0 s).tracker = s.tracker ∧ ∀ k, (hearth (resets 0 s) k).reset = true)) ∧
    (∀ v : Fin 2048, linkUp s = true → hostBars s = true → running s = true → stageFailed s = false →
      exec (.msixUnmask (some v)) s = .next (msixFlush (setRf (msixDataReg v.val) 32 32 0 s))) ∧
    (linkState s = 2 ∨ linkState s = 3 →
      (let u := { s with free := s.free + 1, cfg := { s.cfg with
          aerCorr := s.cfg.aerCorr || Config.linkCorrected s.free, aerFatal := s.cfg.aerFatal || Config.linkFatal s.free } }
       exec .linkRecovery s = .next (satRf lk 15 0 1 (setRf lk 31 16 (rf u lk 31 16 ||| (Config.linkLanes s.free).toNat) u))) ∧
      (∀ down : Bool,
        let t := setRf lk 59 56 0 (setRf lk 55 51 0 (setRf lk 50 50 0 s))
        exec (.hotReset down) s = .next (resets (if down then 2 else 1) (setRf lk 63 60 (if down then 0 else 1)
          { t with cfg := { t.cfg with loopback := false, cacheEn := false, memEn := false } })))) ∧
    (linkState s ≠ 0 → ∀ e : Bool, exec (.pcieLoopback e) s = .next (cfg { s.cfg with loopback := e })) ∧
    (∀ (rate : Fin 7) (width : Fin 32) (flit cache mem : Bool), linkState s ≤ 1 → mayTrain s = true → rate.val ≠ 0 →
      width.val ∈ [1, 2, 4, 8, 16] →
      let cxl := rate.val == 6 && flit && (width.val == 16 || width.val == 8) && (cache || mem)
      exec (.hostLinkUp rate width flit cache mem) s = .next (again (setRf lk 63 60 (if cxl then 3 else 2)
        (setRf lk 59 56 rate.val (setRf lk 55 51 width.val (setRf lk 50 50 (b2n flit)
          (cfg { s.cfg with cacheEn := cxl && cache, memEn := cxl && mem, loopback := false }))))))) ∧
    (let noted := s.board.perst || decide (s.board.boot < 2) || (decide (s.board.boot < 6) && !s.board.warm && !stageFailed s)
     let t := warmReset (byeAll s)
     let u := setPstate 1 { t with board := { t.board with perst := true } }
     (noted = true → exec .perstAssert s = .next { s with board := { s.board with perst := true } }) ∧
     (noted = false → exec .perstAssert s = .next u) ∧
     u.up = false ∧ u.prefen = {} ∧ u.queues = [] ∧ u.flash = s.flash ∧ ∀ a, peekByte u 4 a = 0) ∧
    (let t := { s with board := { s.board with perst := false } }
     exec .perstDeassert s = .next (if linkState t = 0 && mayTrain t then setRf lk 63 60 1 t else t)) ∧
    (∀ v : Word, running s = true → stageFailed s = false →
      let t := setRf lp 7 4 (fieldOf v 7 4) s
      let held := rf (setRf lp 63 32 0 t) (qchReg 0x40) 0 0
      (held = 1 → fieldOf v 7 6 = 1 ∨ fieldOf v 7 6 = 2 → exec (.hostLoopStart v) s = .next (setRf lp 3 2 1 (setRf lp 63 32 0 t))) ∧
      (held ≠ 1 ∨ (fieldOf v 7 6 ≠ 1 ∧ fieldOf v 7 6 ≠ 2) → exec (.hostLoopStart v) s = .next (setRf lp 3 3 1 (setRf lp 63 32 0 t))) ∧
      (∀ (errs : BitVec 32) (lanes : BitVec 16),
        let u := satRf lp 63 32 errs.toNat (setRf lp 2 2 0 t)
        (rf t lp 2 2 = 0 → exec (.hostLoopStop v errs lanes) s = .next t) ∧
        (rf t lp 2 2 ≠ 0 → exec (.hostLoopStop v errs lanes) s = .next (setRf lk 31 16 (rf u lk 31 16 ||| lanes.toNat) u))))

/-- A software latch set through BEL_SETP or belsetp acts as a level of 1, a claim clears it, and BEL_CLRP clears one that is not yet claimed (R404) -/
def Obligations.SoftwareLatchesActAsLevels : Prop :=
  ∀ (b : Fin 5) (w : Fin 16) (mask : Word) (src : Fin 1024) (s : State), running s = true → s.wf = true → src.val / 64 = w.val →
    let r := srcReg b.val src.val
    let mine := bitOf mask (src.val % 64)
    (let t := overList (setLatch b.val) (maskSources w.val mask) s
     (stageFailed s = false → exec (.setPending (.setp b w mask)) s = .next t) ∧ t = { s with regs := t.regs } ∧
      (mine = true → rf s r 62 62 = 0 → rf t r 62 62 = 1 ∧
        (rf s r 61 60 = 0 → rf t r 61 60 = 1) ∧ (rf s r 61 60 = 1 → rf t r 61 60 = 1) ∧
        (rf s r 61 60 = 2 → rf t r 61 60 = 3) ∧ (rf s r 61 60 = 3 → rf t r 61 60 = 3)) ∧
      (mine = false → rg t r = rg s r)) ∧
    (∀ core : Fin 68, coreRuns s core.val = true → coreWaits s core.val = false → tabGet false s.umode core.val = false →
      let q := srcReg (bellOf core.val) src.val
      let t := setLatch (bellOf core.val) src.val s
      exec (.setPending (.belsetp core src)) s = .next t ∧ t = { s with regs := t.regs } ∧ rf t q 62 62 = 1 ∧
        (rf s q 62 62 = 0 → (rf s q 61 60 = 0 → rf t q 61 60 = 1) ∧ (rf s q 61 60 = 1 → rf t q 61 60 = 1) ∧
          (rf s q 61 60 = 2 → rf t q 61 60 = 3) ∧ (rf s q 61 60 = 3 → rf t q 61 60 = 3))) ∧
    (∀ (core : Fin 68) (rd : Fin 32), coreRuns s core.val = true → coreWaits s core.val = false →
      tabGet false s.umode core.val = false →
      let c := bellClaim (bellOf core.val) (targetOf core.val) s
      let t := setXreg core.val rd.val (match c.2 with | none => 0 | some k => BitVec.ofNat 64 (2 ^ 63 + k)) c.1
      exec (.bellClaim core rd) s = .next t ∧
        ∀ k < 1024, let q := srcReg (bellOf core.val) k
          (rf s q 61 60 = 1 → rf t q 61 60 = 2 → rf t q 62 62 = 0) ∧ (rf t q 61 60 ≠ 2 → rg t q = rg s q)) ∧
    (let t := settleBell b.val (overList (fun k s => fallSource b.val k (setRf (srcReg b.val k) 62 62 0 (sampleLevel b.val k s)))
      (maskSources w.val mask) s)
     exec (.clearPending b w mask) s = .next t ∧ t = { s with regs := t.regs } ∧
      (mine = true → rf t r 62 62 = 0 ∧
        (sourceLevel s b.val src.val = false → rf s r 61 60 = 1 → rf t r 61 60 = 0) ∧
        (sourceLevel s b.val src.val = true → rf s r 61 60 = 1 → rf t r 61 60 = 1)) ∧
      (mine = false → rg t r = rg s r))

/-- Claims, completions, levels and coalescing of the Bells follow R400 to R406 -/
def Obligations.BellsClaimAndComplete : Prop :=
  ∀ (core : Fin 68) (b : Fin 5) (src : Fin 1024) (s : State), running s = true →
    let cb := bellOf core.val
    let ct := targetOf core.val
    let r := srcReg b.val src.val
    let prio (k : Nat) : Nat := rf s (srcReg cb k) 10 8
    (coreRuns s core.val = true → coreWaits s core.val = false →
      (tabGet false s.umode core.val = false →
        (∀ rd : Fin 32,
          (claimable s cb ct = [] → exec (.bellClaim core rd) s = .next (setXreg core.val rd.val 0 s)) ∧
          (claimable s cb ct ≠ [] → ∃ k ∈ claimable s cb ct,
            (∀ j ∈ claimable s cb ct, prio j < prio k ∨ (prio j = prio k ∧ k ≤ j)) ∧
            exec (.bellClaim core rd) s = .next (setXreg core.val rd.val (BitVec.ofNat 64 (2 ^ 63 + k)) (settleTarget cb ct
              (setRf (srcReg cb k) 59 56 ct (setRf (srcReg cb k) 62 62 0 (setRf (srcReg cb k) 61 60 2 s))))))) ∧
        (∀ d : Fin 1024,
          let rd := srcReg cb d.val
          let t := settleBell cb (completeSource cb d.val s)
          (rf s rd 61 60 < 2 ∨ rf s rd 59 56 ≠ ct → exec (.bellComplete core d) s = .next (satRf (tgtStat cb ct) 47 32 1 s)) ∧
          (2 ≤ rf s rd 61 60 → rf s rd 59 56 = ct → exec (.bellComplete core d) s = .next t ∧
            (s.wf = true →
              (sourceLevel s cb d.val = true → rf t rd 61 60 = 1 ∧ rf t rd 59 56 = 0) ∧
              (rf s rd 61 60 = 2 → sourceLevel s cb d.val = false → rf t rd 61 60 = 0)))) ∧
        (∀ v : BitVec 32,
          let e := evcReg (csrHearth core.val) (tabGet 0 s.belsel core.val)
          exec (.counterSubtract (.belcnt core) v) s = .next (setRf e 31 0 (rf s e 31 0 - v.toNat) s))) ∧
      (tabGet false s.umode core.val = true → ∀ (rd : Fin 32) (d : Fin 1024) (v : BitVec 32),
        ∀ i ∈ ([.bellClaim core rd, .bellComplete core d, .counterSubtract (.belcnt core) v, .setPending (.belsetp core d)] : List Instr),
        exec i s = .next (coreTrap core.val 2 (Config.trapValue (takeFree s).2) (takeFree s).1))) ∧
    (∀ v : BitVec 32,
      let e := belReg b.val (0x4000 + 8 * src.val)
      counterSource b.val src.val = true → exec (.counterSubtract (.evsub b src) v) s = .next (setRf e 31 0 (rf s e 31 0 - v.toNat) s)) ∧
    exec (.sourceLevelChange b src) s = .next (settleBell b.val (sampleLevel b.val src.val s)) ∧
    (s.wf = true → rf s r 63 63 = 0 → sourceLevel s b.val src.val = true → rf s r 61 60 = 0 →
      let t := settleBell b.val (sampleLevel b.val src.val s)
      rf t r 63 63 = 1 ∧ rf t r 61 60 = 1) ∧
    (∀ v : Word,
      let could := deliverable s b.val src.val (rf s r 3 0)
      let u := setRf r 15 15 (fieldOf v 15 15) (setRf r 10 8 (fieldOf v 10 8) (setRf r 3 0 (fieldOf v 3 0) s))
      let t := rf u r 3 0
      exec (.bellSourceWrite b src v) s = .next (settleBell b.val
        (if !could && deliverable u b.val src.val t && rf u r 61 60 == 1 then arrive b.val t u else u))) ∧
    (∀ tg : Fin 16, rf s (tgtStat b.val tg.val) 63 62 = 1 →
      exec (.coalesceTimeout b tg) s = .next (setRf (tgtStat b.val tg.val) 63 62 2 s))

/-- Ember's rounds, limits, shutdowns and converters, and its PMBus and SMBus answers, follow R413 to R432, R451, R473 and R480 -/
def Obligations.EmberActsAndAnswers : Prop :=
  ∀ s : State,
    let e0 := embReg 0
    let chansWf : Prop := tabWf (fun _ => ({} : EmbCh)) s.ember.chans = true
    let railsWf : Prop := tabWf (fun _ => 0) s.ember.rails = true
    let e (f : Ember → Ember) (t : State) : State := { t with ember := f t.ember }
    let reads : List (Instr × Nat × Nat) := [(.statusWord, 0x79, pmStatusWord s), (.statusInput, 0x7C, statusInput s),
      (.statusTemperature, 0x7D, statusTemperature s),
      (.readEin, 0x86, s.ember.energy / 10 ^ 12 % 2 ^ 15 + s.ember.energy / 10 ^ 12 / 2 ^ 15 % 256 * 2 ^ 16 + rf s e0 31 0 % 2 ^ 24 * 2 ^ 24),
      (.readVin, 0x88, Config.pmbusCode 0x88 (embCh s 138).y), (.readIin, 0x89, Config.pmbusCode 0x89 (embCh s 202).y),
      (.readPin, 0x97, Config.pmbusCode 0x97 (s.ember.power.headD 0)),
      (.readTemperature1, 0x8D, Config.pmbusCode 0x8D (hottest s (List.range 20))),
      (.readTemperature2, 0x8E, Config.pmbusCode 0x8E (hottest s (upFrom 20 4))),
      (.readTemperature3, 0x8F, Config.pmbusCode 0x8F (embCh s 137).y), (.pmbusRevision, 0x98, 0x33)]
    (emberRuns s = true →
      (∀ raws prot,
        let a := overList (sampleCh raws) (List.range 256) (bumpRf e0 31 0 1 s)
        let b := roundOver (roundStates a)
        let c := roundInput (roundClocks (roundPower (roundHolds (roundBlind (roundSkew (roundFlow b.1))))))
        let d := roundRails (e (fun x => { x with warnTemp := x.warnTemp || (List.range 24).any (fun r => regionState c r != 0) }) c)
        exec (.emberRound raws prot) s = .next (if d.1.ember.latch then d.1 else match roundCause d.1 b.2 (d.2 || prot) with
          | some k => shutdown k d.1
          | none => if inputBad d.1 && (convertersOn d.1 || pstate d.1 == 1) then convertersOff 0 d.1 else d.1) ∧
        (s.wf = true → chansWf → ∀ k < 138, flagged s k = false → (embCh s k).on = false →
          (-2560 ≤ nth raws k 0 → nth raws k 0 ≤ 9600 → (embCh a k).y = nth raws k 0 ∧
            (embCh a k).samples = List.replicate 4 (nth raws k 0) ∧ flagged a k = false) ∧
          (9600 < nth raws k 0 ∨ nth raws k 0 < -2560 → flagged a k = true))) ∧
      (convertersOn s = true → s.ember.decided ≠ [] →
        let t := overList switchClock (List.range 64) (overList throttleStack (List.range 20) (e (fun x => { x with applied := x.decided }) s))
        exec .throttleApply s = .next (overList (fun i t =>
          if 2 ≤ i && hearthThrottle t i != hearthThrottle s i then thermalEvent i (hearthThrottle t i) t else t) (List.range 90) t)) ∧
      (∀ q : Fin 16, convertersOn s = true → quadClock s q.val ≠ 0 ∨ pstate s = 5 →
        let t := overList (fun x t => if t.ember.applied = t.ember.decided then switchClock x t else t) (upFrom (4 * q.val) 4)
          (setQuad q.val (quadTarget s q.val) s)
        exec (.railRampDone q) s = .next t ∧
        (railsWf → quadClock t q.val = quadTarget s q.val ∧ ∀ j, j ≠ q.val → quadClock t j = quadClock s j)) ∧
      (convertersOn s = true →
        let t := e (fun x => { x with limited := true }) (setRf (embReg 0x20) 2 2 1 (setRf e0 52 48 27 s))
        let u := overList switchClock (List.range 64) (if t.ember.decided.isEmpty then t else roundClocks t)
        exec .fastPowerLimit s = .next u ∧ (s.wf = true → powerSteps u = 27 ∧ rf u (embReg 0x20) 2 2 = 1)) ∧
      (pstate s = 0 → s.ember.latch = false → s.ember.open_ = false →
        exec .convertersRestart s = .next (if 16 ≤ s.ember.good then bringUp (setPstate 1 s) else setPstate 1 s)) ∧
      (s.board.boot = 1 → pstate s = 1 → 16 ≤ s.ember.good → s.ember.latch = false → s.ember.open_ = false →
        exec (.mainConvertersOn true) s = .next (bringUp s) ∧ exec (.mainConvertersOn false) s = .next (shutdown 6 (bringUp s))) ∧
      exec .clearFaults s = .next (e (fun x => { x with
        inUnder := x.inUnder && decide (x.under != 0), inOver := x.inOver && decide (x.above != 0),
        warnTemp := x.warnTemp && (List.range 24).any (fun r => regionState s r != 0),
        faultTemp := x.faultTemp && x.latch, limited := x.limited && limiting s }) s) ∧
      (∀ c : Fin 256, exec (.coefficients c) s = .next { s with out := s.out ++ [.pmbus 0x30 (Config.pmbusCoefficients c.val)] }) ∧
      (∀ i cmd v, (i, cmd, v) ∈ reads → exec i s = .next { s with out := s.out ++ [.pmbus cmd v] })) ∧
    (emberRuns s = false → (∀ x ∈ reads, exec x.1 s = .next s) ∧ exec .throttleApply s = .next s ∧ exec .clearFaults s = .next s ∧
      ∀ raws prot, exec (.emberRound raws prot) s = .next s) ∧
    (∀ a n : Fin 256, exec (.fruRead a n) s = .next { s with out := s.out ++
      [.smbus ((upFrom a.val n.val).map (fun k => BitVec.ofNat 8 (Config.fruByte k)))] }) ∧
    (s.ember.latch = false → exec .hardwareTrip s = .next (shutdown 7 s) ∧
      (let t := shutdown 7 s
       t.ember.latch = true ∧ t.board.boot = 1 ∧ t.up = false ∧ t.queues = [] ∧ (∀ a, peekByte t 4 a = 0) ∧
       t.ember.log.map (·.cause) = s.ember.log.map (·.cause) ++ [7])) ∧
    (s.ember.latch = true → exec .hardwareTrip s = .next s) ∧
    (let t := emberOff s
     exec .standbySupplyLoss s = .next t ∧ exec .latchRelease s = .next (e (fun x => { x with latch := false }) t) ∧
     t.ember.latch = s.ember.latch ∧ t.ember.log = s.ember.log ∧ t.ember.on = false ∧ t.board.boot = 0 ∧ t.up = false) ∧
    (let t := e (fun x => { x with open_ := true }) s
     exec .interlockOpen s = .next (if s.ember.on && !s.ember.latch then convertersOff 0 t else t)) ∧
    exec .interlockClose s = .next (e (fun x => { x with open_ := false }) s) ∧
    (running s = true → ∀ k : Fin 256,
      let t := setEmbCh k.val {} (setRf (flagReg k.val) (k.val % 64) (k.val % 64) 0 s)
      (flagged s k.val = false → exec (.sensorFlagClear k) s = .next s) ∧
      (flagged s k.val = true → exec (.sensorFlagClear k) s = .next t ∧
        (s.wf = true → flagged t k.val = false) ∧ (chansWf → embCh t k.val = {}))) ∧
    (s.ember.on = true → ∀ strap : Fin 8, exec (.emberBoot strap) s = .next s) ∧
    (s.ember.on = false → ∀ strap : Fin 8,
      let t := resetRegsIf (fun o => 0x001D0000 ≤ o && o < 0x001E0000) s
      let u := setRf e0 47 40 (match s.ember.log.getLast? with | some x => x.cause | none => 0) { t with
        board := { t.board with boot := 1 },
        ember := { on := true, latch := s.ember.latch, log := s.ember.log, rollback := s.ember.rollback, open_ := s.ember.open_,
                   strap := strap.val } }
      exec (.emberBoot strap) s = .next (if s.ember.latch then setPstate 6 u else u))

/-- Startup steps 3 to 8, JTAG, the SPI flash, test hold and the UCIe test follow R451 to R461 -/
def Obligations.StartupAndTestAccess : Prop :=
  ∀ s : State,
    let on : Prop := jtagOn s = true
    let b (f : Board → Board) (t : State) : State := { t with board := f t.board }
    (∀ a1 a2 common, running s = true → s.board.boot = 2 → (s.board.warm && s.board.perst) = false →
      let t := b (fun x => { x with boot := 4, common := common, spiNew := false })
        (if s.board.spiNew then { s with flash := tabSet {} (tabSet {} [] 0 a1) 1 a2 } else s)
      let img (k : Nat) : Image := tabGet {} t.flash k
      let u := (bootSlot t).1
      ((bootSlot t).2 = none → exec (.hoodBoot a1 a2 common) s = .next (startTraining (setRf (smcReg 0) 15 0 0x2A0 (setStage 3 u))) ∧
        imageAccepted t (img 0) = false ∧ imageAccepted t (img 1) = false) ∧
      (∀ k, (bootSlot t).2 = some k →
        k < 2 ∧ imageAccepted t (img k) = true ∧ (∀ j < 2, imageAccepted t (img j) = true → (img j).build ≤ (img k).build) ∧
        exec (.hoodBoot a1 a2 common) s = .next (setChannels 1 (setStage 1 (setRf (smcReg 0) 29 29 (b2n (img k).eng)
          (setRf (smcReg 0) 39 32 (img k).patch (setRf (smcReg 0) 47 40 (img k).minor
            { u with runSlot := k, ember := { u.ember with rollback := max u.ember.rollback (img k).sec } }))))))) ∧
    (∀ chans, running s = true → s.board.boot = 4 → fwStage s = 1 → rf s (qchReg 0x40) 0 0 = 0 →
      (let t := overList (fun n t => overList (trainChannel chans n) (List.range 32) t) (List.range 20)
         (if s.board.warm then s else loadRemap s)
       let u := overList (fun x t => setRf (clkReg x) 7 0 32 t) allClusters { t with mem := { t.mem with valid := [] } }
       exec (.prefenStartup true chans) s = .next (startTraining (setPstate 2 (releaseAll (overList failStack (List.range 20)
         (placeTables u)))))) ∧
      exec (.prefenStartup false chans) s = .next (startTraining (setRf (smcReg 0) 15 0 0x2A1 (setStage 3 (setChannels 0 s)))) ∧
      (∀ (n : Fin 20) (ch : Fin 32) (t : State), (∀ c ∈ chans, c.stack ≠ n ∨ c.channel ≠ ch) →
        trainChannel chans n.val ch.val t = setRf (chReg n.val ch.val 0) 3 0 2 t)) ∧
    (∀ u chans, running s = true → s.board.boot = 6 → fwStage s = 4 → exec (.prefenStartup u chans) s =
      .next (overList nextClear (List.range 20) (releaseAll (failRequests stModuleReset
        { s with mpOwn := [], cfg := { s.cfg with flrMem := false } })))) ∧
    (∀ tap code n value, (on → (jtagScan tap code n value s).out = s.out ++ [.tdo tap (value s)]) ∧
      (jtagOn s = false → jtagScan tap code n value s = { s with out := s.out ++ [.tdo tap (2 ^ n - 1)] })) ∧
    (∀ tap : Fin 5,
      exec (.idcode tap) s = .next (jtagScan tap.val 0x01 32 (fun _ => if tap.val = 0 then 0x1C2019CB else 0x1C2029CB) s) ∧
      (∀ code : Fin 256, (code.val ≤ 2 ∨ (tap.val = 0 ∧ (code.val = 0x10 ∨ code.val = 0x11 ∨ code.val = 0x20)) →
          exec (.bypass tap code) s = .next s) ∧
        (2 < code.val → tap.val ≠ 0 ∨ (code.val ≠ 0x10 ∧ code.val ≠ 0x11 ∧ code.val ≠ 0x20) →
          exec (.bypass tap code) s = .next (jtagScan tap.val 0xFF 1 (fun _ => 0) s))) ∧
      (∀ v i code, (i, code) ∈ ([(.extest tap v, 0x00), (.samplePreload tap v, 0x02)] : List (Instr × Nat)) →
        let n := if tap.val = 0 then 64 else 1
        let t := jtagScan tap.val code n (fun _ => Config.boundary (takeFree s).2 % 2 ^ n) (takeFree s).1
        (jtagOn s = false → exec i s = .next t) ∧
        (on → exec i s = .next (b (fun x => { x with boundary := tabSet 0 x.boundary tap.val (boundaryBits tap.val v) }) t)))) ∧
    (let n := (s.board.shift.take 8).length
     let t := jtagScan 0 0x11 64 (fun s => leNat (s.board.shift.take 8)) s
     exec .roshift s = .next (if jtagOn s && !s.board.shift.isEmpty
       then bumpRf (qchReg 0x38) 47 0 n (b (fun x => { x with shift := x.shift.drop 8 }) t) else t)) ∧
    (∀ (off : BitVec 22) (v : Word),
      let t := jtagScan 0 0x10 87 (fun s => s.board.regacc.toNat) s
      let o := off.toNat / 8 * 8
      let tag := decide (0x00340000 ≤ o) && decide (o < 0x00380000) && decide (0x1000 ≤ o % 0x10000) && decide (o % 0x10000 < 0x2000) &&
        o % 0x100 == 0x10 && running t
      (jtagOn s = false → ∀ w, exec (.regacc w off v) s = .next t) ∧
      (on → exec (.regacc true off v) s = .next (barWrite .jtag o v t) ∧
        exec (.regacc false off v) s = .next (b (fun x => { x with regacc := barRead true t o })
          (if tag then (clTagRead ((o - 0x00340000) / 0x10000) (o % 0x10000 / 0x100 - 0x10) t).1 else t)))) ∧
    (∀ addr data : BitVec 32,
      let t := jtagScan 0 0x20 72 (fun _ => 0) s
      let k := addr.toNat / 65536
      (spiAllowed s = true →
        (exec (.spiprogRead addr) s = .next (jtagScan 0 0x20 72 (fun s => leNat ((upFrom addr.toNat 4).map (spiByte s))) s)) ∧
        (let u := overList (fun j t => spiPut (addr.toNat + j) (nth (leBytes 4 data.toNat) j 0) t) (List.range 4)
           (b (fun x => { x with spiNew := true }) t)
         exec (.spiprogProgram addr data) s = .next u ∧
         (tabWf (fun _ => (none : Option Byte)) s.board.spi = true → ∀ j < 4, spiByte s (addr.toNat + j) = 0xFF →
           spiByte u (addr.toNat + j) = nth (leBytes 4 data.toNat) j 0)) ∧
        (let u := b (fun x => { x with spiNew := true, erased := k :: x.erased.filter (fun j => j != k),
                                       spi := x.spi.filter (fun y => y.1 / 65536 != k) }) t
         exec (.spiprogErase addr) s = .next u ∧ ∀ a, a / 65536 = k → spiByte u a = 0xFF)) ∧
      (spiAllowed s = false → ∀ i ∈ ([.spiprogRead addr, .spiprogProgram addr data, .spiprogErase addr] : List Instr),
        exec i s = .next s)) ∧
    (∀ h : Bool, (on → exec (.testHoldWrite h) s = .next (setRf (qchReg 0x40) 0 0 (b2n h) s)) ∧
      (jtagOn s = false → exec (.testHoldWrite h) s = .next s)) ∧
    (∀ (a : Fin 4) (v : Word), running s = true →
      let r := ucieReg a.val
      let t := setRf r 63 32 0 (setRf r 11 8 (fieldOf v 11 8) s)
      let may : Prop := rf t (qchReg 0x40) 0 0 = 1 ∧ fieldOf v 11 10 ≠ 3 ∧ (fieldOf v 9 8 = 1 ∨ fieldOf v 9 8 = 2)
      (stageFailed s = false →
        (may → exec (.ucieTestStart a v) s = .next (b (fun x => { x with ucieRun := a.val :: x.ucieRun.filter (fun y => y != a.val) })
          (setRf r 2 1 0 t))) ∧
        (¬ may → exec (.ucieTestStart a v) s = .next (setRf r 1 1 1 t))) ∧
      (∀ errs : BitVec 32,
        (a.val ∉ s.board.ucieRun → exec (.ucieTestDone a errs) s = .next s) ∧
        (a.val ∈ s.board.ucieRun → exec (.ucieTestDone a errs) s = .next (setRf r 2 2 1 (satRf r 63 32 errs.toNat
          (b (fun x => { x with ucieRun := x.ucieRun.filter (fun y => y != a.val) }) s))))))

/-- Freeze, release and read-out, and the ways a register is written, follow R387, R395, R406 and R462 to R468 -/
def Obligations.QuenchAndRegisterWrites : Prop :=
  ∀ (v : Word) (s : State),
    let st := qchReg 0x38
    let b (f : Board → Board) (t : State) : State := { t with board := f t.board }
    (∀ p : Bool, exec (.quenchPinChange p) s = .next (b (fun x => { x with quenchN := p }) s)) ∧
    (2 ≤ s.board.boot → exec (.freezeWrite v) s = .next (setRf (qchReg 0) 1 0 (fieldOf v 1 0) s)) ∧
    (s.board.boot < 2 → ∀ i ∈ ([.freezeWrite v, .readoutGo v, .readoutDone] : List Instr), exec i s = .next s) ∧
    (let may : Prop := freezeAsked s = true ∧ frozen s = false ∧ pastStep2 s = true
     let t := bumpRf (qchReg 8) 15 0 1 (setRf (qchReg 8) 63 63 1 (b (fun x => { x with
       snapshot := ((List.range 11354).map (fun i => (i, statusWord s i))).filter (fun e => e.2 != 0),
       chainAt := (takeFree s).2, quiet := (List.range 20).filter (fun n => srState s n != 2) }) (takeFree s).1))
     (may → exec .quenchFreeze s = .next t) ∧ (¬ may → exec .quenchFreeze s = .next s) ∧
     (s.wf = true → frozen t = true ∧ running t = false) ∧ t.time = s.time ∧ t.mem = s.mem) ∧
    (let may : Prop := frozen s = true ∧ freezeAsked s = false ∧ rf s st 63 63 = 0
     let t := setRg (qchReg 0x10) v (setRf (qchReg 8) 63 63 0 (b (fun x => { x with snapshot := [], quiet := [] }) s))
     (may → exec (.quenchRelease v) s = .next (serveWaiting (hostAgain (overList (fun n u => release n u) (List.range 20) t)))) ∧
     (¬ may → frozen s = false ∨ freezeAsked s = true → exec (.quenchRelease v) s = .next s) ∧
     (s.wf = true → frozen t = false ∧ rg t (qchReg 0x10) = v)) ∧
    (2 ≤ s.board.boot →
      (let t := setRf (qchReg 0x20) 63 44 (fieldOf v 63 44) (setRf (qchReg 0x20) 7 3 (fieldOf v 7 3) s)
       let refused := !frozen t || rf t st 63 63 == 1 || (fieldOf v 3 3 == 0 && !hmOpen t 1)
       (refused = true → exec (.readoutGo v) s = .next (setRf st 61 61 1 t)) ∧
       (refused = false → exec (.readoutGo v) s = .next (shiftImage (setRg st (BitVec.ofNat 64 (2 ^ 63)) (b (fun x => { x with
         roStop := none, shift := [], roTag := (x.roTag + 1) % 2 ^ 24,
         roGo := [(rg t (qchReg 0x20)).toNat, (rg t (qchReg 0x28)).toNat, (rg t (qchReg 0x30)).toNat] }) t))))) ∧
      (∀ sec, (rf s st 63 63 = 0 ∨ s.board.roStop.isSome = true → exec (.readoutStop sec) s = .next s) ∧
        (rf s st 63 63 ≠ 0 → s.board.roStop = none →
          exec (.readoutStop sec) s = .next (shiftImage (b (fun x => { x with roStop := some sec }) s)))) ∧
      (rf s st 63 63 ≠ 0 → roBit s 3 = false ∨ s.board.shift = [] →
        let t := if roBit s 3 then s else memWrite (roWho s) 5 (roAddr s) (cleanBytes (roImage s)) s
        exec .readoutDone s = .next (setRf st 63 62 1 (b (fun x => { x with roStop := none })
          (setRf st 60 60 (b2n (roFull s)) (setRf st 47 0 (roImage s).length t)))))) ∧
    (∀ (off : BitVec 22) (half : Option Bool) (who : RegAgent),
      let o := off.toNat / 8 * 8
      let here : Prop := agentRuns s who o = true ∧ (who = .host → linkUp s = true ∧ hostBars s = true) ∧
        ((∃ k, who = .smith k) ∨ (∃ x, who = .hammer x) → running s = true)
      (here → off.toNat % 8 = 0 →
        exec (.registerWrite who (.bar off none) v) s = .next (barWrite who o v s) ∧
        (∀ high, takesHalf o = true → exec (.registerWrite who (.bar off (some high)) v) s =
          .next (barWrite who o (if high then withField (rg s o) 63 32 (fieldOf v 31 0) else withField (rg s o) 31 0 (fieldOf v 31 0)) s)) ∧
        (∀ high, takesHalf o = false → exec (.registerWrite who (.bar off (some high)) v) s = .next (badWrite o s))) ∧
      (here → who = .host → off.toNat % 8 ≠ 0 → exec (.registerWrite who (.bar off half) v) s = .next (badWrite o s)) ∧
      (who ≠ .host → off.toNat % 8 ≠ 0 → exec (.registerWrite who (.bar off half) v) s = .next s) ∧
      (2 ≤ s.board.boot →
        (frozen s = true → inQuench o = false → barWrite who o v s = satRf (qchReg 8) 31 16 1 s ∧ badWrite o s = satRf (qchReg 8) 31 16 1 s) ∧
        (frozen s = false ∨ inQuench o = true →
          (stageFailed s = true → failedDecodes o = false → barWrite who o v s = s ∧ badWrite o s = s) ∧
          (stageFailed s = false ∨ failedDecodes o = true → badWrite o s = satRf (hstReg 8) 47 32 1 s ∧
            (o = qchReg 0x28 → barWrite who o v s = setRg o v s))))) ∧
    (∀ core : Fin 68, running s = true → coreRuns s core.val = true → coreWaits s core.val = false → ∀ who : RegAgent,
      (tabGet false s.umode core.val = false →
        exec (.registerWrite who (.belsel core) v) s = .next { s with belsel := tabSet 0 s.belsel core.val (fieldOf v 3 0) }) ∧
      (tabGet false s.umode core.val = true → exec (.registerWrite who (.belsel core) v) s =
        .next (coreTrap core.val 2 (Config.trapValue (takeFree s).2) (takeFree s).1))) ∧
    (linkUp s = true → ∀ who : RegAgent,
      exec (.registerWrite who .memorySpace v) s = .next { s with cfg := { s.cfg with mse := s.cfg.mse || bitOf v 0 } } ∧
      exec (.registerWrite who .msixControl v) s =
        .next (msixFlush { s with cfg := { s.cfg with msixEn := bitOf v 0, msixMask := bitOf v 1 } }))
end

