-- ==== Sys2Proof/Laws/Sparse.lean ====
section
/-! SUPPORT. Laws of sparse tables: a read after a write, and that every table operation keeps the canonical form. -/

namespace Sys2Proof.Laws

open Sys2Proof.Machine

variable {α : Type} [DecidableEq α] {d : α} {dk : Nat → α}

/-- A table all of whose keys lie above k reads as the default at k. -/
theorem tabGet_below {l : List (Nat × α)} {lo k : Nat} (h : tabOk dk (some lo) l = true) (hk : k ≤ lo) :
    tabGet d l k = d := by
  induction l generalizing lo with
  | nil => rfl
  | cons e t ih =>
    obtain ⟨k', v⟩ := e
    simp only [tabOk, Bool.and_eq_true, decide_eq_true_eq] at h
    have : k ≠ k' := by omega
    simp only [tabGet, this, if_false]
    exact ih h.2 (by omega)

/-- Reading the key that was written gives the value. -/
theorem tabGet_tabSet_same {l : List (Nat × α)} {lo : Option Nat} (k : Nat) (v : α) (h : tabOk dk lo l = true) :
    tabGet d (tabSet d l k v) k = v := by
  induction l generalizing lo with
  | nil => by_cases hv : v = d <;> simp [tabSet, tabGet, hv]
  | cons e t ih =>
    obtain ⟨k', v'⟩ := e
    have ht : tabOk dk (some k') t = true := by
      simp only [tabOk, Bool.and_eq_true] at h; exact h.2
    unfold tabSet
    split
    · rename_i hlt
      split
      · rename_i hv
        have : k ≠ k' := by omega
        simp only [tabGet, this, if_false, hv]
        exact tabGet_below ht (by omega)
      · simp [tabGet]
    · split
      · rename_i hk
        subst hk
        split
        · rename_i hv
          rw [hv]
          exact tabGet_below ht (Nat.le_refl _)
        · simp [tabGet]
      · rename_i hne
        simp only [tabGet, hne, if_false]
        exact ih ht

/-- Reading another key gives what it gave. -/
theorem tabGet_tabSet_other {e : α} (l : List (Nat × α)) {k j : Nat} (v : α) (h : j ≠ k) :
    tabGet e (tabSet d l k v) j = tabGet e l j := by
  induction l with
  | nil => by_cases hv : v = d <;> simp [tabSet, tabGet, hv, h]
  | cons x t ih =>
    obtain ⟨k', v'⟩ := x
    unfold tabSet
    split
    · split <;> simp [tabGet, h]
    · split
      · rename_i hk
        subst hk
        split <;> simp [tabGet, h]
      · simp only [tabGet]
        split <;> simp [ih]

/-- The canonical form asks less of a table with a lower bound on its keys. -/
theorem tabOk_weaken {l : List (Nat × α)} {lo lo' : Nat} (h : tabOk dk (some lo) l = true) (hl : lo' ≤ lo) :
    tabOk dk (some lo') l = true := by
  cases l with
  | nil => rfl
  | cons e t =>
    simp only [tabOk, Bool.and_eq_true, decide_eq_true_eq] at h ⊢
    exact ⟨⟨by omega, h.1.2⟩, h.2⟩

theorem tabOk_none {l : List (Nat × α)} {lo : Nat} (h : tabOk dk (some lo) l = true) : tabOk dk none l = true := by
  cases l with
  | nil => rfl
  | cons e t =>
    simp only [tabOk, Bool.and_eq_true] at h ⊢
    exact ⟨⟨trivial, h.1.2⟩, h.2⟩

/-- A write above the bound keeps the canonical form. -/
theorem tabOk_tabSet {l : List (Nat × α)} {lo : Option Nat} {k : Nat} (v : α) (hk : ∀ b, lo = some b → b < k)
    (h : tabOk dk lo l = true) : tabOk dk lo (tabSet (dk k) l k v) = true := by
  induction l generalizing lo with
  | nil =>
    by_cases hv : v = dk k
    · simp [tabSet, hv, tabOk]
    · cases lo with
      | none => simp [tabSet, hv, tabOk]
      | some b => simp [tabSet, hv, tabOk, hk b rfl]
  | cons e t ih =>
    obtain ⟨k', v'⟩ := e
    simp only [tabOk, Bool.and_eq_true, decide_eq_true_eq] at h
    obtain ⟨⟨hlo, hv'⟩, ht⟩ := h
    unfold tabSet
    split
    · rename_i hlt
      split
      · simp [tabOk, hlo, hv', ht]
      · rename_i hv
        simp only [tabOk, Bool.and_eq_true, decide_eq_true_eq]
        refine ⟨⟨?_, hv⟩, ⟨hlt, hv'⟩, ht⟩
        cases lo with
        | none => trivial
        | some b => simp [hk b rfl]
    · split
      · rename_i hkk
        subst hkk
        split
        · cases lo with
          | none => exact tabOk_none ht
          | some b => exact tabOk_weaken ht (by simpa using Nat.le_of_lt (hk b rfl))
        · rename_i hv
          simp only [tabOk, Bool.and_eq_true, decide_eq_true_eq]
          exact ⟨⟨hlo, hv⟩, ht⟩
      · simp only [tabOk, Bool.and_eq_true, decide_eq_true_eq]
        exact ⟨⟨hlo, hv'⟩, ih (fun b hb' => by cases hb'; omega) ht⟩

/-- A write keeps the canonical form. -/
theorem tabWf_tabSet {l : List (Nat × α)} (k : Nat) (v : α) (h : tabWf dk l = true) :
    tabWf dk (tabSet (dk k) l k v) = true := tabOk_tabSet v (by simp) h

theorem tabWf_tabSet_const {l : List (Nat × α)} (k : Nat) (v : α) (h : tabWf (fun _ => d) l = true) :
    tabWf (fun _ => d) (tabSet d l k v) = true := tabWf_tabSet k v h

/-- A run of writes keeps the canonical form. -/
theorem tabWf_tabSetRun {l : List (Nat × α)} (k : Nat) (vs : List α) (h : tabWf (fun _ => d) l = true) :
    tabWf (fun _ => d) (tabSetRun d l k vs) = true := by
  induction vs generalizing l k with
  | nil => exact h
  | cons v t ih => exact ih (k + 1) (tabWf_tabSet_const k v h)

/-- A run of writes leaves the keys outside it alone. -/
theorem tabGet_tabSetRun_other (l : List (Nat × α)) {k j : Nat} (vs : List α) (h : j < k ∨ k + vs.length ≤ j) :
    tabGet d (tabSetRun d l k vs) j = tabGet d l j := by
  induction vs generalizing l k with
  | nil => rfl
  | cons v t ih =>
    simp only [List.length_cons] at h
    unfold tabSetRun
    rw [ih _ (by omega), tabGet_tabSet_other _ _ (by omega)]

/-- Erasing entries keeps the canonical form. -/
theorem tabOk_filter {l : List (Nat × α)} {lo : Option Nat} (p : Nat × α → Bool) (h : tabOk dk lo l = true) :
    tabOk dk lo (l.filter p) = true := by
  induction l generalizing lo with
  | nil => rfl
  | cons e t ih =>
    obtain ⟨k, v⟩ := e
    simp only [tabOk, Bool.and_eq_true, decide_eq_true_eq] at h
    obtain ⟨⟨hlo, hv⟩, ht⟩ := h
    by_cases hp : p (k, v) = true
    · simp only [List.filter_cons, hp, if_true, tabOk, Bool.and_eq_true, decide_eq_true_eq]
      exact ⟨⟨hlo, hv⟩, ih ht⟩
    · simp only [List.filter_cons, hp]
      cases lo with
      | none => exact tabOk_none (ih ht)
      | some b => exact tabOk_weaken (ih ht) (by simp only [decide_eq_true_eq] at hlo; omega)

theorem tabWf_filter {l : List (Nat × α)} (p : Nat × α → Bool) (h : tabWf dk l = true) : tabWf dk (l.filter p) = true :=
  tabOk_filter p h

end Sys2Proof.Laws
end

