-- ==== Sys2Proof/Laws/Regs.lean ====
section
/-! SUPPORT. Laws of the register file: a field reads back what was written to it, and a write leaves every other field and every
other register alone. -/

namespace Sys2Proof.Laws

open Sys2Proof.Machine

/-- A word cut at a field: what lies above, the field, and what lies below. -/
theorem split_at_field (n hi lo : Nat) (h : lo ≤ hi) :
    n = n / 2 ^ (hi + 1) * 2 ^ (hi + 1) + natBits n hi lo * 2 ^ lo + n % 2 ^ lo := by
  have e : 2 ^ (hi + 1) = 2 ^ lo * 2 ^ (hi + 1 - lo) := by rw [← Nat.pow_add]; congr 1; omega
  unfold natBits
  rw [Nat.shiftRight_eq_div_pow, e, ← Nat.div_div_eq_div_mul]
  have h1 := Nat.div_add_mod n (2 ^ lo)
  have h2 := Nat.div_add_mod (n / 2 ^ lo) (2 ^ (hi + 1 - lo))
  have h3 : (n / 2 ^ lo) * 2 ^ lo = n / 2 ^ lo / 2 ^ (hi + 1 - lo) * (2 ^ lo * 2 ^ (hi + 1 - lo)) + n / 2 ^ lo % 2 ^ (hi + 1 - lo) * 2 ^ lo := by
    conv => lhs; rw [← h2]
    rw [Nat.add_mul]; congr 1; rw [Nat.mul_comm (2 ^ (hi + 1 - lo)), Nat.mul_assoc, Nat.mul_comm (2 ^ (hi + 1 - lo))]
  rw [← h3, Nat.mul_comm]; exact h1.symm

theorem natBits_lt (n hi lo : Nat) : natBits n hi lo < 2 ^ (hi + 1 - lo) := Nat.mod_lt _ (Nat.two_pow_pos _)

/-- The number of a word with a field replaced. -/
theorem withField_toNat (w : Word) {hi lo : Nat} (v : Nat) (h : lo ≤ hi) (hw : hi < 64) :
    (withField w hi lo v).toNat
      = w.toNat / 2 ^ (hi + 1) * 2 ^ (hi + 1) + v % 2 ^ (hi + 1 - lo) * 2 ^ lo + w.toNat % 2 ^ lo := by
  have hs := split_at_field w.toNat hi lo h
  have e : 2 ^ (hi + 1) = 2 ^ (hi + 1 - lo) * 2 ^ lo := by rw [← Nat.pow_add]; congr 1; omega
  have hv : v % 2 ^ (hi + 1 - lo) * 2 ^ lo + w.toNat % 2 ^ lo < 2 ^ (hi + 1) := by
    have h1 : v % 2 ^ (hi + 1 - lo) + 1 ≤ 2 ^ (hi + 1 - lo) := Nat.mod_lt _ (Nat.two_pow_pos _)
    have h2 := Nat.mul_le_mul_right (2 ^ lo) h1
    have h3 : w.toNat % 2 ^ lo < 2 ^ lo := Nat.mod_lt _ (Nat.two_pow_pos _)
    rw [e]; rw [Nat.add_mul] at h2; omega
  have hq : w.toNat / 2 ^ (hi + 1) + 1 ≤ 2 ^ (64 - (hi + 1)) := by
    have : w.toNat < 2 ^ (hi + 1) * 2 ^ (64 - (hi + 1)) := by
      rw [← Nat.pow_add, show hi + 1 + (64 - (hi + 1)) = 64 by omega]; exact w.isLt
    exact Nat.div_lt_of_lt_mul this
  have hm := Nat.mul_le_mul_right (2 ^ (hi + 1)) hq
  have e2 : 2 ^ (64 - (hi + 1)) * 2 ^ (hi + 1) = 2 ^ 64 := by rw [← Nat.pow_add]; congr 1; omega
  rw [e2, Nat.add_mul] at hm
  unfold withField
  simp only [BitVec.toNat_ofNat]
  rw [Nat.mod_eq_of_lt] <;> omega

/-- The field written reads as the value written. -/
theorem fieldOf_withField (w : Word) {hi lo v : Nat} (h : lo ≤ hi) (hw : hi < 64) (hv : v < 2 ^ (hi + 1 - lo)) :
    fieldOf (withField w hi lo v) hi lo = v := by
  unfold fieldOf natBits
  have e : 2 ^ (hi + 1) = 2 ^ (hi + 1 - lo) * 2 ^ lo := by rw [← Nat.pow_add]; congr 1; omega
  rw [withField_toNat w v h hw, Nat.shiftRight_eq_div_pow, Nat.mod_eq_of_lt hv, e, ← Nat.mul_assoc, ← Nat.add_mul,
    Nat.mul_comm _ (2 ^ lo), Nat.mul_add_div (Nat.two_pow_pos _), Nat.div_eq_of_lt (Nat.mod_lt _ (Nat.two_pow_pos _)), Nat.add_zero,
    Nat.mul_add_mod_self_right, Nat.mod_eq_of_lt hv]

/-- A field above the one written is as before. -/
theorem fieldOf_withField_above (w : Word) {hi lo hi' lo' : Nat} (v : Nat) (h : lo ≤ hi) (hw : hi < 64) (ha : hi < lo') :
    fieldOf (withField w hi lo v) hi' lo' = fieldOf w hi' lo' := by
  unfold fieldOf natBits
  have e : 2 ^ lo' = 2 ^ (hi + 1) * 2 ^ (lo' - (hi + 1)) := by rw [← Nat.pow_add]; congr 1; omega
  have e1 : 2 ^ (hi + 1) = 2 ^ (hi + 1 - lo) * 2 ^ lo := by rw [← Nat.pow_add]; congr 1; omega
  have hb : v % 2 ^ (hi + 1 - lo) * 2 ^ lo + w.toNat % 2 ^ lo < 2 ^ (hi + 1) := by
    have h1 : v % 2 ^ (hi + 1 - lo) + 1 ≤ 2 ^ (hi + 1 - lo) := Nat.mod_lt _ (Nat.two_pow_pos _)
    have h2 := Nat.mul_le_mul_right (2 ^ lo) h1
    have h3 : w.toNat % 2 ^ lo < 2 ^ lo := Nat.mod_lt _ (Nat.two_pow_pos _)
    rw [e1]; rw [Nat.add_mul] at h2; omega
  rw [withField_toNat w v h hw, Nat.shiftRight_eq_div_pow, Nat.shiftRight_eq_div_pow, e, ← Nat.div_div_eq_div_mul,
    ← Nat.div_div_eq_div_mul, Nat.add_assoc, Nat.mul_comm _ (2 ^ (hi + 1)), Nat.mul_add_div (Nat.two_pow_pos _),
    Nat.div_eq_of_lt hb, Nat.add_zero]

/-- A field below the one written is as before. -/
theorem fieldOf_withField_below (w : Word) {hi lo hi' lo' : Nat} (v : Nat) (h : lo ≤ hi) (hw : hi < 64) (hb : hi' < lo)
    (h' : lo' ≤ hi') : fieldOf (withField w hi lo v) hi' lo' = fieldOf w hi' lo' := by
  unfold fieldOf natBits
  have key : ∀ n m : Nat, n % 2 ^ lo = m % 2 ^ lo → n >>> lo' % 2 ^ (hi' + 1 - lo') = m >>> lo' % 2 ^ (hi' + 1 - lo') := by
    intro n m hnm
    have e : 2 ^ lo = 2 ^ lo' * (2 ^ (hi' + 1 - lo') * 2 ^ (lo - (hi' + 1))) := by
      rw [← Nat.pow_add, ← Nat.pow_add]; congr 1; omega
    rw [Nat.shiftRight_eq_div_pow, Nat.shiftRight_eq_div_pow]
    have f : ∀ k : Nat, k / 2 ^ lo' % 2 ^ (hi' + 1 - lo') = (k % 2 ^ lo) / 2 ^ lo' % 2 ^ (hi' + 1 - lo') := by
      intro k
      rw [e, Nat.mod_mul_right_div_self, Nat.mod_mul_right_mod]
    rw [f n, f m, hnm]
  refine key _ _ ?_
  rw [withField_toNat w v h hw]
  have e : 2 ^ (hi + 1) = 2 ^ (hi + 1 - lo) * 2 ^ lo := by rw [← Nat.pow_add]; congr 1; omega
  rw [e, ← Nat.mul_assoc, ← Nat.add_mul, Nat.mul_add_mod_self_right, Nat.mod_mod]

/-! ### Registers of a state -/

/-- The register table is in canonical form. -/
theorem regs_setRg {s : State} (o : Nat) (v : Word) (h : tabWf regReset s.regs = true) :
    tabWf regReset (setRg o v s).regs = true := tabWf_tabSet o v h

theorem regs_setRf {s : State} (o hi lo v : Nat) (h : tabWf regReset s.regs = true) :
    tabWf regReset (setRf o hi lo v s).regs = true := regs_setRg o _ h

theorem rg_setRg_same {s : State} (o : Nat) (v : Word) (h : tabWf regReset s.regs = true) : rg (setRg o v s) o = v :=
  tabGet_tabSet_same o v h

theorem rg_setRg_other (s : State) {o o' : Nat} (v : Word) (h : o' ≠ o) : rg (setRg o v s) o' = rg s o' :=
  tabGet_tabSet_other s.regs v h

theorem rg_setRf_other (s : State) {o o' : Nat} (hi lo v : Nat) (h : o' ≠ o) : rg (setRf o hi lo v s) o' = rg s o' :=
  rg_setRg_other s _ h

theorem rf_setRf_other (s : State) {o o' : Nat} (hi lo v hi' lo' : Nat) (h : o' ≠ o) :
    rf (setRf o hi lo v s) o' hi' lo' = rf s o' hi' lo' := by unfold rf; rw [rg_setRf_other s hi lo v h]

theorem rf_setRf_same {s : State} {o hi lo v : Nat} (hr : tabWf regReset s.regs = true) (h : lo ≤ hi) (hw : hi < 64)
    (hv : v < 2 ^ (hi + 1 - lo)) : rf (setRf o hi lo v s) o hi lo = v := by
  unfold rf setRf
  rw [rg_setRg_same _ _ hr, fieldOf_withField _ h hw hv]

theorem rf_setRf_above {s : State} {o hi lo hi' lo' : Nat} (v : Nat) (hr : tabWf regReset s.regs = true) (h : lo ≤ hi)
    (hw : hi < 64) (ha : hi < lo') : rf (setRf o hi lo v s) o hi' lo' = rf s o hi' lo' := by
  unfold rf setRf
  rw [rg_setRg_same _ _ hr, fieldOf_withField_above _ _ h hw ha]

theorem rf_setRf_below {s : State} {o hi lo hi' lo' : Nat} (v : Nat) (hr : tabWf regReset s.regs = true) (h : lo ≤ hi)
    (hw : hi < 64) (hb : hi' < lo) (h' : lo' ≤ hi') : rf (setRf o hi lo v s) o hi' lo' = rf s o hi' lo' := by
  unfold rf setRf
  rw [rg_setRg_same _ _ hr, fieldOf_withField_below _ _ h hw hb h']

end Sys2Proof.Laws
end

