-- ==== Sys2Proof/Laws/Commands.lean ====
section
/-! SUPPORT. What a ready command does, once for each of the shared rows: a Swage instruction, an engine word, and a row of Prefen's by
queue or mailbox or from a message of the group. -/

namespace Sys2Proof.Machine

/-- A ready unit's instruction acts on the begun state, and ends or faults. -/
theorem unitStep_ready {n : Fin 20} {u : Fin 512} {w : Nat} {s : State} (h : UnitReady n u w s) (op : Nat) (hd : miDefined op = true)
    (hop : miOp w = op) (act) :
   unitStep n u op act s = .next (match act w (unitNext n u s) (unitBegun n u s) with
     | .stop code t => unitFault n u (unitAt s n u).pc code t
     | .go t x => unitEnded n u x t) := by
  obtain ⟨h1,h2,h3,h4,h5,h6,h7⟩ := h
  subst hop
  have hc : ((stackRun s n).phase != 3 || (unitAt s n u).isDone || (hearth s (hxStack n)).halted || stackDead s n) = false := by
    simp [h2,h3,h4,h5]
  unfold unitStep
  simp only [hc, Bool.false_eq_true, if_false, if_neg (Nat.not_lt.mpr h6), h7, hd, Bool.not_true, bne_self_eq_false]
  show (match act w (unitNext n u s) (unitBegun n u s) with | .stop code s => _ | .go s x => _) = _
  cases act w (unitNext n u s) (unitBegun n u s) <;> rfl

/-- A ready engine word acts on the state it starts from, and has run, is rejected or stops its core. -/
theorem engineRun_ready {a : Fin 4} {c k : Fin 16} {eng : Nat} {w : EngWord} {s : State} (h : EngineReady a c k eng w s) (op : Nat)
   (hop : ewOp w = op) (act) :
   live s (engineRun a c k eng op act s) = .next (match act (engStart a c k eng w s).2 (engStart a c k eng w s).1 with
     | .reject => rejectWord a c k eng w s
     | .stop t code prog => engineFault a c k eng code w (if prog = 0 then 0 else 1) prog (latchFound (engStart a c k eng w s).2.who t)
     | .fin t exc prog => wordRan (engStart a c k eng w s).2 eng exc prog t) := by
  obtain ⟨h1,h2,h3,h4,h5,h6⟩ := h
  subst hop
  have hc : (!ewDefined eng (ewOp w) || decide (2 ≤ ewRound w)) = false := by simp [h3]; omega
  have hc2 : (ewOp w != ewOp w || !waitHolds (coreSt s (coreNo a.val c.val k.val)) w) = false := by simp [h5]
  rw [live, if_pos h1]
  unfold engineRun
  simp only [h2, hc, Bool.false_eq_true, if_false, hc2, h6, Bool.not_true]
  show (match act (engStart a c k eng w s).2 (engStart a c k eng w s).1 with | .reject => _ | .stop _ _ _ => _ | .fin _ _ _ => _) = _
  cases act (engStart a c k eng w s).2 (engStart a c k eng w s).1 <;> rfl

/-- A row of Prefen's answers with its effect, or with what its accesses wait for set going. -/
theorem prefenRow_next (i : Instr) (s t : State) (act) (h : exec i s = prefenRow s act) (hr : running s = true)
    (ha : act (prefenStart s) = .next t) :
  prefenAnswers i s t := by
  unfold prefenAnswers
  rw [h, prefenRow, live, if_pos hr, show ({ s with blocked := [] } : State) = prefenStart s from rfl, ha]
  constructor <;> intro hb
  · simp [hb]
  · have : t.blocked.isEmpty = false := by cases hh : t.blocked <;> simp_all
    simp [this]

/-- A ready command at the head of a Prefen queue acts on its words. -/
theorem queueCmd_ready {q : BitVec 20} {op slots : Nat} {s : State} (h : CmdReady (.queue q) op slots s) (h17 : op ≤ 0x17) (act) :
   queueCmd q.toNat op slots act (prefenStart s) = .next (act (cmdCaller (.queue q) s) (queueWords q s) (cmdStart (.queue q) s)) := by
  obtain ⟨h0, h1, h2, h3, h4, h5, h6, h7, h8, h9, h10, h11, h12, h13⟩ := h
  have g : (!prefenReady (prefenStart s) || !groupFree (prefenStart s) || !serialFree (prefenStart s) || !canTake (prefenStart s) q.toNat
      || (queue (prefenStart s) q.toNat).ckind != 1 || (headHdr (prefenStart s) q.toNat).cls != op) = false := by
    show (!prefenReady s || !groupFree s || !serialFree s || !canTake s q.toNat
      || (queue s q.toNat).ckind != 1 || (headHdr s q.toNat).cls != op) = false
    simp [h1,h2,h3,h5,h6,h7]
  have g0 : (prefenReady (prefenStart s) && (queue (prefenStart s) q.toNat).ckind == 1 && needSlots (prefenStart s) q.toNat) = false := by
    show (prefenReady s && (queue s q.toNat).ckind == 1 && needSlots s q.toNat) = false
    simp [h4]
  unfold queueCmd
  simp only [g0, g, Bool.false_eq_true, if_false]
  unfold withHead
  have e : takeCmd q.toNat (prefenStart s) = queueTaken q s := rfl
  simp only [e, h8, h9, h10, h11, h12, h13, Bool.false_eq_true, if_false]
  simp [Nat.not_lt.mpr h17]
  rfl

/-- A ready mailbox request acts on its payload. -/
theorem mbCmd_ready {m : Fin 16} {op slots : Nat} {s : State} (h : CmdReady (.mailbox m) op slots s) (act) :
   mbCmd m.val op act (prefenStart s) = .next (act (cmdWords (.mailbox m) s) (cmdStart (.mailbox m) s)) := by
  obtain ⟨-, h⟩ := h
  have g : mbHas (prefenStart s) m.val op = true := by rw [← h]; rfl
  simp only [mbCmd, g, Bool.not_true, Bool.false_eq_true, if_false]
  rfl

/-- A ready command acts alike from a mailbox and from a queue. -/
theorem eitherCmd_ready {src : CmdSrc} {op : Nat} {s : State} (h : CmdReady src op 1 s) (h17 : op ≤ 0x17) (act) :
   eitherCmd src op act (prefenStart s) = .next (act (cmdCaller src s) (cmdWords src s) (cmdStart src s)) := by
  cases src with
  | mailbox m => simp only [eitherCmd]; rw [mbCmd_ready h]; rfl
  | queue q => simp only [eitherCmd]; rw [queueCmd_ready h h17]; rfl

/-- A ready command at the head of a Prefen queue answers with what its row makes of its words. -/
theorem queue_answers {q : BitVec 20} {op slots : Nat} {s : State} (i : Instr) (act : Caller → List Nat → State → State)
    (h : CmdReady (.queue q) op slots s) (h17 : op ≤ 0x17) (hi : exec i s = prefenRow s (queueCmd q.toNat op slots act)) :
    prefenAnswers i s (act (cmdCaller (.queue q) s) (queueWords q s) (cmdStart (.queue q) s)) :=
  prefenRow_next i s _ _ hi h.1 (queueCmd_ready h h17 act)

/-- A ready mailbox request answers with what its row makes of its payload. -/
theorem mb_answers {m : Fin 16} {op slots : Nat} {s : State} (i : Instr) (act : List Nat → State → State)
    (h : CmdReady (.mailbox m) op slots s) (hi : exec i s = prefenRow s (mbCmd m.val op act)) :
    prefenAnswers i s (act (cmdWords (.mailbox m) s) (cmdStart (.mailbox m) s)) :=
  prefenRow_next i s _ _ hi h.1 (mbCmd_ready h act)

/-- A ready command that comes either way answers with what its row makes of its words. -/
theorem either_answers {src : CmdSrc} {op : Nat} {s : State} (i : Instr) (act : Caller → List Nat → State → State)
    (h : CmdReady src op 1 s) (h17 : op ≤ 0x17) (hi : exec i s = prefenRow s (eitherCmd src op act)) :
    prefenAnswers i s (act (cmdCaller src s) (cmdWords src s) (cmdStart src s)) :=
  prefenRow_next i s _ _ hi h.1 (eitherCmd_ready h h17 act)

/-- A MSG in its turn does what its row says, and then what waited behind it is delivered. -/
theorem msgIn_ready {pid : Nat} {s : State} (h : MsgReady pid s) (act) :
    msgIn pid act s = .next (msgEnded pid (act (msgBegun pid s))) := by
  obtain ⟨-, h1, h2⟩ := h
  simp only [msgIn, h1, h2, bne_self_eq_false, Bool.or_self, Bool.false_eq_true, if_false]
  rfl

/-! ### Responses -/

open Sys2Proof.Laws

/-- A list of updates that each leave a register alone leaves it alone. -/
theorem rg_overList {α : Type} (o : Nat) (f : α → State → State) (l : List α) (h : ∀ a ∈ l, ∀ s, rg (f a s) o = rg s o) :
    ∀ s, rg (overList f l s) o = rg s o := by
  induction l with
  | nil => intro s; rfl
  | cons a t ih =>
    intro s
    rw [overList, ih (fun b hb => h b (List.mem_cons_of_mem a hb)), h a List.mem_cons_self]

theorem rg_msixRaise {v o : Nat} (s : State) (hv : v < 2 ^ 11) (h : 0x200000 ≤ o) : rg (msixRaise v s) o = rg s o := by
  unfold msixRaise
  split
  · rfl
  · split
    · rfl
    · exact rg_setRf_other s _ _ _ (by simp only [msixPbaReg]; omega)

/-- A response writes its mailbox's registers only, and a vector's pending bit: no register of the stacks, the Anvils or the fabric. -/
theorem rg_respond {m st : Nat} (words : List Nat) (s : State) {o : Nat} (hm : m < 16) (h : 0x200000 ≤ o) :
    rg (respond m st words s) o = rg s o := by
  have hw (l : List Nat) : rg (overList (fun k s => setRg (mbReg m (0x800 + 8 * k)) (BitVec.ofNat 64 (nth l k 0)) s) (List.range 128) s) o =
      rg s o :=
    rg_overList o _ _ (fun k hk s => rg_setRg_other s _ (by have := List.mem_range.mp hk; simp only [mbReg]; omega)) s
  have hs (x : Mbox) (t : State) (e : rg t o = rg s o) : rg (setRf (mbReg m 8) 63 60 2 (setMbox m x t)) o = rg s o := by
    rw [rg_setRf_other _ _ _ _ (by simp only [mbReg]; omega)]; exact e
  have hr (t : State) (e : rg t o = rg s o) : rg (if rf t (mbReg m 0x10) 63 63 = 1 then msixRaise (rf t (mbReg m 0x10) 42 32) t else t) o =
      rg s o := by
    split
    · rw [rg_msixRaise t (v := rf t (mbReg m 0x10) 42 32) (natBits_lt _ 42 32) h, e]
    · exact e
  exact hr _ (hs _ _ (hw _))

theorem msixRaise_frame (v : Nat) (s : State) : ∃ r o, msixRaise v s = { s with regs := r, out := o } := by
  unfold msixRaise
  split
  · exact ⟨_, _, rfl⟩
  · split <;> exact ⟨_, _, rfl⟩

theorem overList_setRg (m : Nat) (l : List Nat) : ∀ (ks : List Nat) (s : State),
    ∃ r, overList (fun k s => setRg (mbReg m (0x800 + 8 * k)) (BitVec.ofNat 64 (nth l k 0)) s) ks s = { s with regs := r } := by
  intro ks
  induction ks with
  | nil => intro s; exact ⟨_, rfl⟩
  | cons k t ih =>
    intro s
    obtain ⟨r, h⟩ := ih (setRg (mbReg m (0x800 + 8 * k)) (BitVec.ofNat 64 (nth l k 0)) s)
    exact ⟨r, h⟩

/-- All that a response changes: registers, messages to the host, and the request taken out of its mailbox. -/
theorem respond_frame (m st : Nat) (words : List Nat) (s : State) : ∃ r o,
    respond m st words s = { s with regs := r, out := o, prefen := (setMbox m { mbox s m with taken := false } s).prefen } := by
  have hr (t : State) : ∃ r o, (if rf t (mbReg m 0x10) 63 63 = 1 then msixRaise (rf t (mbReg m 0x10) 42 32) t else t) =
      { t with regs := r, out := o } := by
    split
    · exact msixRaise_frame _ _
    · exact ⟨_, _, rfl⟩
  unfold respond
  dsimp only
  generalize (if st = 0 then words else []) = ws
  obtain ⟨r, h⟩ := overList_setRg m ((natBits (nth (mbox s m).req 0 (rg s (mbReg m 0x400)).toNat) 63 48 * 2 ^ 48 + 8 * ws.length * 2 ^ 32 + st * 2 ^ 16)
    :: nth (mbox s m).req 1 0 :: ws) (List.range 128) s
  rw [h]
  exact hr _

end Sys2Proof.Machine
end

