-- ==== Sys2Proof/Laws/Memory.lean ====
section
/-! SUPPORT. Laws of the memory operations: each of them keeps the canonical form of memory and registers, the reset state has it, a
stored word reads back, and a stored word leaves the bytes of every other physical word alone. -/

namespace Sys2Proof.Laws

open Sys2Proof.Machine

/-! ### The canonical form -/

theorem reset_wf : State.reset.wf = true := by decide

/-- The canonical form speaks of memory and registers alone. -/
theorem wf_congr {s t : State} (hm : t.mem = s.mem) (hr : t.regs = s.regs) (h : s.wf = true) : t.wf = true := by
  unfold State.wf at *
  rw [hm, hr]
  exact h

theorem wf_regs {s : State} (h : s.wf = true) : tabWf regReset s.regs = true := by
  simp only [State.wf, Bool.and_eq_true] at h
  exact h.2

theorem wf_mem {s : State} (h : s.wf = true) : s.mem.wf = true := by
  simp only [State.wf, Bool.and_eq_true] at h
  exact h.1

theorem mem_wf_iff (m : Memory) : m.wf = true ↔ tabWf (fun _ => 0) m.cells = true ∧ tabWf (fun _ => 0) m.chk = true ∧
    tabWf (fun _ => 0) m.poison = true ∧ tabWf (fun _ => 0) m.valid = true := by
  simp only [Memory.wf, Bool.and_eq_true, and_assoc]

/-- A state with the registers of a canonical one and a canonical memory is canonical. -/
theorem wf_of_mem {s : State} {m : Memory} (hm : m.wf = true) (h : s.wf = true) : { s with mem := m }.wf = true := by
  simp only [State.wf, Bool.and_eq_true]
  exact ⟨hm, wf_regs h⟩

theorem wf_setRg (o : Nat) (v : Word) {s : State} (h : s.wf = true) : (setRg o v s).wf = true := by
  simp only [State.wf, Bool.and_eq_true]
  exact ⟨(show s.mem.wf = true from wf_mem h), regs_setRg o v (wf_regs h)⟩

theorem wf_setRf (o hi lo v : Nat) {s : State} (h : s.wf = true) : (setRf o hi lo v s).wf = true := wf_setRg o _ h
theorem wf_bumpRf (o hi lo k : Nat) {s : State} (h : s.wf = true) : (bumpRf o hi lo k s).wf = true := wf_setRf o hi lo _ h
theorem wf_satRf (o hi lo k : Nat) {s : State} (h : s.wf = true) : (satRf o hi lo k s).wf = true := wf_setRf o hi lo _ h

theorem wf_resetRegsIf (p : Nat → Bool) {s : State} (h : s.wf = true) : (resetRegsIf p s).wf = true := by
  simp only [State.wf, Bool.and_eq_true]
  exact ⟨(show s.mem.wf = true from wf_mem h), tabWf_filter _ (wf_regs h)⟩

/-- A change repeated over a list keeps what each change keeps. -/
theorem overList_keeps {σ α : Type} {p : σ → Prop} {f : α → σ → σ} (hf : ∀ x s, p s → p (f x s)) (l : List α) {s : σ} (h : p s) :
    p (overList f l s) := by
  induction l generalizing s with
  | nil => exact h
  | cons x t ih => exact ih (hf x s h)

/-- The same for changes that also yield results. -/
theorem collect_keeps {σ α β : Type} {p : σ → Prop} {f : α → σ → σ × β} (hf : ∀ x s, p s → p (f x s).1) (l : List α) {s : σ} (h : p s) :
    p (collect f l s).1 := by
  induction l generalizing s with
  | nil => exact h
  | cons x t ih => exact ih (hf x s h)

theorem whenSt_keeps {p : State → Prop} {f : State → State} {c : Bool} {s : State} (hf : p s → p (f s)) (h : p s) : p (whenSt c f s) := by
  cases c
  · exact h
  · exact hf h

theorem wf_resetRegs (l : List Nat) {s : State} (h : s.wf = true) : (resetRegs l s).wf = true :=
  overList_keeps (p := fun s : State => s.wf = true) (fun o _ hs => wf_setRg o _ hs) l h

/-! ### Events and counters of the stored code -/

theorem wf_latchEvent (kind space addr : Nat) (who : Who) {s : State} (h : s.wf = true) : (latchEvent kind space addr who s).wf = true := by
  unfold latchEvent
  dsimp only
  split
  · exact wf_setRf _ _ _ _ h
  · exact wf_setRg _ _ (wf_setRg _ _ h)

theorem wf_meetEvent (kind space addr : Nat) (who : Who) {s : State} (h : s.wf = true) : (meetEvent kind space addr who s).wf = true := by
  unfold meetEvent
  split
  · exact wf_congr rfl rfl h
  · exact wf_latchEvent _ _ _ _ h

theorem wf_latchFound (who : Who) {s : State} (h : s.wf = true) : (latchFound who s).wf = true := by
  have h' : { s with found := [] }.wf = true := wf_congr rfl rfl h
  unfold latchFound
  dsimp only
  split
  · exact wf_latchEvent _ _ _ _ h'
  · split
    · exact wf_latchEvent _ _ _ _ h'
    · exact h'

theorem wf_countCorr (space a : Nat) {s : State} (h : s.wf = true) : (countCorr space a s).wf = true := wf_bumpRf _ _ _ _ h
theorem wf_countPoisonRd (space a : Nat) {s : State} (h : s.wf = true) : (countPoisonRd space a s).wf = true := wf_satRf _ _ _ _ h
theorem wf_countUncorr (space a : Nat) {s : State} (h : s.wf = true) : (countUncorr space a s).wf = true := wf_satRf _ _ _ _ h
theorem wf_countRetries (n k : Nat) {s : State} (h : s.wf = true) : (countRetries n k s).wf = true := wf_satRf _ _ _ _ h

theorem wf_countSymbol (n ch byte diff : Nat) {s : State} (h : s.wf = true) : (countSymbol n ch byte diff s).wf = true := by
  refine overList_keeps (p := fun s : State => s.wf = true) (fun b s hs => ?_) _ h
  split
  · exact wf_congr rfl rfl hs
  · exact hs

/-! ### Rows and words -/

theorem wf_setValid (space pa : Nat) (b : Bool) {s : State} (h : s.wf = true) : (setValid space pa b s).wf = true := by
  obtain ⟨h1, h2, h3, h4⟩ := (mem_wf_iff _).1 (wf_mem h)
  exact wf_of_mem ((mem_wf_iff _).2 ⟨h1, h2, h3, tabWf_tabSet_const _ _ h4⟩) h

theorem wf_fixValid (space a pa : Nat) {s : State} (h : s.wf = true) : (fixValid space a pa s).wf = true := by
  unfold fixValid
  dsimp only
  split
  · exact h
  · exact wf_countCorr _ _ (wf_setValid _ _ _ h)

theorem wf_wipeRun (key n : Nat) {s : State} (h : s.wf = true) : (wipeRun key n s).wf = true := by
  obtain ⟨h1, h2, h3, h4⟩ := (mem_wf_iff _).1 (wf_mem h)
  exact wf_of_mem ((mem_wf_iff _).2 ⟨tabWf_filter _ h1, tabWf_filter _ h2, tabWf_filter _ h3, h4⟩) h

theorem wf_fillRow (space a pa : Nat) {s : State} (h : s.wf = true) : (fillRow space a pa s).wf = true := by
  unfold fillRow
  dsimp only
  split
  · exact wf_fixValid _ _ _ h
  · exact wf_setValid _ _ _ (wf_wipeRun _ _ (wf_fixValid _ _ _ h))

theorem wf_rawStore (pa : Nat) (data : List Byte) (chk : List Nat) {s : State} (h : s.wf = true) : (rawStore pa data chk s).wf = true := by
  obtain ⟨h1, h2, h3, h4⟩ := (mem_wf_iff _).1 (wf_mem h)
  exact wf_of_mem ((mem_wf_iff _).2 ⟨tabWf_tabSetRun _ _ h1, tabWf_tabSetRun _ _ h2, h3, h4⟩) h

theorem wf_rewritePoison (a pa : Nat) (data : List Byte) {s : State} (h : s.wf = true) : (rewritePoison a pa data s).wf = true :=
  wf_countUncorr _ _ (wf_rawStore _ _ _ h)

theorem wf_afterWrite (a : Nat) (data : List Byte) (p : Bool) {s : State} (h : s.wf = true) : (afterWrite a data p s).wf = true := by
  unfold afterWrite
  dsimp only
  split
  · exact overList_keeps (p := fun s : State => s.wf = true) (fun _ _ hs => wf_latchEvent _ _ _ _ (wf_countPoisonRd _ _ hs)) _
      (wf_congr rfl rfl h)
  · exact wf_congr rfl rfl h

theorem wf_wordCorr (a : Nat) {s : State} (h : s.wf = true) : (wordCorr a s).wf = true :=
  wf_congr rfl rfl (wf_countCorr 4 a h)

theorem wf_smStore (a : Nat) (data : List Byte) (p : Bool) {s : State} (h : s.wf = true) : (smStore a data p s).wf = true :=
  wf_afterWrite _ _ _ (wf_rawStore _ _ _ (wf_fillRow _ _ _ h))

theorem wf_smReadWord (who : Who) (inBank : Bool) (a : Nat) {s : State} (h : s.wf = true) : (smReadWord who inBank a s).1.wf = true := by
  unfold smReadWord
  have h' := wf_fixValid 4 a (if inBank = true then layerPhys s a else smPhys s a) h
  dsimp only
  revert h'
  generalize fixValid 4 a (if inBank = true then layerPhys s a else smPhys s a) s = u
  intro h'
  split
  · exact h'
  · exact h'
  · exact wf_meetEvent _ _ _ _ h'
  · split
    · exact wf_wordCorr _ h'
    · exact wf_countSymbol _ _ _ _ (wf_wordCorr _ h')
  · refine wf_meetEvent _ _ _ _ (wf_rewritePoison _ _ _ ?_)
    split
    · exact h'
    · exact wf_countRetries _ _ h'

theorem wf_smWriteWord (who : Who) (a off : Nat) (bs : List PByte) {s : State} (h : s.wf = true) : (smWriteWord who a off bs s).wf = true := by
  unfold smWriteWord
  have h' := wf_fixValid 4 a (smPhys s a) h
  dsimp only
  revert h'
  generalize fixValid 4 a (smPhys s a) s = u
  intro h'
  split
  · exact wf_smStore _ _ _ h'
  · split
    · exact wf_meetEvent _ _ _ _ h'
    · exact wf_meetEvent _ _ _ _ (wf_rewritePoison _ _ _ h')
    · exact wf_smStore _ _ _ (wf_wordCorr _ h')
    · exact wf_smStore _ _ _ h'

theorem wf_setSramWord (space a w chk : Nat) (pois : BitVec 3) {s : State} (h : s.wf = true) : (setSramWord space a w chk pois s).wf = true := by
  obtain ⟨h1, h2, h3, h4⟩ := (mem_wf_iff _).1 (wf_mem h)
  exact wf_of_mem ((mem_wf_iff _).2 ⟨tabWf_tabSetRun _ _ h1, tabWf_tabSet_const _ _ h2, tabWf_tabSet_const _ _ h3, h4⟩) h

theorem wf_sramStore (space a w : Nat) (p : Bool) {s : State} (h : s.wf = true) : (sramStore space a w p s).wf = true :=
  wf_setSramWord _ _ _ _ _ (wf_fillRow _ _ _ h)

theorem wf_sramReadWord (who : Who) (space a : Nat) {s : State} (h : s.wf = true) : (sramReadWord who space a s).1.wf = true := by
  have h' := wf_fixValid space a a h
  unfold sramReadWord
  dsimp only
  split
  · exact h'
  · exact h'
  · exact wf_countCorr _ _ (wf_setSramWord _ _ _ _ _ h')
  · exact wf_meetEvent _ _ _ _ h'
  · exact wf_meetEvent _ _ _ _ (wf_countUncorr _ _ (wf_setSramWord _ _ _ _ _ h'))

theorem wf_sramWriteWord (who : Who) (space a off : Nat) (bs : List PByte) {s : State} (h : s.wf = true) :
    (sramWriteWord who space a off bs s).wf = true := by
  unfold sramWriteWord
  have h' := wf_fixValid space a a h
  dsimp only
  revert h'
  generalize fixValid space a a s = u
  intro h'
  split
  · exact wf_sramStore _ _ _ _ h'
  · split
    · exact wf_meetEvent _ _ _ _ h'
    · exact wf_meetEvent _ _ _ _ (wf_countUncorr _ _ (wf_setSramWord _ _ _ _ _ h'))
    · exact wf_sramStore _ _ _ _ (wf_countCorr _ _ h')
    · exact wf_sramStore _ _ _ _ h'

theorem wf_hmWriteWord (a off : Nat) (bs : List PByte) {s : State} (h : s.wf = true) : (hmWriteWord a off bs s).wf = true := by
  obtain ⟨h1, h2, h3, h4⟩ := (mem_wf_iff _).1 (wf_mem h)
  exact wf_of_mem ((mem_wf_iff _).2 ⟨tabWf_tabSetRun _ _ h1, h2, tabWf_tabSet_const _ _ h3, h4⟩) h

/-! ### Runs of bytes -/

theorem wf_readWord (who : Who) (inBank : Bool) (space a : Nat) {s : State} (h : s.wf = true) : (readWord who inBank space a s).1.wf = true := by
  unfold readWord
  split
  · exact wf_smReadWord _ _ _ h
  · split
    · show (if _ then _ else _ : State).wf = true
      split
      · exact wf_congr rfl rfl h
      · exact h
    · exact wf_sramReadWord _ _ _ h

theorem wf_writeWord (who : Who) (space a off : Nat) (bs : List PByte) {s : State} (h : s.wf = true) :
    (writeWord who space a off bs s).wf = true := by
  unfold writeWord
  split
  · exact wf_smWriteWord _ _ _ _ h
  · split
    · exact wf_hmWriteWord _ _ _ h
    · exact wf_sramWriteWord _ _ _ _ _ h

theorem wf_readWords (who : Who) (inBank : Bool) (space k a : Nat) {s : State} (h : s.wf = true) :
    (readWords who inBank space a k s).1.wf = true := by
  induction k generalizing a s with
  | zero => exact h
  | succ k ih => exact ih _ (wf_readWord who inBank space a h)

theorem wf_readPiece (who : Who) (inBank : Bool) (space a k : Nat) {s : State} (h : s.wf = true) :
    (readPiece who inBank space a k s).1.wf = true := by
  have h' := wf_readWords { who with compute := true } inBank space k a (wf_congr rfl rfl h : { s with found := [] }.wf = true)
  unfold readPiece
  dsimp only
  have ht : ∀ t : State, t.wf = true → ∀ b : Bool, (if b = true then countPoisonRd space a t else t).wf = true := by
    intro t hw b
    cases b
    · exact hw
    · exact wf_countPoisonRd _ _ hw
  split
  · exact wf_congr rfl rfl (ht _ h' _)
  · exact wf_congr rfl rfl (wf_latchFound who (ht _ h' _))

theorem wf_readPieces (who : Who) (inBank : Bool) (space pw fuel i k : Nat) {s : State} (h : s.wf = true) :
    (readPieces who inBank space pw fuel i k s).1.wf = true := by
  induction fuel generalizing i k s with
  | zero => exact h
  | succ f ih =>
    unfold readPieces
    dsimp only
    split
    · exact h
    · exact ih _ _ (wf_readPiece _ _ _ _ _ h)

theorem wf_memRead (who : Who) (inBank : Bool) (space a n : Nat) {s : State} (h : s.wf = true) : (memRead who inBank space a n s).1.wf = true := by
  unfold memRead
  split
  · exact h
  · exact wf_readPieces _ _ _ _ _ _ _ h

theorem wf_writeWords (who : Who) (space fuel a : Nat) (bs : List PByte) {s : State} (h : s.wf = true) :
    (writeWords who space fuel a bs s).wf = true := by
  induction fuel generalizing a bs s with
  | zero => exact h
  | succ f ih =>
    unfold writeWords
    dsimp only
    split
    · exact h
    · exact ih _ _ (wf_writeWord _ _ _ _ _ h)

theorem wf_memWrite (who : Who) (space a : Nat) (bs : List PByte) {s : State} (h : s.wf = true) : (memWrite who space a bs s).wf = true :=
  wf_writeWords _ _ _ _ _ h

theorem wf_memWriteNat (who : Who) (space a k n : Nat) {s : State} (h : s.wf = true) : (memWriteNat who space a k n s).wf = true :=
  wf_memWrite _ _ _ _ h

theorem wf_memReadNat (who : Who) (space a k : Nat) {s : State} (h : s.wf = true) : (memReadNat who space a k s).1.wf = true :=
  wf_memRead _ _ _ _ _ h

end Sys2Proof.Laws
end

