-- ==== Sys2Proof/Laws/State.lean ====
section
/-! SUPPORT. What each elementary update leaves alone: one law for each update and each field that it does not write. -/

namespace Sys2Proof.Laws

open Sys2Proof.Machine

section setRg

variable (off : Nat) (v : Word) (s : State)

@[simp] theorem setRg_time : (setRg off v s).time = s.time := rfl
@[simp] theorem setRg_sclkFrom : (setRg off v s).sclkFrom = s.sclkFrom := rfl
@[simp] theorem setRg_free : (setRg off v s).free = s.free := rfl
@[simp] theorem setRg_mem : (setRg off v s).mem = s.mem := rfl
@[simp] theorem setRg_blocked : (setRg off v s).blocked = s.blocked := rfl
@[simp] theorem setRg_found : (setRg off v s).found = s.found := rfl
@[simp] theorem setRg_lanes : (setRg off v s).lanes = s.lanes := rfl
@[simp] theorem setRg_laneDue : (setRg off v s).laneDue = s.laneDue := rfl
@[simp] theorem setRg_spareBad : (setRg off v s).spareBad = s.spareBad := rfl
@[simp] theorem setRg_up : (setRg off v s).up = s.up := rfl
@[simp] theorem setRg_hearths : (setRg off v s).hearths = s.hearths := rfl
@[simp] theorem setRg_tags : (setRg off v s).tags = s.tags := rfl
@[simp] theorem setRg_fltHearths : (setRg off v s).fltHearths = s.fltHearths := rfl
@[simp] theorem setRg_fltSeq : (setRg off v s).fltSeq = s.fltSeq := rfl
@[simp] theorem setRg_queues : (setRg off v s).queues = s.queues := rfl
@[simp] theorem setRg_waits : (setRg off v s).waits = s.waits := rfl
@[simp] theorem setRg_pmWait : (setRg off v s).pmWait = s.pmWait := rfl
@[simp] theorem setRg_lastQ : (setRg off v s).lastQ = s.lastQ := rfl
@[simp] theorem setRg_cycles : (setRg off v s).cycles = s.cycles := rfl
@[simp] theorem setRg_xregs : (setRg off v s).xregs = s.xregs := rfl
@[simp] theorem setRg_umode : (setRg off v s).umode = s.umode := rfl
@[simp] theorem setRg_mcause : (setRg off v s).mcause = s.mcause := rfl
@[simp] theorem setRg_mtval : (setRg off v s).mtval = s.mtval := rfl
@[simp] theorem setRg_coreTag : (setRg off v s).coreTag = s.coreTag := rfl
@[simp] theorem setRg_corePc : (setRg off v s).corePc = s.corePc := rfl
@[simp] theorem setRg_belsel : (setRg off v s).belsel = s.belsel := rfl
@[simp] theorem setRg_cores : (setRg off v s).cores = s.cores := rfl
@[simp] theorem setRg_banks : (setRg off v s).banks = s.banks := rfl
@[simp] theorem setRg_clusters : (setRg off v s).clusters = s.clusters := rfl
@[simp] theorem setRg_dcache : (setRg off v s).dcache = s.dcache := rfl
@[simp] theorem setRg_icache : (setRg off v s).icache = s.icache := rfl
@[simp] theorem setRg_resv : (setRg off v s).resv = s.resv := rfl
@[simp] theorem setRg_tracker : (setRg off v s).tracker = s.tracker := rfl
@[simp] theorem setRg_trackAge : (setRg off v s).trackAge = s.trackAge := rfl
@[simp] theorem setRg_snoops : (setRg off v s).snoops = s.snoops := rfl
@[simp] theorem setRg_recalls : (setRg off v s).recalls = s.recalls := rfl
@[simp] theorem setRg_held : (setRg off v s).held = s.held := rfl
@[simp] theorem setRg_burstQ : (setRg off v s).burstQ = s.burstQ := rfl
@[simp] theorem setRg_asks : (setRg off v s).asks = s.asks := rfl
@[simp] theorem setRg_yielded : (setRg off v s).yielded = s.yielded := rfl
@[simp] theorem setRg_srWant : (setRg off v s).srWant = s.srWant := rfl
@[simp] theorem setRg_postponed : (setRg off v s).postponed = s.postponed := rfl
@[simp] theorem setRg_scrubPos : (setRg off v s).scrubPos = s.scrubPos := rfl
@[simp] theorem setRg_corrLog : (setRg off v s).corrLog = s.corrLog := rfl
@[simp] theorem setRg_remapDue : (setRg off v s).remapDue = s.remapDue := rfl
@[simp] theorem setRg_flashRemap : (setRg off v s).flashRemap = s.flashRemap := rfl
@[simp] theorem setRg_layerRemap : (setRg off v s).layerRemap = s.layerRemap := rfl
@[simp] theorem setRg_runs : (setRg off v s).runs = s.runs := rfl
@[simp] theorem setRg_units : (setRg off v s).units = s.units := rfl
@[simp] theorem setRg_unitCnt : (setRg off v s).unitCnt = s.unitCnt := rfl
@[simp] theorem setRg_exch : (setRg off v s).exch = s.exch := rfl
@[simp] theorem setRg_mpStore : (setRg off v s).mpStore = s.mpStore := rfl
@[simp] theorem setRg_mpChk : (setRg off v s).mpChk = s.mpChk := rfl
@[simp] theorem setRg_mpOwn : (setRg off v s).mpOwn = s.mpOwn := rfl
@[simp] theorem setRg_chans : (setRg off v s).chans = s.chans := rfl
@[simp] theorem setRg_tngTurn : (setRg off v s).tngTurn = s.tngTurn := rfl
@[simp] theorem setRg_vclear : (setRg off v s).vclear = s.vclear := rfl
@[simp] theorem setRg_crcJobs : (setRg off v s).crcJobs = s.crcJobs := rfl
@[simp] theorem setRg_rmove : (setRg off v s).rmove = s.rmove := rfl
@[simp] theorem setRg_links : (setRg off v s).links = s.links := rfl
@[simp] theorem setRg_group : (setRg off v s).group = s.group := rfl
@[simp] theorem setRg_cfg : (setRg off v s).cfg = s.cfg := rfl
@[simp] theorem setRg_prefen : (setRg off v s).prefen = s.prefen := rfl
@[simp] theorem setRg_flash : (setRg off v s).flash = s.flash := rfl
@[simp] theorem setRg_runSlot : (setRg off v s).runSlot = s.runSlot := rfl
@[simp] theorem setRg_ember : (setRg off v s).ember = s.ember := rfl
@[simp] theorem setRg_board : (setRg off v s).board = s.board := rfl
@[simp] theorem setRg_out : (setRg off v s).out = s.out := rfl
@[simp] theorem setRg_pending : (setRg off v s).pending = s.pending := rfl

end setRg

section setRf

variable (off hi lo v : Nat) (s : State)

@[simp] theorem setRf_time : (setRf off hi lo v s).time = s.time := rfl
@[simp] theorem setRf_sclkFrom : (setRf off hi lo v s).sclkFrom = s.sclkFrom := rfl
@[simp] theorem setRf_free : (setRf off hi lo v s).free = s.free := rfl
@[simp] theorem setRf_mem : (setRf off hi lo v s).mem = s.mem := rfl
@[simp] theorem setRf_blocked : (setRf off hi lo v s).blocked = s.blocked := rfl
@[simp] theorem setRf_found : (setRf off hi lo v s).found = s.found := rfl
@[simp] theorem setRf_lanes : (setRf off hi lo v s).lanes = s.lanes := rfl
@[simp] theorem setRf_laneDue : (setRf off hi lo v s).laneDue = s.laneDue := rfl
@[simp] theorem setRf_spareBad : (setRf off hi lo v s).spareBad = s.spareBad := rfl
@[simp] theorem setRf_up : (setRf off hi lo v s).up = s.up := rfl
@[simp] theorem setRf_hearths : (setRf off hi lo v s).hearths = s.hearths := rfl
@[simp] theorem setRf_tags : (setRf off hi lo v s).tags = s.tags := rfl
@[simp] theorem setRf_fltHearths : (setRf off hi lo v s).fltHearths = s.fltHearths := rfl
@[simp] theorem setRf_fltSeq : (setRf off hi lo v s).fltSeq = s.fltSeq := rfl
@[simp] theorem setRf_queues : (setRf off hi lo v s).queues = s.queues := rfl
@[simp] theorem setRf_waits : (setRf off hi lo v s).waits = s.waits := rfl
@[simp] theorem setRf_pmWait : (setRf off hi lo v s).pmWait = s.pmWait := rfl
@[simp] theorem setRf_lastQ : (setRf off hi lo v s).lastQ = s.lastQ := rfl
@[simp] theorem setRf_cycles : (setRf off hi lo v s).cycles = s.cycles := rfl
@[simp] theorem setRf_xregs : (setRf off hi lo v s).xregs = s.xregs := rfl
@[simp] theorem setRf_umode : (setRf off hi lo v s).umode = s.umode := rfl
@[simp] theorem setRf_mcause : (setRf off hi lo v s).mcause = s.mcause := rfl
@[simp] theorem setRf_mtval : (setRf off hi lo v s).mtval = s.mtval := rfl
@[simp] theorem setRf_coreTag : (setRf off hi lo v s).coreTag = s.coreTag := rfl
@[simp] theorem setRf_corePc : (setRf off hi lo v s).corePc = s.corePc := rfl
@[simp] theorem setRf_belsel : (setRf off hi lo v s).belsel = s.belsel := rfl
@[simp] theorem setRf_cores : (setRf off hi lo v s).cores = s.cores := rfl
@[simp] theorem setRf_banks : (setRf off hi lo v s).banks = s.banks := rfl
@[simp] theorem setRf_clusters : (setRf off hi lo v s).clusters = s.clusters := rfl
@[simp] theorem setRf_dcache : (setRf off hi lo v s).dcache = s.dcache := rfl
@[simp] theorem setRf_icache : (setRf off hi lo v s).icache = s.icache := rfl
@[simp] theorem setRf_resv : (setRf off hi lo v s).resv = s.resv := rfl
@[simp] theorem setRf_tracker : (setRf off hi lo v s).tracker = s.tracker := rfl
@[simp] theorem setRf_trackAge : (setRf off hi lo v s).trackAge = s.trackAge := rfl
@[simp] theorem setRf_snoops : (setRf off hi lo v s).snoops = s.snoops := rfl
@[simp] theorem setRf_recalls : (setRf off hi lo v s).recalls = s.recalls := rfl
@[simp] theorem setRf_held : (setRf off hi lo v s).held = s.held := rfl
@[simp] theorem setRf_burstQ : (setRf off hi lo v s).burstQ = s.burstQ := rfl
@[simp] theorem setRf_asks : (setRf off hi lo v s).asks = s.asks := rfl
@[simp] theorem setRf_yielded : (setRf off hi lo v s).yielded = s.yielded := rfl
@[simp] theorem setRf_srWant : (setRf off hi lo v s).srWant = s.srWant := rfl
@[simp] theorem setRf_postponed : (setRf off hi lo v s).postponed = s.postponed := rfl
@[simp] theorem setRf_scrubPos : (setRf off hi lo v s).scrubPos = s.scrubPos := rfl
@[simp] theorem setRf_corrLog : (setRf off hi lo v s).corrLog = s.corrLog := rfl
@[simp] theorem setRf_remapDue : (setRf off hi lo v s).remapDue = s.remapDue := rfl
@[simp] theorem setRf_flashRemap : (setRf off hi lo v s).flashRemap = s.flashRemap := rfl
@[simp] theorem setRf_layerRemap : (setRf off hi lo v s).layerRemap = s.layerRemap := rfl
@[simp] theorem setRf_runs : (setRf off hi lo v s).runs = s.runs := rfl
@[simp] theorem setRf_units : (setRf off hi lo v s).units = s.units := rfl
@[simp] theorem setRf_unitCnt : (setRf off hi lo v s).unitCnt = s.unitCnt := rfl
@[simp] theorem setRf_exch : (setRf off hi lo v s).exch = s.exch := rfl
@[simp] theorem setRf_mpStore : (setRf off hi lo v s).mpStore = s.mpStore := rfl
@[simp] theorem setRf_mpChk : (setRf off hi lo v s).mpChk = s.mpChk := rfl
@[simp] theorem setRf_mpOwn : (setRf off hi lo v s).mpOwn = s.mpOwn := rfl
@[simp] theorem setRf_chans : (setRf off hi lo v s).chans = s.chans := rfl
@[simp] theorem setRf_tngTurn : (setRf off hi lo v s).tngTurn = s.tngTurn := rfl
@[simp] theorem setRf_vclear : (setRf off hi lo v s).vclear = s.vclear := rfl
@[simp] theorem setRf_crcJobs : (setRf off hi lo v s).crcJobs = s.crcJobs := rfl
@[simp] theorem setRf_rmove : (setRf off hi lo v s).rmove = s.rmove := rfl
@[simp] theorem setRf_links : (setRf off hi lo v s).links = s.links := rfl
@[simp] theorem setRf_group : (setRf off hi lo v s).group = s.group := rfl
@[simp] theorem setRf_cfg : (setRf off hi lo v s).cfg = s.cfg := rfl
@[simp] theorem setRf_prefen : (setRf off hi lo v s).prefen = s.prefen := rfl
@[simp] theorem setRf_flash : (setRf off hi lo v s).flash = s.flash := rfl
@[simp] theorem setRf_runSlot : (setRf off hi lo v s).runSlot = s.runSlot := rfl
@[simp] theorem setRf_ember : (setRf off hi lo v s).ember = s.ember := rfl
@[simp] theorem setRf_board : (setRf off hi lo v s).board = s.board := rfl
@[simp] theorem setRf_out : (setRf off hi lo v s).out = s.out := rfl
@[simp] theorem setRf_pending : (setRf off hi lo v s).pending = s.pending := rfl

end setRf

section bumpRf

variable (off hi lo k : Nat) (s : State)

@[simp] theorem bumpRf_time : (bumpRf off hi lo k s).time = s.time := rfl
@[simp] theorem bumpRf_sclkFrom : (bumpRf off hi lo k s).sclkFrom = s.sclkFrom := rfl
@[simp] theorem bumpRf_free : (bumpRf off hi lo k s).free = s.free := rfl
@[simp] theorem bumpRf_mem : (bumpRf off hi lo k s).mem = s.mem := rfl
@[simp] theorem bumpRf_blocked : (bumpRf off hi lo k s).blocked = s.blocked := rfl
@[simp] theorem bumpRf_found : (bumpRf off hi lo k s).found = s.found := rfl
@[simp] theorem bumpRf_lanes : (bumpRf off hi lo k s).lanes = s.lanes := rfl
@[simp] theorem bumpRf_laneDue : (bumpRf off hi lo k s).laneDue = s.laneDue := rfl
@[simp] theorem bumpRf_spareBad : (bumpRf off hi lo k s).spareBad = s.spareBad := rfl
@[simp] theorem bumpRf_up : (bumpRf off hi lo k s).up = s.up := rfl
@[simp] theorem bumpRf_hearths : (bumpRf off hi lo k s).hearths = s.hearths := rfl
@[simp] theorem bumpRf_tags : (bumpRf off hi lo k s).tags = s.tags := rfl
@[simp] theorem bumpRf_fltHearths : (bumpRf off hi lo k s).fltHearths = s.fltHearths := rfl
@[simp] theorem bumpRf_fltSeq : (bumpRf off hi lo k s).fltSeq = s.fltSeq := rfl
@[simp] theorem bumpRf_queues : (bumpRf off hi lo k s).queues = s.queues := rfl
@[simp] theorem bumpRf_waits : (bumpRf off hi lo k s).waits = s.waits := rfl
@[simp] theorem bumpRf_pmWait : (bumpRf off hi lo k s).pmWait = s.pmWait := rfl
@[simp] theorem bumpRf_lastQ : (bumpRf off hi lo k s).lastQ = s.lastQ := rfl
@[simp] theorem bumpRf_cycles : (bumpRf off hi lo k s).cycles = s.cycles := rfl
@[simp] theorem bumpRf_xregs : (bumpRf off hi lo k s).xregs = s.xregs := rfl
@[simp] theorem bumpRf_umode : (bumpRf off hi lo k s).umode = s.umode := rfl
@[simp] theorem bumpRf_mcause : (bumpRf off hi lo k s).mcause = s.mcause := rfl
@[simp] theorem bumpRf_mtval : (bumpRf off hi lo k s).mtval = s.mtval := rfl
@[simp] theorem bumpRf_coreTag : (bumpRf off hi lo k s).coreTag = s.coreTag := rfl
@[simp] theorem bumpRf_corePc : (bumpRf off hi lo k s).corePc = s.corePc := rfl
@[simp] theorem bumpRf_belsel : (bumpRf off hi lo k s).belsel = s.belsel := rfl
@[simp] theorem bumpRf_cores : (bumpRf off hi lo k s).cores = s.cores := rfl
@[simp] theorem bumpRf_banks : (bumpRf off hi lo k s).banks = s.banks := rfl
@[simp] theorem bumpRf_clusters : (bumpRf off hi lo k s).clusters = s.clusters := rfl
@[simp] theorem bumpRf_dcache : (bumpRf off hi lo k s).dcache = s.dcache := rfl
@[simp] theorem bumpRf_icache : (bumpRf off hi lo k s).icache = s.icache := rfl
@[simp] theorem bumpRf_resv : (bumpRf off hi lo k s).resv = s.resv := rfl
@[simp] theorem bumpRf_tracker : (bumpRf off hi lo k s).tracker = s.tracker := rfl
@[simp] theorem bumpRf_trackAge : (bumpRf off hi lo k s).trackAge = s.trackAge := rfl
@[simp] theorem bumpRf_snoops : (bumpRf off hi lo k s).snoops = s.snoops := rfl
@[simp] theorem bumpRf_recalls : (bumpRf off hi lo k s).recalls = s.recalls := rfl
@[simp] theorem bumpRf_held : (bumpRf off hi lo k s).held = s.held := rfl
@[simp] theorem bumpRf_burstQ : (bumpRf off hi lo k s).burstQ = s.burstQ := rfl
@[simp] theorem bumpRf_asks : (bumpRf off hi lo k s).asks = s.asks := rfl
@[simp] theorem bumpRf_yielded : (bumpRf off hi lo k s).yielded = s.yielded := rfl
@[simp] theorem bumpRf_srWant : (bumpRf off hi lo k s).srWant = s.srWant := rfl
@[simp] theorem bumpRf_postponed : (bumpRf off hi lo k s).postponed = s.postponed := rfl
@[simp] theorem bumpRf_scrubPos : (bumpRf off hi lo k s).scrubPos = s.scrubPos := rfl
@[simp] theorem bumpRf_corrLog : (bumpRf off hi lo k s).corrLog = s.corrLog := rfl
@[simp] theorem bumpRf_remapDue : (bumpRf off hi lo k s).remapDue = s.remapDue := rfl
@[simp] theorem bumpRf_flashRemap : (bumpRf off hi lo k s).flashRemap = s.flashRemap := rfl
@[simp] theorem bumpRf_layerRemap : (bumpRf off hi lo k s).layerRemap = s.layerRemap := rfl
@[simp] theorem bumpRf_runs : (bumpRf off hi lo k s).runs = s.runs := rfl
@[simp] theorem bumpRf_units : (bumpRf off hi lo k s).units = s.units := rfl
@[simp] theorem bumpRf_unitCnt : (bumpRf off hi lo k s).unitCnt = s.unitCnt := rfl
@[simp] theorem bumpRf_exch : (bumpRf off hi lo k s).exch = s.exch := rfl
@[simp] theorem bumpRf_mpStore : (bumpRf off hi lo k s).mpStore = s.mpStore := rfl
@[simp] theorem bumpRf_mpChk : (bumpRf off hi lo k s).mpChk = s.mpChk := rfl
@[simp] theorem bumpRf_mpOwn : (bumpRf off hi lo k s).mpOwn = s.mpOwn := rfl
@[simp] theorem bumpRf_chans : (bumpRf off hi lo k s).chans = s.chans := rfl
@[simp] theorem bumpRf_tngTurn : (bumpRf off hi lo k s).tngTurn = s.tngTurn := rfl
@[simp] theorem bumpRf_vclear : (bumpRf off hi lo k s).vclear = s.vclear := rfl
@[simp] theorem bumpRf_crcJobs : (bumpRf off hi lo k s).crcJobs = s.crcJobs := rfl
@[simp] theorem bumpRf_rmove : (bumpRf off hi lo k s).rmove = s.rmove := rfl
@[simp] theorem bumpRf_links : (bumpRf off hi lo k s).links = s.links := rfl
@[simp] theorem bumpRf_group : (bumpRf off hi lo k s).group = s.group := rfl
@[simp] theorem bumpRf_cfg : (bumpRf off hi lo k s).cfg = s.cfg := rfl
@[simp] theorem bumpRf_prefen : (bumpRf off hi lo k s).prefen = s.prefen := rfl
@[simp] theorem bumpRf_flash : (bumpRf off hi lo k s).flash = s.flash := rfl
@[simp] theorem bumpRf_runSlot : (bumpRf off hi lo k s).runSlot = s.runSlot := rfl
@[simp] theorem bumpRf_ember : (bumpRf off hi lo k s).ember = s.ember := rfl
@[simp] theorem bumpRf_board : (bumpRf off hi lo k s).board = s.board := rfl
@[simp] theorem bumpRf_out : (bumpRf off hi lo k s).out = s.out := rfl
@[simp] theorem bumpRf_pending : (bumpRf off hi lo k s).pending = s.pending := rfl

end bumpRf

section satRf

variable (off hi lo k : Nat) (s : State)

@[simp] theorem satRf_time : (satRf off hi lo k s).time = s.time := rfl
@[simp] theorem satRf_sclkFrom : (satRf off hi lo k s).sclkFrom = s.sclkFrom := rfl
@[simp] theorem satRf_free : (satRf off hi lo k s).free = s.free := rfl
@[simp] theorem satRf_mem : (satRf off hi lo k s).mem = s.mem := rfl
@[simp] theorem satRf_blocked : (satRf off hi lo k s).blocked = s.blocked := rfl
@[simp] theorem satRf_found : (satRf off hi lo k s).found = s.found := rfl
@[simp] theorem satRf_lanes : (satRf off hi lo k s).lanes = s.lanes := rfl
@[simp] theorem satRf_laneDue : (satRf off hi lo k s).laneDue = s.laneDue := rfl
@[simp] theorem satRf_spareBad : (satRf off hi lo k s).spareBad = s.spareBad := rfl
@[simp] theorem satRf_up : (satRf off hi lo k s).up = s.up := rfl
@[simp] theorem satRf_hearths : (satRf off hi lo k s).hearths = s.hearths := rfl
@[simp] theorem satRf_tags : (satRf off hi lo k s).tags = s.tags := rfl
@[simp] theorem satRf_fltHearths : (satRf off hi lo k s).fltHearths = s.fltHearths := rfl
@[simp] theorem satRf_fltSeq : (satRf off hi lo k s).fltSeq = s.fltSeq := rfl
@[simp] theorem satRf_queues : (satRf off hi lo k s).queues = s.queues := rfl
@[simp] theorem satRf_waits : (satRf off hi lo k s).waits = s.waits := rfl
@[simp] theorem satRf_pmWait : (satRf off hi lo k s).pmWait = s.pmWait := rfl
@[simp] theorem satRf_lastQ : (satRf off hi lo k s).lastQ = s.lastQ := rfl
@[simp] theorem satRf_cycles : (satRf off hi lo k s).cycles = s.cycles := rfl
@[simp] theorem satRf_xregs : (satRf off hi lo k s).xregs = s.xregs := rfl
@[simp] theorem satRf_umode : (satRf off hi lo k s).umode = s.umode := rfl
@[simp] theorem satRf_mcause : (satRf off hi lo k s).mcause = s.mcause := rfl
@[simp] theorem satRf_mtval : (satRf off hi lo k s).mtval = s.mtval := rfl
@[simp] theorem satRf_coreTag : (satRf off hi lo k s).coreTag = s.coreTag := rfl
@[simp] theorem satRf_corePc : (satRf off hi lo k s).corePc = s.corePc := rfl
@[simp] theorem satRf_belsel : (satRf off hi lo k s).belsel = s.belsel := rfl
@[simp] theorem satRf_cores : (satRf off hi lo k s).cores = s.cores := rfl
@[simp] theorem satRf_banks : (satRf off hi lo k s).banks = s.banks := rfl
@[simp] theorem satRf_clusters : (satRf off hi lo k s).clusters = s.clusters := rfl
@[simp] theorem satRf_dcache : (satRf off hi lo k s).dcache = s.dcache := rfl
@[simp] theorem satRf_icache : (satRf off hi lo k s).icache = s.icache := rfl
@[simp] theorem satRf_resv : (satRf off hi lo k s).resv = s.resv := rfl
@[simp] theorem satRf_tracker : (satRf off hi lo k s).tracker = s.tracker := rfl
@[simp] theorem satRf_trackAge : (satRf off hi lo k s).trackAge = s.trackAge := rfl
@[simp] theorem satRf_snoops : (satRf off hi lo k s).snoops = s.snoops := rfl
@[simp] theorem satRf_recalls : (satRf off hi lo k s).recalls = s.recalls := rfl
@[simp] theorem satRf_held : (satRf off hi lo k s).held = s.held := rfl
@[simp] theorem satRf_burstQ : (satRf off hi lo k s).burstQ = s.burstQ := rfl
@[simp] theorem satRf_asks : (satRf off hi lo k s).asks = s.asks := rfl
@[simp] theorem satRf_yielded : (satRf off hi lo k s).yielded = s.yielded := rfl
@[simp] theorem satRf_srWant : (satRf off hi lo k s).srWant = s.srWant := rfl
@[simp] theorem satRf_postponed : (satRf off hi lo k s).postponed = s.postponed := rfl
@[simp] theorem satRf_scrubPos : (satRf off hi lo k s).scrubPos = s.scrubPos := rfl
@[simp] theorem satRf_corrLog : (satRf off hi lo k s).corrLog = s.corrLog := rfl
@[simp] theorem satRf_remapDue : (satRf off hi lo k s).remapDue = s.remapDue := rfl
@[simp] theorem satRf_flashRemap : (satRf off hi lo k s).flashRemap = s.flashRemap := rfl
@[simp] theorem satRf_layerRemap : (satRf off hi lo k s).layerRemap = s.layerRemap := rfl
@[simp] theorem satRf_runs : (satRf off hi lo k s).runs = s.runs := rfl
@[simp] theorem satRf_units : (satRf off hi lo k s).units = s.units := rfl
@[simp] theorem satRf_unitCnt : (satRf off hi lo k s).unitCnt = s.unitCnt := rfl
@[simp] theorem satRf_exch : (satRf off hi lo k s).exch = s.exch := rfl
@[simp] theorem satRf_mpStore : (satRf off hi lo k s).mpStore = s.mpStore := rfl
@[simp] theorem satRf_mpChk : (satRf off hi lo k s).mpChk = s.mpChk := rfl
@[simp] theorem satRf_mpOwn : (satRf off hi lo k s).mpOwn = s.mpOwn := rfl
@[simp] theorem satRf_chans : (satRf off hi lo k s).chans = s.chans := rfl
@[simp] theorem satRf_tngTurn : (satRf off hi lo k s).tngTurn = s.tngTurn := rfl
@[simp] theorem satRf_vclear : (satRf off hi lo k s).vclear = s.vclear := rfl
@[simp] theorem satRf_crcJobs : (satRf off hi lo k s).crcJobs = s.crcJobs := rfl
@[simp] theorem satRf_rmove : (satRf off hi lo k s).rmove = s.rmove := rfl
@[simp] theorem satRf_links : (satRf off hi lo k s).links = s.links := rfl
@[simp] theorem satRf_group : (satRf off hi lo k s).group = s.group := rfl
@[simp] theorem satRf_cfg : (satRf off hi lo k s).cfg = s.cfg := rfl
@[simp] theorem satRf_prefen : (satRf off hi lo k s).prefen = s.prefen := rfl
@[simp] theorem satRf_flash : (satRf off hi lo k s).flash = s.flash := rfl
@[simp] theorem satRf_runSlot : (satRf off hi lo k s).runSlot = s.runSlot := rfl
@[simp] theorem satRf_ember : (satRf off hi lo k s).ember = s.ember := rfl
@[simp] theorem satRf_board : (satRf off hi lo k s).board = s.board := rfl
@[simp] theorem satRf_out : (satRf off hi lo k s).out = s.out := rfl
@[simp] theorem satRf_pending : (satRf off hi lo k s).pending = s.pending := rfl

end satRf

section setValid

variable (space pa : Nat) (b : Bool) (s : State)

@[simp] theorem setValid_time : (setValid space pa b s).time = s.time := rfl
@[simp] theorem setValid_sclkFrom : (setValid space pa b s).sclkFrom = s.sclkFrom := rfl
@[simp] theorem setValid_free : (setValid space pa b s).free = s.free := rfl
@[simp] theorem setValid_regs : (setValid space pa b s).regs = s.regs := rfl
@[simp] theorem setValid_blocked : (setValid space pa b s).blocked = s.blocked := rfl
@[simp] theorem setValid_found : (setValid space pa b s).found = s.found := rfl
@[simp] theorem setValid_lanes : (setValid space pa b s).lanes = s.lanes := rfl
@[simp] theorem setValid_laneDue : (setValid space pa b s).laneDue = s.laneDue := rfl
@[simp] theorem setValid_spareBad : (setValid space pa b s).spareBad = s.spareBad := rfl
@[simp] theorem setValid_up : (setValid space pa b s).up = s.up := rfl
@[simp] theorem setValid_hearths : (setValid space pa b s).hearths = s.hearths := rfl
@[simp] theorem setValid_tags : (setValid space pa b s).tags = s.tags := rfl
@[simp] theorem setValid_fltHearths : (setValid space pa b s).fltHearths = s.fltHearths := rfl
@[simp] theorem setValid_fltSeq : (setValid space pa b s).fltSeq = s.fltSeq := rfl
@[simp] theorem setValid_queues : (setValid space pa b s).queues = s.queues := rfl
@[simp] theorem setValid_waits : (setValid space pa b s).waits = s.waits := rfl
@[simp] theorem setValid_pmWait : (setValid space pa b s).pmWait = s.pmWait := rfl
@[simp] theorem setValid_lastQ : (setValid space pa b s).lastQ = s.lastQ := rfl
@[simp] theorem setValid_cycles : (setValid space pa b s).cycles = s.cycles := rfl
@[simp] theorem setValid_xregs : (setValid space pa b s).xregs = s.xregs := rfl
@[simp] theorem setValid_umode : (setValid space pa b s).umode = s.umode := rfl
@[simp] theorem setValid_mcause : (setValid space pa b s).mcause = s.mcause := rfl
@[simp] theorem setValid_mtval : (setValid space pa b s).mtval = s.mtval := rfl
@[simp] theorem setValid_coreTag : (setValid space pa b s).coreTag = s.coreTag := rfl
@[simp] theorem setValid_corePc : (setValid space pa b s).corePc = s.corePc := rfl
@[simp] theorem setValid_belsel : (setValid space pa b s).belsel = s.belsel := rfl
@[simp] theorem setValid_cores : (setValid space pa b s).cores = s.cores := rfl
@[simp] theorem setValid_banks : (setValid space pa b s).banks = s.banks := rfl
@[simp] theorem setValid_clusters : (setValid space pa b s).clusters = s.clusters := rfl
@[simp] theorem setValid_dcache : (setValid space pa b s).dcache = s.dcache := rfl
@[simp] theorem setValid_icache : (setValid space pa b s).icache = s.icache := rfl
@[simp] theorem setValid_resv : (setValid space pa b s).resv = s.resv := rfl
@[simp] theorem setValid_tracker : (setValid space pa b s).tracker = s.tracker := rfl
@[simp] theorem setValid_trackAge : (setValid space pa b s).trackAge = s.trackAge := rfl
@[simp] theorem setValid_snoops : (setValid space pa b s).snoops = s.snoops := rfl
@[simp] theorem setValid_recalls : (setValid space pa b s).recalls = s.recalls := rfl
@[simp] theorem setValid_held : (setValid space pa b s).held = s.held := rfl
@[simp] theorem setValid_burstQ : (setValid space pa b s).burstQ = s.burstQ := rfl
@[simp] theorem setValid_asks : (setValid space pa b s).asks = s.asks := rfl
@[simp] theorem setValid_yielded : (setValid space pa b s).yielded = s.yielded := rfl
@[simp] theorem setValid_srWant : (setValid space pa b s).srWant = s.srWant := rfl
@[simp] theorem setValid_postponed : (setValid space pa b s).postponed = s.postponed := rfl
@[simp] theorem setValid_scrubPos : (setValid space pa b s).scrubPos = s.scrubPos := rfl
@[simp] theorem setValid_corrLog : (setValid space pa b s).corrLog = s.corrLog := rfl
@[simp] theorem setValid_remapDue : (setValid space pa b s).remapDue = s.remapDue := rfl
@[simp] theorem setValid_flashRemap : (setValid space pa b s).flashRemap = s.flashRemap := rfl
@[simp] theorem setValid_layerRemap : (setValid space pa b s).layerRemap = s.layerRemap := rfl
@[simp] theorem setValid_runs : (setValid space pa b s).runs = s.runs := rfl
@[simp] theorem setValid_units : (setValid space pa b s).units = s.units := rfl
@[simp] theorem setValid_unitCnt : (setValid space pa b s).unitCnt = s.unitCnt := rfl
@[simp] theorem setValid_exch : (setValid space pa b s).exch = s.exch := rfl
@[simp] theorem setValid_mpStore : (setValid space pa b s).mpStore = s.mpStore := rfl
@[simp] theorem setValid_mpChk : (setValid space pa b s).mpChk = s.mpChk := rfl
@[simp] theorem setValid_mpOwn : (setValid space pa b s).mpOwn = s.mpOwn := rfl
@[simp] theorem setValid_chans : (setValid space pa b s).chans = s.chans := rfl
@[simp] theorem setValid_tngTurn : (setValid space pa b s).tngTurn = s.tngTurn := rfl
@[simp] theorem setValid_vclear : (setValid space pa b s).vclear = s.vclear := rfl
@[simp] theorem setValid_crcJobs : (setValid space pa b s).crcJobs = s.crcJobs := rfl
@[simp] theorem setValid_rmove : (setValid space pa b s).rmove = s.rmove := rfl
@[simp] theorem setValid_links : (setValid space pa b s).links = s.links := rfl
@[simp] theorem setValid_group : (setValid space pa b s).group = s.group := rfl
@[simp] theorem setValid_cfg : (setValid space pa b s).cfg = s.cfg := rfl
@[simp] theorem setValid_prefen : (setValid space pa b s).prefen = s.prefen := rfl
@[simp] theorem setValid_flash : (setValid space pa b s).flash = s.flash := rfl
@[simp] theorem setValid_runSlot : (setValid space pa b s).runSlot = s.runSlot := rfl
@[simp] theorem setValid_ember : (setValid space pa b s).ember = s.ember := rfl
@[simp] theorem setValid_board : (setValid space pa b s).board = s.board := rfl
@[simp] theorem setValid_out : (setValid space pa b s).out = s.out := rfl
@[simp] theorem setValid_pending : (setValid space pa b s).pending = s.pending := rfl

end setValid

section wipeRun

variable (key n : Nat) (s : State)

@[simp] theorem wipeRun_time : (wipeRun key n s).time = s.time := rfl
@[simp] theorem wipeRun_sclkFrom : (wipeRun key n s).sclkFrom = s.sclkFrom := rfl
@[simp] theorem wipeRun_free : (wipeRun key n s).free = s.free := rfl
@[simp] theorem wipeRun_regs : (wipeRun key n s).regs = s.regs := rfl
@[simp] theorem wipeRun_blocked : (wipeRun key n s).blocked = s.blocked := rfl
@[simp] theorem wipeRun_found : (wipeRun key n s).found = s.found := rfl
@[simp] theorem wipeRun_lanes : (wipeRun key n s).lanes = s.lanes := rfl
@[simp] theorem wipeRun_laneDue : (wipeRun key n s).laneDue = s.laneDue := rfl
@[simp] theorem wipeRun_spareBad : (wipeRun key n s).spareBad = s.spareBad := rfl
@[simp] theorem wipeRun_up : (wipeRun key n s).up = s.up := rfl
@[simp] theorem wipeRun_hearths : (wipeRun key n s).hearths = s.hearths := rfl
@[simp] theorem wipeRun_tags : (wipeRun key n s).tags = s.tags := rfl
@[simp] theorem wipeRun_fltHearths : (wipeRun key n s).fltHearths = s.fltHearths := rfl
@[simp] theorem wipeRun_fltSeq : (wipeRun key n s).fltSeq = s.fltSeq := rfl
@[simp] theorem wipeRun_queues : (wipeRun key n s).queues = s.queues := rfl
@[simp] theorem wipeRun_waits : (wipeRun key n s).waits = s.waits := rfl
@[simp] theorem wipeRun_pmWait : (wipeRun key n s).pmWait = s.pmWait := rfl
@[simp] theorem wipeRun_lastQ : (wipeRun key n s).lastQ = s.lastQ := rfl
@[simp] theorem wipeRun_cycles : (wipeRun key n s).cycles = s.cycles := rfl
@[simp] theorem wipeRun_xregs : (wipeRun key n s).xregs = s.xregs := rfl
@[simp] theorem wipeRun_umode : (wipeRun key n s).umode = s.umode := rfl
@[simp] theorem wipeRun_mcause : (wipeRun key n s).mcause = s.mcause := rfl
@[simp] theorem wipeRun_mtval : (wipeRun key n s).mtval = s.mtval := rfl
@[simp] theorem wipeRun_coreTag : (wipeRun key n s).coreTag = s.coreTag := rfl
@[simp] theorem wipeRun_corePc : (wipeRun key n s).corePc = s.corePc := rfl
@[simp] theorem wipeRun_belsel : (wipeRun key n s).belsel = s.belsel := rfl
@[simp] theorem wipeRun_cores : (wipeRun key n s).cores = s.cores := rfl
@[simp] theorem wipeRun_banks : (wipeRun key n s).banks = s.banks := rfl
@[simp] theorem wipeRun_clusters : (wipeRun key n s).clusters = s.clusters := rfl
@[simp] theorem wipeRun_dcache : (wipeRun key n s).dcache = s.dcache := rfl
@[simp] theorem wipeRun_icache : (wipeRun key n s).icache = s.icache := rfl
@[simp] theorem wipeRun_resv : (wipeRun key n s).resv = s.resv := rfl
@[simp] theorem wipeRun_tracker : (wipeRun key n s).tracker = s.tracker := rfl
@[simp] theorem wipeRun_trackAge : (wipeRun key n s).trackAge = s.trackAge := rfl
@[simp] theorem wipeRun_snoops : (wipeRun key n s).snoops = s.snoops := rfl
@[simp] theorem wipeRun_recalls : (wipeRun key n s).recalls = s.recalls := rfl
@[simp] theorem wipeRun_held : (wipeRun key n s).held = s.held := rfl
@[simp] theorem wipeRun_burstQ : (wipeRun key n s).burstQ = s.burstQ := rfl
@[simp] theorem wipeRun_asks : (wipeRun key n s).asks = s.asks := rfl
@[simp] theorem wipeRun_yielded : (wipeRun key n s).yielded = s.yielded := rfl
@[simp] theorem wipeRun_srWant : (wipeRun key n s).srWant = s.srWant := rfl
@[simp] theorem wipeRun_postponed : (wipeRun key n s).postponed = s.postponed := rfl
@[simp] theorem wipeRun_scrubPos : (wipeRun key n s).scrubPos = s.scrubPos := rfl
@[simp] theorem wipeRun_corrLog : (wipeRun key n s).corrLog = s.corrLog := rfl
@[simp] theorem wipeRun_remapDue : (wipeRun key n s).remapDue = s.remapDue := rfl
@[simp] theorem wipeRun_flashRemap : (wipeRun key n s).flashRemap = s.flashRemap := rfl
@[simp] theorem wipeRun_layerRemap : (wipeRun key n s).layerRemap = s.layerRemap := rfl
@[simp] theorem wipeRun_runs : (wipeRun key n s).runs = s.runs := rfl
@[simp] theorem wipeRun_units : (wipeRun key n s).units = s.units := rfl
@[simp] theorem wipeRun_unitCnt : (wipeRun key n s).unitCnt = s.unitCnt := rfl
@[simp] theorem wipeRun_exch : (wipeRun key n s).exch = s.exch := rfl
@[simp] theorem wipeRun_mpStore : (wipeRun key n s).mpStore = s.mpStore := rfl
@[simp] theorem wipeRun_mpChk : (wipeRun key n s).mpChk = s.mpChk := rfl
@[simp] theorem wipeRun_mpOwn : (wipeRun key n s).mpOwn = s.mpOwn := rfl
@[simp] theorem wipeRun_chans : (wipeRun key n s).chans = s.chans := rfl
@[simp] theorem wipeRun_tngTurn : (wipeRun key n s).tngTurn = s.tngTurn := rfl
@[simp] theorem wipeRun_vclear : (wipeRun key n s).vclear = s.vclear := rfl
@[simp] theorem wipeRun_crcJobs : (wipeRun key n s).crcJobs = s.crcJobs := rfl
@[simp] theorem wipeRun_rmove : (wipeRun key n s).rmove = s.rmove := rfl
@[simp] theorem wipeRun_links : (wipeRun key n s).links = s.links := rfl
@[simp] theorem wipeRun_group : (wipeRun key n s).group = s.group := rfl
@[simp] theorem wipeRun_cfg : (wipeRun key n s).cfg = s.cfg := rfl
@[simp] theorem wipeRun_prefen : (wipeRun key n s).prefen = s.prefen := rfl
@[simp] theorem wipeRun_flash : (wipeRun key n s).flash = s.flash := rfl
@[simp] theorem wipeRun_runSlot : (wipeRun key n s).runSlot = s.runSlot := rfl
@[simp] theorem wipeRun_ember : (wipeRun key n s).ember = s.ember := rfl
@[simp] theorem wipeRun_board : (wipeRun key n s).board = s.board := rfl
@[simp] theorem wipeRun_out : (wipeRun key n s).out = s.out := rfl
@[simp] theorem wipeRun_pending : (wipeRun key n s).pending = s.pending := rfl

end wipeRun

section rawStore

variable (pa : Nat) (data : List Byte) (chk : List Nat) (s : State)

@[simp] theorem rawStore_time : (rawStore pa data chk s).time = s.time := rfl
@[simp] theorem rawStore_sclkFrom : (rawStore pa data chk s).sclkFrom = s.sclkFrom := rfl
@[simp] theorem rawStore_free : (rawStore pa data chk s).free = s.free := rfl
@[simp] theorem rawStore_regs : (rawStore pa data chk s).regs = s.regs := rfl
@[simp] theorem rawStore_blocked : (rawStore pa data chk s).blocked = s.blocked := rfl
@[simp] theorem rawStore_found : (rawStore pa data chk s).found = s.found := rfl
@[simp] theorem rawStore_lanes : (rawStore pa data chk s).lanes = s.lanes := rfl
@[simp] theorem rawStore_laneDue : (rawStore pa data chk s).laneDue = s.laneDue := rfl
@[simp] theorem rawStore_spareBad : (rawStore pa data chk s).spareBad = s.spareBad := rfl
@[simp] theorem rawStore_up : (rawStore pa data chk s).up = s.up := rfl
@[simp] theorem rawStore_hearths : (rawStore pa data chk s).hearths = s.hearths := rfl
@[simp] theorem rawStore_tags : (rawStore pa data chk s).tags = s.tags := rfl
@[simp] theorem rawStore_fltHearths : (rawStore pa data chk s).fltHearths = s.fltHearths := rfl
@[simp] theorem rawStore_fltSeq : (rawStore pa data chk s).fltSeq = s.fltSeq := rfl
@[simp] theorem rawStore_queues : (rawStore pa data chk s).queues = s.queues := rfl
@[simp] theorem rawStore_waits : (rawStore pa data chk s).waits = s.waits := rfl
@[simp] theorem rawStore_pmWait : (rawStore pa data chk s).pmWait = s.pmWait := rfl
@[simp] theorem rawStore_lastQ : (rawStore pa data chk s).lastQ = s.lastQ := rfl
@[simp] theorem rawStore_cycles : (rawStore pa data chk s).cycles = s.cycles := rfl
@[simp] theorem rawStore_xregs : (rawStore pa data chk s).xregs = s.xregs := rfl
@[simp] theorem rawStore_umode : (rawStore pa data chk s).umode = s.umode := rfl
@[simp] theorem rawStore_mcause : (rawStore pa data chk s).mcause = s.mcause := rfl
@[simp] theorem rawStore_mtval : (rawStore pa data chk s).mtval = s.mtval := rfl
@[simp] theorem rawStore_coreTag : (rawStore pa data chk s).coreTag = s.coreTag := rfl
@[simp] theorem rawStore_corePc : (rawStore pa data chk s).corePc = s.corePc := rfl
@[simp] theorem rawStore_belsel : (rawStore pa data chk s).belsel = s.belsel := rfl
@[simp] theorem rawStore_cores : (rawStore pa data chk s).cores = s.cores := rfl
@[simp] theorem rawStore_banks : (rawStore pa data chk s).banks = s.banks := rfl
@[simp] theorem rawStore_clusters : (rawStore pa data chk s).clusters = s.clusters := rfl
@[simp] theorem rawStore_dcache : (rawStore pa data chk s).dcache = s.dcache := rfl
@[simp] theorem rawStore_icache : (rawStore pa data chk s).icache = s.icache := rfl
@[simp] theorem rawStore_resv : (rawStore pa data chk s).resv = s.resv := rfl
@[simp] theorem rawStore_tracker : (rawStore pa data chk s).tracker = s.tracker := rfl
@[simp] theorem rawStore_trackAge : (rawStore pa data chk s).trackAge = s.trackAge := rfl
@[simp] theorem rawStore_snoops : (rawStore pa data chk s).snoops = s.snoops := rfl
@[simp] theorem rawStore_recalls : (rawStore pa data chk s).recalls = s.recalls := rfl
@[simp] theorem rawStore_held : (rawStore pa data chk s).held = s.held := rfl
@[simp] theorem rawStore_burstQ : (rawStore pa data chk s).burstQ = s.burstQ := rfl
@[simp] theorem rawStore_asks : (rawStore pa data chk s).asks = s.asks := rfl
@[simp] theorem rawStore_yielded : (rawStore pa data chk s).yielded = s.yielded := rfl
@[simp] theorem rawStore_srWant : (rawStore pa data chk s).srWant = s.srWant := rfl
@[simp] theorem rawStore_postponed : (rawStore pa data chk s).postponed = s.postponed := rfl
@[simp] theorem rawStore_scrubPos : (rawStore pa data chk s).scrubPos = s.scrubPos := rfl
@[simp] theorem rawStore_corrLog : (rawStore pa data chk s).corrLog = s.corrLog := rfl
@[simp] theorem rawStore_remapDue : (rawStore pa data chk s).remapDue = s.remapDue := rfl
@[simp] theorem rawStore_flashRemap : (rawStore pa data chk s).flashRemap = s.flashRemap := rfl
@[simp] theorem rawStore_layerRemap : (rawStore pa data chk s).layerRemap = s.layerRemap := rfl
@[simp] theorem rawStore_runs : (rawStore pa data chk s).runs = s.runs := rfl
@[simp] theorem rawStore_units : (rawStore pa data chk s).units = s.units := rfl
@[simp] theorem rawStore_unitCnt : (rawStore pa data chk s).unitCnt = s.unitCnt := rfl
@[simp] theorem rawStore_exch : (rawStore pa data chk s).exch = s.exch := rfl
@[simp] theorem rawStore_mpStore : (rawStore pa data chk s).mpStore = s.mpStore := rfl
@[simp] theorem rawStore_mpChk : (rawStore pa data chk s).mpChk = s.mpChk := rfl
@[simp] theorem rawStore_mpOwn : (rawStore pa data chk s).mpOwn = s.mpOwn := rfl
@[simp] theorem rawStore_chans : (rawStore pa data chk s).chans = s.chans := rfl
@[simp] theorem rawStore_tngTurn : (rawStore pa data chk s).tngTurn = s.tngTurn := rfl
@[simp] theorem rawStore_vclear : (rawStore pa data chk s).vclear = s.vclear := rfl
@[simp] theorem rawStore_crcJobs : (rawStore pa data chk s).crcJobs = s.crcJobs := rfl
@[simp] theorem rawStore_rmove : (rawStore pa data chk s).rmove = s.rmove := rfl
@[simp] theorem rawStore_links : (rawStore pa data chk s).links = s.links := rfl
@[simp] theorem rawStore_group : (rawStore pa data chk s).group = s.group := rfl
@[simp] theorem rawStore_cfg : (rawStore pa data chk s).cfg = s.cfg := rfl
@[simp] theorem rawStore_prefen : (rawStore pa data chk s).prefen = s.prefen := rfl
@[simp] theorem rawStore_flash : (rawStore pa data chk s).flash = s.flash := rfl
@[simp] theorem rawStore_runSlot : (rawStore pa data chk s).runSlot = s.runSlot := rfl
@[simp] theorem rawStore_ember : (rawStore pa data chk s).ember = s.ember := rfl
@[simp] theorem rawStore_board : (rawStore pa data chk s).board = s.board := rfl
@[simp] theorem rawStore_out : (rawStore pa data chk s).out = s.out := rfl
@[simp] theorem rawStore_pending : (rawStore pa data chk s).pending = s.pending := rfl

end rawStore

section setSramWord

variable (space a w chk : Nat) (pois : BitVec 3) (s : State)

@[simp] theorem setSramWord_time : (setSramWord space a w chk pois s).time = s.time := rfl
@[simp] theorem setSramWord_sclkFrom : (setSramWord space a w chk pois s).sclkFrom = s.sclkFrom := rfl
@[simp] theorem setSramWord_free : (setSramWord space a w chk pois s).free = s.free := rfl
@[simp] theorem setSramWord_regs : (setSramWord space a w chk pois s).regs = s.regs := rfl
@[simp] theorem setSramWord_blocked : (setSramWord space a w chk pois s).blocked = s.blocked := rfl
@[simp] theorem setSramWord_found : (setSramWord space a w chk pois s).found = s.found := rfl
@[simp] theorem setSramWord_lanes : (setSramWord space a w chk pois s).lanes = s.lanes := rfl
@[simp] theorem setSramWord_laneDue : (setSramWord space a w chk pois s).laneDue = s.laneDue := rfl
@[simp] theorem setSramWord_spareBad : (setSramWord space a w chk pois s).spareBad = s.spareBad := rfl
@[simp] theorem setSramWord_up : (setSramWord space a w chk pois s).up = s.up := rfl
@[simp] theorem setSramWord_hearths : (setSramWord space a w chk pois s).hearths = s.hearths := rfl
@[simp] theorem setSramWord_tags : (setSramWord space a w chk pois s).tags = s.tags := rfl
@[simp] theorem setSramWord_fltHearths : (setSramWord space a w chk pois s).fltHearths = s.fltHearths := rfl
@[simp] theorem setSramWord_fltSeq : (setSramWord space a w chk pois s).fltSeq = s.fltSeq := rfl
@[simp] theorem setSramWord_queues : (setSramWord space a w chk pois s).queues = s.queues := rfl
@[simp] theorem setSramWord_waits : (setSramWord space a w chk pois s).waits = s.waits := rfl
@[simp] theorem setSramWord_pmWait : (setSramWord space a w chk pois s).pmWait = s.pmWait := rfl
@[simp] theorem setSramWord_lastQ : (setSramWord space a w chk pois s).lastQ = s.lastQ := rfl
@[simp] theorem setSramWord_cycles : (setSramWord space a w chk pois s).cycles = s.cycles := rfl
@[simp] theorem setSramWord_xregs : (setSramWord space a w chk pois s).xregs = s.xregs := rfl
@[simp] theorem setSramWord_umode : (setSramWord space a w chk pois s).umode = s.umode := rfl
@[simp] theorem setSramWord_mcause : (setSramWord space a w chk pois s).mcause = s.mcause := rfl
@[simp] theorem setSramWord_mtval : (setSramWord space a w chk pois s).mtval = s.mtval := rfl
@[simp] theorem setSramWord_coreTag : (setSramWord space a w chk pois s).coreTag = s.coreTag := rfl
@[simp] theorem setSramWord_corePc : (setSramWord space a w chk pois s).corePc = s.corePc := rfl
@[simp] theorem setSramWord_belsel : (setSramWord space a w chk pois s).belsel = s.belsel := rfl
@[simp] theorem setSramWord_cores : (setSramWord space a w chk pois s).cores = s.cores := rfl
@[simp] theorem setSramWord_banks : (setSramWord space a w chk pois s).banks = s.banks := rfl
@[simp] theorem setSramWord_clusters : (setSramWord space a w chk pois s).clusters = s.clusters := rfl
@[simp] theorem setSramWord_dcache : (setSramWord space a w chk pois s).dcache = s.dcache := rfl
@[simp] theorem setSramWord_icache : (setSramWord space a w chk pois s).icache = s.icache := rfl
@[simp] theorem setSramWord_resv : (setSramWord space a w chk pois s).resv = s.resv := rfl
@[simp] theorem setSramWord_tracker : (setSramWord space a w chk pois s).tracker = s.tracker := rfl
@[simp] theorem setSramWord_trackAge : (setSramWord space a w chk pois s).trackAge = s.trackAge := rfl
@[simp] theorem setSramWord_snoops : (setSramWord space a w chk pois s).snoops = s.snoops := rfl
@[simp] theorem setSramWord_recalls : (setSramWord space a w chk pois s).recalls = s.recalls := rfl
@[simp] theorem setSramWord_held : (setSramWord space a w chk pois s).held = s.held := rfl
@[simp] theorem setSramWord_burstQ : (setSramWord space a w chk pois s).burstQ = s.burstQ := rfl
@[simp] theorem setSramWord_asks : (setSramWord space a w chk pois s).asks = s.asks := rfl
@[simp] theorem setSramWord_yielded : (setSramWord space a w chk pois s).yielded = s.yielded := rfl
@[simp] theorem setSramWord_srWant : (setSramWord space a w chk pois s).srWant = s.srWant := rfl
@[simp] theorem setSramWord_postponed : (setSramWord space a w chk pois s).postponed = s.postponed := rfl
@[simp] theorem setSramWord_scrubPos : (setSramWord space a w chk pois s).scrubPos = s.scrubPos := rfl
@[simp] theorem setSramWord_corrLog : (setSramWord space a w chk pois s).corrLog = s.corrLog := rfl
@[simp] theorem setSramWord_remapDue : (setSramWord space a w chk pois s).remapDue = s.remapDue := rfl
@[simp] theorem setSramWord_flashRemap : (setSramWord space a w chk pois s).flashRemap = s.flashRemap := rfl
@[simp] theorem setSramWord_layerRemap : (setSramWord space a w chk pois s).layerRemap = s.layerRemap := rfl
@[simp] theorem setSramWord_runs : (setSramWord space a w chk pois s).runs = s.runs := rfl
@[simp] theorem setSramWord_units : (setSramWord space a w chk pois s).units = s.units := rfl
@[simp] theorem setSramWord_unitCnt : (setSramWord space a w chk pois s).unitCnt = s.unitCnt := rfl
@[simp] theorem setSramWord_exch : (setSramWord space a w chk pois s).exch = s.exch := rfl
@[simp] theorem setSramWord_mpStore : (setSramWord space a w chk pois s).mpStore = s.mpStore := rfl
@[simp] theorem setSramWord_mpChk : (setSramWord space a w chk pois s).mpChk = s.mpChk := rfl
@[simp] theorem setSramWord_mpOwn : (setSramWord space a w chk pois s).mpOwn = s.mpOwn := rfl
@[simp] theorem setSramWord_chans : (setSramWord space a w chk pois s).chans = s.chans := rfl
@[simp] theorem setSramWord_tngTurn : (setSramWord space a w chk pois s).tngTurn = s.tngTurn := rfl
@[simp] theorem setSramWord_vclear : (setSramWord space a w chk pois s).vclear = s.vclear := rfl
@[simp] theorem setSramWord_crcJobs : (setSramWord space a w chk pois s).crcJobs = s.crcJobs := rfl
@[simp] theorem setSramWord_rmove : (setSramWord space a w chk pois s).rmove = s.rmove := rfl
@[simp] theorem setSramWord_links : (setSramWord space a w chk pois s).links = s.links := rfl
@[simp] theorem setSramWord_group : (setSramWord space a w chk pois s).group = s.group := rfl
@[simp] theorem setSramWord_cfg : (setSramWord space a w chk pois s).cfg = s.cfg := rfl
@[simp] theorem setSramWord_prefen : (setSramWord space a w chk pois s).prefen = s.prefen := rfl
@[simp] theorem setSramWord_flash : (setSramWord space a w chk pois s).flash = s.flash := rfl
@[simp] theorem setSramWord_runSlot : (setSramWord space a w chk pois s).runSlot = s.runSlot := rfl
@[simp] theorem setSramWord_ember : (setSramWord space a w chk pois s).ember = s.ember := rfl
@[simp] theorem setSramWord_board : (setSramWord space a w chk pois s).board = s.board := rfl
@[simp] theorem setSramWord_out : (setSramWord space a w chk pois s).out = s.out := rfl
@[simp] theorem setSramWord_pending : (setSramWord space a w chk pois s).pending = s.pending := rfl

end setSramWord

section hmWriteWord

variable (a off : Nat) (bs : List PByte) (s : State)

@[simp] theorem hmWriteWord_time : (hmWriteWord a off bs s).time = s.time := rfl
@[simp] theorem hmWriteWord_sclkFrom : (hmWriteWord a off bs s).sclkFrom = s.sclkFrom := rfl
@[simp] theorem hmWriteWord_free : (hmWriteWord a off bs s).free = s.free := rfl
@[simp] theorem hmWriteWord_regs : (hmWriteWord a off bs s).regs = s.regs := rfl
@[simp] theorem hmWriteWord_blocked : (hmWriteWord a off bs s).blocked = s.blocked := rfl
@[simp] theorem hmWriteWord_found : (hmWriteWord a off bs s).found = s.found := rfl
@[simp] theorem hmWriteWord_lanes : (hmWriteWord a off bs s).lanes = s.lanes := rfl
@[simp] theorem hmWriteWord_laneDue : (hmWriteWord a off bs s).laneDue = s.laneDue := rfl
@[simp] theorem hmWriteWord_spareBad : (hmWriteWord a off bs s).spareBad = s.spareBad := rfl
@[simp] theorem hmWriteWord_up : (hmWriteWord a off bs s).up = s.up := rfl
@[simp] theorem hmWriteWord_hearths : (hmWriteWord a off bs s).hearths = s.hearths := rfl
@[simp] theorem hmWriteWord_tags : (hmWriteWord a off bs s).tags = s.tags := rfl
@[simp] theorem hmWriteWord_fltHearths : (hmWriteWord a off bs s).fltHearths = s.fltHearths := rfl
@[simp] theorem hmWriteWord_fltSeq : (hmWriteWord a off bs s).fltSeq = s.fltSeq := rfl
@[simp] theorem hmWriteWord_queues : (hmWriteWord a off bs s).queues = s.queues := rfl
@[simp] theorem hmWriteWord_waits : (hmWriteWord a off bs s).waits = s.waits := rfl
@[simp] theorem hmWriteWord_pmWait : (hmWriteWord a off bs s).pmWait = s.pmWait := rfl
@[simp] theorem hmWriteWord_lastQ : (hmWriteWord a off bs s).lastQ = s.lastQ := rfl
@[simp] theorem hmWriteWord_cycles : (hmWriteWord a off bs s).cycles = s.cycles := rfl
@[simp] theorem hmWriteWord_xregs : (hmWriteWord a off bs s).xregs = s.xregs := rfl
@[simp] theorem hmWriteWord_umode : (hmWriteWord a off bs s).umode = s.umode := rfl
@[simp] theorem hmWriteWord_mcause : (hmWriteWord a off bs s).mcause = s.mcause := rfl
@[simp] theorem hmWriteWord_mtval : (hmWriteWord a off bs s).mtval = s.mtval := rfl
@[simp] theorem hmWriteWord_coreTag : (hmWriteWord a off bs s).coreTag = s.coreTag := rfl
@[simp] theorem hmWriteWord_corePc : (hmWriteWord a off bs s).corePc = s.corePc := rfl
@[simp] theorem hmWriteWord_belsel : (hmWriteWord a off bs s).belsel = s.belsel := rfl
@[simp] theorem hmWriteWord_cores : (hmWriteWord a off bs s).cores = s.cores := rfl
@[simp] theorem hmWriteWord_banks : (hmWriteWord a off bs s).banks = s.banks := rfl
@[simp] theorem hmWriteWord_clusters : (hmWriteWord a off bs s).clusters = s.clusters := rfl
@[simp] theorem hmWriteWord_dcache : (hmWriteWord a off bs s).dcache = s.dcache := rfl
@[simp] theorem hmWriteWord_icache : (hmWriteWord a off bs s).icache = s.icache := rfl
@[simp] theorem hmWriteWord_resv : (hmWriteWord a off bs s).resv = s.resv := rfl
@[simp] theorem hmWriteWord_tracker : (hmWriteWord a off bs s).tracker = s.tracker := rfl
@[simp] theorem hmWriteWord_trackAge : (hmWriteWord a off bs s).trackAge = s.trackAge := rfl
@[simp] theorem hmWriteWord_snoops : (hmWriteWord a off bs s).snoops = s.snoops := rfl
@[simp] theorem hmWriteWord_recalls : (hmWriteWord a off bs s).recalls = s.recalls := rfl
@[simp] theorem hmWriteWord_held : (hmWriteWord a off bs s).held = s.held := rfl
@[simp] theorem hmWriteWord_burstQ : (hmWriteWord a off bs s).burstQ = s.burstQ := rfl
@[simp] theorem hmWriteWord_asks : (hmWriteWord a off bs s).asks = s.asks := rfl
@[simp] theorem hmWriteWord_yielded : (hmWriteWord a off bs s).yielded = s.yielded := rfl
@[simp] theorem hmWriteWord_srWant : (hmWriteWord a off bs s).srWant = s.srWant := rfl
@[simp] theorem hmWriteWord_postponed : (hmWriteWord a off bs s).postponed = s.postponed := rfl
@[simp] theorem hmWriteWord_scrubPos : (hmWriteWord a off bs s).scrubPos = s.scrubPos := rfl
@[simp] theorem hmWriteWord_corrLog : (hmWriteWord a off bs s).corrLog = s.corrLog := rfl
@[simp] theorem hmWriteWord_remapDue : (hmWriteWord a off bs s).remapDue = s.remapDue := rfl
@[simp] theorem hmWriteWord_flashRemap : (hmWriteWord a off bs s).flashRemap = s.flashRemap := rfl
@[simp] theorem hmWriteWord_layerRemap : (hmWriteWord a off bs s).layerRemap = s.layerRemap := rfl
@[simp] theorem hmWriteWord_runs : (hmWriteWord a off bs s).runs = s.runs := rfl
@[simp] theorem hmWriteWord_units : (hmWriteWord a off bs s).units = s.units := rfl
@[simp] theorem hmWriteWord_unitCnt : (hmWriteWord a off bs s).unitCnt = s.unitCnt := rfl
@[simp] theorem hmWriteWord_exch : (hmWriteWord a off bs s).exch = s.exch := rfl
@[simp] theorem hmWriteWord_mpStore : (hmWriteWord a off bs s).mpStore = s.mpStore := rfl
@[simp] theorem hmWriteWord_mpChk : (hmWriteWord a off bs s).mpChk = s.mpChk := rfl
@[simp] theorem hmWriteWord_mpOwn : (hmWriteWord a off bs s).mpOwn = s.mpOwn := rfl
@[simp] theorem hmWriteWord_chans : (hmWriteWord a off bs s).chans = s.chans := rfl
@[simp] theorem hmWriteWord_tngTurn : (hmWriteWord a off bs s).tngTurn = s.tngTurn := rfl
@[simp] theorem hmWriteWord_vclear : (hmWriteWord a off bs s).vclear = s.vclear := rfl
@[simp] theorem hmWriteWord_crcJobs : (hmWriteWord a off bs s).crcJobs = s.crcJobs := rfl
@[simp] theorem hmWriteWord_rmove : (hmWriteWord a off bs s).rmove = s.rmove := rfl
@[simp] theorem hmWriteWord_links : (hmWriteWord a off bs s).links = s.links := rfl
@[simp] theorem hmWriteWord_group : (hmWriteWord a off bs s).group = s.group := rfl
@[simp] theorem hmWriteWord_cfg : (hmWriteWord a off bs s).cfg = s.cfg := rfl
@[simp] theorem hmWriteWord_prefen : (hmWriteWord a off bs s).prefen = s.prefen := rfl
@[simp] theorem hmWriteWord_flash : (hmWriteWord a off bs s).flash = s.flash := rfl
@[simp] theorem hmWriteWord_runSlot : (hmWriteWord a off bs s).runSlot = s.runSlot := rfl
@[simp] theorem hmWriteWord_ember : (hmWriteWord a off bs s).ember = s.ember := rfl
@[simp] theorem hmWriteWord_board : (hmWriteWord a off bs s).board = s.board := rfl
@[simp] theorem hmWriteWord_out : (hmWriteWord a off bs s).out = s.out := rfl
@[simp] theorem hmWriteWord_pending : (hmWriteWord a off bs s).pending = s.pending := rfl

end hmWriteWord

section emit

variable (o : Out) (s : State)

@[simp] theorem emit_time : (emit o s).time = s.time := rfl
@[simp] theorem emit_sclkFrom : (emit o s).sclkFrom = s.sclkFrom := rfl
@[simp] theorem emit_free : (emit o s).free = s.free := rfl
@[simp] theorem emit_regs : (emit o s).regs = s.regs := rfl
@[simp] theorem emit_mem : (emit o s).mem = s.mem := rfl
@[simp] theorem emit_blocked : (emit o s).blocked = s.blocked := rfl
@[simp] theorem emit_found : (emit o s).found = s.found := rfl
@[simp] theorem emit_lanes : (emit o s).lanes = s.lanes := rfl
@[simp] theorem emit_laneDue : (emit o s).laneDue = s.laneDue := rfl
@[simp] theorem emit_spareBad : (emit o s).spareBad = s.spareBad := rfl
@[simp] theorem emit_up : (emit o s).up = s.up := rfl
@[simp] theorem emit_hearths : (emit o s).hearths = s.hearths := rfl
@[simp] theorem emit_tags : (emit o s).tags = s.tags := rfl
@[simp] theorem emit_fltHearths : (emit o s).fltHearths = s.fltHearths := rfl
@[simp] theorem emit_fltSeq : (emit o s).fltSeq = s.fltSeq := rfl
@[simp] theorem emit_queues : (emit o s).queues = s.queues := rfl
@[simp] theorem emit_waits : (emit o s).waits = s.waits := rfl
@[simp] theorem emit_pmWait : (emit o s).pmWait = s.pmWait := rfl
@[simp] theorem emit_lastQ : (emit o s).lastQ = s.lastQ := rfl
@[simp] theorem emit_cycles : (emit o s).cycles = s.cycles := rfl
@[simp] theorem emit_xregs : (emit o s).xregs = s.xregs := rfl
@[simp] theorem emit_umode : (emit o s).umode = s.umode := rfl
@[simp] theorem emit_mcause : (emit o s).mcause = s.mcause := rfl
@[simp] theorem emit_mtval : (emit o s).mtval = s.mtval := rfl
@[simp] theorem emit_coreTag : (emit o s).coreTag = s.coreTag := rfl
@[simp] theorem emit_corePc : (emit o s).corePc = s.corePc := rfl
@[simp] theorem emit_belsel : (emit o s).belsel = s.belsel := rfl
@[simp] theorem emit_cores : (emit o s).cores = s.cores := rfl
@[simp] theorem emit_banks : (emit o s).banks = s.banks := rfl
@[simp] theorem emit_clusters : (emit o s).clusters = s.clusters := rfl
@[simp] theorem emit_dcache : (emit o s).dcache = s.dcache := rfl
@[simp] theorem emit_icache : (emit o s).icache = s.icache := rfl
@[simp] theorem emit_resv : (emit o s).resv = s.resv := rfl
@[simp] theorem emit_tracker : (emit o s).tracker = s.tracker := rfl
@[simp] theorem emit_trackAge : (emit o s).trackAge = s.trackAge := rfl
@[simp] theorem emit_snoops : (emit o s).snoops = s.snoops := rfl
@[simp] theorem emit_recalls : (emit o s).recalls = s.recalls := rfl
@[simp] theorem emit_held : (emit o s).held = s.held := rfl
@[simp] theorem emit_burstQ : (emit o s).burstQ = s.burstQ := rfl
@[simp] theorem emit_asks : (emit o s).asks = s.asks := rfl
@[simp] theorem emit_yielded : (emit o s).yielded = s.yielded := rfl
@[simp] theorem emit_srWant : (emit o s).srWant = s.srWant := rfl
@[simp] theorem emit_postponed : (emit o s).postponed = s.postponed := rfl
@[simp] theorem emit_scrubPos : (emit o s).scrubPos = s.scrubPos := rfl
@[simp] theorem emit_corrLog : (emit o s).corrLog = s.corrLog := rfl
@[simp] theorem emit_remapDue : (emit o s).remapDue = s.remapDue := rfl
@[simp] theorem emit_flashRemap : (emit o s).flashRemap = s.flashRemap := rfl
@[simp] theorem emit_layerRemap : (emit o s).layerRemap = s.layerRemap := rfl
@[simp] theorem emit_runs : (emit o s).runs = s.runs := rfl
@[simp] theorem emit_units : (emit o s).units = s.units := rfl
@[simp] theorem emit_unitCnt : (emit o s).unitCnt = s.unitCnt := rfl
@[simp] theorem emit_exch : (emit o s).exch = s.exch := rfl
@[simp] theorem emit_mpStore : (emit o s).mpStore = s.mpStore := rfl
@[simp] theorem emit_mpChk : (emit o s).mpChk = s.mpChk := rfl
@[simp] theorem emit_mpOwn : (emit o s).mpOwn = s.mpOwn := rfl
@[simp] theorem emit_chans : (emit o s).chans = s.chans := rfl
@[simp] theorem emit_tngTurn : (emit o s).tngTurn = s.tngTurn := rfl
@[simp] theorem emit_vclear : (emit o s).vclear = s.vclear := rfl
@[simp] theorem emit_crcJobs : (emit o s).crcJobs = s.crcJobs := rfl
@[simp] theorem emit_rmove : (emit o s).rmove = s.rmove := rfl
@[simp] theorem emit_links : (emit o s).links = s.links := rfl
@[simp] theorem emit_group : (emit o s).group = s.group := rfl
@[simp] theorem emit_cfg : (emit o s).cfg = s.cfg := rfl
@[simp] theorem emit_prefen : (emit o s).prefen = s.prefen := rfl
@[simp] theorem emit_flash : (emit o s).flash = s.flash := rfl
@[simp] theorem emit_runSlot : (emit o s).runSlot = s.runSlot := rfl
@[simp] theorem emit_ember : (emit o s).ember = s.ember := rfl
@[simp] theorem emit_board : (emit o s).board = s.board := rfl
@[simp] theorem emit_pending : (emit o s).pending = s.pending := rfl

end emit

section updHearth

variable (i : Nat) (f : Hearth → Hearth) (s : State)

@[simp] theorem updHearth_time : (updHearth i f s).time = s.time := rfl
@[simp] theorem updHearth_sclkFrom : (updHearth i f s).sclkFrom = s.sclkFrom := rfl
@[simp] theorem updHearth_free : (updHearth i f s).free = s.free := rfl
@[simp] theorem updHearth_regs : (updHearth i f s).regs = s.regs := rfl
@[simp] theorem updHearth_mem : (updHearth i f s).mem = s.mem := rfl
@[simp] theorem updHearth_blocked : (updHearth i f s).blocked = s.blocked := rfl
@[simp] theorem updHearth_found : (updHearth i f s).found = s.found := rfl
@[simp] theorem updHearth_lanes : (updHearth i f s).lanes = s.lanes := rfl
@[simp] theorem updHearth_laneDue : (updHearth i f s).laneDue = s.laneDue := rfl
@[simp] theorem updHearth_spareBad : (updHearth i f s).spareBad = s.spareBad := rfl
@[simp] theorem updHearth_up : (updHearth i f s).up = s.up := rfl
@[simp] theorem updHearth_tags : (updHearth i f s).tags = s.tags := rfl
@[simp] theorem updHearth_fltHearths : (updHearth i f s).fltHearths = s.fltHearths := rfl
@[simp] theorem updHearth_fltSeq : (updHearth i f s).fltSeq = s.fltSeq := rfl
@[simp] theorem updHearth_queues : (updHearth i f s).queues = s.queues := rfl
@[simp] theorem updHearth_waits : (updHearth i f s).waits = s.waits := rfl
@[simp] theorem updHearth_pmWait : (updHearth i f s).pmWait = s.pmWait := rfl
@[simp] theorem updHearth_lastQ : (updHearth i f s).lastQ = s.lastQ := rfl
@[simp] theorem updHearth_cycles : (updHearth i f s).cycles = s.cycles := rfl
@[simp] theorem updHearth_xregs : (updHearth i f s).xregs = s.xregs := rfl
@[simp] theorem updHearth_umode : (updHearth i f s).umode = s.umode := rfl
@[simp] theorem updHearth_mcause : (updHearth i f s).mcause = s.mcause := rfl
@[simp] theorem updHearth_mtval : (updHearth i f s).mtval = s.mtval := rfl
@[simp] theorem updHearth_coreTag : (updHearth i f s).coreTag = s.coreTag := rfl
@[simp] theorem updHearth_corePc : (updHearth i f s).corePc = s.corePc := rfl
@[simp] theorem updHearth_belsel : (updHearth i f s).belsel = s.belsel := rfl
@[simp] theorem updHearth_cores : (updHearth i f s).cores = s.cores := rfl
@[simp] theorem updHearth_banks : (updHearth i f s).banks = s.banks := rfl
@[simp] theorem updHearth_clusters : (updHearth i f s).clusters = s.clusters := rfl
@[simp] theorem updHearth_dcache : (updHearth i f s).dcache = s.dcache := rfl
@[simp] theorem updHearth_icache : (updHearth i f s).icache = s.icache := rfl
@[simp] theorem updHearth_resv : (updHearth i f s).resv = s.resv := rfl
@[simp] theorem updHearth_tracker : (updHearth i f s).tracker = s.tracker := rfl
@[simp] theorem updHearth_trackAge : (updHearth i f s).trackAge = s.trackAge := rfl
@[simp] theorem updHearth_snoops : (updHearth i f s).snoops = s.snoops := rfl
@[simp] theorem updHearth_recalls : (updHearth i f s).recalls = s.recalls := rfl
@[simp] theorem updHearth_held : (updHearth i f s).held = s.held := rfl
@[simp] theorem updHearth_burstQ : (updHearth i f s).burstQ = s.burstQ := rfl
@[simp] theorem updHearth_asks : (updHearth i f s).asks = s.asks := rfl
@[simp] theorem updHearth_yielded : (updHearth i f s).yielded = s.yielded := rfl
@[simp] theorem updHearth_srWant : (updHearth i f s).srWant = s.srWant := rfl
@[simp] theorem updHearth_postponed : (updHearth i f s).postponed = s.postponed := rfl
@[simp] theorem updHearth_scrubPos : (updHearth i f s).scrubPos = s.scrubPos := rfl
@[simp] theorem updHearth_corrLog : (updHearth i f s).corrLog = s.corrLog := rfl
@[simp] theorem updHearth_remapDue : (updHearth i f s).remapDue = s.remapDue := rfl
@[simp] theorem updHearth_flashRemap : (updHearth i f s).flashRemap = s.flashRemap := rfl
@[simp] theorem updHearth_layerRemap : (updHearth i f s).layerRemap = s.layerRemap := rfl
@[simp] theorem updHearth_runs : (updHearth i f s).runs = s.runs := rfl
@[simp] theorem updHearth_units : (updHearth i f s).units = s.units := rfl
@[simp] theorem updHearth_unitCnt : (updHearth i f s).unitCnt = s.unitCnt := rfl
@[simp] theorem updHearth_exch : (updHearth i f s).exch = s.exch := rfl
@[simp] theorem updHearth_mpStore : (updHearth i f s).mpStore = s.mpStore := rfl
@[simp] theorem updHearth_mpChk : (updHearth i f s).mpChk = s.mpChk := rfl
@[simp] theorem updHearth_mpOwn : (updHearth i f s).mpOwn = s.mpOwn := rfl
@[simp] theorem updHearth_chans : (updHearth i f s).chans = s.chans := rfl
@[simp] theorem updHearth_tngTurn : (updHearth i f s).tngTurn = s.tngTurn := rfl
@[simp] theorem updHearth_vclear : (updHearth i f s).vclear = s.vclear := rfl
@[simp] theorem updHearth_crcJobs : (updHearth i f s).crcJobs = s.crcJobs := rfl
@[simp] theorem updHearth_rmove : (updHearth i f s).rmove = s.rmove := rfl
@[simp] theorem updHearth_links : (updHearth i f s).links = s.links := rfl
@[simp] theorem updHearth_group : (updHearth i f s).group = s.group := rfl
@[simp] theorem updHearth_cfg : (updHearth i f s).cfg = s.cfg := rfl
@[simp] theorem updHearth_prefen : (updHearth i f s).prefen = s.prefen := rfl
@[simp] theorem updHearth_flash : (updHearth i f s).flash = s.flash := rfl
@[simp] theorem updHearth_runSlot : (updHearth i f s).runSlot = s.runSlot := rfl
@[simp] theorem updHearth_ember : (updHearth i f s).ember = s.ember := rfl
@[simp] theorem updHearth_board : (updHearth i f s).board = s.board := rfl
@[simp] theorem updHearth_out : (updHearth i f s).out = s.out := rfl
@[simp] theorem updHearth_pending : (updHearth i f s).pending = s.pending := rfl

end updHearth

section setLink

variable (pid : Nat) (l : Link) (s : State)

@[simp] theorem setLink_time : (setLink pid l s).time = s.time := rfl
@[simp] theorem setLink_sclkFrom : (setLink pid l s).sclkFrom = s.sclkFrom := rfl
@[simp] theorem setLink_free : (setLink pid l s).free = s.free := rfl
@[simp] theorem setLink_regs : (setLink pid l s).regs = s.regs := rfl
@[simp] theorem setLink_mem : (setLink pid l s).mem = s.mem := rfl
@[simp] theorem setLink_blocked : (setLink pid l s).blocked = s.blocked := rfl
@[simp] theorem setLink_found : (setLink pid l s).found = s.found := rfl
@[simp] theorem setLink_lanes : (setLink pid l s).lanes = s.lanes := rfl
@[simp] theorem setLink_laneDue : (setLink pid l s).laneDue = s.laneDue := rfl
@[simp] theorem setLink_spareBad : (setLink pid l s).spareBad = s.spareBad := rfl
@[simp] theorem setLink_up : (setLink pid l s).up = s.up := rfl
@[simp] theorem setLink_hearths : (setLink pid l s).hearths = s.hearths := rfl
@[simp] theorem setLink_tags : (setLink pid l s).tags = s.tags := rfl
@[simp] theorem setLink_fltHearths : (setLink pid l s).fltHearths = s.fltHearths := rfl
@[simp] theorem setLink_fltSeq : (setLink pid l s).fltSeq = s.fltSeq := rfl
@[simp] theorem setLink_queues : (setLink pid l s).queues = s.queues := rfl
@[simp] theorem setLink_waits : (setLink pid l s).waits = s.waits := rfl
@[simp] theorem setLink_pmWait : (setLink pid l s).pmWait = s.pmWait := rfl
@[simp] theorem setLink_lastQ : (setLink pid l s).lastQ = s.lastQ := rfl
@[simp] theorem setLink_cycles : (setLink pid l s).cycles = s.cycles := rfl
@[simp] theorem setLink_xregs : (setLink pid l s).xregs = s.xregs := rfl
@[simp] theorem setLink_umode : (setLink pid l s).umode = s.umode := rfl
@[simp] theorem setLink_mcause : (setLink pid l s).mcause = s.mcause := rfl
@[simp] theorem setLink_mtval : (setLink pid l s).mtval = s.mtval := rfl
@[simp] theorem setLink_coreTag : (setLink pid l s).coreTag = s.coreTag := rfl
@[simp] theorem setLink_corePc : (setLink pid l s).corePc = s.corePc := rfl
@[simp] theorem setLink_belsel : (setLink pid l s).belsel = s.belsel := rfl
@[simp] theorem setLink_cores : (setLink pid l s).cores = s.cores := rfl
@[simp] theorem setLink_banks : (setLink pid l s).banks = s.banks := rfl
@[simp] theorem setLink_clusters : (setLink pid l s).clusters = s.clusters := rfl
@[simp] theorem setLink_dcache : (setLink pid l s).dcache = s.dcache := rfl
@[simp] theorem setLink_icache : (setLink pid l s).icache = s.icache := rfl
@[simp] theorem setLink_resv : (setLink pid l s).resv = s.resv := rfl
@[simp] theorem setLink_tracker : (setLink pid l s).tracker = s.tracker := rfl
@[simp] theorem setLink_trackAge : (setLink pid l s).trackAge = s.trackAge := rfl
@[simp] theorem setLink_snoops : (setLink pid l s).snoops = s.snoops := rfl
@[simp] theorem setLink_recalls : (setLink pid l s).recalls = s.recalls := rfl
@[simp] theorem setLink_held : (setLink pid l s).held = s.held := rfl
@[simp] theorem setLink_burstQ : (setLink pid l s).burstQ = s.burstQ := rfl
@[simp] theorem setLink_asks : (setLink pid l s).asks = s.asks := rfl
@[simp] theorem setLink_yielded : (setLink pid l s).yielded = s.yielded := rfl
@[simp] theorem setLink_srWant : (setLink pid l s).srWant = s.srWant := rfl
@[simp] theorem setLink_postponed : (setLink pid l s).postponed = s.postponed := rfl
@[simp] theorem setLink_scrubPos : (setLink pid l s).scrubPos = s.scrubPos := rfl
@[simp] theorem setLink_corrLog : (setLink pid l s).corrLog = s.corrLog := rfl
@[simp] theorem setLink_remapDue : (setLink pid l s).remapDue = s.remapDue := rfl
@[simp] theorem setLink_flashRemap : (setLink pid l s).flashRemap = s.flashRemap := rfl
@[simp] theorem setLink_layerRemap : (setLink pid l s).layerRemap = s.layerRemap := rfl
@[simp] theorem setLink_runs : (setLink pid l s).runs = s.runs := rfl
@[simp] theorem setLink_units : (setLink pid l s).units = s.units := rfl
@[simp] theorem setLink_unitCnt : (setLink pid l s).unitCnt = s.unitCnt := rfl
@[simp] theorem setLink_exch : (setLink pid l s).exch = s.exch := rfl
@[simp] theorem setLink_mpStore : (setLink pid l s).mpStore = s.mpStore := rfl
@[simp] theorem setLink_mpChk : (setLink pid l s).mpChk = s.mpChk := rfl
@[simp] theorem setLink_mpOwn : (setLink pid l s).mpOwn = s.mpOwn := rfl
@[simp] theorem setLink_chans : (setLink pid l s).chans = s.chans := rfl
@[simp] theorem setLink_tngTurn : (setLink pid l s).tngTurn = s.tngTurn := rfl
@[simp] theorem setLink_vclear : (setLink pid l s).vclear = s.vclear := rfl
@[simp] theorem setLink_crcJobs : (setLink pid l s).crcJobs = s.crcJobs := rfl
@[simp] theorem setLink_rmove : (setLink pid l s).rmove = s.rmove := rfl
@[simp] theorem setLink_group : (setLink pid l s).group = s.group := rfl
@[simp] theorem setLink_cfg : (setLink pid l s).cfg = s.cfg := rfl
@[simp] theorem setLink_prefen : (setLink pid l s).prefen = s.prefen := rfl
@[simp] theorem setLink_flash : (setLink pid l s).flash = s.flash := rfl
@[simp] theorem setLink_runSlot : (setLink pid l s).runSlot = s.runSlot := rfl
@[simp] theorem setLink_ember : (setLink pid l s).ember = s.ember := rfl
@[simp] theorem setLink_board : (setLink pid l s).board = s.board := rfl
@[simp] theorem setLink_out : (setLink pid l s).out = s.out := rfl
@[simp] theorem setLink_pending : (setLink pid l s).pending = s.pending := rfl

end setLink

section setRun

variable (n : Nat) (r : StackRun) (s : State)

@[simp] theorem setRun_time : (setRun n r s).time = s.time := rfl
@[simp] theorem setRun_sclkFrom : (setRun n r s).sclkFrom = s.sclkFrom := rfl
@[simp] theorem setRun_free : (setRun n r s).free = s.free := rfl
@[simp] theorem setRun_regs : (setRun n r s).regs = s.regs := rfl
@[simp] theorem setRun_mem : (setRun n r s).mem = s.mem := rfl
@[simp] theorem setRun_blocked : (setRun n r s).blocked = s.blocked := rfl
@[simp] theorem setRun_found : (setRun n r s).found = s.found := rfl
@[simp] theorem setRun_lanes : (setRun n r s).lanes = s.lanes := rfl
@[simp] theorem setRun_laneDue : (setRun n r s).laneDue = s.laneDue := rfl
@[simp] theorem setRun_spareBad : (setRun n r s).spareBad = s.spareBad := rfl
@[simp] theorem setRun_up : (setRun n r s).up = s.up := rfl
@[simp] theorem setRun_hearths : (setRun n r s).hearths = s.hearths := rfl
@[simp] theorem setRun_tags : (setRun n r s).tags = s.tags := rfl
@[simp] theorem setRun_fltHearths : (setRun n r s).fltHearths = s.fltHearths := rfl
@[simp] theorem setRun_fltSeq : (setRun n r s).fltSeq = s.fltSeq := rfl
@[simp] theorem setRun_queues : (setRun n r s).queues = s.queues := rfl
@[simp] theorem setRun_waits : (setRun n r s).waits = s.waits := rfl
@[simp] theorem setRun_pmWait : (setRun n r s).pmWait = s.pmWait := rfl
@[simp] theorem setRun_lastQ : (setRun n r s).lastQ = s.lastQ := rfl
@[simp] theorem setRun_cycles : (setRun n r s).cycles = s.cycles := rfl
@[simp] theorem setRun_xregs : (setRun n r s).xregs = s.xregs := rfl
@[simp] theorem setRun_umode : (setRun n r s).umode = s.umode := rfl
@[simp] theorem setRun_mcause : (setRun n r s).mcause = s.mcause := rfl
@[simp] theorem setRun_mtval : (setRun n r s).mtval = s.mtval := rfl
@[simp] theorem setRun_coreTag : (setRun n r s).coreTag = s.coreTag := rfl
@[simp] theorem setRun_corePc : (setRun n r s).corePc = s.corePc := rfl
@[simp] theorem setRun_belsel : (setRun n r s).belsel = s.belsel := rfl
@[simp] theorem setRun_cores : (setRun n r s).cores = s.cores := rfl
@[simp] theorem setRun_banks : (setRun n r s).banks = s.banks := rfl
@[simp] theorem setRun_clusters : (setRun n r s).clusters = s.clusters := rfl
@[simp] theorem setRun_dcache : (setRun n r s).dcache = s.dcache := rfl
@[simp] theorem setRun_icache : (setRun n r s).icache = s.icache := rfl
@[simp] theorem setRun_resv : (setRun n r s).resv = s.resv := rfl
@[simp] theorem setRun_tracker : (setRun n r s).tracker = s.tracker := rfl
@[simp] theorem setRun_trackAge : (setRun n r s).trackAge = s.trackAge := rfl
@[simp] theorem setRun_snoops : (setRun n r s).snoops = s.snoops := rfl
@[simp] theorem setRun_recalls : (setRun n r s).recalls = s.recalls := rfl
@[simp] theorem setRun_held : (setRun n r s).held = s.held := rfl
@[simp] theorem setRun_burstQ : (setRun n r s).burstQ = s.burstQ := rfl
@[simp] theorem setRun_asks : (setRun n r s).asks = s.asks := rfl
@[simp] theorem setRun_yielded : (setRun n r s).yielded = s.yielded := rfl
@[simp] theorem setRun_srWant : (setRun n r s).srWant = s.srWant := rfl
@[simp] theorem setRun_postponed : (setRun n r s).postponed = s.postponed := rfl
@[simp] theorem setRun_scrubPos : (setRun n r s).scrubPos = s.scrubPos := rfl
@[simp] theorem setRun_corrLog : (setRun n r s).corrLog = s.corrLog := rfl
@[simp] theorem setRun_remapDue : (setRun n r s).remapDue = s.remapDue := rfl
@[simp] theorem setRun_flashRemap : (setRun n r s).flashRemap = s.flashRemap := rfl
@[simp] theorem setRun_layerRemap : (setRun n r s).layerRemap = s.layerRemap := rfl
@[simp] theorem setRun_units : (setRun n r s).units = s.units := rfl
@[simp] theorem setRun_unitCnt : (setRun n r s).unitCnt = s.unitCnt := rfl
@[simp] theorem setRun_exch : (setRun n r s).exch = s.exch := rfl
@[simp] theorem setRun_mpStore : (setRun n r s).mpStore = s.mpStore := rfl
@[simp] theorem setRun_mpChk : (setRun n r s).mpChk = s.mpChk := rfl
@[simp] theorem setRun_mpOwn : (setRun n r s).mpOwn = s.mpOwn := rfl
@[simp] theorem setRun_chans : (setRun n r s).chans = s.chans := rfl
@[simp] theorem setRun_tngTurn : (setRun n r s).tngTurn = s.tngTurn := rfl
@[simp] theorem setRun_vclear : (setRun n r s).vclear = s.vclear := rfl
@[simp] theorem setRun_crcJobs : (setRun n r s).crcJobs = s.crcJobs := rfl
@[simp] theorem setRun_rmove : (setRun n r s).rmove = s.rmove := rfl
@[simp] theorem setRun_links : (setRun n r s).links = s.links := rfl
@[simp] theorem setRun_group : (setRun n r s).group = s.group := rfl
@[simp] theorem setRun_cfg : (setRun n r s).cfg = s.cfg := rfl
@[simp] theorem setRun_prefen : (setRun n r s).prefen = s.prefen := rfl
@[simp] theorem setRun_flash : (setRun n r s).flash = s.flash := rfl
@[simp] theorem setRun_runSlot : (setRun n r s).runSlot = s.runSlot := rfl
@[simp] theorem setRun_ember : (setRun n r s).ember = s.ember := rfl
@[simp] theorem setRun_board : (setRun n r s).board = s.board := rfl
@[simp] theorem setRun_out : (setRun n r s).out = s.out := rfl
@[simp] theorem setRun_pending : (setRun n r s).pending = s.pending := rfl

end setRun

section setTrack

variable (line : Nat) (t : Track) (s : State)

@[simp] theorem setTrack_time : (setTrack line t s).time = s.time := rfl
@[simp] theorem setTrack_sclkFrom : (setTrack line t s).sclkFrom = s.sclkFrom := rfl
@[simp] theorem setTrack_free : (setTrack line t s).free = s.free := rfl
@[simp] theorem setTrack_regs : (setTrack line t s).regs = s.regs := rfl
@[simp] theorem setTrack_mem : (setTrack line t s).mem = s.mem := rfl
@[simp] theorem setTrack_blocked : (setTrack line t s).blocked = s.blocked := rfl
@[simp] theorem setTrack_found : (setTrack line t s).found = s.found := rfl
@[simp] theorem setTrack_lanes : (setTrack line t s).lanes = s.lanes := rfl
@[simp] theorem setTrack_laneDue : (setTrack line t s).laneDue = s.laneDue := rfl
@[simp] theorem setTrack_spareBad : (setTrack line t s).spareBad = s.spareBad := rfl
@[simp] theorem setTrack_up : (setTrack line t s).up = s.up := rfl
@[simp] theorem setTrack_hearths : (setTrack line t s).hearths = s.hearths := rfl
@[simp] theorem setTrack_tags : (setTrack line t s).tags = s.tags := rfl
@[simp] theorem setTrack_fltHearths : (setTrack line t s).fltHearths = s.fltHearths := rfl
@[simp] theorem setTrack_fltSeq : (setTrack line t s).fltSeq = s.fltSeq := rfl
@[simp] theorem setTrack_queues : (setTrack line t s).queues = s.queues := rfl
@[simp] theorem setTrack_waits : (setTrack line t s).waits = s.waits := rfl
@[simp] theorem setTrack_pmWait : (setTrack line t s).pmWait = s.pmWait := rfl
@[simp] theorem setTrack_lastQ : (setTrack line t s).lastQ = s.lastQ := rfl
@[simp] theorem setTrack_cycles : (setTrack line t s).cycles = s.cycles := rfl
@[simp] theorem setTrack_xregs : (setTrack line t s).xregs = s.xregs := rfl
@[simp] theorem setTrack_umode : (setTrack line t s).umode = s.umode := rfl
@[simp] theorem setTrack_mcause : (setTrack line t s).mcause = s.mcause := rfl
@[simp] theorem setTrack_mtval : (setTrack line t s).mtval = s.mtval := rfl
@[simp] theorem setTrack_coreTag : (setTrack line t s).coreTag = s.coreTag := rfl
@[simp] theorem setTrack_corePc : (setTrack line t s).corePc = s.corePc := rfl
@[simp] theorem setTrack_belsel : (setTrack line t s).belsel = s.belsel := rfl
@[simp] theorem setTrack_cores : (setTrack line t s).cores = s.cores := rfl
@[simp] theorem setTrack_banks : (setTrack line t s).banks = s.banks := rfl
@[simp] theorem setTrack_clusters : (setTrack line t s).clusters = s.clusters := rfl
@[simp] theorem setTrack_dcache : (setTrack line t s).dcache = s.dcache := rfl
@[simp] theorem setTrack_icache : (setTrack line t s).icache = s.icache := rfl
@[simp] theorem setTrack_resv : (setTrack line t s).resv = s.resv := rfl
@[simp] theorem setTrack_trackAge : (setTrack line t s).trackAge = s.trackAge := rfl
@[simp] theorem setTrack_snoops : (setTrack line t s).snoops = s.snoops := rfl
@[simp] theorem setTrack_recalls : (setTrack line t s).recalls = s.recalls := rfl
@[simp] theorem setTrack_held : (setTrack line t s).held = s.held := rfl
@[simp] theorem setTrack_burstQ : (setTrack line t s).burstQ = s.burstQ := rfl
@[simp] theorem setTrack_asks : (setTrack line t s).asks = s.asks := rfl
@[simp] theorem setTrack_yielded : (setTrack line t s).yielded = s.yielded := rfl
@[simp] theorem setTrack_srWant : (setTrack line t s).srWant = s.srWant := rfl
@[simp] theorem setTrack_postponed : (setTrack line t s).postponed = s.postponed := rfl
@[simp] theorem setTrack_scrubPos : (setTrack line t s).scrubPos = s.scrubPos := rfl
@[simp] theorem setTrack_corrLog : (setTrack line t s).corrLog = s.corrLog := rfl
@[simp] theorem setTrack_remapDue : (setTrack line t s).remapDue = s.remapDue := rfl
@[simp] theorem setTrack_flashRemap : (setTrack line t s).flashRemap = s.flashRemap := rfl
@[simp] theorem setTrack_layerRemap : (setTrack line t s).layerRemap = s.layerRemap := rfl
@[simp] theorem setTrack_runs : (setTrack line t s).runs = s.runs := rfl
@[simp] theorem setTrack_units : (setTrack line t s).units = s.units := rfl
@[simp] theorem setTrack_unitCnt : (setTrack line t s).unitCnt = s.unitCnt := rfl
@[simp] theorem setTrack_exch : (setTrack line t s).exch = s.exch := rfl
@[simp] theorem setTrack_mpStore : (setTrack line t s).mpStore = s.mpStore := rfl
@[simp] theorem setTrack_mpChk : (setTrack line t s).mpChk = s.mpChk := rfl
@[simp] theorem setTrack_mpOwn : (setTrack line t s).mpOwn = s.mpOwn := rfl
@[simp] theorem setTrack_chans : (setTrack line t s).chans = s.chans := rfl
@[simp] theorem setTrack_tngTurn : (setTrack line t s).tngTurn = s.tngTurn := rfl
@[simp] theorem setTrack_vclear : (setTrack line t s).vclear = s.vclear := rfl
@[simp] theorem setTrack_crcJobs : (setTrack line t s).crcJobs = s.crcJobs := rfl
@[simp] theorem setTrack_rmove : (setTrack line t s).rmove = s.rmove := rfl
@[simp] theorem setTrack_links : (setTrack line t s).links = s.links := rfl
@[simp] theorem setTrack_group : (setTrack line t s).group = s.group := rfl
@[simp] theorem setTrack_cfg : (setTrack line t s).cfg = s.cfg := rfl
@[simp] theorem setTrack_prefen : (setTrack line t s).prefen = s.prefen := rfl
@[simp] theorem setTrack_flash : (setTrack line t s).flash = s.flash := rfl
@[simp] theorem setTrack_runSlot : (setTrack line t s).runSlot = s.runSlot := rfl
@[simp] theorem setTrack_ember : (setTrack line t s).ember = s.ember := rfl
@[simp] theorem setTrack_board : (setTrack line t s).board = s.board := rfl
@[simp] theorem setTrack_out : (setTrack line t s).out = s.out := rfl
@[simp] theorem setTrack_pending : (setTrack line t s).pending = s.pending := rfl

end setTrack

section setXreg

variable (core r : Nat) (v : Word) (s : State)

@[simp] theorem setXreg_time : (setXreg core r v s).time = s.time := by unfold setXreg; split <;> rfl
@[simp] theorem setXreg_sclkFrom : (setXreg core r v s).sclkFrom = s.sclkFrom := by unfold setXreg; split <;> rfl
@[simp] theorem setXreg_free : (setXreg core r v s).free = s.free := by unfold setXreg; split <;> rfl
@[simp] theorem setXreg_regs : (setXreg core r v s).regs = s.regs := by unfold setXreg; split <;> rfl
@[simp] theorem setXreg_mem : (setXreg core r v s).mem = s.mem := by unfold setXreg; split <;> rfl
@[simp] theorem setXreg_blocked : (setXreg core r v s).blocked = s.blocked := by unfold setXreg; split <;> rfl
@[simp] theorem setXreg_found : (setXreg core r v s).found = s.found := by unfold setXreg; split <;> rfl
@[simp] theorem setXreg_lanes : (setXreg core r v s).lanes = s.lanes := by unfold setXreg; split <;> rfl
@[simp] theorem setXreg_laneDue : (setXreg core r v s).laneDue = s.laneDue := by unfold setXreg; split <;> rfl
@[simp] theorem setXreg_spareBad : (setXreg core r v s).spareBad = s.spareBad := by unfold setXreg; split <;> rfl
@[simp] theorem setXreg_up : (setXreg core r v s).up = s.up := by unfold setXreg; split <;> rfl
@[simp] theorem setXreg_hearths : (setXreg core r v s).hearths = s.hearths := by unfold setXreg; split <;> rfl
@[simp] theorem setXreg_tags : (setXreg core r v s).tags = s.tags := by unfold setXreg; split <;> rfl
@[simp] theorem setXreg_fltHearths : (setXreg core r v s).fltHearths = s.fltHearths := by unfold setXreg; split <;> rfl
@[simp] theorem setXreg_fltSeq : (setXreg core r v s).fltSeq = s.fltSeq := by unfold setXreg; split <;> rfl
@[simp] theorem setXreg_queues : (setXreg core r v s).queues = s.queues := by unfold setXreg; split <;> rfl
@[simp] theorem setXreg_waits : (setXreg core r v s).waits = s.waits := by unfold setXreg; split <;> rfl
@[simp] theorem setXreg_pmWait : (setXreg core r v s).pmWait = s.pmWait := by unfold setXreg; split <;> rfl
@[simp] theorem setXreg_lastQ : (setXreg core r v s).lastQ = s.lastQ := by unfold setXreg; split <;> rfl
@[simp] theorem setXreg_cycles : (setXreg core r v s).cycles = s.cycles := by unfold setXreg; split <;> rfl
@[simp] theorem setXreg_umode : (setXreg core r v s).umode = s.umode := by unfold setXreg; split <;> rfl
@[simp] theorem setXreg_mcause : (setXreg core r v s).mcause = s.mcause := by unfold setXreg; split <;> rfl
@[simp] theorem setXreg_mtval : (setXreg core r v s).mtval = s.mtval := by unfold setXreg; split <;> rfl
@[simp] theorem setXreg_coreTag : (setXreg core r v s).coreTag = s.coreTag := by unfold setXreg; split <;> rfl
@[simp] theorem setXreg_corePc : (setXreg core r v s).corePc = s.corePc := by unfold setXreg; split <;> rfl
@[simp] theorem setXreg_belsel : (setXreg core r v s).belsel = s.belsel := by unfold setXreg; split <;> rfl
@[simp] theorem setXreg_cores : (setXreg core r v s).cores = s.cores := by unfold setXreg; split <;> rfl
@[simp] theorem setXreg_banks : (setXreg core r v s).banks = s.banks := by unfold setXreg; split <;> rfl
@[simp] theorem setXreg_clusters : (setXreg core r v s).clusters = s.clusters := by unfold setXreg; split <;> rfl
@[simp] theorem setXreg_dcache : (setXreg core r v s).dcache = s.dcache := by unfold setXreg; split <;> rfl
@[simp] theorem setXreg_icache : (setXreg core r v s).icache = s.icache := by unfold setXreg; split <;> rfl
@[simp] theorem setXreg_resv : (setXreg core r v s).resv = s.resv := by unfold setXreg; split <;> rfl
@[simp] theorem setXreg_tracker : (setXreg core r v s).tracker = s.tracker := by unfold setXreg; split <;> rfl
@[simp] theorem setXreg_trackAge : (setXreg core r v s).trackAge = s.trackAge := by unfold setXreg; split <;> rfl
@[simp] theorem setXreg_snoops : (setXreg core r v s).snoops = s.snoops := by unfold setXreg; split <;> rfl
@[simp] theorem setXreg_recalls : (setXreg core r v s).recalls = s.recalls := by unfold setXreg; split <;> rfl
@[simp] theorem setXreg_held : (setXreg core r v s).held = s.held := by unfold setXreg; split <;> rfl
@[simp] theorem setXreg_burstQ : (setXreg core r v s).burstQ = s.burstQ := by unfold setXreg; split <;> rfl
@[simp] theorem setXreg_asks : (setXreg core r v s).asks = s.asks := by unfold setXreg; split <;> rfl
@[simp] theorem setXreg_yielded : (setXreg core r v s).yielded = s.yielded := by unfold setXreg; split <;> rfl
@[simp] theorem setXreg_srWant : (setXreg core r v s).srWant = s.srWant := by unfold setXreg; split <;> rfl
@[simp] theorem setXreg_postponed : (setXreg core r v s).postponed = s.postponed := by unfold setXreg; split <;> rfl
@[simp] theorem setXreg_scrubPos : (setXreg core r v s).scrubPos = s.scrubPos := by unfold setXreg; split <;> rfl
@[simp] theorem setXreg_corrLog : (setXreg core r v s).corrLog = s.corrLog := by unfold setXreg; split <;> rfl
@[simp] theorem setXreg_remapDue : (setXreg core r v s).remapDue = s.remapDue := by unfold setXreg; split <;> rfl
@[simp] theorem setXreg_flashRemap : (setXreg core r v s).flashRemap = s.flashRemap := by unfold setXreg; split <;> rfl
@[simp] theorem setXreg_layerRemap : (setXreg core r v s).layerRemap = s.layerRemap := by unfold setXreg; split <;> rfl
@[simp] theorem setXreg_runs : (setXreg core r v s).runs = s.runs := by unfold setXreg; split <;> rfl
@[simp] theorem setXreg_units : (setXreg core r v s).units = s.units := by unfold setXreg; split <;> rfl
@[simp] theorem setXreg_unitCnt : (setXreg core r v s).unitCnt = s.unitCnt := by unfold setXreg; split <;> rfl
@[simp] theorem setXreg_exch : (setXreg core r v s).exch = s.exch := by unfold setXreg; split <;> rfl
@[simp] theorem setXreg_mpStore : (setXreg core r v s).mpStore = s.mpStore := by unfold setXreg; split <;> rfl
@[simp] theorem setXreg_mpChk : (setXreg core r v s).mpChk = s.mpChk := by unfold setXreg; split <;> rfl
@[simp] theorem setXreg_mpOwn : (setXreg core r v s).mpOwn = s.mpOwn := by unfold setXreg; split <;> rfl
@[simp] theorem setXreg_chans : (setXreg core r v s).chans = s.chans := by unfold setXreg; split <;> rfl
@[simp] theorem setXreg_tngTurn : (setXreg core r v s).tngTurn = s.tngTurn := by unfold setXreg; split <;> rfl
@[simp] theorem setXreg_vclear : (setXreg core r v s).vclear = s.vclear := by unfold setXreg; split <;> rfl
@[simp] theorem setXreg_crcJobs : (setXreg core r v s).crcJobs = s.crcJobs := by unfold setXreg; split <;> rfl
@[simp] theorem setXreg_rmove : (setXreg core r v s).rmove = s.rmove := by unfold setXreg; split <;> rfl
@[simp] theorem setXreg_links : (setXreg core r v s).links = s.links := by unfold setXreg; split <;> rfl
@[simp] theorem setXreg_group : (setXreg core r v s).group = s.group := by unfold setXreg; split <;> rfl
@[simp] theorem setXreg_cfg : (setXreg core r v s).cfg = s.cfg := by unfold setXreg; split <;> rfl
@[simp] theorem setXreg_prefen : (setXreg core r v s).prefen = s.prefen := by unfold setXreg; split <;> rfl
@[simp] theorem setXreg_flash : (setXreg core r v s).flash = s.flash := by unfold setXreg; split <;> rfl
@[simp] theorem setXreg_runSlot : (setXreg core r v s).runSlot = s.runSlot := by unfold setXreg; split <;> rfl
@[simp] theorem setXreg_ember : (setXreg core r v s).ember = s.ember := by unfold setXreg; split <;> rfl
@[simp] theorem setXreg_board : (setXreg core r v s).board = s.board := by unfold setXreg; split <;> rfl
@[simp] theorem setXreg_out : (setXreg core r v s).out = s.out := by unfold setXreg; split <;> rfl
@[simp] theorem setXreg_pending : (setXreg core r v s).pending = s.pending := by unfold setXreg; split <;> rfl

end setXreg

section setDc

variable (core line : Nat) (l : List Byte) (s : State)

@[simp] theorem setDc_time : (setDc core line l s).time = s.time := rfl
@[simp] theorem setDc_sclkFrom : (setDc core line l s).sclkFrom = s.sclkFrom := rfl
@[simp] theorem setDc_free : (setDc core line l s).free = s.free := rfl
@[simp] theorem setDc_regs : (setDc core line l s).regs = s.regs := rfl
@[simp] theorem setDc_mem : (setDc core line l s).mem = s.mem := rfl
@[simp] theorem setDc_blocked : (setDc core line l s).blocked = s.blocked := rfl
@[simp] theorem setDc_found : (setDc core line l s).found = s.found := rfl
@[simp] theorem setDc_lanes : (setDc core line l s).lanes = s.lanes := rfl
@[simp] theorem setDc_laneDue : (setDc core line l s).laneDue = s.laneDue := rfl
@[simp] theorem setDc_spareBad : (setDc core line l s).spareBad = s.spareBad := rfl
@[simp] theorem setDc_up : (setDc core line l s).up = s.up := rfl
@[simp] theorem setDc_hearths : (setDc core line l s).hearths = s.hearths := rfl
@[simp] theorem setDc_tags : (setDc core line l s).tags = s.tags := rfl
@[simp] theorem setDc_fltHearths : (setDc core line l s).fltHearths = s.fltHearths := rfl
@[simp] theorem setDc_fltSeq : (setDc core line l s).fltSeq = s.fltSeq := rfl
@[simp] theorem setDc_queues : (setDc core line l s).queues = s.queues := rfl
@[simp] theorem setDc_waits : (setDc core line l s).waits = s.waits := rfl
@[simp] theorem setDc_pmWait : (setDc core line l s).pmWait = s.pmWait := rfl
@[simp] theorem setDc_lastQ : (setDc core line l s).lastQ = s.lastQ := rfl
@[simp] theorem setDc_cycles : (setDc core line l s).cycles = s.cycles := rfl
@[simp] theorem setDc_xregs : (setDc core line l s).xregs = s.xregs := rfl
@[simp] theorem setDc_umode : (setDc core line l s).umode = s.umode := rfl
@[simp] theorem setDc_mcause : (setDc core line l s).mcause = s.mcause := rfl
@[simp] theorem setDc_mtval : (setDc core line l s).mtval = s.mtval := rfl
@[simp] theorem setDc_coreTag : (setDc core line l s).coreTag = s.coreTag := rfl
@[simp] theorem setDc_corePc : (setDc core line l s).corePc = s.corePc := rfl
@[simp] theorem setDc_belsel : (setDc core line l s).belsel = s.belsel := rfl
@[simp] theorem setDc_cores : (setDc core line l s).cores = s.cores := rfl
@[simp] theorem setDc_banks : (setDc core line l s).banks = s.banks := rfl
@[simp] theorem setDc_clusters : (setDc core line l s).clusters = s.clusters := rfl
@[simp] theorem setDc_icache : (setDc core line l s).icache = s.icache := rfl
@[simp] theorem setDc_resv : (setDc core line l s).resv = s.resv := rfl
@[simp] theorem setDc_tracker : (setDc core line l s).tracker = s.tracker := rfl
@[simp] theorem setDc_trackAge : (setDc core line l s).trackAge = s.trackAge := rfl
@[simp] theorem setDc_snoops : (setDc core line l s).snoops = s.snoops := rfl
@[simp] theorem setDc_recalls : (setDc core line l s).recalls = s.recalls := rfl
@[simp] theorem setDc_held : (setDc core line l s).held = s.held := rfl
@[simp] theorem setDc_burstQ : (setDc core line l s).burstQ = s.burstQ := rfl
@[simp] theorem setDc_asks : (setDc core line l s).asks = s.asks := rfl
@[simp] theorem setDc_yielded : (setDc core line l s).yielded = s.yielded := rfl
@[simp] theorem setDc_srWant : (setDc core line l s).srWant = s.srWant := rfl
@[simp] theorem setDc_postponed : (setDc core line l s).postponed = s.postponed := rfl
@[simp] theorem setDc_scrubPos : (setDc core line l s).scrubPos = s.scrubPos := rfl
@[simp] theorem setDc_corrLog : (setDc core line l s).corrLog = s.corrLog := rfl
@[simp] theorem setDc_remapDue : (setDc core line l s).remapDue = s.remapDue := rfl
@[simp] theorem setDc_flashRemap : (setDc core line l s).flashRemap = s.flashRemap := rfl
@[simp] theorem setDc_layerRemap : (setDc core line l s).layerRemap = s.layerRemap := rfl
@[simp] theorem setDc_runs : (setDc core line l s).runs = s.runs := rfl
@[simp] theorem setDc_units : (setDc core line l s).units = s.units := rfl
@[simp] theorem setDc_unitCnt : (setDc core line l s).unitCnt = s.unitCnt := rfl
@[simp] theorem setDc_exch : (setDc core line l s).exch = s.exch := rfl
@[simp] theorem setDc_mpStore : (setDc core line l s).mpStore = s.mpStore := rfl
@[simp] theorem setDc_mpChk : (setDc core line l s).mpChk = s.mpChk := rfl
@[simp] theorem setDc_mpOwn : (setDc core line l s).mpOwn = s.mpOwn := rfl
@[simp] theorem setDc_chans : (setDc core line l s).chans = s.chans := rfl
@[simp] theorem setDc_tngTurn : (setDc core line l s).tngTurn = s.tngTurn := rfl
@[simp] theorem setDc_vclear : (setDc core line l s).vclear = s.vclear := rfl
@[simp] theorem setDc_crcJobs : (setDc core line l s).crcJobs = s.crcJobs := rfl
@[simp] theorem setDc_rmove : (setDc core line l s).rmove = s.rmove := rfl
@[simp] theorem setDc_links : (setDc core line l s).links = s.links := rfl
@[simp] theorem setDc_group : (setDc core line l s).group = s.group := rfl
@[simp] theorem setDc_cfg : (setDc core line l s).cfg = s.cfg := rfl
@[simp] theorem setDc_prefen : (setDc core line l s).prefen = s.prefen := rfl
@[simp] theorem setDc_flash : (setDc core line l s).flash = s.flash := rfl
@[simp] theorem setDc_runSlot : (setDc core line l s).runSlot = s.runSlot := rfl
@[simp] theorem setDc_ember : (setDc core line l s).ember = s.ember := rfl
@[simp] theorem setDc_board : (setDc core line l s).board = s.board := rfl
@[simp] theorem setDc_out : (setDc core line l s).out = s.out := rfl
@[simp] theorem setDc_pending : (setDc core line l s).pending = s.pending := rfl

end setDc

section setQueue

variable (q : Nat) (x : Queue) (s : State)

@[simp] theorem setQueue_time : (setQueue q x s).time = s.time := rfl
@[simp] theorem setQueue_sclkFrom : (setQueue q x s).sclkFrom = s.sclkFrom := rfl
@[simp] theorem setQueue_free : (setQueue q x s).free = s.free := rfl
@[simp] theorem setQueue_regs : (setQueue q x s).regs = s.regs := rfl
@[simp] theorem setQueue_mem : (setQueue q x s).mem = s.mem := rfl
@[simp] theorem setQueue_blocked : (setQueue q x s).blocked = s.blocked := rfl
@[simp] theorem setQueue_found : (setQueue q x s).found = s.found := rfl
@[simp] theorem setQueue_lanes : (setQueue q x s).lanes = s.lanes := rfl
@[simp] theorem setQueue_laneDue : (setQueue q x s).laneDue = s.laneDue := rfl
@[simp] theorem setQueue_spareBad : (setQueue q x s).spareBad = s.spareBad := rfl
@[simp] theorem setQueue_up : (setQueue q x s).up = s.up := rfl
@[simp] theorem setQueue_hearths : (setQueue q x s).hearths = s.hearths := rfl
@[simp] theorem setQueue_tags : (setQueue q x s).tags = s.tags := rfl
@[simp] theorem setQueue_fltHearths : (setQueue q x s).fltHearths = s.fltHearths := rfl
@[simp] theorem setQueue_fltSeq : (setQueue q x s).fltSeq = s.fltSeq := rfl
@[simp] theorem setQueue_waits : (setQueue q x s).waits = s.waits := rfl
@[simp] theorem setQueue_pmWait : (setQueue q x s).pmWait = s.pmWait := rfl
@[simp] theorem setQueue_lastQ : (setQueue q x s).lastQ = s.lastQ := rfl
@[simp] theorem setQueue_cycles : (setQueue q x s).cycles = s.cycles := rfl
@[simp] theorem setQueue_xregs : (setQueue q x s).xregs = s.xregs := rfl
@[simp] theorem setQueue_umode : (setQueue q x s).umode = s.umode := rfl
@[simp] theorem setQueue_mcause : (setQueue q x s).mcause = s.mcause := rfl
@[simp] theorem setQueue_mtval : (setQueue q x s).mtval = s.mtval := rfl
@[simp] theorem setQueue_coreTag : (setQueue q x s).coreTag = s.coreTag := rfl
@[simp] theorem setQueue_corePc : (setQueue q x s).corePc = s.corePc := rfl
@[simp] theorem setQueue_belsel : (setQueue q x s).belsel = s.belsel := rfl
@[simp] theorem setQueue_cores : (setQueue q x s).cores = s.cores := rfl
@[simp] theorem setQueue_banks : (setQueue q x s).banks = s.banks := rfl
@[simp] theorem setQueue_clusters : (setQueue q x s).clusters = s.clusters := rfl
@[simp] theorem setQueue_dcache : (setQueue q x s).dcache = s.dcache := rfl
@[simp] theorem setQueue_icache : (setQueue q x s).icache = s.icache := rfl
@[simp] theorem setQueue_resv : (setQueue q x s).resv = s.resv := rfl
@[simp] theorem setQueue_tracker : (setQueue q x s).tracker = s.tracker := rfl
@[simp] theorem setQueue_trackAge : (setQueue q x s).trackAge = s.trackAge := rfl
@[simp] theorem setQueue_snoops : (setQueue q x s).snoops = s.snoops := rfl
@[simp] theorem setQueue_recalls : (setQueue q x s).recalls = s.recalls := rfl
@[simp] theorem setQueue_held : (setQueue q x s).held = s.held := rfl
@[simp] theorem setQueue_burstQ : (setQueue q x s).burstQ = s.burstQ := rfl
@[simp] theorem setQueue_asks : (setQueue q x s).asks = s.asks := rfl
@[simp] theorem setQueue_yielded : (setQueue q x s).yielded = s.yielded := rfl
@[simp] theorem setQueue_srWant : (setQueue q x s).srWant = s.srWant := rfl
@[simp] theorem setQueue_postponed : (setQueue q x s).postponed = s.postponed := rfl
@[simp] theorem setQueue_scrubPos : (setQueue q x s).scrubPos = s.scrubPos := rfl
@[simp] theorem setQueue_corrLog : (setQueue q x s).corrLog = s.corrLog := rfl
@[simp] theorem setQueue_remapDue : (setQueue q x s).remapDue = s.remapDue := rfl
@[simp] theorem setQueue_flashRemap : (setQueue q x s).flashRemap = s.flashRemap := rfl
@[simp] theorem setQueue_layerRemap : (setQueue q x s).layerRemap = s.layerRemap := rfl
@[simp] theorem setQueue_runs : (setQueue q x s).runs = s.runs := rfl
@[simp] theorem setQueue_units : (setQueue q x s).units = s.units := rfl
@[simp] theorem setQueue_unitCnt : (setQueue q x s).unitCnt = s.unitCnt := rfl
@[simp] theorem setQueue_exch : (setQueue q x s).exch = s.exch := rfl
@[simp] theorem setQueue_mpStore : (setQueue q x s).mpStore = s.mpStore := rfl
@[simp] theorem setQueue_mpChk : (setQueue q x s).mpChk = s.mpChk := rfl
@[simp] theorem setQueue_mpOwn : (setQueue q x s).mpOwn = s.mpOwn := rfl
@[simp] theorem setQueue_chans : (setQueue q x s).chans = s.chans := rfl
@[simp] theorem setQueue_tngTurn : (setQueue q x s).tngTurn = s.tngTurn := rfl
@[simp] theorem setQueue_vclear : (setQueue q x s).vclear = s.vclear := rfl
@[simp] theorem setQueue_crcJobs : (setQueue q x s).crcJobs = s.crcJobs := rfl
@[simp] theorem setQueue_rmove : (setQueue q x s).rmove = s.rmove := rfl
@[simp] theorem setQueue_links : (setQueue q x s).links = s.links := rfl
@[simp] theorem setQueue_group : (setQueue q x s).group = s.group := rfl
@[simp] theorem setQueue_cfg : (setQueue q x s).cfg = s.cfg := rfl
@[simp] theorem setQueue_prefen : (setQueue q x s).prefen = s.prefen := rfl
@[simp] theorem setQueue_flash : (setQueue q x s).flash = s.flash := rfl
@[simp] theorem setQueue_runSlot : (setQueue q x s).runSlot = s.runSlot := rfl
@[simp] theorem setQueue_ember : (setQueue q x s).ember = s.ember := rfl
@[simp] theorem setQueue_board : (setQueue q x s).board = s.board := rfl
@[simp] theorem setQueue_out : (setQueue q x s).out = s.out := rfl
@[simp] theorem setQueue_pending : (setQueue q x s).pending = s.pending := rfl

end setQueue

section setWait

variable (q : Nat) (w : Wait) (s : State)

@[simp] theorem setWait_time : (setWait q w s).time = s.time := rfl
@[simp] theorem setWait_sclkFrom : (setWait q w s).sclkFrom = s.sclkFrom := rfl
@[simp] theorem setWait_free : (setWait q w s).free = s.free := rfl
@[simp] theorem setWait_regs : (setWait q w s).regs = s.regs := rfl
@[simp] theorem setWait_mem : (setWait q w s).mem = s.mem := rfl
@[simp] theorem setWait_blocked : (setWait q w s).blocked = s.blocked := rfl
@[simp] theorem setWait_found : (setWait q w s).found = s.found := rfl
@[simp] theorem setWait_lanes : (setWait q w s).lanes = s.lanes := rfl
@[simp] theorem setWait_laneDue : (setWait q w s).laneDue = s.laneDue := rfl
@[simp] theorem setWait_spareBad : (setWait q w s).spareBad = s.spareBad := rfl
@[simp] theorem setWait_up : (setWait q w s).up = s.up := rfl
@[simp] theorem setWait_hearths : (setWait q w s).hearths = s.hearths := rfl
@[simp] theorem setWait_tags : (setWait q w s).tags = s.tags := rfl
@[simp] theorem setWait_fltHearths : (setWait q w s).fltHearths = s.fltHearths := rfl
@[simp] theorem setWait_fltSeq : (setWait q w s).fltSeq = s.fltSeq := rfl
@[simp] theorem setWait_queues : (setWait q w s).queues = s.queues := rfl
@[simp] theorem setWait_pmWait : (setWait q w s).pmWait = s.pmWait := rfl
@[simp] theorem setWait_lastQ : (setWait q w s).lastQ = s.lastQ := rfl
@[simp] theorem setWait_cycles : (setWait q w s).cycles = s.cycles := rfl
@[simp] theorem setWait_xregs : (setWait q w s).xregs = s.xregs := rfl
@[simp] theorem setWait_umode : (setWait q w s).umode = s.umode := rfl
@[simp] theorem setWait_mcause : (setWait q w s).mcause = s.mcause := rfl
@[simp] theorem setWait_mtval : (setWait q w s).mtval = s.mtval := rfl
@[simp] theorem setWait_coreTag : (setWait q w s).coreTag = s.coreTag := rfl
@[simp] theorem setWait_corePc : (setWait q w s).corePc = s.corePc := rfl
@[simp] theorem setWait_belsel : (setWait q w s).belsel = s.belsel := rfl
@[simp] theorem setWait_cores : (setWait q w s).cores = s.cores := rfl
@[simp] theorem setWait_banks : (setWait q w s).banks = s.banks := rfl
@[simp] theorem setWait_clusters : (setWait q w s).clusters = s.clusters := rfl
@[simp] theorem setWait_dcache : (setWait q w s).dcache = s.dcache := rfl
@[simp] theorem setWait_icache : (setWait q w s).icache = s.icache := rfl
@[simp] theorem setWait_resv : (setWait q w s).resv = s.resv := rfl
@[simp] theorem setWait_tracker : (setWait q w s).tracker = s.tracker := rfl
@[simp] theorem setWait_trackAge : (setWait q w s).trackAge = s.trackAge := rfl
@[simp] theorem setWait_snoops : (setWait q w s).snoops = s.snoops := rfl
@[simp] theorem setWait_recalls : (setWait q w s).recalls = s.recalls := rfl
@[simp] theorem setWait_held : (setWait q w s).held = s.held := rfl
@[simp] theorem setWait_burstQ : (setWait q w s).burstQ = s.burstQ := rfl
@[simp] theorem setWait_asks : (setWait q w s).asks = s.asks := rfl
@[simp] theorem setWait_yielded : (setWait q w s).yielded = s.yielded := rfl
@[simp] theorem setWait_srWant : (setWait q w s).srWant = s.srWant := rfl
@[simp] theorem setWait_postponed : (setWait q w s).postponed = s.postponed := rfl
@[simp] theorem setWait_scrubPos : (setWait q w s).scrubPos = s.scrubPos := rfl
@[simp] theorem setWait_corrLog : (setWait q w s).corrLog = s.corrLog := rfl
@[simp] theorem setWait_remapDue : (setWait q w s).remapDue = s.remapDue := rfl
@[simp] theorem setWait_flashRemap : (setWait q w s).flashRemap = s.flashRemap := rfl
@[simp] theorem setWait_layerRemap : (setWait q w s).layerRemap = s.layerRemap := rfl
@[simp] theorem setWait_runs : (setWait q w s).runs = s.runs := rfl
@[simp] theorem setWait_units : (setWait q w s).units = s.units := rfl
@[simp] theorem setWait_unitCnt : (setWait q w s).unitCnt = s.unitCnt := rfl
@[simp] theorem setWait_exch : (setWait q w s).exch = s.exch := rfl
@[simp] theorem setWait_mpStore : (setWait q w s).mpStore = s.mpStore := rfl
@[simp] theorem setWait_mpChk : (setWait q w s).mpChk = s.mpChk := rfl
@[simp] theorem setWait_mpOwn : (setWait q w s).mpOwn = s.mpOwn := rfl
@[simp] theorem setWait_chans : (setWait q w s).chans = s.chans := rfl
@[simp] theorem setWait_tngTurn : (setWait q w s).tngTurn = s.tngTurn := rfl
@[simp] theorem setWait_vclear : (setWait q w s).vclear = s.vclear := rfl
@[simp] theorem setWait_crcJobs : (setWait q w s).crcJobs = s.crcJobs := rfl
@[simp] theorem setWait_rmove : (setWait q w s).rmove = s.rmove := rfl
@[simp] theorem setWait_links : (setWait q w s).links = s.links := rfl
@[simp] theorem setWait_group : (setWait q w s).group = s.group := rfl
@[simp] theorem setWait_cfg : (setWait q w s).cfg = s.cfg := rfl
@[simp] theorem setWait_prefen : (setWait q w s).prefen = s.prefen := rfl
@[simp] theorem setWait_flash : (setWait q w s).flash = s.flash := rfl
@[simp] theorem setWait_runSlot : (setWait q w s).runSlot = s.runSlot := rfl
@[simp] theorem setWait_ember : (setWait q w s).ember = s.ember := rfl
@[simp] theorem setWait_board : (setWait q w s).board = s.board := rfl
@[simp] theorem setWait_out : (setWait q w s).out = s.out := rfl
@[simp] theorem setWait_pending : (setWait q w s).pending = s.pending := rfl

end setWait

section setCore

variable (x : Nat) (v : CoreSt) (s : State)

@[simp] theorem setCore_time : (setCore x v s).time = s.time := rfl
@[simp] theorem setCore_sclkFrom : (setCore x v s).sclkFrom = s.sclkFrom := rfl
@[simp] theorem setCore_free : (setCore x v s).free = s.free := rfl
@[simp] theorem setCore_regs : (setCore x v s).regs = s.regs := rfl
@[simp] theorem setCore_mem : (setCore x v s).mem = s.mem := rfl
@[simp] theorem setCore_blocked : (setCore x v s).blocked = s.blocked := rfl
@[simp] theorem setCore_found : (setCore x v s).found = s.found := rfl
@[simp] theorem setCore_lanes : (setCore x v s).lanes = s.lanes := rfl
@[simp] theorem setCore_laneDue : (setCore x v s).laneDue = s.laneDue := rfl
@[simp] theorem setCore_spareBad : (setCore x v s).spareBad = s.spareBad := rfl
@[simp] theorem setCore_up : (setCore x v s).up = s.up := rfl
@[simp] theorem setCore_hearths : (setCore x v s).hearths = s.hearths := rfl
@[simp] theorem setCore_tags : (setCore x v s).tags = s.tags := rfl
@[simp] theorem setCore_fltHearths : (setCore x v s).fltHearths = s.fltHearths := rfl
@[simp] theorem setCore_fltSeq : (setCore x v s).fltSeq = s.fltSeq := rfl
@[simp] theorem setCore_queues : (setCore x v s).queues = s.queues := rfl
@[simp] theorem setCore_waits : (setCore x v s).waits = s.waits := rfl
@[simp] theorem setCore_pmWait : (setCore x v s).pmWait = s.pmWait := rfl
@[simp] theorem setCore_lastQ : (setCore x v s).lastQ = s.lastQ := rfl
@[simp] theorem setCore_cycles : (setCore x v s).cycles = s.cycles := rfl
@[simp] theorem setCore_xregs : (setCore x v s).xregs = s.xregs := rfl
@[simp] theorem setCore_umode : (setCore x v s).umode = s.umode := rfl
@[simp] theorem setCore_mcause : (setCore x v s).mcause = s.mcause := rfl
@[simp] theorem setCore_mtval : (setCore x v s).mtval = s.mtval := rfl
@[simp] theorem setCore_coreTag : (setCore x v s).coreTag = s.coreTag := rfl
@[simp] theorem setCore_corePc : (setCore x v s).corePc = s.corePc := rfl
@[simp] theorem setCore_belsel : (setCore x v s).belsel = s.belsel := rfl
@[simp] theorem setCore_banks : (setCore x v s).banks = s.banks := rfl
@[simp] theorem setCore_clusters : (setCore x v s).clusters = s.clusters := rfl
@[simp] theorem setCore_dcache : (setCore x v s).dcache = s.dcache := rfl
@[simp] theorem setCore_icache : (setCore x v s).icache = s.icache := rfl
@[simp] theorem setCore_resv : (setCore x v s).resv = s.resv := rfl
@[simp] theorem setCore_tracker : (setCore x v s).tracker = s.tracker := rfl
@[simp] theorem setCore_trackAge : (setCore x v s).trackAge = s.trackAge := rfl
@[simp] theorem setCore_snoops : (setCore x v s).snoops = s.snoops := rfl
@[simp] theorem setCore_recalls : (setCore x v s).recalls = s.recalls := rfl
@[simp] theorem setCore_held : (setCore x v s).held = s.held := rfl
@[simp] theorem setCore_burstQ : (setCore x v s).burstQ = s.burstQ := rfl
@[simp] theorem setCore_asks : (setCore x v s).asks = s.asks := rfl
@[simp] theorem setCore_yielded : (setCore x v s).yielded = s.yielded := rfl
@[simp] theorem setCore_srWant : (setCore x v s).srWant = s.srWant := rfl
@[simp] theorem setCore_postponed : (setCore x v s).postponed = s.postponed := rfl
@[simp] theorem setCore_scrubPos : (setCore x v s).scrubPos = s.scrubPos := rfl
@[simp] theorem setCore_corrLog : (setCore x v s).corrLog = s.corrLog := rfl
@[simp] theorem setCore_remapDue : (setCore x v s).remapDue = s.remapDue := rfl
@[simp] theorem setCore_flashRemap : (setCore x v s).flashRemap = s.flashRemap := rfl
@[simp] theorem setCore_layerRemap : (setCore x v s).layerRemap = s.layerRemap := rfl
@[simp] theorem setCore_runs : (setCore x v s).runs = s.runs := rfl
@[simp] theorem setCore_units : (setCore x v s).units = s.units := rfl
@[simp] theorem setCore_unitCnt : (setCore x v s).unitCnt = s.unitCnt := rfl
@[simp] theorem setCore_exch : (setCore x v s).exch = s.exch := rfl
@[simp] theorem setCore_mpStore : (setCore x v s).mpStore = s.mpStore := rfl
@[simp] theorem setCore_mpChk : (setCore x v s).mpChk = s.mpChk := rfl
@[simp] theorem setCore_mpOwn : (setCore x v s).mpOwn = s.mpOwn := rfl
@[simp] theorem setCore_chans : (setCore x v s).chans = s.chans := rfl
@[simp] theorem setCore_tngTurn : (setCore x v s).tngTurn = s.tngTurn := rfl
@[simp] theorem setCore_vclear : (setCore x v s).vclear = s.vclear := rfl
@[simp] theorem setCore_crcJobs : (setCore x v s).crcJobs = s.crcJobs := rfl
@[simp] theorem setCore_rmove : (setCore x v s).rmove = s.rmove := rfl
@[simp] theorem setCore_links : (setCore x v s).links = s.links := rfl
@[simp] theorem setCore_group : (setCore x v s).group = s.group := rfl
@[simp] theorem setCore_cfg : (setCore x v s).cfg = s.cfg := rfl
@[simp] theorem setCore_prefen : (setCore x v s).prefen = s.prefen := rfl
@[simp] theorem setCore_flash : (setCore x v s).flash = s.flash := rfl
@[simp] theorem setCore_runSlot : (setCore x v s).runSlot = s.runSlot := rfl
@[simp] theorem setCore_ember : (setCore x v s).ember = s.ember := rfl
@[simp] theorem setCore_board : (setCore x v s).board = s.board := rfl
@[simp] theorem setCore_out : (setCore x v s).out = s.out := rfl
@[simp] theorem setCore_pending : (setCore x v s).pending = s.pending := rfl

end setCore

section setCluster

variable (x : Nat) (v : Cluster) (s : State)

@[simp] theorem setCluster_time : (setCluster x v s).time = s.time := rfl
@[simp] theorem setCluster_sclkFrom : (setCluster x v s).sclkFrom = s.sclkFrom := rfl
@[simp] theorem setCluster_free : (setCluster x v s).free = s.free := rfl
@[simp] theorem setCluster_regs : (setCluster x v s).regs = s.regs := rfl
@[simp] theorem setCluster_mem : (setCluster x v s).mem = s.mem := rfl
@[simp] theorem setCluster_blocked : (setCluster x v s).blocked = s.blocked := rfl
@[simp] theorem setCluster_found : (setCluster x v s).found = s.found := rfl
@[simp] theorem setCluster_lanes : (setCluster x v s).lanes = s.lanes := rfl
@[simp] theorem setCluster_laneDue : (setCluster x v s).laneDue = s.laneDue := rfl
@[simp] theorem setCluster_spareBad : (setCluster x v s).spareBad = s.spareBad := rfl
@[simp] theorem setCluster_up : (setCluster x v s).up = s.up := rfl
@[simp] theorem setCluster_hearths : (setCluster x v s).hearths = s.hearths := rfl
@[simp] theorem setCluster_tags : (setCluster x v s).tags = s.tags := rfl
@[simp] theorem setCluster_fltHearths : (setCluster x v s).fltHearths = s.fltHearths := rfl
@[simp] theorem setCluster_fltSeq : (setCluster x v s).fltSeq = s.fltSeq := rfl
@[simp] theorem setCluster_queues : (setCluster x v s).queues = s.queues := rfl
@[simp] theorem setCluster_waits : (setCluster x v s).waits = s.waits := rfl
@[simp] theorem setCluster_pmWait : (setCluster x v s).pmWait = s.pmWait := rfl
@[simp] theorem setCluster_lastQ : (setCluster x v s).lastQ = s.lastQ := rfl
@[simp] theorem setCluster_cycles : (setCluster x v s).cycles = s.cycles := rfl
@[simp] theorem setCluster_xregs : (setCluster x v s).xregs = s.xregs := rfl
@[simp] theorem setCluster_umode : (setCluster x v s).umode = s.umode := rfl
@[simp] theorem setCluster_mcause : (setCluster x v s).mcause = s.mcause := rfl
@[simp] theorem setCluster_mtval : (setCluster x v s).mtval = s.mtval := rfl
@[simp] theorem setCluster_coreTag : (setCluster x v s).coreTag = s.coreTag := rfl
@[simp] theorem setCluster_corePc : (setCluster x v s).corePc = s.corePc := rfl
@[simp] theorem setCluster_belsel : (setCluster x v s).belsel = s.belsel := rfl
@[simp] theorem setCluster_cores : (setCluster x v s).cores = s.cores := rfl
@[simp] theorem setCluster_banks : (setCluster x v s).banks = s.banks := rfl
@[simp] theorem setCluster_dcache : (setCluster x v s).dcache = s.dcache := rfl
@[simp] theorem setCluster_icache : (setCluster x v s).icache = s.icache := rfl
@[simp] theorem setCluster_resv : (setCluster x v s).resv = s.resv := rfl
@[simp] theorem setCluster_tracker : (setCluster x v s).tracker = s.tracker := rfl
@[simp] theorem setCluster_trackAge : (setCluster x v s).trackAge = s.trackAge := rfl
@[simp] theorem setCluster_snoops : (setCluster x v s).snoops = s.snoops := rfl
@[simp] theorem setCluster_recalls : (setCluster x v s).recalls = s.recalls := rfl
@[simp] theorem setCluster_held : (setCluster x v s).held = s.held := rfl
@[simp] theorem setCluster_burstQ : (setCluster x v s).burstQ = s.burstQ := rfl
@[simp] theorem setCluster_asks : (setCluster x v s).asks = s.asks := rfl
@[simp] theorem setCluster_yielded : (setCluster x v s).yielded = s.yielded := rfl
@[simp] theorem setCluster_srWant : (setCluster x v s).srWant = s.srWant := rfl
@[simp] theorem setCluster_postponed : (setCluster x v s).postponed = s.postponed := rfl
@[simp] theorem setCluster_scrubPos : (setCluster x v s).scrubPos = s.scrubPos := rfl
@[simp] theorem setCluster_corrLog : (setCluster x v s).corrLog = s.corrLog := rfl
@[simp] theorem setCluster_remapDue : (setCluster x v s).remapDue = s.remapDue := rfl
@[simp] theorem setCluster_flashRemap : (setCluster x v s).flashRemap = s.flashRemap := rfl
@[simp] theorem setCluster_layerRemap : (setCluster x v s).layerRemap = s.layerRemap := rfl
@[simp] theorem setCluster_runs : (setCluster x v s).runs = s.runs := rfl
@[simp] theorem setCluster_units : (setCluster x v s).units = s.units := rfl
@[simp] theorem setCluster_unitCnt : (setCluster x v s).unitCnt = s.unitCnt := rfl
@[simp] theorem setCluster_exch : (setCluster x v s).exch = s.exch := rfl
@[simp] theorem setCluster_mpStore : (setCluster x v s).mpStore = s.mpStore := rfl
@[simp] theorem setCluster_mpChk : (setCluster x v s).mpChk = s.mpChk := rfl
@[simp] theorem setCluster_mpOwn : (setCluster x v s).mpOwn = s.mpOwn := rfl
@[simp] theorem setCluster_chans : (setCluster x v s).chans = s.chans := rfl
@[simp] theorem setCluster_tngTurn : (setCluster x v s).tngTurn = s.tngTurn := rfl
@[simp] theorem setCluster_vclear : (setCluster x v s).vclear = s.vclear := rfl
@[simp] theorem setCluster_crcJobs : (setCluster x v s).crcJobs = s.crcJobs := rfl
@[simp] theorem setCluster_rmove : (setCluster x v s).rmove = s.rmove := rfl
@[simp] theorem setCluster_links : (setCluster x v s).links = s.links := rfl
@[simp] theorem setCluster_group : (setCluster x v s).group = s.group := rfl
@[simp] theorem setCluster_cfg : (setCluster x v s).cfg = s.cfg := rfl
@[simp] theorem setCluster_prefen : (setCluster x v s).prefen = s.prefen := rfl
@[simp] theorem setCluster_flash : (setCluster x v s).flash = s.flash := rfl
@[simp] theorem setCluster_runSlot : (setCluster x v s).runSlot = s.runSlot := rfl
@[simp] theorem setCluster_ember : (setCluster x v s).ember = s.ember := rfl
@[simp] theorem setCluster_board : (setCluster x v s).board = s.board := rfl
@[simp] theorem setCluster_out : (setCluster x v s).out = s.out := rfl
@[simp] theorem setCluster_pending : (setCluster x v s).pending = s.pending := rfl

end setCluster

section setBank

variable (core b : Nat) (v : Bank) (s : State)

@[simp] theorem setBank_time : (setBank core b v s).time = s.time := rfl
@[simp] theorem setBank_sclkFrom : (setBank core b v s).sclkFrom = s.sclkFrom := rfl
@[simp] theorem setBank_free : (setBank core b v s).free = s.free := rfl
@[simp] theorem setBank_regs : (setBank core b v s).regs = s.regs := rfl
@[simp] theorem setBank_mem : (setBank core b v s).mem = s.mem := rfl
@[simp] theorem setBank_blocked : (setBank core b v s).blocked = s.blocked := rfl
@[simp] theorem setBank_found : (setBank core b v s).found = s.found := rfl
@[simp] theorem setBank_lanes : (setBank core b v s).lanes = s.lanes := rfl
@[simp] theorem setBank_laneDue : (setBank core b v s).laneDue = s.laneDue := rfl
@[simp] theorem setBank_spareBad : (setBank core b v s).spareBad = s.spareBad := rfl
@[simp] theorem setBank_up : (setBank core b v s).up = s.up := rfl
@[simp] theorem setBank_hearths : (setBank core b v s).hearths = s.hearths := rfl
@[simp] theorem setBank_tags : (setBank core b v s).tags = s.tags := rfl
@[simp] theorem setBank_fltHearths : (setBank core b v s).fltHearths = s.fltHearths := rfl
@[simp] theorem setBank_fltSeq : (setBank core b v s).fltSeq = s.fltSeq := rfl
@[simp] theorem setBank_queues : (setBank core b v s).queues = s.queues := rfl
@[simp] theorem setBank_waits : (setBank core b v s).waits = s.waits := rfl
@[simp] theorem setBank_pmWait : (setBank core b v s).pmWait = s.pmWait := rfl
@[simp] theorem setBank_lastQ : (setBank core b v s).lastQ = s.lastQ := rfl
@[simp] theorem setBank_cycles : (setBank core b v s).cycles = s.cycles := rfl
@[simp] theorem setBank_xregs : (setBank core b v s).xregs = s.xregs := rfl
@[simp] theorem setBank_umode : (setBank core b v s).umode = s.umode := rfl
@[simp] theorem setBank_mcause : (setBank core b v s).mcause = s.mcause := rfl
@[simp] theorem setBank_mtval : (setBank core b v s).mtval = s.mtval := rfl
@[simp] theorem setBank_coreTag : (setBank core b v s).coreTag = s.coreTag := rfl
@[simp] theorem setBank_corePc : (setBank core b v s).corePc = s.corePc := rfl
@[simp] theorem setBank_belsel : (setBank core b v s).belsel = s.belsel := rfl
@[simp] theorem setBank_cores : (setBank core b v s).cores = s.cores := rfl
@[simp] theorem setBank_clusters : (setBank core b v s).clusters = s.clusters := rfl
@[simp] theorem setBank_dcache : (setBank core b v s).dcache = s.dcache := rfl
@[simp] theorem setBank_icache : (setBank core b v s).icache = s.icache := rfl
@[simp] theorem setBank_resv : (setBank core b v s).resv = s.resv := rfl
@[simp] theorem setBank_tracker : (setBank core b v s).tracker = s.tracker := rfl
@[simp] theorem setBank_trackAge : (setBank core b v s).trackAge = s.trackAge := rfl
@[simp] theorem setBank_snoops : (setBank core b v s).snoops = s.snoops := rfl
@[simp] theorem setBank_recalls : (setBank core b v s).recalls = s.recalls := rfl
@[simp] theorem setBank_held : (setBank core b v s).held = s.held := rfl
@[simp] theorem setBank_burstQ : (setBank core b v s).burstQ = s.burstQ := rfl
@[simp] theorem setBank_asks : (setBank core b v s).asks = s.asks := rfl
@[simp] theorem setBank_yielded : (setBank core b v s).yielded = s.yielded := rfl
@[simp] theorem setBank_srWant : (setBank core b v s).srWant = s.srWant := rfl
@[simp] theorem setBank_postponed : (setBank core b v s).postponed = s.postponed := rfl
@[simp] theorem setBank_scrubPos : (setBank core b v s).scrubPos = s.scrubPos := rfl
@[simp] theorem setBank_corrLog : (setBank core b v s).corrLog = s.corrLog := rfl
@[simp] theorem setBank_remapDue : (setBank core b v s).remapDue = s.remapDue := rfl
@[simp] theorem setBank_flashRemap : (setBank core b v s).flashRemap = s.flashRemap := rfl
@[simp] theorem setBank_layerRemap : (setBank core b v s).layerRemap = s.layerRemap := rfl
@[simp] theorem setBank_runs : (setBank core b v s).runs = s.runs := rfl
@[simp] theorem setBank_units : (setBank core b v s).units = s.units := rfl
@[simp] theorem setBank_unitCnt : (setBank core b v s).unitCnt = s.unitCnt := rfl
@[simp] theorem setBank_exch : (setBank core b v s).exch = s.exch := rfl
@[simp] theorem setBank_mpStore : (setBank core b v s).mpStore = s.mpStore := rfl
@[simp] theorem setBank_mpChk : (setBank core b v s).mpChk = s.mpChk := rfl
@[simp] theorem setBank_mpOwn : (setBank core b v s).mpOwn = s.mpOwn := rfl
@[simp] theorem setBank_chans : (setBank core b v s).chans = s.chans := rfl
@[simp] theorem setBank_tngTurn : (setBank core b v s).tngTurn = s.tngTurn := rfl
@[simp] theorem setBank_vclear : (setBank core b v s).vclear = s.vclear := rfl
@[simp] theorem setBank_crcJobs : (setBank core b v s).crcJobs = s.crcJobs := rfl
@[simp] theorem setBank_rmove : (setBank core b v s).rmove = s.rmove := rfl
@[simp] theorem setBank_links : (setBank core b v s).links = s.links := rfl
@[simp] theorem setBank_group : (setBank core b v s).group = s.group := rfl
@[simp] theorem setBank_cfg : (setBank core b v s).cfg = s.cfg := rfl
@[simp] theorem setBank_prefen : (setBank core b v s).prefen = s.prefen := rfl
@[simp] theorem setBank_flash : (setBank core b v s).flash = s.flash := rfl
@[simp] theorem setBank_runSlot : (setBank core b v s).runSlot = s.runSlot := rfl
@[simp] theorem setBank_ember : (setBank core b v s).ember = s.ember := rfl
@[simp] theorem setBank_board : (setBank core b v s).board = s.board := rfl
@[simp] theorem setBank_out : (setBank core b v s).out = s.out := rfl
@[simp] theorem setBank_pending : (setBank core b v s).pending = s.pending := rfl

end setBank

section setUnit

variable (n u : Nat) (x : SwgUnit) (s : State)

@[simp] theorem setUnit_time : (setUnit n u x s).time = s.time := rfl
@[simp] theorem setUnit_sclkFrom : (setUnit n u x s).sclkFrom = s.sclkFrom := rfl
@[simp] theorem setUnit_free : (setUnit n u x s).free = s.free := rfl
@[simp] theorem setUnit_regs : (setUnit n u x s).regs = s.regs := rfl
@[simp] theorem setUnit_mem : (setUnit n u x s).mem = s.mem := rfl
@[simp] theorem setUnit_blocked : (setUnit n u x s).blocked = s.blocked := rfl
@[simp] theorem setUnit_found : (setUnit n u x s).found = s.found := rfl
@[simp] theorem setUnit_lanes : (setUnit n u x s).lanes = s.lanes := rfl
@[simp] theorem setUnit_laneDue : (setUnit n u x s).laneDue = s.laneDue := rfl
@[simp] theorem setUnit_spareBad : (setUnit n u x s).spareBad = s.spareBad := rfl
@[simp] theorem setUnit_up : (setUnit n u x s).up = s.up := rfl
@[simp] theorem setUnit_hearths : (setUnit n u x s).hearths = s.hearths := rfl
@[simp] theorem setUnit_tags : (setUnit n u x s).tags = s.tags := rfl
@[simp] theorem setUnit_fltHearths : (setUnit n u x s).fltHearths = s.fltHearths := rfl
@[simp] theorem setUnit_fltSeq : (setUnit n u x s).fltSeq = s.fltSeq := rfl
@[simp] theorem setUnit_queues : (setUnit n u x s).queues = s.queues := rfl
@[simp] theorem setUnit_waits : (setUnit n u x s).waits = s.waits := rfl
@[simp] theorem setUnit_pmWait : (setUnit n u x s).pmWait = s.pmWait := rfl
@[simp] theorem setUnit_lastQ : (setUnit n u x s).lastQ = s.lastQ := rfl
@[simp] theorem setUnit_cycles : (setUnit n u x s).cycles = s.cycles := rfl
@[simp] theorem setUnit_xregs : (setUnit n u x s).xregs = s.xregs := rfl
@[simp] theorem setUnit_umode : (setUnit n u x s).umode = s.umode := rfl
@[simp] theorem setUnit_mcause : (setUnit n u x s).mcause = s.mcause := rfl
@[simp] theorem setUnit_mtval : (setUnit n u x s).mtval = s.mtval := rfl
@[simp] theorem setUnit_coreTag : (setUnit n u x s).coreTag = s.coreTag := rfl
@[simp] theorem setUnit_corePc : (setUnit n u x s).corePc = s.corePc := rfl
@[simp] theorem setUnit_belsel : (setUnit n u x s).belsel = s.belsel := rfl
@[simp] theorem setUnit_cores : (setUnit n u x s).cores = s.cores := rfl
@[simp] theorem setUnit_banks : (setUnit n u x s).banks = s.banks := rfl
@[simp] theorem setUnit_clusters : (setUnit n u x s).clusters = s.clusters := rfl
@[simp] theorem setUnit_dcache : (setUnit n u x s).dcache = s.dcache := rfl
@[simp] theorem setUnit_icache : (setUnit n u x s).icache = s.icache := rfl
@[simp] theorem setUnit_resv : (setUnit n u x s).resv = s.resv := rfl
@[simp] theorem setUnit_tracker : (setUnit n u x s).tracker = s.tracker := rfl
@[simp] theorem setUnit_trackAge : (setUnit n u x s).trackAge = s.trackAge := rfl
@[simp] theorem setUnit_snoops : (setUnit n u x s).snoops = s.snoops := rfl
@[simp] theorem setUnit_recalls : (setUnit n u x s).recalls = s.recalls := rfl
@[simp] theorem setUnit_held : (setUnit n u x s).held = s.held := rfl
@[simp] theorem setUnit_burstQ : (setUnit n u x s).burstQ = s.burstQ := rfl
@[simp] theorem setUnit_asks : (setUnit n u x s).asks = s.asks := rfl
@[simp] theorem setUnit_yielded : (setUnit n u x s).yielded = s.yielded := rfl
@[simp] theorem setUnit_srWant : (setUnit n u x s).srWant = s.srWant := rfl
@[simp] theorem setUnit_postponed : (setUnit n u x s).postponed = s.postponed := rfl
@[simp] theorem setUnit_scrubPos : (setUnit n u x s).scrubPos = s.scrubPos := rfl
@[simp] theorem setUnit_corrLog : (setUnit n u x s).corrLog = s.corrLog := rfl
@[simp] theorem setUnit_remapDue : (setUnit n u x s).remapDue = s.remapDue := rfl
@[simp] theorem setUnit_flashRemap : (setUnit n u x s).flashRemap = s.flashRemap := rfl
@[simp] theorem setUnit_layerRemap : (setUnit n u x s).layerRemap = s.layerRemap := rfl
@[simp] theorem setUnit_runs : (setUnit n u x s).runs = s.runs := rfl
@[simp] theorem setUnit_unitCnt : (setUnit n u x s).unitCnt = s.unitCnt := rfl
@[simp] theorem setUnit_exch : (setUnit n u x s).exch = s.exch := rfl
@[simp] theorem setUnit_mpStore : (setUnit n u x s).mpStore = s.mpStore := rfl
@[simp] theorem setUnit_mpChk : (setUnit n u x s).mpChk = s.mpChk := rfl
@[simp] theorem setUnit_mpOwn : (setUnit n u x s).mpOwn = s.mpOwn := rfl
@[simp] theorem setUnit_chans : (setUnit n u x s).chans = s.chans := rfl
@[simp] theorem setUnit_tngTurn : (setUnit n u x s).tngTurn = s.tngTurn := rfl
@[simp] theorem setUnit_vclear : (setUnit n u x s).vclear = s.vclear := rfl
@[simp] theorem setUnit_crcJobs : (setUnit n u x s).crcJobs = s.crcJobs := rfl
@[simp] theorem setUnit_rmove : (setUnit n u x s).rmove = s.rmove := rfl
@[simp] theorem setUnit_links : (setUnit n u x s).links = s.links := rfl
@[simp] theorem setUnit_group : (setUnit n u x s).group = s.group := rfl
@[simp] theorem setUnit_cfg : (setUnit n u x s).cfg = s.cfg := rfl
@[simp] theorem setUnit_prefen : (setUnit n u x s).prefen = s.prefen := rfl
@[simp] theorem setUnit_flash : (setUnit n u x s).flash = s.flash := rfl
@[simp] theorem setUnit_runSlot : (setUnit n u x s).runSlot = s.runSlot := rfl
@[simp] theorem setUnit_ember : (setUnit n u x s).ember = s.ember := rfl
@[simp] theorem setUnit_board : (setUnit n u x s).board = s.board := rfl
@[simp] theorem setUnit_out : (setUnit n u x s).out = s.out := rfl
@[simp] theorem setUnit_pending : (setUnit n u x s).pending = s.pending := rfl

end setUnit

section setExch

variable (n : Nat) (l : List PeerMax) (s : State)

@[simp] theorem setExch_time : (setExch n l s).time = s.time := rfl
@[simp] theorem setExch_sclkFrom : (setExch n l s).sclkFrom = s.sclkFrom := rfl
@[simp] theorem setExch_free : (setExch n l s).free = s.free := rfl
@[simp] theorem setExch_regs : (setExch n l s).regs = s.regs := rfl
@[simp] theorem setExch_mem : (setExch n l s).mem = s.mem := rfl
@[simp] theorem setExch_blocked : (setExch n l s).blocked = s.blocked := rfl
@[simp] theorem setExch_found : (setExch n l s).found = s.found := rfl
@[simp] theorem setExch_lanes : (setExch n l s).lanes = s.lanes := rfl
@[simp] theorem setExch_laneDue : (setExch n l s).laneDue = s.laneDue := rfl
@[simp] theorem setExch_spareBad : (setExch n l s).spareBad = s.spareBad := rfl
@[simp] theorem setExch_up : (setExch n l s).up = s.up := rfl
@[simp] theorem setExch_hearths : (setExch n l s).hearths = s.hearths := rfl
@[simp] theorem setExch_tags : (setExch n l s).tags = s.tags := rfl
@[simp] theorem setExch_fltHearths : (setExch n l s).fltHearths = s.fltHearths := rfl
@[simp] theorem setExch_fltSeq : (setExch n l s).fltSeq = s.fltSeq := rfl
@[simp] theorem setExch_queues : (setExch n l s).queues = s.queues := rfl
@[simp] theorem setExch_waits : (setExch n l s).waits = s.waits := rfl
@[simp] theorem setExch_pmWait : (setExch n l s).pmWait = s.pmWait := rfl
@[simp] theorem setExch_lastQ : (setExch n l s).lastQ = s.lastQ := rfl
@[simp] theorem setExch_cycles : (setExch n l s).cycles = s.cycles := rfl
@[simp] theorem setExch_xregs : (setExch n l s).xregs = s.xregs := rfl
@[simp] theorem setExch_umode : (setExch n l s).umode = s.umode := rfl
@[simp] theorem setExch_mcause : (setExch n l s).mcause = s.mcause := rfl
@[simp] theorem setExch_mtval : (setExch n l s).mtval = s.mtval := rfl
@[simp] theorem setExch_coreTag : (setExch n l s).coreTag = s.coreTag := rfl
@[simp] theorem setExch_corePc : (setExch n l s).corePc = s.corePc := rfl
@[simp] theorem setExch_belsel : (setExch n l s).belsel = s.belsel := rfl
@[simp] theorem setExch_cores : (setExch n l s).cores = s.cores := rfl
@[simp] theorem setExch_banks : (setExch n l s).banks = s.banks := rfl
@[simp] theorem setExch_clusters : (setExch n l s).clusters = s.clusters := rfl
@[simp] theorem setExch_dcache : (setExch n l s).dcache = s.dcache := rfl
@[simp] theorem setExch_icache : (setExch n l s).icache = s.icache := rfl
@[simp] theorem setExch_resv : (setExch n l s).resv = s.resv := rfl
@[simp] theorem setExch_tracker : (setExch n l s).tracker = s.tracker := rfl
@[simp] theorem setExch_trackAge : (setExch n l s).trackAge = s.trackAge := rfl
@[simp] theorem setExch_snoops : (setExch n l s).snoops = s.snoops := rfl
@[simp] theorem setExch_recalls : (setExch n l s).recalls = s.recalls := rfl
@[simp] theorem setExch_held : (setExch n l s).held = s.held := rfl
@[simp] theorem setExch_burstQ : (setExch n l s).burstQ = s.burstQ := rfl
@[simp] theorem setExch_asks : (setExch n l s).asks = s.asks := rfl
@[simp] theorem setExch_yielded : (setExch n l s).yielded = s.yielded := rfl
@[simp] theorem setExch_srWant : (setExch n l s).srWant = s.srWant := rfl
@[simp] theorem setExch_postponed : (setExch n l s).postponed = s.postponed := rfl
@[simp] theorem setExch_scrubPos : (setExch n l s).scrubPos = s.scrubPos := rfl
@[simp] theorem setExch_corrLog : (setExch n l s).corrLog = s.corrLog := rfl
@[simp] theorem setExch_remapDue : (setExch n l s).remapDue = s.remapDue := rfl
@[simp] theorem setExch_flashRemap : (setExch n l s).flashRemap = s.flashRemap := rfl
@[simp] theorem setExch_layerRemap : (setExch n l s).layerRemap = s.layerRemap := rfl
@[simp] theorem setExch_runs : (setExch n l s).runs = s.runs := rfl
@[simp] theorem setExch_units : (setExch n l s).units = s.units := rfl
@[simp] theorem setExch_unitCnt : (setExch n l s).unitCnt = s.unitCnt := rfl
@[simp] theorem setExch_mpStore : (setExch n l s).mpStore = s.mpStore := rfl
@[simp] theorem setExch_mpChk : (setExch n l s).mpChk = s.mpChk := rfl
@[simp] theorem setExch_mpOwn : (setExch n l s).mpOwn = s.mpOwn := rfl
@[simp] theorem setExch_chans : (setExch n l s).chans = s.chans := rfl
@[simp] theorem setExch_tngTurn : (setExch n l s).tngTurn = s.tngTurn := rfl
@[simp] theorem setExch_vclear : (setExch n l s).vclear = s.vclear := rfl
@[simp] theorem setExch_crcJobs : (setExch n l s).crcJobs = s.crcJobs := rfl
@[simp] theorem setExch_rmove : (setExch n l s).rmove = s.rmove := rfl
@[simp] theorem setExch_links : (setExch n l s).links = s.links := rfl
@[simp] theorem setExch_group : (setExch n l s).group = s.group := rfl
@[simp] theorem setExch_cfg : (setExch n l s).cfg = s.cfg := rfl
@[simp] theorem setExch_prefen : (setExch n l s).prefen = s.prefen := rfl
@[simp] theorem setExch_flash : (setExch n l s).flash = s.flash := rfl
@[simp] theorem setExch_runSlot : (setExch n l s).runSlot = s.runSlot := rfl
@[simp] theorem setExch_ember : (setExch n l s).ember = s.ember := rfl
@[simp] theorem setExch_board : (setExch n l s).board = s.board := rfl
@[simp] theorem setExch_out : (setExch n l s).out = s.out := rfl
@[simp] theorem setExch_pending : (setExch n l s).pending = s.pending := rfl

end setExch

section setChan

variable (e c : Nat) (x : Chan) (s : State)

@[simp] theorem setChan_time : (setChan e c x s).time = s.time := rfl
@[simp] theorem setChan_sclkFrom : (setChan e c x s).sclkFrom = s.sclkFrom := rfl
@[simp] theorem setChan_free : (setChan e c x s).free = s.free := rfl
@[simp] theorem setChan_regs : (setChan e c x s).regs = s.regs := rfl
@[simp] theorem setChan_mem : (setChan e c x s).mem = s.mem := rfl
@[simp] theorem setChan_blocked : (setChan e c x s).blocked = s.blocked := rfl
@[simp] theorem setChan_found : (setChan e c x s).found = s.found := rfl
@[simp] theorem setChan_lanes : (setChan e c x s).lanes = s.lanes := rfl
@[simp] theorem setChan_laneDue : (setChan e c x s).laneDue = s.laneDue := rfl
@[simp] theorem setChan_spareBad : (setChan e c x s).spareBad = s.spareBad := rfl
@[simp] theorem setChan_up : (setChan e c x s).up = s.up := rfl
@[simp] theorem setChan_hearths : (setChan e c x s).hearths = s.hearths := rfl
@[simp] theorem setChan_tags : (setChan e c x s).tags = s.tags := rfl
@[simp] theorem setChan_fltHearths : (setChan e c x s).fltHearths = s.fltHearths := rfl
@[simp] theorem setChan_fltSeq : (setChan e c x s).fltSeq = s.fltSeq := rfl
@[simp] theorem setChan_queues : (setChan e c x s).queues = s.queues := rfl
@[simp] theorem setChan_waits : (setChan e c x s).waits = s.waits := rfl
@[simp] theorem setChan_pmWait : (setChan e c x s).pmWait = s.pmWait := rfl
@[simp] theorem setChan_lastQ : (setChan e c x s).lastQ = s.lastQ := rfl
@[simp] theorem setChan_cycles : (setChan e c x s).cycles = s.cycles := rfl
@[simp] theorem setChan_xregs : (setChan e c x s).xregs = s.xregs := rfl
@[simp] theorem setChan_umode : (setChan e c x s).umode = s.umode := rfl
@[simp] theorem setChan_mcause : (setChan e c x s).mcause = s.mcause := rfl
@[simp] theorem setChan_mtval : (setChan e c x s).mtval = s.mtval := rfl
@[simp] theorem setChan_coreTag : (setChan e c x s).coreTag = s.coreTag := rfl
@[simp] theorem setChan_corePc : (setChan e c x s).corePc = s.corePc := rfl
@[simp] theorem setChan_belsel : (setChan e c x s).belsel = s.belsel := rfl
@[simp] theorem setChan_cores : (setChan e c x s).cores = s.cores := rfl
@[simp] theorem setChan_banks : (setChan e c x s).banks = s.banks := rfl
@[simp] theorem setChan_clusters : (setChan e c x s).clusters = s.clusters := rfl
@[simp] theorem setChan_dcache : (setChan e c x s).dcache = s.dcache := rfl
@[simp] theorem setChan_icache : (setChan e c x s).icache = s.icache := rfl
@[simp] theorem setChan_resv : (setChan e c x s).resv = s.resv := rfl
@[simp] theorem setChan_tracker : (setChan e c x s).tracker = s.tracker := rfl
@[simp] theorem setChan_trackAge : (setChan e c x s).trackAge = s.trackAge := rfl
@[simp] theorem setChan_snoops : (setChan e c x s).snoops = s.snoops := rfl
@[simp] theorem setChan_recalls : (setChan e c x s).recalls = s.recalls := rfl
@[simp] theorem setChan_held : (setChan e c x s).held = s.held := rfl
@[simp] theorem setChan_burstQ : (setChan e c x s).burstQ = s.burstQ := rfl
@[simp] theorem setChan_asks : (setChan e c x s).asks = s.asks := rfl
@[simp] theorem setChan_yielded : (setChan e c x s).yielded = s.yielded := rfl
@[simp] theorem setChan_srWant : (setChan e c x s).srWant = s.srWant := rfl
@[simp] theorem setChan_postponed : (setChan e c x s).postponed = s.postponed := rfl
@[simp] theorem setChan_scrubPos : (setChan e c x s).scrubPos = s.scrubPos := rfl
@[simp] theorem setChan_corrLog : (setChan e c x s).corrLog = s.corrLog := rfl
@[simp] theorem setChan_remapDue : (setChan e c x s).remapDue = s.remapDue := rfl
@[simp] theorem setChan_flashRemap : (setChan e c x s).flashRemap = s.flashRemap := rfl
@[simp] theorem setChan_layerRemap : (setChan e c x s).layerRemap = s.layerRemap := rfl
@[simp] theorem setChan_runs : (setChan e c x s).runs = s.runs := rfl
@[simp] theorem setChan_units : (setChan e c x s).units = s.units := rfl
@[simp] theorem setChan_unitCnt : (setChan e c x s).unitCnt = s.unitCnt := rfl
@[simp] theorem setChan_exch : (setChan e c x s).exch = s.exch := rfl
@[simp] theorem setChan_mpStore : (setChan e c x s).mpStore = s.mpStore := rfl
@[simp] theorem setChan_mpChk : (setChan e c x s).mpChk = s.mpChk := rfl
@[simp] theorem setChan_mpOwn : (setChan e c x s).mpOwn = s.mpOwn := rfl
@[simp] theorem setChan_tngTurn : (setChan e c x s).tngTurn = s.tngTurn := rfl
@[simp] theorem setChan_vclear : (setChan e c x s).vclear = s.vclear := rfl
@[simp] theorem setChan_crcJobs : (setChan e c x s).crcJobs = s.crcJobs := rfl
@[simp] theorem setChan_rmove : (setChan e c x s).rmove = s.rmove := rfl
@[simp] theorem setChan_links : (setChan e c x s).links = s.links := rfl
@[simp] theorem setChan_group : (setChan e c x s).group = s.group := rfl
@[simp] theorem setChan_cfg : (setChan e c x s).cfg = s.cfg := rfl
@[simp] theorem setChan_prefen : (setChan e c x s).prefen = s.prefen := rfl
@[simp] theorem setChan_flash : (setChan e c x s).flash = s.flash := rfl
@[simp] theorem setChan_runSlot : (setChan e c x s).runSlot = s.runSlot := rfl
@[simp] theorem setChan_ember : (setChan e c x s).ember = s.ember := rfl
@[simp] theorem setChan_board : (setChan e c x s).board = s.board := rfl
@[simp] theorem setChan_out : (setChan e c x s).out = s.out := rfl
@[simp] theorem setChan_pending : (setChan e c x s).pending = s.pending := rfl

end setChan

section setVclear

variable (n : Nat) (v : VClear) (s : State)

@[simp] theorem setVclear_time : (setVclear n v s).time = s.time := rfl
@[simp] theorem setVclear_sclkFrom : (setVclear n v s).sclkFrom = s.sclkFrom := rfl
@[simp] theorem setVclear_free : (setVclear n v s).free = s.free := rfl
@[simp] theorem setVclear_regs : (setVclear n v s).regs = s.regs := rfl
@[simp] theorem setVclear_mem : (setVclear n v s).mem = s.mem := rfl
@[simp] theorem setVclear_blocked : (setVclear n v s).blocked = s.blocked := rfl
@[simp] theorem setVclear_found : (setVclear n v s).found = s.found := rfl
@[simp] theorem setVclear_lanes : (setVclear n v s).lanes = s.lanes := rfl
@[simp] theorem setVclear_laneDue : (setVclear n v s).laneDue = s.laneDue := rfl
@[simp] theorem setVclear_spareBad : (setVclear n v s).spareBad = s.spareBad := rfl
@[simp] theorem setVclear_up : (setVclear n v s).up = s.up := rfl
@[simp] theorem setVclear_hearths : (setVclear n v s).hearths = s.hearths := rfl
@[simp] theorem setVclear_tags : (setVclear n v s).tags = s.tags := rfl
@[simp] theorem setVclear_fltHearths : (setVclear n v s).fltHearths = s.fltHearths := rfl
@[simp] theorem setVclear_fltSeq : (setVclear n v s).fltSeq = s.fltSeq := rfl
@[simp] theorem setVclear_queues : (setVclear n v s).queues = s.queues := rfl
@[simp] theorem setVclear_waits : (setVclear n v s).waits = s.waits := rfl
@[simp] theorem setVclear_pmWait : (setVclear n v s).pmWait = s.pmWait := rfl
@[simp] theorem setVclear_lastQ : (setVclear n v s).lastQ = s.lastQ := rfl
@[simp] theorem setVclear_cycles : (setVclear n v s).cycles = s.cycles := rfl
@[simp] theorem setVclear_xregs : (setVclear n v s).xregs = s.xregs := rfl
@[simp] theorem setVclear_umode : (setVclear n v s).umode = s.umode := rfl
@[simp] theorem setVclear_mcause : (setVclear n v s).mcause = s.mcause := rfl
@[simp] theorem setVclear_mtval : (setVclear n v s).mtval = s.mtval := rfl
@[simp] theorem setVclear_coreTag : (setVclear n v s).coreTag = s.coreTag := rfl
@[simp] theorem setVclear_corePc : (setVclear n v s).corePc = s.corePc := rfl
@[simp] theorem setVclear_belsel : (setVclear n v s).belsel = s.belsel := rfl
@[simp] theorem setVclear_cores : (setVclear n v s).cores = s.cores := rfl
@[simp] theorem setVclear_banks : (setVclear n v s).banks = s.banks := rfl
@[simp] theorem setVclear_clusters : (setVclear n v s).clusters = s.clusters := rfl
@[simp] theorem setVclear_dcache : (setVclear n v s).dcache = s.dcache := rfl
@[simp] theorem setVclear_icache : (setVclear n v s).icache = s.icache := rfl
@[simp] theorem setVclear_resv : (setVclear n v s).resv = s.resv := rfl
@[simp] theorem setVclear_tracker : (setVclear n v s).tracker = s.tracker := rfl
@[simp] theorem setVclear_trackAge : (setVclear n v s).trackAge = s.trackAge := rfl
@[simp] theorem setVclear_snoops : (setVclear n v s).snoops = s.snoops := rfl
@[simp] theorem setVclear_recalls : (setVclear n v s).recalls = s.recalls := rfl
@[simp] theorem setVclear_held : (setVclear n v s).held = s.held := rfl
@[simp] theorem setVclear_burstQ : (setVclear n v s).burstQ = s.burstQ := rfl
@[simp] theorem setVclear_asks : (setVclear n v s).asks = s.asks := rfl
@[simp] theorem setVclear_yielded : (setVclear n v s).yielded = s.yielded := rfl
@[simp] theorem setVclear_srWant : (setVclear n v s).srWant = s.srWant := rfl
@[simp] theorem setVclear_postponed : (setVclear n v s).postponed = s.postponed := rfl
@[simp] theorem setVclear_scrubPos : (setVclear n v s).scrubPos = s.scrubPos := rfl
@[simp] theorem setVclear_corrLog : (setVclear n v s).corrLog = s.corrLog := rfl
@[simp] theorem setVclear_remapDue : (setVclear n v s).remapDue = s.remapDue := rfl
@[simp] theorem setVclear_flashRemap : (setVclear n v s).flashRemap = s.flashRemap := rfl
@[simp] theorem setVclear_layerRemap : (setVclear n v s).layerRemap = s.layerRemap := rfl
@[simp] theorem setVclear_runs : (setVclear n v s).runs = s.runs := rfl
@[simp] theorem setVclear_units : (setVclear n v s).units = s.units := rfl
@[simp] theorem setVclear_unitCnt : (setVclear n v s).unitCnt = s.unitCnt := rfl
@[simp] theorem setVclear_exch : (setVclear n v s).exch = s.exch := rfl
@[simp] theorem setVclear_mpStore : (setVclear n v s).mpStore = s.mpStore := rfl
@[simp] theorem setVclear_mpChk : (setVclear n v s).mpChk = s.mpChk := rfl
@[simp] theorem setVclear_mpOwn : (setVclear n v s).mpOwn = s.mpOwn := rfl
@[simp] theorem setVclear_chans : (setVclear n v s).chans = s.chans := rfl
@[simp] theorem setVclear_tngTurn : (setVclear n v s).tngTurn = s.tngTurn := rfl
@[simp] theorem setVclear_crcJobs : (setVclear n v s).crcJobs = s.crcJobs := rfl
@[simp] theorem setVclear_rmove : (setVclear n v s).rmove = s.rmove := rfl
@[simp] theorem setVclear_links : (setVclear n v s).links = s.links := rfl
@[simp] theorem setVclear_group : (setVclear n v s).group = s.group := rfl
@[simp] theorem setVclear_cfg : (setVclear n v s).cfg = s.cfg := rfl
@[simp] theorem setVclear_prefen : (setVclear n v s).prefen = s.prefen := rfl
@[simp] theorem setVclear_flash : (setVclear n v s).flash = s.flash := rfl
@[simp] theorem setVclear_runSlot : (setVclear n v s).runSlot = s.runSlot := rfl
@[simp] theorem setVclear_ember : (setVclear n v s).ember = s.ember := rfl
@[simp] theorem setVclear_board : (setVclear n v s).board = s.board := rfl
@[simp] theorem setVclear_out : (setVclear n v s).out = s.out := rfl
@[simp] theorem setVclear_pending : (setVclear n v s).pending = s.pending := rfl

end setVclear

section updGroup

variable (f : Group → Group) (s : State)

@[simp] theorem updGroup_time : (updGroup f s).time = s.time := rfl
@[simp] theorem updGroup_sclkFrom : (updGroup f s).sclkFrom = s.sclkFrom := rfl
@[simp] theorem updGroup_free : (updGroup f s).free = s.free := rfl
@[simp] theorem updGroup_regs : (updGroup f s).regs = s.regs := rfl
@[simp] theorem updGroup_mem : (updGroup f s).mem = s.mem := rfl
@[simp] theorem updGroup_blocked : (updGroup f s).blocked = s.blocked := rfl
@[simp] theorem updGroup_found : (updGroup f s).found = s.found := rfl
@[simp] theorem updGroup_lanes : (updGroup f s).lanes = s.lanes := rfl
@[simp] theorem updGroup_laneDue : (updGroup f s).laneDue = s.laneDue := rfl
@[simp] theorem updGroup_spareBad : (updGroup f s).spareBad = s.spareBad := rfl
@[simp] theorem updGroup_up : (updGroup f s).up = s.up := rfl
@[simp] theorem updGroup_hearths : (updGroup f s).hearths = s.hearths := rfl
@[simp] theorem updGroup_tags : (updGroup f s).tags = s.tags := rfl
@[simp] theorem updGroup_fltHearths : (updGroup f s).fltHearths = s.fltHearths := rfl
@[simp] theorem updGroup_fltSeq : (updGroup f s).fltSeq = s.fltSeq := rfl
@[simp] theorem updGroup_queues : (updGroup f s).queues = s.queues := rfl
@[simp] theorem updGroup_waits : (updGroup f s).waits = s.waits := rfl
@[simp] theorem updGroup_pmWait : (updGroup f s).pmWait = s.pmWait := rfl
@[simp] theorem updGroup_lastQ : (updGroup f s).lastQ = s.lastQ := rfl
@[simp] theorem updGroup_cycles : (updGroup f s).cycles = s.cycles := rfl
@[simp] theorem updGroup_xregs : (updGroup f s).xregs = s.xregs := rfl
@[simp] theorem updGroup_umode : (updGroup f s).umode = s.umode := rfl
@[simp] theorem updGroup_mcause : (updGroup f s).mcause = s.mcause := rfl
@[simp] theorem updGroup_mtval : (updGroup f s).mtval = s.mtval := rfl
@[simp] theorem updGroup_coreTag : (updGroup f s).coreTag = s.coreTag := rfl
@[simp] theorem updGroup_corePc : (updGroup f s).corePc = s.corePc := rfl
@[simp] theorem updGroup_belsel : (updGroup f s).belsel = s.belsel := rfl
@[simp] theorem updGroup_cores : (updGroup f s).cores = s.cores := rfl
@[simp] theorem updGroup_banks : (updGroup f s).banks = s.banks := rfl
@[simp] theorem updGroup_clusters : (updGroup f s).clusters = s.clusters := rfl
@[simp] theorem updGroup_dcache : (updGroup f s).dcache = s.dcache := rfl
@[simp] theorem updGroup_icache : (updGroup f s).icache = s.icache := rfl
@[simp] theorem updGroup_resv : (updGroup f s).resv = s.resv := rfl
@[simp] theorem updGroup_tracker : (updGroup f s).tracker = s.tracker := rfl
@[simp] theorem updGroup_trackAge : (updGroup f s).trackAge = s.trackAge := rfl
@[simp] theorem updGroup_snoops : (updGroup f s).snoops = s.snoops := rfl
@[simp] theorem updGroup_recalls : (updGroup f s).recalls = s.recalls := rfl
@[simp] theorem updGroup_held : (updGroup f s).held = s.held := rfl
@[simp] theorem updGroup_burstQ : (updGroup f s).burstQ = s.burstQ := rfl
@[simp] theorem updGroup_asks : (updGroup f s).asks = s.asks := rfl
@[simp] theorem updGroup_yielded : (updGroup f s).yielded = s.yielded := rfl
@[simp] theorem updGroup_srWant : (updGroup f s).srWant = s.srWant := rfl
@[simp] theorem updGroup_postponed : (updGroup f s).postponed = s.postponed := rfl
@[simp] theorem updGroup_scrubPos : (updGroup f s).scrubPos = s.scrubPos := rfl
@[simp] theorem updGroup_corrLog : (updGroup f s).corrLog = s.corrLog := rfl
@[simp] theorem updGroup_remapDue : (updGroup f s).remapDue = s.remapDue := rfl
@[simp] theorem updGroup_flashRemap : (updGroup f s).flashRemap = s.flashRemap := rfl
@[simp] theorem updGroup_layerRemap : (updGroup f s).layerRemap = s.layerRemap := rfl
@[simp] theorem updGroup_runs : (updGroup f s).runs = s.runs := rfl
@[simp] theorem updGroup_units : (updGroup f s).units = s.units := rfl
@[simp] theorem updGroup_unitCnt : (updGroup f s).unitCnt = s.unitCnt := rfl
@[simp] theorem updGroup_exch : (updGroup f s).exch = s.exch := rfl
@[simp] theorem updGroup_mpStore : (updGroup f s).mpStore = s.mpStore := rfl
@[simp] theorem updGroup_mpChk : (updGroup f s).mpChk = s.mpChk := rfl
@[simp] theorem updGroup_mpOwn : (updGroup f s).mpOwn = s.mpOwn := rfl
@[simp] theorem updGroup_chans : (updGroup f s).chans = s.chans := rfl
@[simp] theorem updGroup_tngTurn : (updGroup f s).tngTurn = s.tngTurn := rfl
@[simp] theorem updGroup_vclear : (updGroup f s).vclear = s.vclear := rfl
@[simp] theorem updGroup_crcJobs : (updGroup f s).crcJobs = s.crcJobs := rfl
@[simp] theorem updGroup_rmove : (updGroup f s).rmove = s.rmove := rfl
@[simp] theorem updGroup_links : (updGroup f s).links = s.links := rfl
@[simp] theorem updGroup_cfg : (updGroup f s).cfg = s.cfg := rfl
@[simp] theorem updGroup_prefen : (updGroup f s).prefen = s.prefen := rfl
@[simp] theorem updGroup_flash : (updGroup f s).flash = s.flash := rfl
@[simp] theorem updGroup_runSlot : (updGroup f s).runSlot = s.runSlot := rfl
@[simp] theorem updGroup_ember : (updGroup f s).ember = s.ember := rfl
@[simp] theorem updGroup_board : (updGroup f s).board = s.board := rfl
@[simp] theorem updGroup_out : (updGroup f s).out = s.out := rfl
@[simp] theorem updGroup_pending : (updGroup f s).pending = s.pending := rfl

end updGroup

section updCfg

variable (f : Cfg → Cfg) (s : State)

@[simp] theorem updCfg_time : (updCfg f s).time = s.time := rfl
@[simp] theorem updCfg_sclkFrom : (updCfg f s).sclkFrom = s.sclkFrom := rfl
@[simp] theorem updCfg_free : (updCfg f s).free = s.free := rfl
@[simp] theorem updCfg_regs : (updCfg f s).regs = s.regs := rfl
@[simp] theorem updCfg_mem : (updCfg f s).mem = s.mem := rfl
@[simp] theorem updCfg_blocked : (updCfg f s).blocked = s.blocked := rfl
@[simp] theorem updCfg_found : (updCfg f s).found = s.found := rfl
@[simp] theorem updCfg_lanes : (updCfg f s).lanes = s.lanes := rfl
@[simp] theorem updCfg_laneDue : (updCfg f s).laneDue = s.laneDue := rfl
@[simp] theorem updCfg_spareBad : (updCfg f s).spareBad = s.spareBad := rfl
@[simp] theorem updCfg_up : (updCfg f s).up = s.up := rfl
@[simp] theorem updCfg_hearths : (updCfg f s).hearths = s.hearths := rfl
@[simp] theorem updCfg_tags : (updCfg f s).tags = s.tags := rfl
@[simp] theorem updCfg_fltHearths : (updCfg f s).fltHearths = s.fltHearths := rfl
@[simp] theorem updCfg_fltSeq : (updCfg f s).fltSeq = s.fltSeq := rfl
@[simp] theorem updCfg_queues : (updCfg f s).queues = s.queues := rfl
@[simp] theorem updCfg_waits : (updCfg f s).waits = s.waits := rfl
@[simp] theorem updCfg_pmWait : (updCfg f s).pmWait = s.pmWait := rfl
@[simp] theorem updCfg_lastQ : (updCfg f s).lastQ = s.lastQ := rfl
@[simp] theorem updCfg_cycles : (updCfg f s).cycles = s.cycles := rfl
@[simp] theorem updCfg_xregs : (updCfg f s).xregs = s.xregs := rfl
@[simp] theorem updCfg_umode : (updCfg f s).umode = s.umode := rfl
@[simp] theorem updCfg_mcause : (updCfg f s).mcause = s.mcause := rfl
@[simp] theorem updCfg_mtval : (updCfg f s).mtval = s.mtval := rfl
@[simp] theorem updCfg_coreTag : (updCfg f s).coreTag = s.coreTag := rfl
@[simp] theorem updCfg_corePc : (updCfg f s).corePc = s.corePc := rfl
@[simp] theorem updCfg_belsel : (updCfg f s).belsel = s.belsel := rfl
@[simp] theorem updCfg_cores : (updCfg f s).cores = s.cores := rfl
@[simp] theorem updCfg_banks : (updCfg f s).banks = s.banks := rfl
@[simp] theorem updCfg_clusters : (updCfg f s).clusters = s.clusters := rfl
@[simp] theorem updCfg_dcache : (updCfg f s).dcache = s.dcache := rfl
@[simp] theorem updCfg_icache : (updCfg f s).icache = s.icache := rfl
@[simp] theorem updCfg_resv : (updCfg f s).resv = s.resv := rfl
@[simp] theorem updCfg_tracker : (updCfg f s).tracker = s.tracker := rfl
@[simp] theorem updCfg_trackAge : (updCfg f s).trackAge = s.trackAge := rfl
@[simp] theorem updCfg_snoops : (updCfg f s).snoops = s.snoops := rfl
@[simp] theorem updCfg_recalls : (updCfg f s).recalls = s.recalls := rfl
@[simp] theorem updCfg_held : (updCfg f s).held = s.held := rfl
@[simp] theorem updCfg_burstQ : (updCfg f s).burstQ = s.burstQ := rfl
@[simp] theorem updCfg_asks : (updCfg f s).asks = s.asks := rfl
@[simp] theorem updCfg_yielded : (updCfg f s).yielded = s.yielded := rfl
@[simp] theorem updCfg_srWant : (updCfg f s).srWant = s.srWant := rfl
@[simp] theorem updCfg_postponed : (updCfg f s).postponed = s.postponed := rfl
@[simp] theorem updCfg_scrubPos : (updCfg f s).scrubPos = s.scrubPos := rfl
@[simp] theorem updCfg_corrLog : (updCfg f s).corrLog = s.corrLog := rfl
@[simp] theorem updCfg_remapDue : (updCfg f s).remapDue = s.remapDue := rfl
@[simp] theorem updCfg_flashRemap : (updCfg f s).flashRemap = s.flashRemap := rfl
@[simp] theorem updCfg_layerRemap : (updCfg f s).layerRemap = s.layerRemap := rfl
@[simp] theorem updCfg_runs : (updCfg f s).runs = s.runs := rfl
@[simp] theorem updCfg_units : (updCfg f s).units = s.units := rfl
@[simp] theorem updCfg_unitCnt : (updCfg f s).unitCnt = s.unitCnt := rfl
@[simp] theorem updCfg_exch : (updCfg f s).exch = s.exch := rfl
@[simp] theorem updCfg_mpStore : (updCfg f s).mpStore = s.mpStore := rfl
@[simp] theorem updCfg_mpChk : (updCfg f s).mpChk = s.mpChk := rfl
@[simp] theorem updCfg_mpOwn : (updCfg f s).mpOwn = s.mpOwn := rfl
@[simp] theorem updCfg_chans : (updCfg f s).chans = s.chans := rfl
@[simp] theorem updCfg_tngTurn : (updCfg f s).tngTurn = s.tngTurn := rfl
@[simp] theorem updCfg_vclear : (updCfg f s).vclear = s.vclear := rfl
@[simp] theorem updCfg_crcJobs : (updCfg f s).crcJobs = s.crcJobs := rfl
@[simp] theorem updCfg_rmove : (updCfg f s).rmove = s.rmove := rfl
@[simp] theorem updCfg_links : (updCfg f s).links = s.links := rfl
@[simp] theorem updCfg_group : (updCfg f s).group = s.group := rfl
@[simp] theorem updCfg_prefen : (updCfg f s).prefen = s.prefen := rfl
@[simp] theorem updCfg_flash : (updCfg f s).flash = s.flash := rfl
@[simp] theorem updCfg_runSlot : (updCfg f s).runSlot = s.runSlot := rfl
@[simp] theorem updCfg_ember : (updCfg f s).ember = s.ember := rfl
@[simp] theorem updCfg_board : (updCfg f s).board = s.board := rfl
@[simp] theorem updCfg_out : (updCfg f s).out = s.out := rfl
@[simp] theorem updCfg_pending : (updCfg f s).pending = s.pending := rfl

end updCfg

section updPrefen

variable (f : Prefen → Prefen) (s : State)

@[simp] theorem updPrefen_time : (updPrefen f s).time = s.time := rfl
@[simp] theorem updPrefen_sclkFrom : (updPrefen f s).sclkFrom = s.sclkFrom := rfl
@[simp] theorem updPrefen_free : (updPrefen f s).free = s.free := rfl
@[simp] theorem updPrefen_regs : (updPrefen f s).regs = s.regs := rfl
@[simp] theorem updPrefen_mem : (updPrefen f s).mem = s.mem := rfl
@[simp] theorem updPrefen_blocked : (updPrefen f s).blocked = s.blocked := rfl
@[simp] theorem updPrefen_found : (updPrefen f s).found = s.found := rfl
@[simp] theorem updPrefen_lanes : (updPrefen f s).lanes = s.lanes := rfl
@[simp] theorem updPrefen_laneDue : (updPrefen f s).laneDue = s.laneDue := rfl
@[simp] theorem updPrefen_spareBad : (updPrefen f s).spareBad = s.spareBad := rfl
@[simp] theorem updPrefen_up : (updPrefen f s).up = s.up := rfl
@[simp] theorem updPrefen_hearths : (updPrefen f s).hearths = s.hearths := rfl
@[simp] theorem updPrefen_tags : (updPrefen f s).tags = s.tags := rfl
@[simp] theorem updPrefen_fltHearths : (updPrefen f s).fltHearths = s.fltHearths := rfl
@[simp] theorem updPrefen_fltSeq : (updPrefen f s).fltSeq = s.fltSeq := rfl
@[simp] theorem updPrefen_queues : (updPrefen f s).queues = s.queues := rfl
@[simp] theorem updPrefen_waits : (updPrefen f s).waits = s.waits := rfl
@[simp] theorem updPrefen_pmWait : (updPrefen f s).pmWait = s.pmWait := rfl
@[simp] theorem updPrefen_lastQ : (updPrefen f s).lastQ = s.lastQ := rfl
@[simp] theorem updPrefen_cycles : (updPrefen f s).cycles = s.cycles := rfl
@[simp] theorem updPrefen_xregs : (updPrefen f s).xregs = s.xregs := rfl
@[simp] theorem updPrefen_umode : (updPrefen f s).umode = s.umode := rfl
@[simp] theorem updPrefen_mcause : (updPrefen f s).mcause = s.mcause := rfl
@[simp] theorem updPrefen_mtval : (updPrefen f s).mtval = s.mtval := rfl
@[simp] theorem updPrefen_coreTag : (updPrefen f s).coreTag = s.coreTag := rfl
@[simp] theorem updPrefen_corePc : (updPrefen f s).corePc = s.corePc := rfl
@[simp] theorem updPrefen_belsel : (updPrefen f s).belsel = s.belsel := rfl
@[simp] theorem updPrefen_cores : (updPrefen f s).cores = s.cores := rfl
@[simp] theorem updPrefen_banks : (updPrefen f s).banks = s.banks := rfl
@[simp] theorem updPrefen_clusters : (updPrefen f s).clusters = s.clusters := rfl
@[simp] theorem updPrefen_dcache : (updPrefen f s).dcache = s.dcache := rfl
@[simp] theorem updPrefen_icache : (updPrefen f s).icache = s.icache := rfl
@[simp] theorem updPrefen_resv : (updPrefen f s).resv = s.resv := rfl
@[simp] theorem updPrefen_tracker : (updPrefen f s).tracker = s.tracker := rfl
@[simp] theorem updPrefen_trackAge : (updPrefen f s).trackAge = s.trackAge := rfl
@[simp] theorem updPrefen_snoops : (updPrefen f s).snoops = s.snoops := rfl
@[simp] theorem updPrefen_recalls : (updPrefen f s).recalls = s.recalls := rfl
@[simp] theorem updPrefen_held : (updPrefen f s).held = s.held := rfl
@[simp] theorem updPrefen_burstQ : (updPrefen f s).burstQ = s.burstQ := rfl
@[simp] theorem updPrefen_asks : (updPrefen f s).asks = s.asks := rfl
@[simp] theorem updPrefen_yielded : (updPrefen f s).yielded = s.yielded := rfl
@[simp] theorem updPrefen_srWant : (updPrefen f s).srWant = s.srWant := rfl
@[simp] theorem updPrefen_postponed : (updPrefen f s).postponed = s.postponed := rfl
@[simp] theorem updPrefen_scrubPos : (updPrefen f s).scrubPos = s.scrubPos := rfl
@[simp] theorem updPrefen_corrLog : (updPrefen f s).corrLog = s.corrLog := rfl
@[simp] theorem updPrefen_remapDue : (updPrefen f s).remapDue = s.remapDue := rfl
@[simp] theorem updPrefen_flashRemap : (updPrefen f s).flashRemap = s.flashRemap := rfl
@[simp] theorem updPrefen_layerRemap : (updPrefen f s).layerRemap = s.layerRemap := rfl
@[simp] theorem updPrefen_runs : (updPrefen f s).runs = s.runs := rfl
@[simp] theorem updPrefen_units : (updPrefen f s).units = s.units := rfl
@[simp] theorem updPrefen_unitCnt : (updPrefen f s).unitCnt = s.unitCnt := rfl
@[simp] theorem updPrefen_exch : (updPrefen f s).exch = s.exch := rfl
@[simp] theorem updPrefen_mpStore : (updPrefen f s).mpStore = s.mpStore := rfl
@[simp] theorem updPrefen_mpChk : (updPrefen f s).mpChk = s.mpChk := rfl
@[simp] theorem updPrefen_mpOwn : (updPrefen f s).mpOwn = s.mpOwn := rfl
@[simp] theorem updPrefen_chans : (updPrefen f s).chans = s.chans := rfl
@[simp] theorem updPrefen_tngTurn : (updPrefen f s).tngTurn = s.tngTurn := rfl
@[simp] theorem updPrefen_vclear : (updPrefen f s).vclear = s.vclear := rfl
@[simp] theorem updPrefen_crcJobs : (updPrefen f s).crcJobs = s.crcJobs := rfl
@[simp] theorem updPrefen_rmove : (updPrefen f s).rmove = s.rmove := rfl
@[simp] theorem updPrefen_links : (updPrefen f s).links = s.links := rfl
@[simp] theorem updPrefen_group : (updPrefen f s).group = s.group := rfl
@[simp] theorem updPrefen_cfg : (updPrefen f s).cfg = s.cfg := rfl
@[simp] theorem updPrefen_flash : (updPrefen f s).flash = s.flash := rfl
@[simp] theorem updPrefen_runSlot : (updPrefen f s).runSlot = s.runSlot := rfl
@[simp] theorem updPrefen_ember : (updPrefen f s).ember = s.ember := rfl
@[simp] theorem updPrefen_board : (updPrefen f s).board = s.board := rfl
@[simp] theorem updPrefen_out : (updPrefen f s).out = s.out := rfl
@[simp] theorem updPrefen_pending : (updPrefen f s).pending = s.pending := rfl

end updPrefen

section updEmber

variable (f : Ember → Ember) (s : State)

@[simp] theorem updEmber_time : (updEmber f s).time = s.time := rfl
@[simp] theorem updEmber_sclkFrom : (updEmber f s).sclkFrom = s.sclkFrom := rfl
@[simp] theorem updEmber_free : (updEmber f s).free = s.free := rfl
@[simp] theorem updEmber_regs : (updEmber f s).regs = s.regs := rfl
@[simp] theorem updEmber_mem : (updEmber f s).mem = s.mem := rfl
@[simp] theorem updEmber_blocked : (updEmber f s).blocked = s.blocked := rfl
@[simp] theorem updEmber_found : (updEmber f s).found = s.found := rfl
@[simp] theorem updEmber_lanes : (updEmber f s).lanes = s.lanes := rfl
@[simp] theorem updEmber_laneDue : (updEmber f s).laneDue = s.laneDue := rfl
@[simp] theorem updEmber_spareBad : (updEmber f s).spareBad = s.spareBad := rfl
@[simp] theorem updEmber_up : (updEmber f s).up = s.up := rfl
@[simp] theorem updEmber_hearths : (updEmber f s).hearths = s.hearths := rfl
@[simp] theorem updEmber_tags : (updEmber f s).tags = s.tags := rfl
@[simp] theorem updEmber_fltHearths : (updEmber f s).fltHearths = s.fltHearths := rfl
@[simp] theorem updEmber_fltSeq : (updEmber f s).fltSeq = s.fltSeq := rfl
@[simp] theorem updEmber_queues : (updEmber f s).queues = s.queues := rfl
@[simp] theorem updEmber_waits : (updEmber f s).waits = s.waits := rfl
@[simp] theorem updEmber_pmWait : (updEmber f s).pmWait = s.pmWait := rfl
@[simp] theorem updEmber_lastQ : (updEmber f s).lastQ = s.lastQ := rfl
@[simp] theorem updEmber_cycles : (updEmber f s).cycles = s.cycles := rfl
@[simp] theorem updEmber_xregs : (updEmber f s).xregs = s.xregs := rfl
@[simp] theorem updEmber_umode : (updEmber f s).umode = s.umode := rfl
@[simp] theorem updEmber_mcause : (updEmber f s).mcause = s.mcause := rfl
@[simp] theorem updEmber_mtval : (updEmber f s).mtval = s.mtval := rfl
@[simp] theorem updEmber_coreTag : (updEmber f s).coreTag = s.coreTag := rfl
@[simp] theorem updEmber_corePc : (updEmber f s).corePc = s.corePc := rfl
@[simp] theorem updEmber_belsel : (updEmber f s).belsel = s.belsel := rfl
@[simp] theorem updEmber_cores : (updEmber f s).cores = s.cores := rfl
@[simp] theorem updEmber_banks : (updEmber f s).banks = s.banks := rfl
@[simp] theorem updEmber_clusters : (updEmber f s).clusters = s.clusters := rfl
@[simp] theorem updEmber_dcache : (updEmber f s).dcache = s.dcache := rfl
@[simp] theorem updEmber_icache : (updEmber f s).icache = s.icache := rfl
@[simp] theorem updEmber_resv : (updEmber f s).resv = s.resv := rfl
@[simp] theorem updEmber_tracker : (updEmber f s).tracker = s.tracker := rfl
@[simp] theorem updEmber_trackAge : (updEmber f s).trackAge = s.trackAge := rfl
@[simp] theorem updEmber_snoops : (updEmber f s).snoops = s.snoops := rfl
@[simp] theorem updEmber_recalls : (updEmber f s).recalls = s.recalls := rfl
@[simp] theorem updEmber_held : (updEmber f s).held = s.held := rfl
@[simp] theorem updEmber_burstQ : (updEmber f s).burstQ = s.burstQ := rfl
@[simp] theorem updEmber_asks : (updEmber f s).asks = s.asks := rfl
@[simp] theorem updEmber_yielded : (updEmber f s).yielded = s.yielded := rfl
@[simp] theorem updEmber_srWant : (updEmber f s).srWant = s.srWant := rfl
@[simp] theorem updEmber_postponed : (updEmber f s).postponed = s.postponed := rfl
@[simp] theorem updEmber_scrubPos : (updEmber f s).scrubPos = s.scrubPos := rfl
@[simp] theorem updEmber_corrLog : (updEmber f s).corrLog = s.corrLog := rfl
@[simp] theorem updEmber_remapDue : (updEmber f s).remapDue = s.remapDue := rfl
@[simp] theorem updEmber_flashRemap : (updEmber f s).flashRemap = s.flashRemap := rfl
@[simp] theorem updEmber_layerRemap : (updEmber f s).layerRemap = s.layerRemap := rfl
@[simp] theorem updEmber_runs : (updEmber f s).runs = s.runs := rfl
@[simp] theorem updEmber_units : (updEmber f s).units = s.units := rfl
@[simp] theorem updEmber_unitCnt : (updEmber f s).unitCnt = s.unitCnt := rfl
@[simp] theorem updEmber_exch : (updEmber f s).exch = s.exch := rfl
@[simp] theorem updEmber_mpStore : (updEmber f s).mpStore = s.mpStore := rfl
@[simp] theorem updEmber_mpChk : (updEmber f s).mpChk = s.mpChk := rfl
@[simp] theorem updEmber_mpOwn : (updEmber f s).mpOwn = s.mpOwn := rfl
@[simp] theorem updEmber_chans : (updEmber f s).chans = s.chans := rfl
@[simp] theorem updEmber_tngTurn : (updEmber f s).tngTurn = s.tngTurn := rfl
@[simp] theorem updEmber_vclear : (updEmber f s).vclear = s.vclear := rfl
@[simp] theorem updEmber_crcJobs : (updEmber f s).crcJobs = s.crcJobs := rfl
@[simp] theorem updEmber_rmove : (updEmber f s).rmove = s.rmove := rfl
@[simp] theorem updEmber_links : (updEmber f s).links = s.links := rfl
@[simp] theorem updEmber_group : (updEmber f s).group = s.group := rfl
@[simp] theorem updEmber_cfg : (updEmber f s).cfg = s.cfg := rfl
@[simp] theorem updEmber_prefen : (updEmber f s).prefen = s.prefen := rfl
@[simp] theorem updEmber_flash : (updEmber f s).flash = s.flash := rfl
@[simp] theorem updEmber_runSlot : (updEmber f s).runSlot = s.runSlot := rfl
@[simp] theorem updEmber_board : (updEmber f s).board = s.board := rfl
@[simp] theorem updEmber_out : (updEmber f s).out = s.out := rfl
@[simp] theorem updEmber_pending : (updEmber f s).pending = s.pending := rfl

end updEmber

section updBoard

variable (f : Board → Board) (s : State)

@[simp] theorem updBoard_time : (updBoard f s).time = s.time := rfl
@[simp] theorem updBoard_sclkFrom : (updBoard f s).sclkFrom = s.sclkFrom := rfl
@[simp] theorem updBoard_free : (updBoard f s).free = s.free := rfl
@[simp] theorem updBoard_regs : (updBoard f s).regs = s.regs := rfl
@[simp] theorem updBoard_mem : (updBoard f s).mem = s.mem := rfl
@[simp] theorem updBoard_blocked : (updBoard f s).blocked = s.blocked := rfl
@[simp] theorem updBoard_found : (updBoard f s).found = s.found := rfl
@[simp] theorem updBoard_lanes : (updBoard f s).lanes = s.lanes := rfl
@[simp] theorem updBoard_laneDue : (updBoard f s).laneDue = s.laneDue := rfl
@[simp] theorem updBoard_spareBad : (updBoard f s).spareBad = s.spareBad := rfl
@[simp] theorem updBoard_up : (updBoard f s).up = s.up := rfl
@[simp] theorem updBoard_hearths : (updBoard f s).hearths = s.hearths := rfl
@[simp] theorem updBoard_tags : (updBoard f s).tags = s.tags := rfl
@[simp] theorem updBoard_fltHearths : (updBoard f s).fltHearths = s.fltHearths := rfl
@[simp] theorem updBoard_fltSeq : (updBoard f s).fltSeq = s.fltSeq := rfl
@[simp] theorem updBoard_queues : (updBoard f s).queues = s.queues := rfl
@[simp] theorem updBoard_waits : (updBoard f s).waits = s.waits := rfl
@[simp] theorem updBoard_pmWait : (updBoard f s).pmWait = s.pmWait := rfl
@[simp] theorem updBoard_lastQ : (updBoard f s).lastQ = s.lastQ := rfl
@[simp] theorem updBoard_cycles : (updBoard f s).cycles = s.cycles := rfl
@[simp] theorem updBoard_xregs : (updBoard f s).xregs = s.xregs := rfl
@[simp] theorem updBoard_umode : (updBoard f s).umode = s.umode := rfl
@[simp] theorem updBoard_mcause : (updBoard f s).mcause = s.mcause := rfl
@[simp] theorem updBoard_mtval : (updBoard f s).mtval = s.mtval := rfl
@[simp] theorem updBoard_coreTag : (updBoard f s).coreTag = s.coreTag := rfl
@[simp] theorem updBoard_corePc : (updBoard f s).corePc = s.corePc := rfl
@[simp] theorem updBoard_belsel : (updBoard f s).belsel = s.belsel := rfl
@[simp] theorem updBoard_cores : (updBoard f s).cores = s.cores := rfl
@[simp] theorem updBoard_banks : (updBoard f s).banks = s.banks := rfl
@[simp] theorem updBoard_clusters : (updBoard f s).clusters = s.clusters := rfl
@[simp] theorem updBoard_dcache : (updBoard f s).dcache = s.dcache := rfl
@[simp] theorem updBoard_icache : (updBoard f s).icache = s.icache := rfl
@[simp] theorem updBoard_resv : (updBoard f s).resv = s.resv := rfl
@[simp] theorem updBoard_tracker : (updBoard f s).tracker = s.tracker := rfl
@[simp] theorem updBoard_trackAge : (updBoard f s).trackAge = s.trackAge := rfl
@[simp] theorem updBoard_snoops : (updBoard f s).snoops = s.snoops := rfl
@[simp] theorem updBoard_recalls : (updBoard f s).recalls = s.recalls := rfl
@[simp] theorem updBoard_held : (updBoard f s).held = s.held := rfl
@[simp] theorem updBoard_burstQ : (updBoard f s).burstQ = s.burstQ := rfl
@[simp] theorem updBoard_asks : (updBoard f s).asks = s.asks := rfl
@[simp] theorem updBoard_yielded : (updBoard f s).yielded = s.yielded := rfl
@[simp] theorem updBoard_srWant : (updBoard f s).srWant = s.srWant := rfl
@[simp] theorem updBoard_postponed : (updBoard f s).postponed = s.postponed := rfl
@[simp] theorem updBoard_scrubPos : (updBoard f s).scrubPos = s.scrubPos := rfl
@[simp] theorem updBoard_corrLog : (updBoard f s).corrLog = s.corrLog := rfl
@[simp] theorem updBoard_remapDue : (updBoard f s).remapDue = s.remapDue := rfl
@[simp] theorem updBoard_flashRemap : (updBoard f s).flashRemap = s.flashRemap := rfl
@[simp] theorem updBoard_layerRemap : (updBoard f s).layerRemap = s.layerRemap := rfl
@[simp] theorem updBoard_runs : (updBoard f s).runs = s.runs := rfl
@[simp] theorem updBoard_units : (updBoard f s).units = s.units := rfl
@[simp] theorem updBoard_unitCnt : (updBoard f s).unitCnt = s.unitCnt := rfl
@[simp] theorem updBoard_exch : (updBoard f s).exch = s.exch := rfl
@[simp] theorem updBoard_mpStore : (updBoard f s).mpStore = s.mpStore := rfl
@[simp] theorem updBoard_mpChk : (updBoard f s).mpChk = s.mpChk := rfl
@[simp] theorem updBoard_mpOwn : (updBoard f s).mpOwn = s.mpOwn := rfl
@[simp] theorem updBoard_chans : (updBoard f s).chans = s.chans := rfl
@[simp] theorem updBoard_tngTurn : (updBoard f s).tngTurn = s.tngTurn := rfl
@[simp] theorem updBoard_vclear : (updBoard f s).vclear = s.vclear := rfl
@[simp] theorem updBoard_crcJobs : (updBoard f s).crcJobs = s.crcJobs := rfl
@[simp] theorem updBoard_rmove : (updBoard f s).rmove = s.rmove := rfl
@[simp] theorem updBoard_links : (updBoard f s).links = s.links := rfl
@[simp] theorem updBoard_group : (updBoard f s).group = s.group := rfl
@[simp] theorem updBoard_cfg : (updBoard f s).cfg = s.cfg := rfl
@[simp] theorem updBoard_prefen : (updBoard f s).prefen = s.prefen := rfl
@[simp] theorem updBoard_flash : (updBoard f s).flash = s.flash := rfl
@[simp] theorem updBoard_runSlot : (updBoard f s).runSlot = s.runSlot := rfl
@[simp] theorem updBoard_ember : (updBoard f s).ember = s.ember := rfl
@[simp] theorem updBoard_out : (updBoard f s).out = s.out := rfl
@[simp] theorem updBoard_pending : (updBoard f s).pending = s.pending := rfl

end updBoard

section setUnitCount

variable (n u : Nat) (c : UnitCount) (s : State)

@[simp] theorem setUnitCount_time : (setUnitCount n u c s).time = s.time := rfl
@[simp] theorem setUnitCount_sclkFrom : (setUnitCount n u c s).sclkFrom = s.sclkFrom := rfl
@[simp] theorem setUnitCount_free : (setUnitCount n u c s).free = s.free := rfl
@[simp] theorem setUnitCount_regs : (setUnitCount n u c s).regs = s.regs := rfl
@[simp] theorem setUnitCount_mem : (setUnitCount n u c s).mem = s.mem := rfl
@[simp] theorem setUnitCount_blocked : (setUnitCount n u c s).blocked = s.blocked := rfl
@[simp] theorem setUnitCount_found : (setUnitCount n u c s).found = s.found := rfl
@[simp] theorem setUnitCount_lanes : (setUnitCount n u c s).lanes = s.lanes := rfl
@[simp] theorem setUnitCount_laneDue : (setUnitCount n u c s).laneDue = s.laneDue := rfl
@[simp] theorem setUnitCount_spareBad : (setUnitCount n u c s).spareBad = s.spareBad := rfl
@[simp] theorem setUnitCount_up : (setUnitCount n u c s).up = s.up := rfl
@[simp] theorem setUnitCount_hearths : (setUnitCount n u c s).hearths = s.hearths := rfl
@[simp] theorem setUnitCount_tags : (setUnitCount n u c s).tags = s.tags := rfl
@[simp] theorem setUnitCount_fltHearths : (setUnitCount n u c s).fltHearths = s.fltHearths := rfl
@[simp] theorem setUnitCount_fltSeq : (setUnitCount n u c s).fltSeq = s.fltSeq := rfl
@[simp] theorem setUnitCount_queues : (setUnitCount n u c s).queues = s.queues := rfl
@[simp] theorem setUnitCount_waits : (setUnitCount n u c s).waits = s.waits := rfl
@[simp] theorem setUnitCount_pmWait : (setUnitCount n u c s).pmWait = s.pmWait := rfl
@[simp] theorem setUnitCount_lastQ : (setUnitCount n u c s).lastQ = s.lastQ := rfl
@[simp] theorem setUnitCount_cycles : (setUnitCount n u c s).cycles = s.cycles := rfl
@[simp] theorem setUnitCount_xregs : (setUnitCount n u c s).xregs = s.xregs := rfl
@[simp] theorem setUnitCount_umode : (setUnitCount n u c s).umode = s.umode := rfl
@[simp] theorem setUnitCount_mcause : (setUnitCount n u c s).mcause = s.mcause := rfl
@[simp] theorem setUnitCount_mtval : (setUnitCount n u c s).mtval = s.mtval := rfl
@[simp] theorem setUnitCount_coreTag : (setUnitCount n u c s).coreTag = s.coreTag := rfl
@[simp] theorem setUnitCount_corePc : (setUnitCount n u c s).corePc = s.corePc := rfl
@[simp] theorem setUnitCount_belsel : (setUnitCount n u c s).belsel = s.belsel := rfl
@[simp] theorem setUnitCount_cores : (setUnitCount n u c s).cores = s.cores := rfl
@[simp] theorem setUnitCount_banks : (setUnitCount n u c s).banks = s.banks := rfl
@[simp] theorem setUnitCount_clusters : (setUnitCount n u c s).clusters = s.clusters := rfl
@[simp] theorem setUnitCount_dcache : (setUnitCount n u c s).dcache = s.dcache := rfl
@[simp] theorem setUnitCount_icache : (setUnitCount n u c s).icache = s.icache := rfl
@[simp] theorem setUnitCount_resv : (setUnitCount n u c s).resv = s.resv := rfl
@[simp] theorem setUnitCount_tracker : (setUnitCount n u c s).tracker = s.tracker := rfl
@[simp] theorem setUnitCount_trackAge : (setUnitCount n u c s).trackAge = s.trackAge := rfl
@[simp] theorem setUnitCount_snoops : (setUnitCount n u c s).snoops = s.snoops := rfl
@[simp] theorem setUnitCount_recalls : (setUnitCount n u c s).recalls = s.recalls := rfl
@[simp] theorem setUnitCount_held : (setUnitCount n u c s).held = s.held := rfl
@[simp] theorem setUnitCount_burstQ : (setUnitCount n u c s).burstQ = s.burstQ := rfl
@[simp] theorem setUnitCount_asks : (setUnitCount n u c s).asks = s.asks := rfl
@[simp] theorem setUnitCount_yielded : (setUnitCount n u c s).yielded = s.yielded := rfl
@[simp] theorem setUnitCount_srWant : (setUnitCount n u c s).srWant = s.srWant := rfl
@[simp] theorem setUnitCount_postponed : (setUnitCount n u c s).postponed = s.postponed := rfl
@[simp] theorem setUnitCount_scrubPos : (setUnitCount n u c s).scrubPos = s.scrubPos := rfl
@[simp] theorem setUnitCount_corrLog : (setUnitCount n u c s).corrLog = s.corrLog := rfl
@[simp] theorem setUnitCount_remapDue : (setUnitCount n u c s).remapDue = s.remapDue := rfl
@[simp] theorem setUnitCount_flashRemap : (setUnitCount n u c s).flashRemap = s.flashRemap := rfl
@[simp] theorem setUnitCount_layerRemap : (setUnitCount n u c s).layerRemap = s.layerRemap := rfl
@[simp] theorem setUnitCount_runs : (setUnitCount n u c s).runs = s.runs := rfl
@[simp] theorem setUnitCount_units : (setUnitCount n u c s).units = s.units := rfl
@[simp] theorem setUnitCount_exch : (setUnitCount n u c s).exch = s.exch := rfl
@[simp] theorem setUnitCount_mpStore : (setUnitCount n u c s).mpStore = s.mpStore := rfl
@[simp] theorem setUnitCount_mpChk : (setUnitCount n u c s).mpChk = s.mpChk := rfl
@[simp] theorem setUnitCount_mpOwn : (setUnitCount n u c s).mpOwn = s.mpOwn := rfl
@[simp] theorem setUnitCount_chans : (setUnitCount n u c s).chans = s.chans := rfl
@[simp] theorem setUnitCount_tngTurn : (setUnitCount n u c s).tngTurn = s.tngTurn := rfl
@[simp] theorem setUnitCount_vclear : (setUnitCount n u c s).vclear = s.vclear := rfl
@[simp] theorem setUnitCount_crcJobs : (setUnitCount n u c s).crcJobs = s.crcJobs := rfl
@[simp] theorem setUnitCount_rmove : (setUnitCount n u c s).rmove = s.rmove := rfl
@[simp] theorem setUnitCount_links : (setUnitCount n u c s).links = s.links := rfl
@[simp] theorem setUnitCount_group : (setUnitCount n u c s).group = s.group := rfl
@[simp] theorem setUnitCount_cfg : (setUnitCount n u c s).cfg = s.cfg := rfl
@[simp] theorem setUnitCount_prefen : (setUnitCount n u c s).prefen = s.prefen := rfl
@[simp] theorem setUnitCount_flash : (setUnitCount n u c s).flash = s.flash := rfl
@[simp] theorem setUnitCount_runSlot : (setUnitCount n u c s).runSlot = s.runSlot := rfl
@[simp] theorem setUnitCount_ember : (setUnitCount n u c s).ember = s.ember := rfl
@[simp] theorem setUnitCount_board : (setUnitCount n u c s).board = s.board := rfl
@[simp] theorem setUnitCount_out : (setUnitCount n u c s).out = s.out := rfl
@[simp] theorem setUnitCount_pending : (setUnitCount n u c s).pending = s.pending := rfl

end setUnitCount

end Sys2Proof.Laws
end

