-- ==== Sys2Proof/WellFormed.lean ====
section
/-! DEFINITION. The commands that can arise: the operands whose type is wider than what the spec lets them hold. -/

namespace Sys2Proof

open Sys2Proof.Machine

/-- The fields of a frame fit the transport header and the payload its limit (R373). -/
def frameWf (f : Frame) : Bool :=
  decide (f.src < 256) && decide (f.dst < 256) && decide (f.psn < 2 ^ 32) && decide (f.ack < 2 ^ 32) && decide (f.conn < 2 ^ 32)
    && decide (f.addr < 2 ^ 64) && decide (f.len < 2 ^ 16) && decide (f.status < 2 ^ 16) && decide (f.tag < 2 ^ 32)
    && decide (f.op < 2) && decide (f.pmap.length ≤ 256) && decide (f.data.length ≤ 8192)

/-- The errors of an access of `k` words name its words and the data lanes of a channel (R146, R147). -/
def linkWf (e : LinkErr) (k : Nat) : Bool :=
  e.words.all (fun w => decide (w < k)) && e.fixed.all (fun f => decide (f.1 < k) && decide (f.2 < 256))

/-- A path request carries the bytes of its address range (R121, R122). -/
def pathWf (r : PathReq) : Bool :=
  decide (r.addr < 2 ^ 44) && linkWf r.link 8 && (!r.write || r.data.length == r.len) && (if r.narrow then decide (r.len ≤ 32) else r.len == 256)

/-- Step commands name a queue, or 2^20 for a control word (R297). -/
def cmdsWf (l : List (Nat × Nat × Nat)) : Bool :=
  l.all (fun c => decide (c.1 ≤ 2 ^ 20) && decide (c.2.1 < 2 ^ 32) && decide (c.2.2 < 2 ^ 32))

/-- The build numbers of an image fit their fields (R353). -/
def imageWf (i : Image) : Bool := decide (i.minor < 256) && decide (i.patch < 256) && decide (i.build < 2 ^ 32) && decide (i.sec < 2 ^ 32)

/-- A command that can arise. -/
def wellFormed : Instr → Bool
  | .hostSmWrite _ data _ e => data.length == 64 && linkWf e 2
  | .hostSmRead o _ => linkWf o.link 2
  | .coreLoad _ a _ _ _ => linkWf a.link 2
  | .coreStore _ a _ _ => linkWf a.link 1
  | .ldV _ a _ => linkWf a.link 2
  | .atomicMemoryOperation _ _ a _ _ _ _ _ => linkWf a.link 1
  | .loadReserved _ a _ _ _ _ => linkWf a.link 1
  | .storeConditional _ a _ _ _ _ _ => linkWf a.link 1
  | .backInvalidateResponse _ data _ => (data.map List.length).getD 64 == 64
  | .mainPathBurst r => pathWf r && !r.narrow
  | .narrowPortAccess r => pathWf r && r.narrow
  | .tongsCopy _ _ es | .tongsGather _ _ es | .tongsScatter _ _ es => es.all (fun e => linkWf e.1 3 && linkWf e.2 2)
  | .load _ c | .store _ c => c.pieces.all (fun e => linkWf e 1)
  | .tgStop _ _ _ bad => bad.all (fun l => decide (l < 264))
  | .tgRunDone _ _ bad => bad.all (fun l => decide (l < 264))
  | .hostAccessError _ _ addr => decide (addr < 2 ^ 64)
  | .hmCompletionTimeout _ _ addr => decide (addr < 2 ^ 64)
  | .stepStamp cmds _ => cmdsWf cmds
  | .sparkCandidateExchange _ _ _ _ cands => cands.all (fun c => decide (c.1 < 2 ^ 32) && decide (c.2 < 2 ^ 32))
  | .stepForward _ _ cmds _ => cmdsWf cmds
  | .groupPrepare _ members => decide (members.length ≤ 64) && members.all (fun p => decide (p < 255))
  | .fwUpdate _ image => imageWf image
  | .helloReceive _ f => frameWf f && f.ty == 0
  | .attach _ f => frameWf f && f.ty == 1
  | .attachAck _ f => frameWf f && f.ty == 2
  | .bye _ f => frameWf f && f.ty == 3
  | .ack _ f => frameWf f && f.ty == 4
  | .nak _ f => frameWf f && f.ty == 5
  | .write _ f => frameWf f && f.ty == 8
  | .readReq _ f => frameWf f && f.ty == 9
  | .readRsp _ f => frameWf f && f.ty == 10
  | .flag _ f => frameWf f && f.ty == 11
  | .emberRound raw _ => raw.length == 256
  | .hoodBoot a b _ => imageWf a && imageWf b
  | .prefenStartup _ chans => chans.all (fun c => decide (c.lanes.length ≤ 264))
  | .fenceAcq .. | .fenceRel .. | .fenceFull .. | .fenceI ..
    | .hostCoherenceTimeout ..
    | .h2dSnoop .. | .htrkRecallAll .. | .yieldPoint .. | .refreshCommand .. | .laneRecentre .. | .srRequest ..
    | .srExitRequest .. | .srEntryDone .. | .srExitDone .. | .srIdleReentry .. | .tgStart .. | .validBitClear ..
    | .validBitClearStart .. | .validBitClearDone .. | .errInfoClear .. | .storedErrorService .. | .remapMove ..
    | .remapMoveDone .. | .scrubRow .. | .scrubStart .. | .eccRawRead .. | .eccRawWrite .. | .eccDecodedRead ..
    | .eccEncodedWrite .. | .swageCommandTake .. | .swagePrologue .. | .swageNop .. | .endCmd .. | .yld .. | .setl ..
    | .loop .. | .ownl .. | .lenl .. | .skip .. | .aclr .. | .mvm .. | .psnd .. | .cwr .. | .dots .. | .mclr .. | .smax ..
    | .sexp .. | .swageVacc .. | .part .. | .swageMerge .. | .mergeExchangeReceive .. | .mergeAbort .. | .attentionMerge ..
    | .swageTimeout .. | .mpWrite .. | .mpWenWrite .. | .mma .. | .engineNop .. | .vadd .. | .vsub .. | .vmul .. | .vdiv ..
    | .vmax .. | .vmin .. | .vsqrt .. | .vexp .. | .vscl .. | .vcvt .. | .vfill .. | .vrsum .. | .vrmaxf .. | .vamax ..
    | .vimax .. | .vacc .. | .acvt .. | .araw .. | .racc .. | .rcvt .. | .aquo .. | .mcpy .. | .mtrn ..
    | .run .. | .bar .. | .bellowsRelease .. | .directPush .. | .bellowsPush .. | .wordComplete ..
    | .engineWaitTimeout .. | .pushStallTimeout .. | .clTagRead .. | .hammerRun .. | .clusterHalt .. | .traceEnable ..
    | .tongsCommit .. | .tongsAbort .. | .channelBind .. | .tongsHalt ..
    | .doorbell .. | .qadvTaken .. | .qadvDone .. | .queueNop .. | .flagAdd .. | .flagSet .. | .waitGe .. | .waitEq ..
    | .waitSatisfied .. | .waitPoll .. | .waitTimeoutExpiry .. | .waitCensus .. | .queueTableWriteback ..
    | .faultRingConsume .. | .generate .. | .cancel .. | .abort .. | .stepCommit .. | .requestRetire .. | .sparkSample ..
    | .sparkMaxExchange .. | .anchorExchange .. | .groupPulse .. | .forwardedCommand .. | .memberAck .. | .park ..
    | .parkAccept .. | .parkForward .. | .resume .. | .close .. | .exportCmd .. | .exportCommit .. | .importCmd ..
    | .importCommit .. | .billetCrc .. | .billetCrcDone .. | .sleep .. | .sleepEntered .. | .wake .. | .wakeDone ..
    | .mailboxDoorbell .. | .mailboxTake .. | .hostIfWrite .. | .mbNop .. | .version .. | .hearthTable .. | .eventRing ..
    | .modelLoad .. | .modelLoadCommit .. | .modelUnload .. | .modelQuery .. | .adapterLoad .. | .adapterPublish ..
    | .adapterRemove .. | .adapterQuery .. | .queueEnable .. | .queueDisable .. | .queueResume .. | .queueFlush ..
    | .ringRegister .. | .ringUnregister .. | .sessionQuery .. | .requestQuery .. | .groupForm .. | .groupDissolve ..
    | .groupQuery .. | .groupCommit .. | .groupAbandon .. | .groupLeave .. | .moduleReset .. | .hearthResetEnter ..
    | .hearthResetLeave .. | .eccTestRead .. | .eccTestAdd .. | .eccTestAddTwo .. | .eccTestPoison .. | .eccTestZero ..
    | .helloSend .. | .partnerDeparture .. | .retransmitTimeout .. | .ackTimer .. | .nakTimer .. | .conflictExpiry ..
    | .portLinkChange .. | .portEnableWrite .. | .tuyCtlWrite .. | .partnerLossHoldExpiry .. | .leadLossExpiry ..
    | .poisonRecovery .. | .flr .. | .hotReset .. | .perstAssert .. | .perstDeassert .. | .busMasterDisable ..
    | .memorySpaceDisable .. | .linkRecovery .. | .d3hotEntry .. | .hdmDecoderCommit .. | .msixUnmask .. | .hostLoopStart ..
    | .hostLoopStop .. | .bellClaim .. | .bellComplete .. | .counterSubtract .. | .setPending .. | .clearPending ..
    | .sourceLevelChange .. | .bellSourceWrite .. | .coalesceTimeout .. | .throttleApply .. | .railRampDone ..
    | .fastPowerLimit .. | .hardwareTrip .. | .latchRelease .. | .convertersRestart .. | .interlockOpen ..
    | .interlockClose .. | .sensorFlagClear .. | .clearFaults .. | .coefficients .. | .statusWord .. | .statusInput ..
    | .statusTemperature .. | .readEin .. | .readVin .. | .readIin .. | .readPin .. | .readTemperature1 ..
    | .readTemperature2 .. | .readTemperature3 .. | .pmbusRevision .. | .fruRead .. | .emberBoot .. | .mainConvertersOn ..
    | .testHoldWrite .. | .ucieTestStart .. | .ucieTestDone .. | .extest .. | .idcode .. | .samplePreload .. | .regacc ..
    | .roshift .. | .spiprogRead .. | .spiprogProgram .. | .spiprogErase .. | .bypass .. | .quenchPinChange ..
    | .freezeWrite .. | .quenchFreeze .. | .quenchRelease .. | .readoutGo .. | .readoutStop .. | .readoutDone ..
    | .registerWrite .. | .foreignFrame .. | .hostLinkUp .. | .pcieLoopback .. | .busMasterEnable .. | .d3hotExit ..
    | .standbySupplyLoss .. => true

end Sys2Proof
end

