-- ==== Sys2Proof/Tests/Slice0.lean ====
section
/-! SUPPORT. The model's own tests: for each statement a state and operands that meet its hypotheses, the commands that cannot
arise refused by `wellFormed`, and values worked out by hand from the spec. -/

namespace Sys2Proof.Tests

set_option Elab.async false

open Sys2Proof Sys2Proof.Machine

/-! ### States -/

/-- A register word put in its place. -/
def reg (o v : Nat) (s : State) : State := setRg o (BitVec.ofNat 64 v) s

/-- A module that serves: boot done, link and BARs open, Prefen READY, all channels of stack 0 READY. -/
def base : State :=
  { State.reset with
    up := true, time := 1000000000,
    regs := [(0x10000, 0x3000000000000000), (0x110000, 0x2004000000000000), (0x1D0000, 0x2000000000000000)]
      ++ (List.range 32).map (fun ch => (0x201000 + 0x100 * ch, 2)),
    cfg := { bme := true, mse := true, memEn := true, cacheEn := true, hdmOn := true, msixEn := true },
    ember := { on := true, strap := 0 }, board := { boot := 6, perst := false } }

theorem test_base : running base = true ∧ base.wf = true ∧ linkUp base = true ∧ hostBars base = true ∧ prefenReady base = true ∧
    stageFailed base = false := by decide +kernel

/-! ### The machine -/

theorem witness_StepRunsTheFrontCommand : { base with pending := [.waitCensus] }.pending = .waitCensus :: [] := by decide

/-- Quench holds the module. -/
def frozenBase : State := reg 0x1E0008 (2 ^ 63) base

theorem witness_EmptyQueueLetsTimePass : base.pending = [] ∧ running base = true ∧ base.board.waiting = [] ∧
    hostAgain { base with time := base.time + 1 } = { base with time := base.time + 1 } ∧
    frozenBase.pending = [] ∧ frozen frozenBase = true := by decide +kernel

theorem witness_EveryStepKeepsTheCanonicalForm : base.wf = true ∧ ∃ t, step base = .next t := ⟨by decide +kernel, _, rfl⟩

theorem witness_CommandsLeaveTheQueueAlone : ∃ t, exec (.fenceRel 64) base = .next t := ⟨_, rfl⟩

/-! ### Cores -/

/-- Core 0 runs and holds the line at 0. -/
def cached : State := reg 0x341000 0x0064000000000001 { base with dcache := [(0, List.replicate 64 5)] }

theorem witness_CoreLoadsAreServedByCacheOrPoc :
    running base = true ∧ coreReady base 64 = true ∧ coreTarget 64 (2 ^ 44 - 8 : Word).toNat = .sm (2 ^ 44 - 8) ∧
      addrOk base 4 (2 ^ 44 - 8) 8 = false ∧
    running cached = true ∧ coreReady cached 0 = true ∧ coreTarget 0 56 = .sm 56 ∧ addrOk cached 4 56 8 = true ∧ dcLine cached 0 0 ≠ [] ∧
      coreTarget 0 64 = .sm 64 ∧ dcLine cached 0 64 = [] ∧ pocFree cached (.load 0 64 3 false 5 {}) ∧ pocFree cached (.loadV 0 64 5 {}) ∧
    coreTarget 0 (2 ^ 44 + 0x47FFFF8) = .db 0x47FFFF8 ∧ coreTarget 0 (2 * 2 ^ 44 + 0x1000) = .reg 0x341000 ∧
      coreTarget 0 (2 * 2 ^ 44 + 0x10020) = .port 0x20 ∧ coreTarget 0 (3 * 2 ^ 44 + 0x7FFFF8) = .bell 0x7FFFF8 ∧
      coreTarget 0 (2 ^ 64 - 8) = .nothing := by
  unfold pocFree; decide +kernel

theorem witness_CoreStoresReachTheOrderingPoint :
    running cached = true ∧ coreReady cached 0 = true ∧ coreTarget 0 (19 * 2 ^ 36 + 0xBFFFFFFF8) = .sm (19 * 2 ^ 36 + 0xBFFFFFFF8) ∧
    addrOk cached 4 (19 * 2 ^ 36 + 0xBFFFFFFF8) 8 = true ∧ addrOk cached 4 (19 * 2 ^ 36 + 0xC00000000) 8 = false ∧
    pocFree (dcUpdate 0 0 (leBytes 8 3) cached) (.store 0 0 3 3 {}) ∧ coreTarget 64 (2 * 2 ^ 44 + 0x10) = .reg 0x10 := by
  unfold pocFree; decide +kernel

/-- Core 0 has a store that the PoC holds. -/
def storing : State := { cached with held := [⟨0, .store 0 0 3 3 {}⟩] }

theorem witness_FencesInvalidateTheCoresOwnCaches : running cached = true ∧ coreReady cached 0 = true ∧
    coreStoring cached 0 = false ∧ coreReady storing 0 = true ∧ coreStoring storing 0 = true ∧ (0 : BitVec 12) ≠ 1 ∧ (0 : BitVec 12) ≠ 2 ∧
    (0 : BitVec 12) ≠ 3 := by decide +kernel

theorem witness_AtomicsAreServedAtThePocOfSmOnly : running base = true ∧ coreReady base 67 = true ∧ (8 : Word).toNat % 2 ^ (2 + b2n true) = 0 ∧
    coreTarget 67 8 = .sm 8 ∧ addrOk base 4 8 8 = true ∧ addrOk base 4 (20 * 2 ^ 36) 4 = false ∧ coreStoring base 67 = false ∧
    pocFree base (.lr 67 8 3 5 true {}) ∧ pocFree base (.sc 67 8 3 1 5 true {}) ∧ pocFree base (.amo 67 .maxu 8 3 1 5 true {}) ∧
    coreTarget 67 (2 ^ 44) = .db 0 ∧ coreReady storing 0 = true ∧ coreStoring storing 0 = true := by
  unfold pocFree; decide +kernel

theorem witness_CoreInstructionsOffTheirAlignment : running base = true ∧ coreReady base 67 = true ∧ (4 : Word).toNat % 2 ^ 3 ≠ 0 ∧
    (4 : Word).toNat % 8 ≠ 0 ∧ (4 : Word).toNat % 2 ^ (2 + b2n true) ≠ 0 := by decide +kernel

/-- Stack 0 in self-refresh. -/
def resting : State := reg 0x200020 (0x03E800000000 + 2 * 4 + 1) base

/-- The host holds line 0 in state A. -/
def tracked : State := { base with tracker := [(0, ⟨2, 1⟩)], trackAge := 1 }

theorem witness_PocHoldsOrPerforms : mustHold storing (.load 0 0 3 false 5 {}) = true ∧
    mustHold resting (.load 64 8 3 false 5 {}) = false ∧ rangeBusy resting 8 8 = true ∧
    mustHold tracked (.store 64 8 3 1 {}) = false ∧ rangeBusy tracked 8 8 = false ∧ accessByHost (.store 64 8 3 1 {}) = false ∧
    recallLines tracked 8 8 true = [0] ∧ pocFree base (.load 64 8 3 false 5 {}) := by
  unfold pocFree; decide +kernel

/-! ### The host -/

/-- A snoop for line 0 is out. -/
def snooped : State := { tracked with snoops := [⟨0, true, 0, false⟩] }

/-- Stack 19 has failed for good. -/
def deadSite : State := { base with hearths := [(89, { dead := true })] }

theorem witness_HostAccessesAndSnoops :
    linkUp base = true ∧ bar4Serves base (20 * 0xC00000000 - 64) = true ∧ frozen base = false ∧
      stackDead base (smStack (19 * 2 ^ 36 + 0xC00000000 - 64)) = false ∧
      pocFree base (.hostRead (19 * 2 ^ 36 + 0xC00000000 - 64) 2 {}) ∧
      pocFree base (.hostWrite (19 * 2 ^ 36 + 0xC00000000 - 64) (List.replicate 64 5) false {}) ∧
      bar4Serves base (20 * 0xC00000000) = false ∧
    bar4Serves deadSite (20 * 0xC00000000 - 64) = true ∧ frozen deadSite = false ∧ stackDead deadSite 19 = true ∧
    bar4Serves frozenBase 0 = true ∧ frozen frozenBase = true ∧
    running snooped = true ∧ snooped.snoops.find? (fun x => x.line == 0) = some ⟨0, true, 0, false⟩ ∧ rowBusy snooped 0 = false ∧
      snooped.held = [] ∧ tabGet 0 snooped.recalls 0 = 0 ∧ (track snooped 0).st ≠ 0 ∧
    snooped.snoops.find? (fun x => x.line == 0 && !x.late) = some ⟨0, true, 0, false⟩ ∧
    linkState base = 3 ∧ base.cfg.cacheEn = true := by unfold pocFree; decide +kernel

theorem witness_RecallAllSnoopsEveryTrackedLine : running tracked = true ∧ stageFailed tracked = false ∧ tracked.wf = true ∧
    (∀ e ∈ tracked.tracker, e.2.age ≤ tracked.trackAge) ∧ trackedOf tracked 0 = [(0, ⟨2, 1⟩)] ∧ snoopsOf tracked 0 = [] ∧
    trackedOf tracked 19 = [] := by decide +kernel

/-! ### The stack sites -/

/-- A read burst of the last 256 bytes of stack 19, and a narrow write that ends its word. -/
def burst : PathReq := ⟨false, ⟨9, 7, false⟩, 0, 19 * 2 ^ 36 + 0xC00000000 - 256, false, [], 256, {}⟩
def narrowWrite : PathReq := ⟨true, ⟨9, 7, false⟩, 0, 31, true, [(5, false)], 1, {}⟩

theorem witness_PathAccessesReachThePoc : running base = true ∧
    addrOk base 4 burst.addr burst.len = true ∧ burst.addr % 256 = 0 ∧ wellFormed (.mainPathBurst burst) = true ∧
    pocFree base (.path burst) ∧ pathWaits base burst = false ∧
    addrOk base 4 narrowWrite.addr narrowWrite.len = true ∧ narrowWrite.addr % 32 + narrowWrite.len ≤ 32 ∧
    narrowWrite.data.length = narrowWrite.len ∧ wellFormed (.narrowPortAccess narrowWrite) = true ∧
    (let s : State := { base with burstQ := [narrowWrite] }
     pocFree s (.path narrowWrite) ∧ pathWaits s narrowWrite = true) := by unfold pocFree; decide +kernel

/-- Stack 0 runs a command. -/
def busySite : State := { base with runs := [(0, { phase := 3, kind := 0, tag := 7 })] }

theorem witness_YieldPointsAreCounted : running busySite = true ∧ (stackRun busySite 0).phase = 3 ∧
    (tabGet ({} : SwgUnit) busySite.units 511).isDone = false ∧ (hearth busySite (hxStack 0)).halted = false ∧
    busySite.burstQ = [] ∧ busySite.held = [] ∧ busySite.postponed = [] ∧ busySite.asks = [] ∧
    (tabGet ({} : RMove) busySite.rmove 0).on = false ∧ busySite.wf = true := by decide +kernel

theorem witness_RefreshIsIssuedOrPostponed : running busySite = true ∧ busySite.laneDue = [] ∧
    srState busySite 0 = 0 ∧ sliceBusy (repairDue 0 31 busySite) (15 * 2 ^ 16 + 31 * 2 ^ 11) = true ∧
    tabGet 0 busySite.postponed (((0 * 512 + 16 * 31 + 15) * 4 + 3) * 4 + 3) < min 8 (rf busySite (stkReg 0 0x10) 7 4) ∧
    rf busySite (chReg 0 31 0) 3 0 = 2 := by decide +kernel

/-- STK_SR_CTL of stack 0 in a state, with its request. -/
def srIn (k : Nat) : State := reg 0x200020 (0x03E800000000 + 4 * k + 1) base

theorem witness_SelfRefreshStates : (∀ k < 4, running (srIn k) = true ∧ (srIn k).wf = true ∧ stageFailed (srIn k) = false ∧
      srState (srIn k) 0 = k ∧ srState (setRf (stkReg 0 0x20) 1 1 0 (setRf (stkReg 0 0x20) 0 0 0 (srIn k))) 0 = k) ∧
    rf (srIn 0) (stkReg 0 0x20) 0 0 = 1 ∧ (srIn 0).held = [] ∧ (srIn 0).burstQ = [] ∧ (stackRun (srIn 0) 0).phase = 0 ∧
    (∀ ch < 32, rf (srIn 0) (chReg 0 ch 0) 3 0 = 2) ∧ srState base 19 = 0 ∧ rf base (chReg 19 31 0) 3 0 = 0 := by
  decide +kernel

/-- CH_TG of channel 3 of stack 0 as it runs, with no end and with a count. -/
def tgRuns (count : Nat) : State := reg 0x201320 (count * 2 ^ 32 + 4) (reg 0x201338 1 base)

/-- The hearth of stack 0 is halted. -/
def haltedSite : State := { base with hearths := [(70, { halted := true })] }

theorem witness_TrafficGeneratorRuns :
    running haltedSite = true ∧ running (tgRuns 0) = true ∧ rf base (chReg 0 3 0x38) 0 0 = 0 ∧ stageFailed (tgRuns 0) = false ∧
    resetOrHalted haltedSite (hxStack 0) = true ∧ rf haltedSite (chReg 0 3 0) 3 0 ≠ 1 ∧ fieldOf (0x14 : Word) 9 8 ≠ 3 ∧
      fieldOf (0x14 : Word) 4 2 = 5 ∧ rf haltedSite (chReg 0 3 0x28) 31 16 ≠ 0 ∧ rf haltedSite (chReg 0 3 0x28) 11 0 < 3072 ∧
      stageFailed haltedSite = false ∧ haltedSite.wf = true ∧
    resetOrHalted base (hxStack 0) = false ∧ fieldOf (0x18 : Word) 4 2 = 6 ∧
    rf (tgRuns 0) (chReg 0 3 0x38) 0 0 = 1 ∧ rf (tgRuns 0) (chReg 0 3 0x20) 63 32 = 0 ∧ (tgRuns 0).wf = true ∧
    rf (tgRuns 1) (chReg 0 3 0x38) 0 0 = 1 ∧ rf (tgRuns 1) (chReg 0 3 0x20) 63 32 ≠ 0 := by decide +kernel

/-- A clear of the rows of stack 0 as it is accepted, and as it has started. -/
def clearing (started : Bool) : State :=
  reg 0x200228 (2 + 12582911 * 2 ^ 16 + 2 ^ 40) { base with vclear := [(0, { on := true, started := started, first := 12582911, count := 1 })] }

theorem witness_ValidBitClearGoesThroughItsSteps :
    running base = true ∧ stageFailed base = false ∧ base.wf = true ∧
    rf base (stkReg 0 0x228) 1 1 = 0 ∧ fieldOf (BitVec.ofNat 64 (12582911 * 2 ^ 16)) 39 16 ≤ 12582911 ∧
    12582911 < fieldOf (BitVec.ofNat 64 (12582912 * 2 ^ 16)) 39 16 ∧ rf (clearing false) (stkReg 0 0x228) 1 1 = 1 ∧
    (clearing false).wf = true ∧ (vclearOf (clearing false) 0).on = true ∧ (vclearOf (clearing false) 0).started = false ∧
    (stackRun (clearing false) 0).phase = 0 ∧ reachedFirst (clearing false) 0 (vclearNames (vclearOf (clearing false) 0)) = false ∧
    (vclearOf (clearing true) 0).started = true ∧ (clearing true).held = [] ∧ (clearing true).prefen.clears = [] ∧
    smStack 0xBFFFFF800 = 0 ∧ servedRow (clearing true) (smPhys (clearing true) 0xBFFFFF800 / 2048 * 2048) = some 0xBFFFFF800 ∧
    vclearCovers (vclearOf (clearing true) 0) 0xBFFFFF800 = true := by decide +kernel

/-- The event latch of stack 0 full, with an uncorrectable word of SM that a source met. -/
def latched (src : Nat) : State := reg 0x200220 (7 * 2 ^ 32 + src * 2 ^ 28 + 4 * 2 ^ 20 + 3) (reg 0x200218 64 base)

/-- What that event posts. -/
def storedEvent : Event := { kind := 2, status := 0x230, tag := 7, addr := 64, info0 := 70 * 2 ^ 16 + 4 * 2 ^ 12 + 2 * 2 ^ 4 }

theorem witness_StoredErrorsAreServiced : running (latched 2) = true ∧ stageFailed (latched 2) = false ∧
    (latched 2).prefen.step.on = false ∧ bitOf (rg (latched 2) (latchInfoReg 0)) 0 = true ∧
    ¬ (rf (latched 2) (latchInfoReg 0) 27 24 = 0 ∧ rf (latched 2) (latchInfoReg 0) 31 28 = 6 ∧ rf (latched 2) (latchInfoReg 0) 23 20 = 4) ∧
    (setRf (latchInfoReg 0) 0 0 0 (postEvent storedEvent (latched 2))).corrLog = [] ∧
    (setRf (latchInfoReg 0) 0 0 0 (postEvent storedEvent (latched 2))).remapDue = [] ∧
    bitOf (rg (latched 6) (latchInfoReg 0)) 0 = true ∧ rf (latched 6) (latchInfoReg 0) 27 24 = 0 ∧
    rf (latched 6) (latchInfoReg 0) 31 28 = 6 ∧ rf (latched 6) (latchInfoReg 0) 23 20 = 4 ∧
    bitOf (rg base (latchInfoReg 23)) 0 = false ∧ base.corrLog = [] ∧ base.remapDue = [] ∧ latchInfoReg 23 = anvReg 3 0x220 := by
  decide +kernel

/-- Remap control words: channel 31, layer 15, bank group 3, bank 3, row 3071, entry 7, spare 1. -/
def moveWord : Word := BitVec.ofNat 64 (31 * 2 ^ 27 + 15 * 2 ^ 23 + 3 * 2 ^ 21 + 3 * 2 ^ 19 + 3071 * 2 ^ 7 + 7 * 2 ^ 4 + 8)

/-- A row of stack 0 moves. -/
def movingRow (yielded : Bool) (s : State) : State :=
  reg 0x200230 (2 ^ 63) { s with rmove := [(0, { on := true, row := 3071, channel := 31, layer := 15, bg := 3, bank := 3, entry := 7,
                                                 spare := 1, yielded := yielded })] }

theorem witness_RowMovesGoThroughTheirSteps :
    running base = true ∧ stageFailed base = false ∧ base.wf = true ∧
    rf base (stkReg 0 0x230) 63 63 = 0 ∧ fieldOf moveWord 31 27 = 31 ∧ natBit (rmapEntry base 0 31 7) 31 = false ∧
    (∀ e < 8, natBit (rmapEntry base 0 31 e) 31 = false) ∧ rf (movingRow false base) (stkReg 0 0x230) 63 63 = 1 ∧
    (movingRow false base).wf = true ∧ (tabGet ({} : RMove) (movingRow false base).rmove 0).on = true ∧
    sliceHeld (movingRow false base) (rowAddr 0 31 15 3 3 3071) = false ∧ (movingRow false base).burstQ = [] ∧
    sliceHeld (movingRow true busySite) (rowAddr 0 31 15 3 3 3071) = true ∧
    (tabGet ({} : RMove) (movingRow true busySite).rmove 0).yielded = true := by decide +kernel

/-- A scrub pass of stack 0 is on, with a period of some hours. -/
def scrubbing (period : Nat) : State := reg 0x200200 (period * 2 ^ 8 + 2) base

/-- A scrub pass with one valid row of channel 1 left. -/
def scrubMore (period : Nat) : State :=
  { scrubbing period with mem := { (scrubbing period).mem with valid := [(cellKey 4 (rowAddr 0 1 0 0 0 0), 7)] } }

theorem witness_ScrubPassesAreCounted : running base = true ∧ stageFailed base = false ∧ base.wf = true ∧
    rf base (stkReg 0 0x200) 1 1 = 0 ∧ rf (scrubbing 24) (stkReg 0 0x200) 1 1 = 1 ∧ srState (scrubbing 24) 0 = 0 ∧
    sliceHeld (scrubbing 24) (rowAddr 0 0 0 0 0 0) = false ∧ (scrubbing 24).wf = true ∧
    firstRow (validRows (scrubbing 24) 0 0 0 0) = none ∧ scrubFinished (scrubCopies 0 0 0 0 49151 (scrubbing 24)) 0 = true ∧
    scrubFinished (scrubCopies 0 0 0 0 49151 (scrubMore 24)) 0 = false ∧
    rf (scrubCopies 0 0 0 0 49151 (scrubMore 24)) (stkReg 0 0x200) 15 8 ≠ 0 ∧
    scrubFinished (scrubCopies 0 0 0 0 49151 (scrubMore 0)) 0 = false ∧
    rf (scrubCopies 0 0 0 0 49151 (scrubMore 0)) (stkReg 0 0x200) 15 8 = 0 := by decide +kernel

theorem witness_CheckerTestModeActsOrRefuses : running haltedSite = true ∧ stageFailed haltedSite = false ∧ ∀ op < 4,
    (let c := eccCtl 0
     let t (v : Word) (s : State) : State := setRf c 63 32 (fieldOf v 63 32) (setRf c 27 24 (fieldOf v 27 24) (setRf c 6 4 op
       (setRf c 3 3 (fieldOf v 3 3) (setRf c 2 2 0 s))))
     eccAllowed (t 0x4000000 (reg (eccCtl 0 + 8) 0x20 haltedSite)) 0 = true ∧ eccAllowed (t 0 base) 0 = false) := by decide +kernel


/-! ### Swage -/

/-- The four registers of a stream: base, flags, sizes, stride. -/
def strm (base space fmt flags size0 size1 stride : Nat) : List Nat :=
  [base, space * 2 ^ 60 + fmt * 2 ^ 56 + flags, size0 + size1 * 2 ^ 32, stride]

/-- An unused stream. -/
def strmNone : List Nat := [0, 0, 0, 0]

/-- A matrix-vector command: S0 one E4M3 row of SM owned by unit 0 with anchor 16, S1 one BF16 row of CB, S2 an FP32 row of CB,
S6 an E4M3 row of SM. -/
def matCmd : List Nat :=
  [0, 0, 0, 0, 0, 0, 0, 0] ++ strm 0 4 3 (2 ^ 49 + 16 * 2 ^ 32) 32 1 32 ++ strm 0 3 2 0 32 1 64 ++ strm 4096 3 0 0 8 1 32
    ++ strmNone ++ strmNone ++ strmNone ++ strm 0x100000 4 3 0 32 1 32 ++ strmNone ++ List.replicate 16 0

/-- An attention command of site 0 with D = 32: S1 its query row, S2 and S5 its results, S3 and S4 the billet lists. -/
def attCmd : List Nat :=
  [2 ^ 48 + 2 ^ 47, 0, 0, 0, 0, 0, 0, 0] ++ strmNone ++ strm 0 3 2 0 32 1 64 ++ strm 4096 3 0 0 8 1 2048
    ++ strm 8192 3 3 (2 ^ 48) 32 512 64 ++ strm 8192 3 3 (2 ^ 48) 32 512 (64 + 512 * 32) ++ strm 16384 3 0 0 40 1 160
    ++ strmNone ++ strmNone ++ List.replicate 15 0 ++ [1 + 7 * 2 ^ 32]

/-- A micro-instruction word (R179). -/
def mi (op sa rw lc acc cnt imm : Nat) : Nat :=
  op * 2 ^ 58 + sa * 2 ^ 55 + rw * 2 ^ 49 + lc * 2 ^ 47 + acc * 2 ^ 31 + cnt * 2 ^ 16 + imm

/-- Stack 0 runs a command, and the word at the entry of its micro-program is w. -/
def site (w : Nat) (r : StackRun) : State :=
  { base with runs := [(0, { r with phase := 3 })], mpStore := [(0, BitVec.ofNat 64 w)], mpChk := [(0, BitVec.ofNat 8 (sramEncode w))] }

def mat : StackRun := { cmd := matCmd, tag := 7 }
/-- One item of one attended position, whose billet unit 0 holds. -/
def att : StackRun :=
  { cmd := attCmd, tag := 7, kind := 1, billets := [⟨0, 0, 0, 0, 0x100000⟩], items := [⟨0, 0, 0, 0, 1, 0, 3, true⟩] }

/-- The same with unit 0 in a state of its own. -/
def siteU (w : Nat) (r : StackRun) (x : SwgUnit) : State := { site w r with units := [(0, x)] }

/-- A command whose stream S0 has 65,536 rows in one place of unit 0. -/
def manyCmd : List Nat := (List.replicate 8 0) ++ strm 0 4 3 0 32 65536 0

/-- A stream whose n rows stand in one place of unit 0. -/
abbrev manyRows (n : Nat) : Desc := { base := 0, space := 4, fmt := .e4m3, arr := .plain, rank := 2, size0 := 32, size1 := n }

theorem ownedRows_manyRows (n : Nat) : (ownedRows 0 0 (manyRows n)).length = n := by
  have h (i : Nat) : (List.range 32).any (computes 0 0 (manyRows n) (rowAt (manyRows n) i 0 0)) = true := by
    simp only [rowAt, rowAddrInt, Int.mul_zero, Int.add_zero]
    exact List.any_eq_true.mpr ⟨0, by simp, by simp [computes, elemBit, fmtBits]; decide⟩
  unfold ownedRows
  rw [if_neg (by simp), List.filter_eq_self.mpr (fun i _ => h i), List.length_range]

theorem witness_SwageControlInstructions_owned : (strmDesc manyCmd 0).any (fun d => 65535 < (ownedRows 0 0 d).length) = true := by
  have h : strmDesc manyCmd 0 = some (manyRows 65536) := by decide +kernel
  rw [h, Option.any_some, ownedRows_manyRows]
  decide

theorem witness_SwageControlInstructions :
    (∀ w ∈ [mi 0 0 0 0 0 0 0, mi 1 0 0 0 0 0 0, mi 2 0 0 0 0 0 0, mi 3 0 0 3 0 0x7FFF 0, mi 4 0 0 3 0 0 255, mi 5 0 0 1 0 0 255,
        mi 5 3 0 1 0 0 255, mi 7 0 0 0 0 2 0, mi 7 3 0 0 0 2 0, mi 8 0 0 0 2047 1 0, mi 8 0 0 0 2047 2 0, mi 0x3F 0 0 0 0 0 0],
      UnitReady 0 0 w (site w mat)) ∧ miDefined (miOp (mi 0x3F 0 0 0 0 0 0)) = false ∧
    (∀ k < 3, nth (unitNext 0 0 (siteU (mi 4 0 0 3 0 0 255) mat { loops := [0, 0, 0, k] })).loops 3 0 = k) ∧
    strmUsed matCmd 0 = true ∧ strmBlist matCmd 0 = false ∧
    (strmDesc matCmd 0).any (fun d => decide ((ownedRows 0 0 d).length ≤ 65535)) = true ∧ strmUsed matCmd 3 = false ∧
    UnitReady 0 0 (mi 5 0 0 1 0 0 255) (site (mi 5 0 0 1 0 0 255) { mat with cmd := manyCmd }) ∧
    strmUsed manyCmd 0 = true ∧ strmBlist manyCmd 0 = false ∧
    UnitReady 0 0 (mi 7 3 0 0 0 2 0) (site (mi 7 3 0 0 0 2 0) att) ∧ strmUsed attCmd 3 = true ∧ strmBlist attCmd 3 = true ∧
    miAcc (mi 8 0 0 0 2047 1 0) + miCnt (mi 8 0 0 0 2047 1 0) ≤ 2048 ∧ 2048 < miAcc (mi 8 0 0 0 2047 2 0) + miCnt (mi 8 0 0 0 2047 2 0) := by
  unfold UnitReady; decide +kernel

theorem witness_SwageBilletSetsAndMaxima :
    UnitReady 0 0 (mi 6 3 7 1 0 0 9) (site (mi 6 3 7 1 0 0 9) att) ∧ strmBlist attCmd 3 = true ∧
    UnitReady 0 0 (mi 6 0 7 1 0 0 9) (site (mi 6 0 7 1 0 0 9) mat) ∧ strmBlist matCmd 0 = false ∧
    UnitReady 0 0 (mi 0x11 0 7 0 0 0 0) (site (mi 0x11 0 7 0 0 0 0) att) ∧
    UnitReady 0 0 (mi 0x12 0 0 0 0 1 4095) (site (mi 0x12 0 0 0 0 1 4095) att) ∧ sfOk 4095 1 0 = true ∧
    UnitReady 0 0 (mi 0x12 0 1 0 0 1 4095) (site (mi 0x12 0 1 0 0 1 4095) att) ∧ sfOk 4095 1 1 = false ∧
    UnitReady 0 0 (mi 0x13 0 0 0 2047 1 4095) (site (mi 0x13 0 0 0 2047 1 4095) att) ∧
    countOr (mi 0x13 0 0 0 2047 1 4095) (unitNext 0 0 (site (mi 0x13 0 0 0 2047 1 4095) att)) = 1 ∧
    UnitReady 0 0 (mi 0x13 0 1 0 2047 1 0) (site (mi 0x13 0 1 0 2047 1 0) att) ∧ 2047 < miAcc (mi 0x13 0 1 0 2047 1 0) + miRw (mi 0x13 0 1 0 2047 1 0) := by
  unfold UnitReady; decide +kernel

/-- A property of the descriptor of a stream, and that there is one. -/
def descAll (cmd : List Nat) (k : Nat) (p : Desc → Bool) : Bool := (strmDesc cmd k).any p

/-- The same site with the value 1.0 in the first element of S0, and S0's anchor 16 or -200. -/
def oneIn (w : Nat) (anchor : Nat) : State :=
  memWrite ⟨0, 0, false⟩ 4 0 (cleanBytes [0x38]) (site w { mat with cmd := matCmd.set 9 (nth matCmd 9 0 - 16 * 2 ^ 32 + anchor * 2 ^ 32) })

/-- The elements of the row that unit 0 reads. -/
def rowRead (s : State) (d : Desc) : List Elem := (ownedElems 0 0 d 0).map (elemOf d (readUnitRow 0 0 d (rowAt d 0 0 0) s).2)

theorem witness_SwageRowInstructions :
    (∀ w ∈ [mi 0x09 0 0 0 2047 0 0, mi 0x0A 0 0 0 2047 0 0, mi 0x0B 6 0 0 0 0 0], UnitReady 0 0 w (site w mat) ∧
      UnitReady 0 0 w (siteU w mat { cursor := List.replicate 8 1 })) ∧
    strmUsed matCmd 0 = true ∧ strmUsed matCmd 6 = true ∧ strmBlist matCmd 0 = false ∧ strmBlist matCmd 6 = false ∧
    (rbDesc matCmd).any (fun b => rbHolds b 0 31 && (List.range 32).all (rbHolds b 0)) = true ∧
    descAll matCmd 0 (fun d => (ownedRows 0 0 d)[0]? == some 0 && (ownedRows 0 0 d)[1]? == none && (ownedElems 0 0 d 0).length == 32 &&
      decide (d.anchor = 16) && (rowBound d ((rowRead (site (mi 0x09 0 0 0 2047 0 0) mat) d).filter (fun e => !e.poison))).all
        (fun z => decide (z ≤ d.anchor))) = true ∧
    descAll matCmd 6 (fun d => (ownedRows 0 0 d)[0]? == some 0 && (ownedRows 0 0 d)[1]? == none) = true := by
  unfold UnitReady; decide +kernel

theorem witness_SwageRowInstructions_anchor :
    (let w := mi 0x09 0 0 0 2047 0 0
     UnitReady 0 0 w (oneIn w 0xFF38) ∧ descAll (stackRun (oneIn w 0xFF38) 0).cmd 0 (fun d => d.anchor == -200 &&
       (rowBound d ((rowRead (oneIn w 0xFF38) d).filter (fun e => !e.poison))).any (fun z => decide (d.anchor < z))) = true) := by
  unfold UnitReady; decide +kernel

theorem witness_SwageRowInstructions_billet :
    (let w := mi 0x0B 3 0 0 0 0 0
     let r := { att with kind := 2 }
     let s := siteU w r { cursor := List.replicate 8 1 }
     UnitReady 0 0 w s ∧ strmUsed r.cmd 3 = true ∧ strmBlist r.cmd 3 = true ∧
     (strmDesc r.cmd 3).any (fun d => (rbDesc r.cmd).any (fun b =>
       match cwrBillet 0 0 w d b (unitNext 0 0 s) s with
       | .go _ _ => true | .stop _ _ => false)) = true) := by
  unfold UnitReady; decide +kernel

theorem witness_SwageVectorInstructions :
    (∀ w ∈ [mi 0x10 0 0 0 0 1 4095, mi 0x14 0 0 0 2008 1 4095, mi 0x14 0 0 0 2008 0 4095], UnitReady 0 0 w (site w mat)) ∧
    strmUsed matCmd 0 = true ∧
    (rbDesc matCmd).any (fun b => rbHolds b 0 31) = true ∧ sfOk 4095 1 0 = true ∧
    descAll matCmd 0 (fun d => (vectors 0 0 0 1 d {} (site 0 mat)).any (fun v => v.vecs.length == 1 && v.x.sfSyn == []) &&
      (valueFrame d == some 9) && decide (2008 + 7 + d.size0 * 1 ≤ 2047)) = true ∧
    countOr (mi 0x14 0 0 0 2008 1 4095) {} = 1 ∧ countOr (mi 0x14 0 0 0 2008 0 4095) {} = 0 ∧
    UnitReady 0 0 (mi 0x15 0 7 0 0 0 0) (site (mi 0x15 0 7 0 0 0 0) att) ∧ descAll attCmd 3 (fun d => d.size0 == 32) = true ∧
    descAll attCmd 5 (fun d => d.size0 == 40) = true ∧ curBillet att 0 {} 3 = some ⟨0, 0, 0, 0, 0x100000⟩ ∧
    0 + 7 + 32 * max (7 + 1) (cmdRows attCmd) ≤ 2047 := by
  unfold UnitReady; decide +kernel

/-- A command header (R263). -/
def header (cls slots subop tag : Nat) : Nat := cls * 2 ^ 56 + slots * 2 ^ 50 + subop * 2 ^ 40 + tag

/-- Words in host memory. -/
def hostWords (addr : Nat) (l : List Nat) (s : State) : State :=
  { s with mem := { s.mem with cells := tabSetRun 0 s.mem.cells (cellKey 5 addr) (l.flatMap (leBytes 8)) } }

/-- Queue q of a consumer with one command of the given words in a ring in host memory. -/
def queued (q kind key : Nat) (l : List Nat) (s : State) : State :=
  { hostWords 0 l s with
    queues := [(q, { ringBase := 0, ringSpace := 5, jrnlBase := 0x100000, jrnlSpace := 5, lg := 10, ckind := kind, ckey := key,
                     prod := (l.length + 7) / 8, shown := 2 })] }

/-- A matrix-vector command at the head of queue 9 of stack 0. -/
def swageQueued : State := queued 9 2 0 ([header 1 8 0 0x77, 0, 0, 0, 0, 0, 0, 0] ++ matCmd) base

/-- Every unit of stack 0 has reached END. -/
def unitsDone (kind : Nat) : State :=
  { base with runs := [(0, { phase := 3, kind := kind, tag := 7 })], units := (List.range 512).map (fun u => (u, { live := true, isDone := true })) }

/-- The same queue with a command whose S0 has a reserved format. -/
def swageBad : State := queued 9 2 0 ([header 1 8 0 0x77, 0, 0, 0, 0, 0, 0, 0] ++ List.replicate 8 0 ++ strm 0 4 15 0 32 1 32 ++ List.replicate 44 0) base

/-- The matrix-vector command accepted, and a line of its ranges tracked for the host. -/
def recalling (rs : List Range) : State := { tracked with runs := [(0, { mat with phase := 1, ranges := rs })] }

/-- The attention command accepted, with tables in CB of one item whose list names session 3; its work table may hold poison. -/
def tables (n : Nat) (bad : Bool) : State :=
  let w : Who := ⟨0, 0, false⟩
  memWrite w 4 0x200000 (cleanBytes [3, 0, 0, 0, 0, 0, 0, 0]) <|
  memWrite w 3 32 (cleanBytes (leBytes 4 0 ++ leBytes 4 0 ++ leBytes 4 3 ++ leBytes 4 1)) <| memWrite w 3 8 (cleanBytes (leBytes 4 n)) <|
  memWrite w 3 8224 (cleanBytes (leBytes 8 0 ++ leBytes 8 0x200000)) <|
  memWrite w 3 8192 [(1, bad), (0, false), (0, false)] { base with runs := [(0, { att with phase := 1 })] }

/-- What the prologue finds in them: whether they read as poison, and whether they pass. -/
def tablesFound (s : State) : Bool × Bool :=
  let s1 := broadcast 0 s
  let z := readTables 0 s1
  let items := tableItems s1 attCmd
  (z.2, tablesOk z.1 0 (stackRun s 0) items (queueAll z.1 true items))

theorem witness_SwageCommandsStartAndEnd_tables :
    (tablesFound (tables 1 true)).1 = true ∧ tablesFound (tables 0 false) = (false, false) ∧ tablesFound (tables 1 false) = (false, true) := by decide +kernel

theorem witness_SwageCommandsStartAndEnd :
    (∀ s ∈ [swageQueued, swageBad], running s = true ∧ stackTurn s 0 = some 9 ∧ (headHdr s 9).cls = 1 ∧
      (takeCmd 9 s).2.poison = false ∧ pendingAbort (takeCmd 9 s).1 (queue (takeCmd 9 s).1 9) = none ∧ (takeCmd 9 s).2.hdr.bad = false ∧
      classAccepted (queue (takeCmd 9 s).1 9).ckind (takeCmd 9 s).2.hdr.cls = true) ∧
    swageAccepts (takeCmd 9 swageQueued).1 0 (((bytesWords (takeCmd 9 swageQueued).2.body).take 56).set 1 0x77) = true ∧
    swageAccepts (takeCmd 9 swageBad).1 0 (((bytesWords (takeCmd 9 swageBad).2.body).take 56).set 1 0x77) = false ∧
    (∀ rs ∈ [[], [({ start := 0, len := 64, write := true } : Range)]], running (recalling rs) = true ∧ stackHeld (recalling rs) 0 = false) ∧
    runRecalls (recalling []) (stackRun (recalling []) 0) = [] ∧
    runRecalls (recalling [{ start := 0, len := 64, write := true }])
      (stackRun (recalling [{ start := 0, len := 64, write := true }]) 0) = [0] ∧
    (∀ n ∈ [0, 1], ∀ bad, stackHeld (tables n bad) 0 = false ∧ (stackRun (tables n bad) 0).phase = 1 ∧ (stackRun (tables n bad) 0).kind ≠ 0 ∧
      runRecalls (tables n bad) (stackRun (tables n bad) 0) = []) ∧
    rf busySite (stkReg 0 0x800) 63 32 ≠ 0 ∧ (unitAt busySite 0 0).isDone = false := by decide +kernel

theorem tabGet_upFrom {α : Type} (d v : α) (k n : Nat) : ∀ a, a ≤ k → k < a + n →
    tabGet d ((List.range' a n).map (fun u => (u, v))) k = v := by
  induction n with
  | zero => intro a h1 h2; omega
  | succ n ih =>
    intro a h1 h2
    simp only [List.range', List.map_cons, tabGet]
    split
    · rfl
    · exact ih (a + 1) (by omega) (by omega)

theorem witness_SwageCommandsEnd (kind : Nat) : (stackRun (unitsDone kind) 0).phase = 3 ∧ (stackRun (unitsDone kind) 0).kind = kind ∧
    allDone (unitsDone kind) 0 = true := by
  refine ⟨rfl, rfl, ?_⟩
  refine List.all_eq_true.mpr fun u hu => ?_
  have h : tabGet ({} : SwgUnit) (unitsDone kind).units (0 * 512 + u) = { live := true, isDone := true } := by
    simp only [unitsDone, List.range_eq_range', Nat.zero_mul, Nat.zero_add]
    exact tabGet_upFrom _ _ u 512 0 (by omega) (by have := List.mem_range.mp hu; omega)
  rw [h]

/-- Attention commands under one key at stacks 0 and 1, both done and waiting in the exchange; what each has of the other. -/
def merging (sent0 sent1 : List Nat) (x0 : List PeerMax) : State :=
  { base with
    runs := [(0, { att with phase := 4, sent := sent0, cmd := attCmd.set 55 (3 + 7 * 2 ^ 32) }),
             (1, { att with phase := 4, sent := sent1, cmd := attCmd.set 55 (3 + 7 * 2 ^ 32) })],
    exch := tabSet [] [] 0 x0 }

/-- The values of stack 1. -/
def peer1 : PeerMax := siteMax 1 (stackRun (merging [] [] []) 1)

theorem witness_AttentionMergeExchange :
    (let s := merging [] [] []
     running s = true ∧ readyToMerge s 1 = true ∧ 0 ∈ maskSites (stackRun s 1).cmd ∧ 0 ∉ (stackRun s 1).sent ∧ exchOf s 1 = [] ∧
     exchRoom s 0 peer1.xkey = true ∧ mergesUnder s 0 peer1.xkey = true ∧ peerFits (stackRun s 0) peer1 = true) ∧
    (let s := { merging [] [] [] with runs := tabSet {} (merging [] [] []).runs 0 { stackRun (merging [] [] []) 0 with items := [] } }
     readyToMerge s 1 = true ∧ exchRoom s 0 peer1.xkey = true ∧ mergesUnder s 0 peer1.xkey = true ∧ peerFits (stackRun s 0) peer1 = false ∧
     3 ≤ (stackRun s 0).phase) ∧
    (let s := merging [] [] [{ peer1 with abort := true }]
     mergesUnder s 0 (maskKey (stackRun s 0).cmd) = true ∧ (∃ q ∈ exchOf s 0, q.xkey = maskKey (stackRun s 0).cmd ∧ q.abort = true)) ∧
    (let s := merging [1] [0] [peer1]
     readyToMerge s 0 = true ∧ (∀ q ∈ exchOf s 0, q.abort = false ∧ peerFits (stackRun s 0) q = true) ∧
     (∀ k ∈ maskSites (stackRun s 0).cmd, k ≠ 0 → k ∈ (stackRun s 0).sent ∧
       ∃ q ∈ exchOf s 0, q.xkey = maskKey (stackRun s 0).cmd ∧ q.site = k) ∧
     descAll (stackRun s 0).cmd 2 (fun _ => true) = true) := by decide +kernel

theorem witness_MicroProgramStoreIsWritten : running base = true ∧ stageFailed base = false ∧
    rf (reg 0x200800 0x186A000000004 base) (stkReg 0 0x800) 2 2 = 1 ∧ (stackRun base 0).phase = 0 ∧
    rf base (stkReg 0 0x800) 2 2 = 0 ∧ (stackRun busySite 0).phase ≠ 0 := by decide +kernel

/-! ### Core engines -/

/-- An element, record or int16 slot (R221): format, offset, stride, n0 and rows. -/
def slot (fmt off stride n0 rows : Nat) : Nat := fmt * 2 ^ 60 + off / 4 * 2 ^ 38 + stride / 4 * 2 ^ 20 + n0 * 2 ^ 8 + (rows - 1)

/-- A control word of core 15 with its slots, and with a parameter block at byte 4096. -/
def word (eng op : Nat) (w0 w1 w2 : Nat) : EngWord :=
  { w0 := w0, w1 := w1, w2 := w2, w3 := op * 2 ^ 58 + eng * 2 ^ 56 + 2 ^ 55 + 2 ^ 34 + 64 * 2, tag := 5 }

/-- The last core of the last cluster of Anvil 3 has a word at the head of an engine. -/
def working (eng : Nat) (w : EngWord) : State := { base with cores := [(1023, setEngQueue eng [w] {})] }

/-- What the word starts from. -/
def started (eng : Nat) (w : EngWord) : State × EngCtx := engStart 3 15 15 eng w (working eng w)

/-- A vector word with FP32 rows of 16 elements: A at 0, B at 64, C at 128. -/
def vectorWord (op : Nat) : EngWord := word 1 op (slot 0 128 64 1 1) (slot 0 64 64 1 1) (slot 0 0 64 1 1)

theorem witness_ElementwiseWordsWriteTheirRows : ∀ p ∈ ([(1, true, true, false), (2, true, true, false), (3, true, true, false),
      (4, true, true, false), (5, true, true, false), (6, true, true, false), (7, false, false, false), (8, false, true, false),
      (9, false, false, false), (10, false, false, true)] : List (Nat × Bool × Bool × Bool)),
    EngineReady 3 15 15 1 (vectorWord p.1) (working 1 (vectorWord p.1)) ∧ ewOp (vectorWord p.1) = p.1 ∧
    (trioOf (started 1 (vectorWord p.1)).2 (started 1 (vectorWord p.1)).1 p.2.1 p.2.2.1 p.2.2.2).isSome = true ∧
    (let w := { vectorWord p.1 with w0 := 0 }
     EngineReady 3 15 15 1 w (working 1 w) ∧ (trioOf (started 1 w).2 (started 1 w).1 p.2.1 p.2.2.1 p.2.2.2).isNone = true) := by
  unfold EngineReady; decide +kernel

/-- VAMAX and VIMAX: int16 values at 64 (and 128). -/
def amaxWord : EngWord := word 1 0x12 (slot 0 64 0 1 1) 0 (slot 0 0 64 1 1)
def imaxWord : EngWord := word 1 0x13 (slot 0 64 0 1 1) 0 (slot 0 128 0 1 1)

theorem witness_RowWordsWriteOneResultPerRow :
    (∀ op ∈ [0x10, 0x11], let w := vectorWord op
      EngineReady 3 15 15 1 w (working 1 w) ∧ ewOp w = op ∧
      (slotDesc (started 1 w).2 w.w2).any (fun da => (slotDesc (started 1 w).2 w.w0).any (fun dc =>
        srcOk (started 1 w).1 da && dstOk (started 1 w).1 dc && decide (da.fmt ≠ .int32) && decide (dc.fmt ≠ .int32) &&
        decide (da.size1 = dc.size1) && !opsMeet da dc && prmClear (started 1 w).2 dc)) = true) ∧
    (let w := vectorWord 0x0B
     EngineReady 3 15 15 1 w (working 1 w) ∧ (slotDesc (started 1 w).2 w.w0).any (fun dc =>
       dstOk (started 1 w).1 dc && prmApart (started 1 w).2 32 dc && decide (dc.size1 = 1)) = true) ∧
    (let w := amaxWord
     EngineReady 3 15 15 1 w (working 1 w) ∧ ewOp w = 0x12 ∧ slUsed w.w0 = true ∧
     intsOk (started 1 w).1 (slotInts (started 1 w).2 w.w0) = true ∧ (slotDesc (started 1 w).2 w.w2).any (fun da =>
       srcOk (started 1 w).1 da && decide (da.size1 ≤ slN0 w.w0) && !opsMeet da (slotInts (started 1 w).2 w.w0) && prmClear (started 1 w).2 (slotInts (started 1 w).2 w.w0)) = true) ∧
    (let w := imaxWord
     EngineReady 3 15 15 1 w (working 1 w) ∧ ewOp w = 0x13 ∧ slUsed w.w2 = true ∧ slN0 w.w2 = slN0 w.w0 ∧
     intsOk (started 1 w).1 (slotInts (started 1 w).2 w.w2) = true ∧ intsOk (started 1 w).1 (slotInts (started 1 w).2 w.w0) = true ∧
     opsMeet (slotInts (started 1 w).2 w.w2) (slotInts (started 1 w).2 w.w0) = false ∧
     prmClear (started 1 w).2 (slotInts (started 1 w).2 w.w0) = true) := by
  unfold EngineReady; dsimp only
  refine ⟨by decide +kernel, by decide +kernel, by decide +kernel, by decide +kernel⟩

/-- MMA of one E4M3 row of 16 elements with another into bank 1, cleared first. -/
def mmaWord : EngWord := word 0 1 (2 ^ 63 + 2 ^ 62) (slot 3 64 16 1 1) (slot 3 0 16 1 1)

theorem witness_MatrixWordAddsEveryPair :
    EngineReady 3 15 15 0 mmaWord (working 0 mmaWord) ∧ ewOp mmaWord = 1 ∧
    (let s1 := (started 0 mmaWord).1
     let x := (started 0 mmaWord).2
     let b0 : Bank := { cleared := true, xa := x.prm.xanch, wa := x.prm.wanch }
     (slotDesc x mmaWord.w2).any (fun dx => (slotDesc x mmaWord.w1).any (fun dw =>
       srcOk s1 dx && srcOk s1 dw && matrixOk dx && matrixOk dw && dx.size0 == 16 && dw.size0 == 16 && dx.size1 == 1 && dw.size1 == 1 &&
       decide ((bankEntry b0 0 0).terms + 16 ≤ 2 ^ 24) && ((bankEntry b0 0 0).anchor == some 0) &&
       (addAnchors (x.prm.xanch.getD 0 none) (x.prm.wanch.getD 0 none) == some 0) &&
       (firstOver (x.prm.xanch.getD 0 none) dx ((readRows x.who dx s1).2.getD 0 [])).isNone &&
       (firstOver (x.prm.wanch.getD 0 none) dw ((readRows x.who dw (readRows x.who dx s1).1).2.getD 0 [])).isNone)) = true) := by
  unfold EngineReady; dsimp only; decide +kernel

/-- Words on records: VACC, RACC, ACVT, ARAW, RCVT, AQUO; and on moves: MCPY, MTRN. -/
def vaccW : EngWord := word 1 0x14 (slot 0 512 32 1 1) (slot 0 64 64 1 1) (slot 0 0 64 1 1)
def raccW : EngWord := word 1 0x1A (slot 0 512 32 1 1) 0 (slot 0 0 32 1 1)
def acvtW : EngWord := word 1 0x18 (slot 0 512 64 1 1) 0 (15 * 2 ^ 6)
def arawW : EngWord := word 1 0x19 (slot 0 512 512 16 1) 0 (15 * 2 ^ 6)
def rcvtW : EngWord := word 1 0x1B (slot 0 1024 64 1 1) 0 (slot 0 0 512 16 1)
def aquoW : EngWord := word 1 0x1C (slot 0 1024 64 1 1) 0 (slot 0 0 544 17 1)
def mcpyW : EngWord := word 2 1 (slot 0 512 64 1 1) 0 (slot 0 0 64 1 1)
def mtrnW : EngWord := word 2 2 (slot 0 2048 64 1 16) 0 (slot 0 0 64 1 1)

/-- Is the outcome of a word a completion? -/
def finishes (r : EngRes) : Bool := match r with | .fin _ _ _ => true | _ => false

theorem witness_RecordAndMoveWordsComplete :
    (∀ w ∈ [vaccW, raccW, acvtW, arawW, rcvtW, aquoW], EngineReady 3 15 15 1 w (working 1 w)) ∧
    finishes (vaccWord (started 1 vaccW).2 (started 1 vaccW).1) = true ∧ finishes (racc (started 1 raccW).2 (started 1 raccW).1) = true ∧
    (let x := (started 1 raccW).2
     let A := slotRecs x raccW.w2
     let C := slotRecs x raccW.w0
     let ra := memRead x.who false 1 (rowAt A 0 0 0) A.size0 (started 1 raccW).1
     let rc := memRead x.who false 1 (rowAt C 0 0 0) C.size0 ra.1
     srcOk (started 1 raccW).1 A = true ∧ dstOk (started 1 raccW).1 C = true ∧ slRows raccW.w2 = 1 ∧ slRows raccW.w0 = 1 ∧
     slN0 raccW.w2 = slN0 raccW.w0 ∧ apartFrom true A raccW.w2 C raccW.w0 = true ∧ prmClear x C = true ∧
     ∀ j ∈ (List.range (slN0 raccW.w0)).map (fun i => recJoin (recOf rc.2 i) (recOf ra.2 i)), j ≠ none) ∧
    (slotDesc (started 1 acvtW).2 acvtW.w0).any (fun dc => dstOk (started 1 acvtW).1 dc && decide (bankCols acvtW.w2 = dc.size0) &&
      decide (bankRows acvtW.w2 = dc.size1) && prmClear (started 1 acvtW).2 dc) = true ∧
    (slUsed arawW.w0 = true ∧ dstOk (started 1 arawW).1 (slotRecs (started 1 arawW).2 arawW.w0) = true ∧
      bankCols arawW.w2 = slN0 arawW.w0 ∧ bankRows arawW.w2 = slRows arawW.w0 ∧ prmClear (started 1 arawW).2 (slotRecs (started 1 arawW).2 arawW.w0) = true) ∧
    (∀ w ∈ [rcvtW, aquoW], slUsed w.w2 = true ∧ srcOk (started 1 w).1 (slotRecs (started 1 w).2 w.w2) = true ∧ slRows w.w2 = 1 ∧
      (slotDesc (started 1 w).2 w.w0).any (fun dc => dstOk (started 1 w).1 dc && decide (dc.size1 = 1) && decide (dc.fmt ≠ .int32) &&
        decide (slN0 w.w2 = dc.size0 + (if ewOp w = 0x1C then 1 else 0)) && !opsMeet (slotRecs (started 1 w).2 w.w2) dc && prmClear (started 1 w).2 dc) = true) ∧
    (∀ w ∈ [mcpyW, mtrnW], EngineReady 3 15 15 2 w (working 2 w) ∧
      (slotDesc (started 2 w).2 w.w2).any (fun da => (slotDesc (started 2 w).2 w.w0).any (fun dc =>
        srcOk (started 2 w).1 da && dstOk (started 2 w).1 dc && decide (da.fmt = dc.fmt) && !opsMeet da dc && prmClear (started 2 w).2 dc && da.arr == .plain &&
        dc.arr == .plain && (if ewOp w = 1 then decide (da.size0 = dc.size0) && decide (da.size1 = dc.size1)
          else decide (fmtBits da.fmt % 8 = 0) && decide (dc.size1 = da.size0) && decide (da.size1 ≤ dc.size0)))) = true) := by
  unfold EngineReady; decide +kernel

/-- A word at the head of core 15's vector queue that has run. -/
def ranWord : EngWord := { vectorWord 1 with ran := true }
/-- A word that no engine defines. -/
def strangeWord : EngWord := word 1 0x0C 0 0 0
/-- A NOP. -/
def nopWord : EngWord := word 1 0 0 0 0

/-- The same operation with a reserved rounding. -/
def roundWord : EngWord := { nopWord with w3 := nopWord.w3 + 3 * 2 ^ 36 }

theorem witness_EngineWordsCompleteOrAreRejected :
    (let s := working 1 ranWord
     running s = true ∧ engQueue (coreSt s 1023) 1 = ranWord :: [] ∧ ranWord.ran = true ∧ stoppedAt s (hxCore 3 15 15) = false) ∧
    (let w := { word 3 0x30 0 0 0 with ran := true }
     let s := { base with clusters := [(63, { moving := [w] })] }
     (cluster s 63).moving = w :: [] ∧ w.ran = true ∧ stoppedAt s (hxCluster 3 15) = false) ∧
    (let s := working 1 strangeWord
     headWord s 3 15 15 1 = some strangeWord ∧ ewDefined 1 (ewOp strangeWord) = false) ∧
    headWord (working 1 roundWord) 3 15 15 1 = some roundWord ∧ 2 ≤ ewRound roundWord ∧
    EngineReady 3 15 15 1 nopWord (working 1 nopWord) ∧ ewOp nopWord = 0 := by
  unfold EngineReady; decide +kernel

/-- A vector word that waits for done count 1 of engine 0. -/
def waitingWord : EngWord := { vectorWord 1 with w3 := (vectorWord 1).w3 + 2 ^ 31 + 2 ^ 15 }
/-- A Bellows word with the same wait. -/
def waitingBar : EngWord := { word 3 0x33 0 0 0 with w3 := (word 3 0x33 0 0 0).w3 + 2 ^ 31 + 2 ^ 15 }
/-- A push that waits. -/
def stalledPush : Push := { word := vectorWord 1, mask := 2 ^ 15, bellows := false }

theorem witness_EngineWaitsTimeOut :
    running base = true ∧ waitMs base 3 15 = 100 ∧ headWord (working 1 waitingWord) 3 15 15 1 = some waitingWord ∧
    waitHolds (coreSt (working 1 waitingWord) 1023) waitingWord = false ∧
    (let s := { base with clusters := [(63, { bq := [waitingBar] })] }
     bellowsHead s 3 15 = some waitingBar ∧ bellowsOpen s 3 15 = true ∧ ewEng waitingBar = 3 ∧ bellowsBad s 3 15 waitingBar = false ∧
     allWaits s 3 15 waitingBar = false) ∧
    (cluster { base with clusters := [(63, { push := some stalledPush })] } 63).push = some stalledPush := by decide +kernel

/-- A cluster of Anvil 3 whose Bellows stream is one word. -/
def stream (w : EngWord) : State := { base with clusters := [(63, { bq := [w] })] }

/-- LOAD and STORE of one row of 64 bytes between the scratchpad and the Anvil's die buffer; RUN of one word of it. -/
def loadW : EngWord := word 3 0x30 (64 / 4 * 2 ^ 12) (2 * 2 ^ 60) (3 * 2 ^ 32)
def storeW : EngWord := word 3 0x31 (64 / 4 * 2 ^ 12) (2 * 2 ^ 60) (3 * 2 ^ 32 + 0x4800000 - 64)
def runW : EngWord := word 3 0x32 0 (2 * 2 ^ 60) (3 * 2 ^ 32 + 0x4800000 - 32)

/-- A word that Bellows does not define, and a LOAD in progress with no piece moved. -/
def badBellows : EngWord := word 3 0x3F 0 0 0
def loading : State := { base with clusters := [(63, { moving := [loadW] })] }

theorem witness_BellowsRunsItsStream :
    (∀ w ∈ [word 3 0x33 0 0 0, word 3 0 0 0 0, loadW, storeW, runW, vectorWord 1], BellowsReady 3 15 w (stream w)) ∧
    (∀ w ∈ [word 3 0x33 0 0 0, word 3 0 0 0 0, loadW, storeW, runW], ewEng w = 3 ∧ allWaits (stream w) 3 15 w = true) ∧
    (cluster (stream loadW) 63).moving.length < 4 ∧
    (∀ p ∈ [(loadW, false), (storeW, true)], lsOk (issueTag 3 15 p.1 (stream p.1)).1 3 p.2 (issueTag 3 15 p.1 (stream p.1)).2 = true) ∧
    (let x := issueTag 3 15 runW (stream runW)
     runSpace x.2 = 2 ∧ x.2.w2 / 2 ^ 32 = 3 ∧ addrOk x.1 2 x.2.w2 (32 * runCount x.2) = true) ∧
    ewEng (vectorWord 1) ≠ 3 ∧ (∀ j ∈ maskCores (vectorWord 1), queueRoom (stream (vectorWord 1)) (coreNo 3 15 j) 1 ≠ 0) ∧
    bellowsHead (stream badBellows) 3 15 = some badBellows ∧ bellowsOpen (stream badBellows) 3 15 = true ∧
    bellowsBad (stream badBellows) 3 15 badBellows = true := by
  unfold BellowsReady; decide +kernel

theorem witness_BellowsRunsItsStream_pieces :
    running loading = true ∧ bellowsHead loading 3 15 = none ∧ (cluster loading 63).stopped = false ∧ stoppedAt loading (hxCluster 3 15) = false ∧
    (hearth loading (hxCluster 3 15)).halted = false ∧ nextMove (cluster loading 63).moving = some ([], loadW, []) ∧
    (ewOp loadW == 0x31) = false ∧ (lsPieces loadW)[loadW.prog]?.any (fun x => pieceReady loading (bellowsSource 3 15) (lsSpace loadW)
      (lsRemote loadW x.core x.row) (lsBytes loadW) x.addr x.len false) = true := by decide +kernel

/-- Cluster 15 of Anvil 3 runs its Hammer program. -/
def hammerOn : State := reg 0x371F00 0x0064000000000001 base

/-- Word 3 of a vector word for core 15. -/
def pushed : Word := BitVec.ofNat 64 (vectorWord 1).w3

theorem witness_PushesEnterTheirQueues : running hammerOn = true ∧ mayPush hammerOn 3 15 = true ∧
    (cluster hammerOn 63).stopped = false ∧ rf hammerOn (clReg 3 15 0) 1 1 = 0 ∧ (cluster hammerOn 63).bq.length < 64 ∧
    (let s := { hammerOn with clusters := [(63, { stopped := true })] }
     mayPush s 3 15 = true ∧ (cluster s 63).stopped = true) ∧
    (let s := reg 0x371F00 0x0064000000000003 base
     mayPush s 3 15 = true ∧ rf s (clReg 3 15 0) 1 1 = 1) ∧
    (let s := { hammerOn with clusters := [(63, { bq := List.replicate 64 nopWord })] }
     mayPush s 3 15 = true ∧ 64 ≤ (cluster s 63).bq.length) ∧
    ewEng ⟨0, 0, 0, pushed.toNat, 0, 0, false, 0, 0⟩ = 1 ∧ ewMask ⟨0, 0, 0, pushed.toNat, 0, 0, false, 0, 0⟩ = 2 ^ 15 ∧
    0 < queueRoom hammerOn (coreNo 3 15 15) 1 ∧ queueRoom { hammerOn with cores := [(1023, { vec := List.replicate 16 nopWord })] } (coreNo 3 15 15) 1 = 0 ∧
    ewEng ⟨0, 0, 0, 3 * 2 ^ 56 + 2 ^ 40, 0, 0, false, 0, 0⟩ = 3 ∧ ewMask ⟨0, 0, 0, 0, 0, 0, false, 0, 0⟩ = 0 := by decide +kernel

theorem witness_ClusterRegistersThatAct : running base = true ∧ stageFailed base = false ∧
    rf base (clReg 3 15 0) 0 0 = 0 ∧ rf hammerOn (clReg 3 15 0) 0 0 = 1 ∧
    rf base (anvReg 3 0x108) 26 12 * 4096 + traceBytes base 3 ≤ 0x4800000 ∧ rf base (anvReg 3 0x100) 0 0 = 0 ∧
    rf (reg (anvReg 3 0x100) 1 base) (anvReg 3 0x100) 0 0 = 1 ∧ rf (reg (anvReg 3 0x100) 1 base) (anvReg 3 0x108) 26 12 * 4096 +
      traceBytes (reg (anvReg 3 0x100) 1 base) 3 ≤ 0x4800000 ∧
    ¬ rf (reg (anvReg 3 0x108) (0x4800 * 2 ^ 12) base) (anvReg 3 0x108) 26 12 * 4096 +
      traceBytes (reg (anvReg 3 0x108) (0x4800 * 2 ^ 12) base) 3 ≤ 0x4800000 := by decide +kernel

/-! ### Tongs -/

/-- A descriptor of INT8 elements (R56): base, space, rank, sizes and strides. -/
def desc (base space rank s0 s1 s2 s3 st1 st2 st3 : Nat) : List Nat :=
  [base, space * 2 ^ 60 + 8 * 2 ^ 56 + (rank - 1) * 2 ^ 48, s0 + s1 * 2 ^ 32, s2 + s3 * 2 ^ 32, st1, st2, st3, 0]

/-- A copy of 2 rows of 32 bytes from the die buffer of Anvil 0 to SM; a gather and a scatter of two tiles of 32 bytes with the
list at byte 0x100000 of that buffer. -/
def copyBody : List Nat := desc 0 2 2 32 2 1 1 64 0 0 ++ desc 0x1000 4 2 32 2 1 1 32 0 0 ++ [0, 0, 0, 0, 0, 0, 0, 0]
def tileCtl (mode : Nat) : List Nat := [mode * 2 ^ 60 + 2 * 2 ^ 44 + 2 * 2 ^ 16, 0x100000, 32 + 2 ^ 32, 1 + 2 ^ 32, 0, 0, 0, 0]
def gatherBody : List Nat := desc 0 2 2 32 2 1 1 64 0 0 ++ desc 0x1000 4 4 32 1 1 2 32 32 32 ++ tileCtl 1
def scatterBody : List Nat := desc 0x1000 4 4 32 1 1 2 32 32 32 ++ desc 0 2 2 32 2 1 1 64 0 0 ++ tileCtl 2

/-- Channel 63 of engine 23, bound to queue 9, with a command in the queue. -/
def bound (body : List Nat) : State :=
  reg 0x3AFFC0 (2 ^ 63 + 9) (queued 9 3 1535 ([header 2 4 0 0x77, 0, 0, 0, 0, 0, 0, 0] ++ body) base)

theorem witness_TongsChannelsTake :
    ∀ p ∈ [(0, copyBody), (1, gatherBody), (2, scatterBody)],
      running (bound p.2) = true ∧ (chan (bound p.2) 23 63).busy = false ∧ chanQueue (bound p.2) 23 63 = some 9 ∧
      needSlots (bound p.2) 9 = false ∧ canTake (bound p.2) 9 = true ∧ (headHdr (bound p.2) 9).cls = 2 ∧
      headRejected (bound p.2) 9 = false ∧ rowMode (headMode (bound p.2) 9) = p.1 ∧ (takeCmd 9 (bound p.2)).2.poison = false ∧
      pendingAbort (takeCmd 9 (bound p.2)).1 (queue (takeCmd 9 (bound p.2)).1 9) = none ∧ (takeCmd 9 (bound p.2)).2.hdr.bad = false ∧
      classAccepted (queue (takeCmd 9 (bound p.2)).1 9).ckind (takeCmd 9 (bound p.2)).2.hdr.cls = true ∧
      (bytesWords (takeCmd 9 (bound p.2)).2.body).take 24 = p.2 ∧ tongsAccepts (takeCmd 9 (bound p.2)).1 p.2 = true ∧
      (tgSrc p.2).isSome = true ∧ (tgDst p.2).isSome = true ∧ 0 < tgTotal p.2 := by decide +kernel

/-- Channel 63 of engine 23 has moved `units` units of a command. -/
def tongsAt (body : List Nat) (units : Nat) : State :=
  { base with chans := [(1535, { busy := true, qid := 9, tag := 7, cmd := body, units := units })] }

/-- What the channel's next piece finds: its origin fetched and a run left, and may it be written now, must it wait. -/
def nextPiece (s : State) : Option (Bool × Bool) :=
  match tgSrc (chan s 23 63).cmd, tgDst (chan s 23 63).cmd with
  | some a, some d =>
    let f := fetchOrigin 23 63 a d s
    if !f.2 then none
    else match nextSeg (chan f.1 23 63) a d with
      | none => none
      | some g => match pieceGate 23 63 a d g (pieceAt a d g (chan f.1 23 63).pos) f.1 with
        | .go => some (turnOf f.1 23 == 63, false)
        | .wait _ => some (false, true)
        | .ends _ => none
  | _, _ => none

/-- A copy whose unit has no run left. -/
def noRun : State :=
  { base with chans := [(1535, { busy := true, qid := 9, tag := 7, cmd := copyBody, seg := 1, org := some (0, 0, 0, 0) })] }

theorem witness_TongsChannelsMove :
    (∀ p ∈ [(0, copyBody), (1, gatherBody), (2, scatterBody)], let s := tongsAt p.2 1
      running s = true ∧ (chan s 23 63).busy = true ∧ (chan s 23 63).completing = false ∧ tgMode p.2 = p.1 ∧ (chan s 23 63).stop = none ∧
      (chan s 23 63).units < tgTotal p.2 ∧ nextPiece s = some (true, false)) ∧
    (let s := { tongsAt copyBody 1 with vclear := [(0, { on := true, started := true, first := 0, count := 100 })] }
     nextPiece s = some (false, true)) ∧
    (tgSrc copyBody).any (fun a => (tgDst copyBody).any (fun d => (fetchOrigin 23 63 a d noRun).2 &&
      (nextSeg (chan (fetchOrigin 23 63 a d noRun).1 23 63) a d).isNone)) = true := by decide +kernel

/-- A copy from host memory, in progress; the same command with every unit moved. -/
def fromHost : List Nat := desc 0 5 2 32 2 1 1 64 0 0 ++ desc 0x1000 4 2 32 2 1 1 32 0 0 ++ [0, 0, 0, 0, 0, 0, 0, 0]
def completing (backs : List Nat) (event : Nat) : State :=
  { base with chans := [(1535, { busy := true, qid := 9, tag := 7, cmd := copyBody.set 16 (event * 2 ^ 48), units := 2,
                                 completing := true, backs := backs })] }
/-- A WAIT of the channel's queue is on. -/
def waitingChan : State := reg 0x3AFFC0 (2 ^ 63 + 9) { queued 9 3 1535 [header 0 1 2 5, 4096, 1, 0, 0, 0, 0, 0] base with
  waits := [(9, { on := true, addr := 4096, value := 1, watch := true })] }

theorem witness_TongsChannelsEnd : running base = true ∧ stageFailed base = false ∧
    (chan (completing [0] 0) 23 63).busy = true ∧ (chan (completing [0] 0) 23 63).completing = true ∧ (chan (completing [0] 0) 23 63).backs ≠ [] ∧
    commitReached (completing [] 0) (chan (completing [] 0) 23 63) = true ∧ tgEvKind (chan (completing [] 0) 23 63).cmd = 0 ∧
    commitReached (completing [] 3) (chan (completing [] 3) 23 63) = true ∧ tgEvKind (chan (completing [] 3) 23 63).cmd = 3 ∧
    moverReady (completing [] 3) (tongsSource 23 63) 4 (nth (chan (completing [] 3) 23 63).cmd 20 0) 8 true = true ∧
    moverReady { completing [] 3 with vclear := [(0, { on := true, started := true, first := 0, count := 100 })] } (tongsSource 23 63) 4 0 8
      true = false ∧
    (chan (completing [] 0) 23 63).tag = (7 : BitVec 32).toNat ∧
    (chan { base with chans := [(1535, { last := some 7 })] } 23 63).last = some (7 : BitVec 32).toNat ∧
    queueCmdTag base 23 63 ≠ some (7 : BitVec 32).toNat ∧ (chan base 23 63).busy = false ∧ (chan base 23 63).last ≠ some (7 : BitVec 32).toNat ∧
    (chan waitingChan 23 63).busy = false ∧ (queueCmdTag waitingChan 23 63).isSome = true ∧
    (chan (tongsAt fromHost 0) 23 63).busy = true ∧ chanHm (chan (tongsAt fromHost 0) 23 63) = (true, true) ∧
    chanBusy base 23 63 = false ∧ boundElsewhere base 23 63 9 = false ∧ boundElsewhere (reg 0x381000 (2 ^ 63 + 9) base) 23 63 9 = true ∧
    (let s := tongsAt copyBody 0
     rf s (chanReg 23 63 0) 63 63 ≠ 1 ∧ chanBusy s 23 63 = true) := by decide +kernel

/-! ### Queues and Prefen -/

/-- A queue of the Smith cores that is ready to be moved. -/
def smithQueue : State := { base with queues := [(0xFFFFF, { ringSpace := 5, jrnlSpace := 5, lg := 10, ckind := 1, prod := 5, taken := 3, done := 2, shown := 2 })] }

theorem witness_QueuesAcceptDoorbells : running smithQueue = true ∧ stageFailed smithQueue = false ∧ (queue smithQueue 0xFFFFF).ckind ≠ 0 ∧
    (0 < diff32 1026 5 ∧ diff32 1026 5 < 2 ^ 31 ∧ diff32 1026 2 ≤ 2 ^ 10) ∧ diff32 5 5 = 0 ∧ 2 ^ 31 ≤ diff32 4 5 ∧
    2 ^ 10 < diff32 1027 2 ∧ (queue smithQueue 0).ckind = 0 ∧ qadvAllowed smithQueue 67 0xFFFFF = true ∧
    diff32 5 3 ≤ diff32 5 3 ∧ diff32 5 2 ≤ diff32 5 2 ∧ qadvAllowed smithQueue 63 0xFFFFF = false := by decide +kernel

/-- A queue 9 of the Smith cores with one command of a header and words; partner 1 is PRESENT. -/
def smithHas (l : List Nat) : State := reg 0x3F1020 (2 ^ 60) (queued 9 1 0 l base)

/-- A command of one slot: class, subop, flag address and value. -/
def oneSlot (cls subop addr : Nat) : List Nat := [header cls 1 subop 7, addr, 5, 0, 0, 0, 0, 0]

/-- Queue 9 whose head is a WAIT with a limit, registered or met. -/
def waits (w : Wait) : State := { smithQueue with queues := [(9, { ringSpace := 5, jrnlSpace := 5, lg := 10, ckind := 1, prod := 1, taken := 1, shown := 3, run := [⟨0, 1, 7, 4, 1, false⟩] })], waits := [(9, w)] }

theorem witness_NopsFlagsAndWaits_taken :
    (∀ p ∈ [(0, 0, 0), (0x20, 0, 0), (3, 0, 8), (3, 1, 8), (3, 2, 8), (3, 0, 2 ^ 48 + 8), (3, 0, 4), (4, 0, 8), (4, 1, 8), (4, 2, 8), (4, 0, 2 ^ 44)],
      let s := smithHas (oneSlot p.1 p.2.1 p.2.2)
      let c := (takeCmd 9 s).2
      running s = true ∧ needSlots s 9 = false ∧ canTake s 9 = true ∧ c.poison = false ∧
      pendingAbort (takeCmd 9 s).1 (queue (takeCmd 9 s).1 9) ≠ some c.tag ∧ c.hdr.bad = false ∧
      classAccepted (queue (takeCmd 9 s).1 9).ckind c.hdr.cls = decide (p.1 ≠ 0x20) ∧ headRejected s 9 = decide (p.1 = 0x20) ∧
      (headHdr s 9).cls = p.1 ∧ (headHdr s 9).subop = p.2.1 ∧ (headHdr s 9).bad = false ∧ writesIssued s (queue s 9) = true ∧
      c.hdr.subop = p.2.1 ∧ nth c.hdr.words 1 0 = p.2.2 ∧
      (∀ write, (headFlagAddr s 9).all (fun b => moverReady s (queueSource (queue s 9)) 4 b 8 write) = true)) ∧
    (let s := smithHas (oneSlot 3 0 8)
     flagIsPm 8 = false ∧ addrOk (takeCmd 9 s).1 4 8 8 = true ∧ flagIsPm (2 ^ 48 + 8) = true ∧
     addrOk (takeCmd 9 s).1 6 (2 ^ 48 + 8) 8 = true ∧ addrOk (takeCmd 9 s).1 4 (2 ^ 44) 8 = false) := by decide +kernel

/-- The slot of a command in an SM ring holds poison. -/
def poisonSlot : State :=
  memWrite ⟨0, 0, false⟩ 4 0 ((cleanBytes (leBytes 8 (header 0 1 0 7))).map (fun b => (b.1, true)) ++ cleanBytes (List.replicate 56 0))
    { base with queues := [(9, { ringSpace := 4, jrnlSpace := 5, lg := 10, ckind := 1, prod := 1, shown := 2 })] }

theorem witness_NopsFlagsAndWaits_poison : needSlots poisonSlot 9 = false ∧ canTake poisonSlot 9 = true ∧
    ((headHdr poisonSlot 9).cls = 0 ∨ headRejected poisonSlot 9 = true) ∧ (takeCmd 9 poisonSlot).2.poison = true := by decide +kernel

theorem witness_NopsFlagsAndWaits_waits :
    (let w : Wait := { on := true, hit := true, addr := 8, value := 5, watch := true }
     waitOf (waits w) 9 = w) ∧
    (let w : Wait := { on := true, bad := true, addr := 8, value := 5, watch := true }
     waitOf (waits w) 9 = w) ∧
    (let w : Wait := { on := true, addr := 8, value := 5 }
     (waitOf (waits w) 9).watch = false ∧ moverReady (waits w) (queueSource (queue (waits w) 9)) 4 8 8 false = true) ∧
    (let w : Wait := { on := true, addr := 8, value := 5, tmo := 1 }
     (waitOf (waits w) 9).tmo ≠ 0 ∧ (waitOf (waits w) 9).hit = false ∧ (waitOf (waits w) 9).bad = false) := by decide +kernel

/-- Requests of two sessions: one decodes, one has its prompt to come. -/
def running1 : Request := { tag := 0x51, session := 3, state := 3, maxNew := 4, sblock := List.replicate 64 0 }
def waiting1 : Request := { tag := 0x52, session := 4, state := 1, maxNew := 4, promptLeft := 8, sblock := List.replicate 64 0 }

/-- Prefen with a model, a ring and the two sessions. -/
def serving : Prefen :=
  { build := { state := 2, id := 1, vocab := 2, layers := 1, heads := 1, d := 32, fmt := 3 },
    rings := [(0, { on := true, base := 0x200000, space := 5, consAddr := 0x2FF000, consSpace := 5, lg := 6, next := 1 })],
    sessions := [(3, { id := 3, len := 4, root := 0x1000, billets := [⟨0, 0, 0, 0x100000, false⟩] }), (4, { id := 4, root := 0x2000 })], requests := [running1, waiting1] }

/-- Queue 9 with a command, while Prefen serves. -/
def asks (l : List Nat) (p : Prefen) : State := { smithHas l with prefen := p }

/-- GENERATE for session 5 (new), one prompt token, sampler block at 0x4000, both in host memory. -/
def genWords (ring space at_ : Nat) : List Nat :=
  [header 0x10 2 0 0x77, 5 + 2 ^ 32, at_, 1 + space * 2 ^ 60, 0xFFFF * 2 ^ 48, 4 + ring * 2 ^ 32, 0x4000, 5 * 2 ^ 60] ++ List.replicate 8 0
def generates (ring space at_ tok : Nat) : State := hostWords 0x4000 [0, 1] (hostWords 0x5000 [tok] (asks (genWords ring space at_) serving))

/-- What a GENERATE finds: its status, whether its prompt could be read, whether a token lies beyond the vocabulary. -/
def genFinds (s : State) : Nat × Bool × Bool :=
  let s1 := cmdStart (.queue 9) s
  let w := queueWords 9 s
  let b := fetchIn (natBits (nth w 7 0) 63 60) (nth w 6 0) 64 s1
  let pr := fetchIn (natBits (nth w 3 0) 63 60) (nth w 2 0) (4 * natBits (nth w 3 0) 31 0) b.1
  (generateStatus b.1 (queueTaken 9 s).2.tag w b.2, pr.2.isSome, (tokensOf ((pr.2.getD []).map (·.1))).any (fun t => decide (pr.1.prefen.build.vocab ≤ t)))

/-- CANCEL of a request. -/
def cancels (target : Nat) (p : Prefen) : State := asks [header 0x11 1 0 0x78, target, 0, 0, 0, 0, 0, 0] p

/-- Prefen with a step in flight for the first request; Spark has returned its token. -/
def stepping : Prefen :=
  { serving with
    requests := [running1], lastStep := 9,
    step := { on := true, num := 9, rows := [{ req := 0x51, session := 3, len := 4, sblock := List.replicate 64 0, toks := [(0, 1)] }] } }

theorem witness_CancelsAreStampedWithAStep :
    CmdReady (.queue 9) 0x11 1 (cancels 0x51 serving) ∧ CmdReady (.queue 9) 0x11 1 (cancels 0x51 stepping) ∧
    (∀ p ∈ [serving, stepping], natBits (nth (queueWords 9 (cancels 0x51 p)) 1 0) 31 0 = 0x51 ∧ request (cancels 0x51 p) 0x51 = some running1) ∧
    terminal running1 = false ∧ stepping.step.on = true ∧ serving.step.on = false ∧
    (let s : State := { base with prefen := { stepping with cancels := [⟨.mailbox 0, 0x51, 9⟩] } }
     running s = true ∧ stepReady s = true ∧ prefenReady s = true ∧ serialFree s = true ∧ isLead s = true ∧ groupFree s = true ∧
     groupWhole s = true ∧ memberPositions s = [] ∧ request s 0x51 = some running1) := by
  unfold CmdReady; decide +kernel

/-- A request that ended, its final entry in the ring and not consumed. -/
def ended1 : Request := { running1 with state := 8, finalAt := some 0 }
def ended (rs : List Request) : State := { base with prefen := { serving with requests := rs } }

theorem witness_PrefenAdmits :
    (∀ s ∈ [generates 0 5 0x5000 1, generates 1 5 0x5000 1, generates 0 4 (2 ^ 63) 1, generates 0 5 0x5000 2], CmdReady (.queue 9) 0x10 2 s) ∧
    (generates 0 5 0x5000 1).prefen.requests.length < 65536 ∧ stBadRing ≠ 0 ∧
    genFinds (generates 0 5 0x5000 1) = (0, true, false) ∧ (genFinds (generates 1 5 0x5000 1)).1 = stBadRing ∧
    genFinds (generates 0 4 (2 ^ 63) 1) = (0, false, false) ∧ genFinds (generates 0 5 0x5000 2) = (0, true, true) ∧
    CmdReady (.queue 9) 0x11 1 (cancels 0x99 serving) ∧ request (cmdStart (.queue 9) (cancels 0x99 serving)) 0x99 = none ∧
    CmdReady (.queue 9) 0x11 1 (cancels 0x51 { serving with requests := [ended1] }) ∧
    request (cmdStart (.queue 9) (cancels 0x51 { serving with requests := [ended1] })) 0x51 = some ended1 ∧ terminal ended1 = true := by
  unfold CmdReady; dsimp only
  refine ⟨by decide +kernel, by decide +kernel, by decide +kernel, by decide +kernel, by decide +kernel, by decide +kernel, by decide +kernel,
    by decide +kernel, by decide +kernel, by decide +kernel, by decide +kernel, by decide +kernel⟩

theorem witness_PrefenStepsAndRetires :
    (let s : State := { base with prefen := { serving with requests := [running1] } }
     mayStamp s = true ∧ s.prefen.step.on = false ∧ (selectRows (prefenStart s)).2.length = 1) ∧
    (let s : State := { base with prefen := { serving with requests := [] } }
     mayStamp s = true ∧ (selectRows (prefenStart s)).2 = []) ∧
    (let s : State := { base with prefen := { stepping with step := { stepping.step with again := true } } }
     mayStamp s = true ∧ s.prefen.step.on = true ∧ s.prefen.step.again = true ∧ s.hearths.any (fun e => e.2.reset) = false) ∧
    (let s : State := { base with prefen := stepping }
     stepReady s = true ∧ s.prefen.requests = [running1] ∧ s.prefen.cancels = [] ∧ (sessionD s 3).id = 3 ∧
     tabWf (fun _ => blankSession) s.prefen.sessions = true) ∧
    (let s : State := { base with prefen := stepping, group := { modules := 2, self := 1, members := [5, 6], lead := 5 } }
     stepReady s = true ∧ prefenReady s = true ∧ serialFree s = true ∧ isLead s = false) := by
  refine ⟨by decide +kernel, by decide +kernel, by decide +kernel, by decide +kernel, by decide +kernel⟩

theorem witness_PrefenRetires :
    (let s := ended [{ ended1 with finalAt := none }]
     request s 0x51 = some { ended1 with finalAt := none }) ∧
    (let s := ended [ended1]
     request s 0x51 = some ended1 ∧ diff32 (ringAt (ringLook 0 (2 ^ 32) (prefenStart s)) 0).cons 0 = 0) ∧
    (∀ s ∈ [ended [ended1], ended [{ ended1 with close := true }], ended [{ ended1 with close := true }, { waiting1 with session := 3 }]],
      let t := hostWords 0x2FF000 [1] s
      (request t 0x51).map (fun r => (r.finalAt, terminal r)) = some (some 0, true) ∧
      diff32 (ringAt (ringLook 0 (2 ^ 32) (prefenStart t)) 0).cons 0 = 1 ∧ (session t 3).isSome = true) := by
  refine ⟨by decide +kernel, by decide +kernel, by decide +kernel⟩

/-- The lead and a member of a group of modules 1 and 2, each with its partner PRESENT. -/
def lead (p : Prefen) : State :=
  reg 0x3F1040 (2 ^ 60) (reg 0x3F0000 (2 ^ 48) { base with prefen := p, group := { modules := 2, self := 0, members := [1, 2], lead := 1 } })
def member (p : Prefen) : State :=
  reg 0x3F1020 (2 ^ 60) (reg 0x3F0000 (2 * 2 ^ 48) { base with prefen := p, group := { modules := 2, self := 1, members := [1, 2], lead := 1 } })

/-- A step whose row has no token yet. -/
def sampling : Prefen := { stepping with step := { stepping.step with rows := stepping.step.rows.map (fun r => { r with toks := [] }) } }
def samplingRow : StepRow := { req := 0x51, session := 3, len := 4, sblock := List.replicate 64 0 }

/-- A row with four logits to sample by unit 0 of Anvil 0: its logits at the start of the die buffer. -/
def sampleState (l : List PByte) (p : Prefen) : State := memWrite ⟨0, 0, false⟩ 2 0 l { base with prefen := p }
def sampleRow : SparkRow := { anvil := 0, unit := 0, row := 0, j := 0, space := 2, addr := 0, fmt := 0, dest := 64 }

/-- What the unit reads: whether a logit is poisoned, whether one is bad, whether all are infinite. -/
def logitsFound (l : List PByte) : Bool × Bool × Bool :=
  let r := (readLogits sampleRow 0x51 (sampleState l sampling)).2
  (r.2, r.1.any badLogit, r.1.all (fun y => match y.val with | .inf _ => true | _ => false))

theorem witness_GroupMessages_sampling :
    (∀ t ∈ [{ base with prefen := sampling }, lead sampling],
      running t = true ∧ stepRow t 0 = some samplingRow ∧ stoppedAt t (hxAnvil 0) = false ∧ sparkBusy t 0 0 = false ∧ samplingRow.samples = true ∧
      samplingRow.invalid = false ∧ samplingRow.toks = [] ∧ sparkReach t 0 2 0 0 64 = true ∧ (sparkFor t 0 0).unit = 4) ∧
    sparkFmt 4 = false ∧ sparkFmt 0 = true ∧ inGroup (lead sampling) = true ∧ inGroup { base with prefen := sampling } = false ∧
    logitsFound (cleanBytes (List.replicate 8 0)) = (false, false, false) ∧
    logitsFound ((List.replicate 8 (0, true))) = (true, false, false) ∧
    logitsFound (cleanBytes [0, 0, 0xC0, 0x7F, 0, 0, 0, 0]) = (false, true, false) ∧
    logitsFound (cleanBytes [0, 0, 0x80, 0xFF, 0, 0, 0x80, 0xFF]) = (false, false, true) ∧
    (readLogits sampleRow 0x51 (lead sampling)).2.2 = false := by decide +kernel

theorem witness_GroupMessages_anchors :
    (anchorAt base 5).place = none ∧ rangeOk 1 62 2 = true ∧ rangeOk 3 62 2 = true ∧
    allIn base [base.group.self] = true ∧ allIn (lead stepping) [0] = false ∧ (tellMembers [msgAnchor, 5, 3] (lead stepping)).group.self = 0 := by
  decide +kernel

theorem witness_GroupMessagesAreTakenInTurn :
    MsgReady 2 (lead stepping) ∧ MsgReady 2 (lead serving) ∧ positionOf (msgBegun 2 (lead stepping)) 2 = some 1 ∧
    positionOf (msgBegun 2 (prefenStart (lead stepping))) 2 = some 1 ∧ (msgBegun 2 (lead stepping)).prefen.step.on = true ∧
    (msgBegun 2 (prefenStart (lead stepping))).prefen.step.num = 9 ∧ (msgBegun 2 (prefenStart (lead stepping))).prefen.step.again = false ∧
    (msgBegun 2 (prefenStart (lead serving))).prefen.step.on = false ∧
    (sparkFor (msgBegun 2 (lead stepping)) 0 7).maxes = [] ∧ (sparkFor (msgBegun 2 (lead stepping)) 0 7).sums = [] ∧
    (anchorAt (msgBegun 2 (lead stepping)) 5).vals = [] ∧
    MsgReady (member serving).group.lead (member serving) ∧ inGroup (member serving) = true ∧ isLead (member serving) = false := by
  unfold MsgReady; decide +kernel

/-- Mailbox m has a request of an opcode, taken and passed by the common checks. -/
def mailed (m op : Nat) (l : List Nat) (p : Prefen) : State :=
  { base with prefen := { p with mbox := [(m, { taken := true, req := [op * 2 ^ 48, 0] ++ l })] } }

/-- A CRC worked out 24 bytes at a time, against the values it must have after each. -/
def crcChunks (poly init : Nat) (data : List Byte) : List Nat → Bool
  | [] => data.isEmpty
  | v :: t => crcLsb poly init (data.take 24) == v && crcChunks poly v (data.drop 24) t

theorem crcLsb_of_chunks (poly : Nat) (t : List Nat) : ∀ (init : Nat) (data : List Byte), crcChunks poly init data t = true →
    crcLsb poly init data = t.getLastD init := by
  induction t with
  | nil => intro init data h; cases data <;> simp_all [crcChunks, crcLsb]
  | cons v t ih =>
    intro init data h
    simp only [crcChunks, Bool.and_eq_true, beq_iff_eq] at h
    have e : crcLsb poly init data = crcLsb poly (crcLsb poly init (data.take 24)) (data.drop 24) := by
      simp [crcLsb, ← List.foldl_append]
    rw [e, h.1, ih v _ h.2]
    cases t <;> simp [List.getLastD]

/-- The first 504 bytes of the ingot of an empty session that is PARKED. -/
def ingotHead : List Byte := [0, 0, 0, 0, 2] ++ List.replicate 499 0

theorem crc32_of_ingot : crc32 ingotHead = 7287526 := by
  rw [crc32, crcLsb_of_chunks _
  [2532328275, 1495743662, 977695977, 1698683955, 3314698248, 1413870545, 3258712797, 631953504, 2635428996,
   289859039, 202309521, 881321009, 3902680635, 3187188455, 462066573, 3328346251, 2422848682, 626187563,
   3078474858, 1125333969, 4287679769]
    _ _ (by decide +kernel)]
  decide

/-- Session 3 parked, its ingot in slot 0 of a table at SM 0x10000: nothing sealed, one commit. -/
def ingot : List Byte := ingotHead ++ leBytes 8 (2 ^ 32 + 7287526)
def parkedSession : Session := { id := 3, build := 1, parked := true }
def parked (l : List Nat) (op : Nat) : State :=
  let p := { serving with sessions := [(3, parkedSession)], requests := [], ingotTable := 0x10000 }
  memWrite ⟨0, 0, false⟩ 4 0x10000 (cleanBytes ingot) (mailed 15 op l p)

theorem test_ingot_passes : (ingotPasses parkedSession (cmdStart (.mailbox 15) (parked [3] 0x14))).2 = true := by
  have hr : (smithLoad (slotAt (cmdStart (.mailbox 15) (parked [3] 0x14)) parkedSession.slot) 512
      (cmdStart (.mailbox 15) (parked [3] 0x14))).2 = cleanBytes ingot := by decide +kernel
  generalize cmdStart (.mailbox 15) (parked [3] 0x14) = s at hr ⊢
  cases hm : smithLoad (slotAt s parkedSession.slot) 512 s with
  | mk a l =>
    simp only [hm] at hr
    subst hr
    have h1 : (cleanBytes ingot).map (·.1) = ingot := by decide +kernel
    have h2 : (cleanBytes ingot).any (·.2) = false := by decide +kernel
    have h3 : ingot.take 504 = ingotHead := by decide +kernel
    simp only [ingotPasses, hm, h1, h2, h3, crc32_of_ingot]
    decide +kernel

theorem witness_SessionsParkAndMove :
    (∀ p ∈ [(0x13, .park (.mailbox 15)), (0x14, .resume (.mailbox 15)), (0x15, .close (.mailbox 15)), (0x16, Instr.exportCmd (.mailbox 15))],
      CmdReady (.mailbox 15) p.1 1 (mailed 15 p.1 [8] serving) ∧ session (cmdStart (.mailbox 15) (mailed 15 p.1 [8] serving)) 8 = none) ∧
    CmdReady (.mailbox 15) 0x13 1 (mailed 15 0x13 [3] serving) ∧
    CmdReady (.queue 9) 0x13 1 (asks [header 0x13 1 0 0x79, 3, 0, 0, 0, 0, 0, 0] serving) ∧
    (session (cmdStart (.mailbox 15) (mailed 15 0x13 [3] serving)) 3).map (·.parked) = some false ∧
    CmdReady (.mailbox 15) 0x13 1 (parked [3] 0x13) ∧
    (session (cmdStart (.mailbox 15) (parked [3] 0x13)) 3).map (·.parked) = some true ∧
    (let s := cmdStart (.mailbox 15) (parked [3] 0x14)
     CmdReady (.mailbox 15) 0x14 1 (parked [3] 0x14) ∧ session s 3 = some parkedSession ∧ Machine.moving s 3 = false ∧
     memberPositions s = [] ∧ resumeStatus s parkedSession true false = 0 ∧ resumeStatus s { parkedSession with build := 2 } true false ≠ 0) ∧
    (let t := lead (parked [3] 0x14).prefen
     CmdReady (.mailbox 15) 0x14 1 t ∧ memberPositions (cmdStart (.mailbox 15) t) = [1] ∧
     resumeStatus (cmdStart (.mailbox 15) t) { parkedSession with modules := 2 } true false = 0) ∧
    (∀ p ∈ [([], false), ([waiting1], true)], let s := mailed 15 0x15 [4] { serving with requests := p.1 }
     CmdReady (.mailbox 15) 0x15 1 s ∧ (session (cmdStart (.mailbox 15) s) 4).isSome = true ∧
     (sessionOps (cmdStart (.mailbox 15) s) 4 || !(requestsOf (cmdStart (.mailbox 15) s) 4).isEmpty) = p.2 ∧ memberPositions s = []) ∧
    (let t := lead (mailed 15 0x15 [4] { serving with requests := [] }).prefen
     CmdReady (.mailbox 15) 0x15 1 t ∧ (session (cmdStart (.mailbox 15) t) 4).isSome = true ∧ memberPositions t = [1]) := by
  unfold CmdReady; dsimp only
  refine ⟨by decide +kernel, by decide +kernel, by decide +kernel, by decide +kernel, by decide +kernel, by decide +kernel, by decide +kernel,
    by decide +kernel, by decide +kernel, by decide +kernel⟩

theorem witness_SessionsParkAndMove_export :
    ∀ p ∈ [(5, true), (7, false)], let s := parked [3, 0x8000, p.1 * 2 ^ 60, 4096] 0x16
     CmdReady (.mailbox 15) 0x16 1 s ∧ (session (cmdStart (.mailbox 15) s) 3) = some parkedSession ∧
     decide (exportStatus (cmdStart (.mailbox 15) s) parkedSession (cmdWords (.mailbox 15) s) = 0) = p.2 ∧ s.prefen.ops = [] := by
  unfold CmdReady; dsimp only; decide +kernel

/-- The first 127 words of an image of an empty session of the build: version 1, build 1, 1 layer, 1 head, D 32, no adapter. -/
def imageWords : List Nat :=
  ((((List.replicate 127 0).set 0 (2 ^ 40)).set 3 1).set 7 (2 ^ 16 + 2 ^ 32 + 32 * 2 ^ 48)).set 12 0xFFFF
def image : List Byte := imageWords.flatMap (leBytes 8) ++ leBytes 8 (2 ^ 32 + 1945386906)

theorem crc32_of_image : crc32 (image.take 1016) = 1945386906 := by
  rw [crc32, crcLsb_of_chunks _
  [2346497415, 3410091958, 154854112, 2026748014, 3134369429, 324943326, 1993218480, 3327998488, 3804378186,
   814513724, 2814067429, 3085888554, 3091753778, 2442495197, 1861669960, 2642234903, 1855998911, 722709338,
   1946646678, 3689302267, 3375342200, 3119807076, 4137914446, 1547943067, 3407845783, 2134223160, 3476222042,
   3661077187, 3699617379, 2822668735, 3584406111, 3545859147, 2625476555, 3399032524, 1937410873, 2159770694,
   1280595482, 1641928752, 2890235203, 4039027113, 3451242280, 531841462, 2349580389]
    _ _ (by decide +kernel)]
  decide

/-- IMPORT of an image that lies at partner 2, as the lead of a group sees it. -/
def imports : State :=
  reg 0x3F1040 (2 ^ 60) { base with prefen := { serving with mbox := [(15, { taken := true, req := [0x17 * 2 ^ 48, 0, 9, 2 * 2 ^ 48, 6 * 2 ^ 60, 0] })] } }

theorem imageRead_far (far : List Byte) (a : Nat) (s : State) :
    imageRead far 6 a 0 far.length s = (s, cleanBytes far) := by
  simp only [imageRead, ↓reduceIte, Prod.mk.injEq, true_and]
  congr 1
  apply List.ext_getElem
  · simp
  · intro i h1 h2
    simp [nth, h2]

theorem growSession_nil (id : Nat) (s : State) : growSession id 0 s = some s := by
  have h : missingBillets s (sessionD s id) 0 = [] := rfl
  unfold growSession
  dsimp only
  rw [h]
  rfl

/-- A share of an image with no position allocates nothing and comes in whole. -/
theorem import_of_nothing (far : List Byte) (space a sid start : Nat) (m : ImageInfo) (s : State) (h : m.len = 0) :
    (importShare far space a m sid start s).2.isSome = true := by
  unfold importShare
  dsimp only
  rw [h, growSession_nil]
  rfl

theorem witness_SessionsParkAndMove_import : CmdReady (.mailbox 15) 0x17 1 imports ∧
    (∀ p ∈ [(6, 2 * 2 ^ 48, true), (5, 0, true), (4, 2 ^ 44 - 1023, false), (3, 0, false)],
      ((p.1 == 4 || p.1 == 5 || p.1 == 6) && addrOk (cmdStart (.mailbox 15) imports) p.1 p.2.1 1024) = p.2.2) ∧
    cmdWords (.mailbox 15) imports = [9, 2 * 2 ^ 48, 6 * 2 ^ 60, 0] ∧ image.length = 1024 ∧
    memberPositions (cmdStart (.mailbox 15) imports) = [] ∧ (cmdStart (.mailbox 15) imports).prefen.ops = [] := by
  unfold CmdReady; dsimp only; decide +kernel

theorem test_image_accepted : importStatus (cmdStart (.mailbox 15) imports) [9, 2 * 2 ^ 48, 6 * 2 ^ 60, 0] (imageInfo (cleanBytes image)) = 0 ∧
    (imageInfo (cleanBytes image)).len = 0 := by
  have h1 : (cleanBytes image).map (·.1) = image := by decide +kernel
  have h2 : (cleanBytes image).any (·.2) = false := by decide +kernel
  constructor
  · simp only [importStatus, imageInfo, h1, h2, crc32_of_image]
    decide +kernel
  · simp only [imageInfo, h1]
    decide +kernel

theorem witness_import_refused : importStatus (cmdStart (.mailbox 15) imports) [3, 2 * 2 ^ 48, 6 * 2 ^ 60, 0]
    (imageInfo (cleanBytes image)) ≠ 0 := by
  have h1 : (cleanBytes image).map (·.1) = image := by decide +kernel
  have h2 : (cleanBytes image).any (·.2) = false := by decide +kernel
  simp only [importStatus, imageInfo, h1, h2, crc32_of_image]
  decide +kernel

/-- A PARK that waits, an EXPORT and an IMPORT that have done their share, with a caller in mailbox 15; and as they fail. -/
def parkOp : AsyncOp := { op := 0x13, tag := 0x60, words := [3], caller := some (.mailbox 15), accepted := false }
def exportOp : AsyncOp := { op := 0x16, tag := 0x61, words := [3, 0x8000, 5 * 2 ^ 60, 4096], caller := some (.mailbox 15) }
def importOp : AsyncOp := { op := 0x17, tag := 0x62, words := [9, 0x8000, 5 * 2 ^ 60, 0, 0, 0, 0, 0, 0, 0, 0, 0], caller := some (.mailbox 15) }
def opsOpen (l : List AsyncOp) : Prefen := { serving with ops := l }
def stood (p : Prefen) : State := { base with prefen := p }

/-- SWG_BILLET_CRC of stack 0 with its base, idle and running on a billet of D 32. -/
def crcAt (run : Nat) : State := { reg 0x200188 0x100000 (reg 0x200180 (run * 2 ^ 63 + 2 * 2 ^ 48) base) with crcJobs := [(0, (0x100000, 2))] }

theorem witness_SessionsParkAndMove_park :
    (∀ s ∈ [stood (opsOpen [parkOp]), lead (opsOpen [parkOp])],
      running s = true ∧ prefenReady s = true ∧ groupFree s = true ∧
      s.prefen.ops.find? (fun o => o.op == 0x13 && !o.accepted && opSession o == 3) = some parkOp ∧ inStep s 3 = false ∧
      s.prefen.cancels = [] ∧ (session s 3).map (fun x => (x.id, x.parked)) = some (3, false) ∧ tabWf (fun _ => blankSession) s.prefen.sessions = true) ∧
    memberPositions (stood (opsOpen [parkOp])) = [] ∧ memberPositions (lead (opsOpen [parkOp])) = [1] ∧
    MsgReady (member serving).group.lead (member serving) ∧ isLead (member serving) = false ∧
    (session (msgBegun 1 (prefenStart (member serving))) 3).map (·.id) = some 3 ∧
    session (msgBegun 1 (prefenStart (member serving))) 8 = none := by
  unfold MsgReady; decide +kernel

theorem witness_SessionsParkAndMove_commits :
    (∀ e ∈ [exportOp, { exportOp with failed := 1 }], e.awaits = [] ∧
      (stood (opsOpen [e])).prefen.ops.find? (fun o => o.op == 0x16 && o.tag == (0x61 : BitVec 32).toNat) = some e ∧ (session (stood (opsOpen [e])) (opSession e)).isSome = true) ∧
    (∀ e ∈ [importOp, { importOp with failed := 1 }, { importOp with crcS := 1 }, { importOp with second := true }], e.awaits = [] ∧
      (stood (opsOpen [e])).prefen.ops.find? (fun o => o.op == 0x17 && o.tag == (0x62 : BitVec 32).toNat) = some e ∧
      (lead (opsOpen [e])).prefen.ops.find? (fun o => o.op == 0x17 && o.tag == (0x62 : BitVec 32).toNat) = some e) ∧
    importOp.crcS = nth importOp.words 8 0 ∧ importOp.numO = nth importOp.words 11 0 ∧ memberPositions (lead (opsOpen [importOp])) ≠ [] := by
  decide +kernel

theorem witness_SessionsParkAndMove_crc :
    (let v := BitVec.ofNat 64 (15 * 2 ^ 48 + 1)
     fieldOf v 0 0 = 1 ∧ fieldOf v 55 48 = 15 ∧ rf (crcAt 0) (stkReg 0 0x180) 63 63 = 0 ∧
     billetBaseOk 0 (16 * 15) (rf (crcAt 0) (stkReg 0 0x188) 43 0) = true ∧ billetBaseOk 0 (16 * 2) 1 = false ∧ rf (crcAt 1) (stkReg 0 0x180) 63 63 = 1) ∧
    tabGet (0, 0) (crcAt 1).crcJobs 0 = (0x100000, 2) ∧
    (∀ j < ceilDiv (64 + 1024 * 32) 2048, moverReady (crcAt 1) (crcSource 0) 4 (0x100000 + j * 0x100000) 2048 false = true) := by
  decide +kernel

/-- Prefen takes requests: the host interface version matches. A doorbell of mailbox 15 waits with a NOP, or an opcode that is none. -/
def talking : State := reg 0x110000 0x2004000080000000 base
def rungWith (op : Nat) : State :=
  reg (mbReg 15 0x400) (op * 2 ^ 48) { talking with prefen := { mbox := [(15, { rung := true, rungSeq := 7 })], arrivals := 1 } }

theorem witness_MailboxHandshake :
    running talking = true ∧ linkUp talking = true ∧ hostBars talking = true ∧ stageFailed talking = false ∧
    rf base (smcReg 0) 31 31 = 0 ∧ rf talking (smcReg 0) 31 31 = 1 ∧ mbState (reg (mbReg 15 8) (2 ^ 60) talking) 15 = 1 ∧ mbState talking 0 ≠ 1 ∧
    (∀ op ∈ [0x01, 0xFFFF], let s := rungWith op
      let req := (List.range 2).map (fun k => (rg s (mbReg 15 (0x400 + 8 * k))).toNat)
      prefenReady s = true ∧ firstRung s = some 15 ∧
      (commonStatus (setRf (mbReg 15 8) 31 0 7 (setRf (mbReg 15 8) 63 60 1 (setMbox 15 { mbox s 15 with rung := false, taken := true, req := req } (prefenStart s)))) req = 0
        ↔ op = 1)) ∧
    fwStage talking = 2 ∧ fwStage (reg 0x110000 0x3000000080000000 talking) ≠ 2 := by decide +kernel

/-- The record of a ring of 64 entries in host memory. -/
def ringWords : List Nat := [0x400000, 0x4FF000, 5 * 2 ^ 60 + 5 * 2 ^ 56 + 6 * 2 ^ 51, 0]

theorem witness_MailboxQueriesAnswer :
    (∀ op ∈ [0x01, 0x02, 0x42, 0x72], CmdReady (.mailbox 15) op 1 (mailed 15 op [] serving)) ∧
    (∀ n ∈ [1, 64, 65], (cmdStart (.mailbox 15) (mailed 15 0x03 [n * 2 ^ 16 + 448] serving)).group.gen % 2 = 0 ∧
      CmdReady (.mailbox 15) 0x03 1 (mailed 15 0x03 [n * 2 ^ 16 + 448] serving)) ∧
    (∀ n ∈ [1, 64], natBits (n * 2 ^ 16 + 448) 31 16 = n ∧ natBits (n * 2 ^ 16 + 448) 15 0 + n ≤ 512) ∧
    (∀ slot ∈ [0, 4095, 4096], CmdReady (.mailbox 15) 0x52 1 (mailed 15 0x52 [slot] serving)) ∧
    (∀ p ∈ [(3, true), (9, false)], CmdReady (.mailbox 15) 0x18 1 (mailed 15 0x18 [p.1] serving) ∧
      (session (cmdStart (.mailbox 15) (mailed 15 0x18 [p.1] serving)) p.1).isSome = p.2) ∧
    (∀ p ∈ [(0x51, true), (0x99, false)], CmdReady (.mailbox 15) 0x19 1 (mailed 15 0x19 [p.1] serving) ∧
      (request (cmdStart (.mailbox 15) (mailed 15 0x19 [p.1] serving)) p.1).isSome = p.2) ∧
    CmdReady (.mailbox 15) 0x04 1 (mailed 15 0x04 ringWords serving) ∧ ringRecordOk 0x400000 0x4FF000 (5 * 2 ^ 60 + 5 * 2 ^ 56 + 6 * 2 ^ 51) 0 = true ∧
    CmdReady (.mailbox 15) 0x04 1 (mailed 15 0x04 [1, 0, 0, 0] serving) ∧ ringRecordOk 1 0 0 0 = false ∧
    (∀ c ∈ [(0xFFFF, ringWords, false), (0, ringWords, true), (0xFFFF, [1, 0, 0, 0], false)], let s := mailed 15 0x68 (c.1 :: c.2.1) serving
     let t := cmdStart (.mailbox 15) s
     CmdReady (.mailbox 15) 0x68 1 s ∧ ((ringAt t c.1).on || ringNamed t c.1) = c.2.2) := by
  unfold CmdReady; decide +kernel

theorem witness_MailboxQueriesAnswer_unregister :
    (∀ c ∈ [(0, true, true), (0xFFFF, false, false)], CmdReady (.mailbox 15) 0x69 1 (mailed 15 0x69 [c.1] serving) ∧
      (ringAt (cmdStart (.mailbox 15) (mailed 15 0x69 [c.1] serving)) c.1).on = c.2.1 ∧
      ringNamed (cmdStart (.mailbox 15) (mailed 15 0x69 [c.1] serving)) c.1 = c.2.2) ∧
    (let s := mailed 15 0x69 [0] { serving with requests := [] }
     CmdReady (.mailbox 15) 0x69 1 s ∧ (ringAt (cmdStart (.mailbox 15) s) 0).on = true ∧ ringNamed (cmdStart (.mailbox 15) s) 0 = false) := by
  unfold CmdReady; decide +kernel

/-- The record of a Smith queue of 2^lg entries in host memory, enabled as queue q. -/
def queueRec (q lg : Nat) : List Nat := [q, 0, 0x600000, 0x700000, 5 * 2 ^ 60 + 5 * 2 ^ 56 + lg * 2 ^ 51 + 2 ^ 48]
/-- The record of a Tongs queue for channel 0 of engine 0, as queue 7. -/
def tongsRec : List Nat := [7, 0, 0x600000, 0x700000, 5 * 2 ^ 60 + 5 * 2 ^ 56 + 4 * 2 ^ 51 + 3 * 2 ^ 48]
/-- Mailbox 15 asks about queue 9, which is idle, full of commands, or stopped. -/
def queueAsk (op : Nat) (x : Queue) : State := { mailed 15 op [9] serving with queues := [(9, x)] }
def idleQ : Queue := { ringSpace := 5, jrnlSpace := 5, lg := 10, ckind := 1, prod := 3, taken := 3 }
def busyQ : Queue := { idleQ with prod := 4 }
def stoppedQ : Queue := { idleQ with prod := 4, stopped := true }

/-- A stack that is dead, a load in progress, an adapter with one version. -/
def deadStack : State := { base with hearths := [(70, { dead := true })] }
def oneAdapter : Adapter := { current := 1, versions := [{ num := 1, image := 0x9000, space := 5, bytes := 64 }] }
def fullAdapter : Adapter := { oneAdapter with versions := List.replicate 4 { num := 1, image := 0x9000, space := 5, bytes := 64 } }
def loadOp : AsyncOp := { op := 0x40, tag := 0x63, words := [0, 5 * 2 ^ 60 + 64] }
def publishOp : AsyncOp := { op := 0x50, tag := 0x64, words := [4095, 0x9000, 5 * 2 ^ 60 + 64] }

/-- A manifest of no tensor and no plan: build 1, vocabulary 2, 1 layer, 1 head, D 32, key format 3. -/
def manifest : List Nat := [1, 0, 64, 64, 2 * 2 ^ 32, 1 + 2 ^ 16 + 32 * 2 ^ 32 + 3 * 2 ^ 48, 0, 14027464222924253316]
/-- A MODEL_LOAD and an ADAPTER_LOAD accepted, with a manifest in host memory. -/
def loads (l : List Nat) : State := hostWords 0 l { base with prefen := { serving with ops := [loadOp, publishOp], loading := true } }

theorem witness_ModelsAdaptersAndQueues_loads :
    (let w := [0x9000, 5 * 2 ^ 60]
     CmdReady (.mailbox 15) 0x40 1 (mailed 15 0x40 w serving) ∧ (List.range 20).any (stackDead (cmdStart (.mailbox 15) (mailed 15 0x40 w serving))) = false ∧
     serving.loading = false ∧ (List.range 20).any (stackDead deadStack) = true ∧
     CmdReady (.mailbox 15) 0x40 1 { deadStack with prefen := (mailed 15 0x40 w serving).prefen } ∧
     CmdReady (.mailbox 15) 0x40 1 (mailed 15 0x40 w { serving with loading := true })) ∧
    (∀ l ∈ [manifest, []], let s := loads l
     running s = true ∧ s.prefen.ops.find? (fun o => o.op == 0x40 && o.tag == (0x63 : BitVec 32).toNat) = some loadOp ∧ prefenReady s = true ∧
     groupFree s = true ∧ loadOp.awaits = [] ∧ s.prefen.step.on = false ∧ swgBusy s 19 = false ∧ loadOp.built = none ∧ hmOpen s 0 = true ∧
     (match (loadBuild loadOp.words (prefenStart s)).2 with | .ok b => l == manifest && b.id == 1 | .error st => l == [] && st == stManifestBad) = true ∧
     memberPositions (loadBuild loadOp.words (prefenStart s)).1 = []) ∧
    (let o := { loadOp with built := some {} }
     (stood { serving with ops := [o] }).prefen.ops.find? (fun o => o.op == 0x40 && o.tag == (0x63 : BitVec 32).toNat) = some o) ∧
    memberPositions (lead serving) = [1] := by
  unfold CmdReady; decide +kernel

theorem witness_ModelsAdaptersAndQueues_models :
    (∀ p ∈ [{ serving with sessions := [] }, serving, { serving with build := {} }], CmdReady (.mailbox 15) 0x41 1 (mailed 15 0x41 [] p)) ∧
    CmdReady (.mailbox 15) 0x41 1 (lead (mailed 15 0x41 [] { serving with sessions := [] }).prefen) ∧
    serving.sessions ≠ [] ∧ serving.build.state = 2 ∧ memberPositions base = [] ∧
    (∀ c ∈ [({ serving with adapters := [(4095, fullAdapter)] }, 4095), (serving, 4095), (serving, 4096), ({ serving with build := {} }, 4095)],
      CmdReady (.mailbox 15) 0x50 1 (mailed 15 0x50 [c.2, 0x9000, 5 * 2 ^ 60] c.1)) ∧
    fullAdapter.versions.length = 4 ∧
    (let s := loads []
     s.prefen.ops.find? (fun o => o.op == 0x50 && o.tag == (0x64 : BitVec 32).toNat) = some publishOp ∧ serialFree s = true ∧
     (loadAdapter 5 [] (prefenStart s)).2 = some [] ∧
     tensorStatus (prefenStart s) (adapterTensor 5 0x9000 ([0, 7 * 2 ^ 60, 0, 0, 0, 0, 0, 0], 0, 32)) ≠ 0) ∧
    (∀ c ∈ [({ serving with adapters := [(4095, oneAdapter)] }, 4095, false), (serving, 4095, false), (serving, 4096, false),
        ({ serving with adapters := [(0, oneAdapter)], requests := [{ running1 with aslot := 0, aver := 1 }] }, 0, true)],
      let s := mailed 15 0x51 [c.2.1] c.1
      CmdReady (.mailbox 15) 0x51 1 s ∧ (adapter s c.2.1).versions.any (fun v => pins (cmdStart (.mailbox 15) s) c.2.1 v.num != 0) = c.2.2) := by
  unfold CmdReady; decide +kernel

theorem witness_ModelsAdaptersAndQueues :
    (∀ lg ∈ [4, 16, 17], CmdReady (.mailbox 15) 0x60 1 (mailed 15 0x60 (queueRec 0xFFFFF lg) serving) ∧
      (queue (cmdStart (.mailbox 15) (mailed 15 0x60 (queueRec 0xFFFFF lg) serving)) 0xFFFFF).ckind = 0 ∧
      queueRecordOk 0x600000 0x700000 (nth (queueRec 0xFFFFF lg) 4 0) = decide (lg ≤ 16)) ∧
    (let s := { mailed 15 0x60 (queueRec 9 4) serving with queues := [(9, idleQ)] }
     CmdReady (.mailbox 15) 0x60 1 s ∧ (queue (cmdStart (.mailbox 15) s) 9).ckind ≠ 0) ∧
    (∀ b ∈ [0, 2 ^ 63 + 9], let s := reg (chanReg 0 0 0) b (mailed 15 0x60 tongsRec serving)
     CmdReady (.mailbox 15) 0x60 1 s ∧ queueRecordOk 0x600000 0x700000 (nth tongsRec 4 0) = true ∧
     (rf (cmdStart (.mailbox 15) s) (chanReg 0 0 0) 63 63 == 1) = (b != 0)) ∧
    (∀ op ∈ [0x61, 0x62, 0x63], ∀ p ∈ [(idleQ, 1), (busyQ, 2), (stoppedQ, 4), ({}, 0)], CmdReady (.mailbox 15) op 1 (queueAsk op p.1) ∧
      qstate (cmdStart (.mailbox 15) (queueAsk op p.1)) 9 = p.2) := by
  unfold CmdReady; decide +kernel

/-- Module 2 alone, its partner 1 PRESENT and offering groups; and the same while its group entries are being rewritten. -/
def alone (p : Prefen) : State :=
  { reg 0x3F1020 (2 ^ 60) (reg 0x3F0000 (2 * 2 ^ 48) { base with prefen := p }) with links := [(1, { gproto := 1 })] }
def preparing : State := { alone {} with group := { gen := 1, modules := 2, self := 1, members := [1, 2], lead := 1, prepared := true } }
/-- Mailbox 15 asks a module to form or dissolve a group; `p` is the rest of Prefen. -/
def formAsk (l : List Nat) (p : Prefen) : State := alone (mailed 15 0x70 l p).prefen
def dissolveAsk (p : Prefen) : State := lead (mailed 15 0x71 [] p).prefen

/-- An operation alone in its list is found by its tag. -/
theorem opByTag_alone (o : AsyncOp) (s : State) (h : s.prefen.ops = [o]) : opByTag s (lastOpTag s) = some o := by
  simp [opByTag, lastOpTag, h]

/-- A GROUP_FORM accepted. -/
def formed (l : List Nat) : State := acceptOp (.mailbox 15) 0x70 l [] (cmdStart (.mailbox 15) (formAsk l {}))

/-- A response leaves the links and the list of operations alone. -/
theorem accepted_frame (m op : Nat) (w aw : List Nat) (s : State) (h : s.prefen.ops = []) :
    (∃ o, (acceptOp (.mailbox m) op w aw s).prefen.ops = [o]) ∧ (acceptOp (.mailbox m) op w aw s).links = s.links := by
  obtain ⟨r, o, e⟩ := respond_frame m 0 [(smithTag s).2]
    (updPrefen (fun p => { p with ops := p.ops ++ [{ op := op, tag := (smithTag s).2, words := w, awaits := aw }] }) (smithTag s).1)
  have e : acceptOp (.mailbox m) op w aw s = _ := e
  rw [e]
  refine ⟨⟨{ op := op, tag := (smithTag s).2, words := w, awaits := aw }, ?_⟩, rfl⟩
  change s.prefen.ops ++ _ = _
  rw [h]; rfl

theorem accepted_op (m op : Nat) (w aw : List Nat) (s : State) (h : s.prefen.ops = []) :
    ∃ o, opByTag (acceptOp (.mailbox m) op w aw s) (lastOpTag (acceptOp (.mailbox m) op w aw s)) = some o :=
  (accepted_frame m op w aw s h).1.elim fun o e => ⟨o, opByTag_alone o _ e⟩

theorem formStatus_formed (l ids rest : List Nat) : formStatus (formed l) ids rest = formStatus (formAsk l {}) ids rest := by
  have hs (o : Nat) (h : 0x200000 ≤ o) : rg (formed l) o = rg (formAsk l {}) o := rg_respond (m := 15) (st := 0) _ _ (by decide) h
  have hp (p : Nat) : ptState (formed l) p = ptState (formAsk l {}) p := by
    unfold ptState rf
    rw [hs _ (by simp only [ptStat, tuyReg]; omega)]
  have hi : selfId (formed l) = selfId (formAsk l {}) := by
    unfold selfId rf
    rw [hs _ (by decide)]
  have hl (p : Nat) : link (formed l) p = link (formAsk l {}) p := by
    unfold link
    rw [show (formed l).links = (formAsk l {}).links from (accepted_frame 15 0x70 l [] _ rfl).2]
  simp only [formStatus, hp, hi, hl]

theorem witness_GroupsFormAndDissolve_form :
    (∀ c ∈ [([1], {}, false, false), ([2, 1], serving, false, true), ([2, 1], {}, false, false), ([2, 3], {}, false, false)],
      let s := formAsk c.1 c.2.1
      let t := cmdStart (.mailbox 15) s
      CmdReady (.mailbox 15) 0x70 1 s ∧ (inGroup t || t.group.phase != 0 || t.group.gen % 2 == 1) = c.2.2.1 ∧
      (t.prefen.build.state != 0 || t.prefen.loading || !t.prefen.sessions.isEmpty) = c.2.2.2) ∧
    (let s := lead (mailed 15 0x70 [2, 1] {}).prefen
     CmdReady (.mailbox 15) 0x70 1 s ∧ inGroup (cmdStart (.mailbox 15) s) = true) := by
  unfold CmdReady; decide +kernel

theorem witness_GroupsFormAndDissolve_checked : ∀ l ∈ [[2, 1], [2, 3]],
    decide (formStatus (formed l) (formIds l 2) (formRest l 2) = 0) = (l == [2, 1]) ∧
      ∃ o, opByTag (formed l) (lastOpTag (formed l)) = some o := by
  intro l hl
  refine ⟨?_, accepted_op 15 0x70 l [] _ rfl⟩
  rw [formStatus_formed]
  revert l
  decide +kernel

theorem witness_GroupsFormAndDissolve_dissolve :
    (let s := alone (mailed 15 0x71 [] {}).prefen
     CmdReady (.mailbox 15) 0x71 1 s ∧ inGroup (cmdStart (.mailbox 15) s) = false) ∧
    (let s := { dissolveAsk {} with group := { (dissolveAsk {}).group with phase := 1 } }
     CmdReady (.mailbox 15) 0x71 1 s ∧ (cmdStart (.mailbox 15) s).group.phase = 1) ∧
    (∀ p ∈ [(serving, none, false), ({}, none, true), ({ serving with holdSince := some 5 }, some 5, false)],
      let t := cmdStart (.mailbox 15) (dissolveAsk p.1)
      CmdReady (.mailbox 15) 0x71 1 (dissolveAsk p.1) ∧ inGroup t = true ∧ t.group.phase = 0 ∧ t.prefen.holdSince = p.2.1 ∧
      t.prefen.sessions.isEmpty = p.2.2) ∧
    (otherMembers (dissolveAsk {})).filter (fun pid => ptState (dissolveAsk {}) pid == 1) = [2] ∧
    (let s := { dissolveAsk {} with group := { (dissolveAsk {}).group with members := [1, 3] } }
     (otherMembers s).filter (fun pid => ptState s pid == 1) = []) := by
  unfold CmdReady; decide +kernel

/-- A module whose group is being formed. -/
def forming : State := { alone {} with group := { (alone {}).group with phase := 1 } }

/-- A MSG of partner 1 taken from its stream and counted on port k. -/
def begunAt (k : Nat) (s : State) : State :=
  let u := setLink 1 { link s 1 with recvNext := ((link s 1).recvNext + 1) % 2 ^ 32 } (prefenStart s)
  countAck 1 (bumpRf (portReg (nextPort (sendPorts (takeFree u).1 1) k) 0x18) 63 0 1 (takeFree u).1)

theorem begun (s : State) : ∃ k < 12, msgBegun 1 (prefenStart s) = begunAt k s := ⟨_, Nat.mod_lt _ (by decide), rfl⟩

theorem witness_GroupsFormAndDissolve_ready : ∀ s ∈ [alone {}, alone serving, forming, preparing, member serving], MsgReady 1 s := by
  unfold MsgReady; decide +kernel

theorem witness_GroupsFormAndDissolve_begun : ∀ k < 12,
    (begunAt k preparing).group.gen % 2 = 1 ∧ (begunAt k forming).group.phase ≠ 0 ∧
    (let b := begunAt k (alone {})
     b.group.gen % 2 = 0 ∧ b.group.phase = 0 ∧ (List.range 2).find? (fun k => nth [1, 2] k 0xFF == selfId b) = some 1 ∧
     (List.range 2).find? (fun k => nth [1, 3] k 0xFF == selfId b) = none ∧ inGroup b = false ∧ b.prefen.build.state = 0 ∧ b.prefen.sessions = [] ∧
     ([1, 2].filter (fun p => p != selfId b)).any (fun p => ptState b p != 1) = false ∧
     ([1, 2, 3].filter (fun p => p != selfId b)).any (fun p => ptState b p != 1) = true) ∧
    (begunAt k (alone serving)).prefen.build.state ≠ 0 ∧ (begunAt k preparing).group.prepared = true ∧
    (let b := begunAt k (member serving)
     inGroup b = true ∧ isLead b = false ∧ b.group.lead = 1 ∧ b.group.phase = 0) := by decide +kernel

/-- Every state that partner 1's messages start from does, whatever port they come by. -/
theorem witness_GroupsFormAndDissolve_messages (P : State → Bool) (s : State) (h : ∀ k < 12, P (begunAt k s) = true) :
    P (msgBegun 1 (prefenStart s)) = true := by
  obtain ⟨k, hk, e⟩ := begun s
  rw [e]; exact h k hk

theorem witness_GroupsFormAndDissolve :
    (let s := lead { serving with holdSince := some 5 }
     running s = true ∧ inGroup s = true ∧ isLead s = true ∧ s.prefen.holdSince.isSome = true) ∧
    (let s : State := { member serving with group := { (member serving).group with leadLost := true } }
     running s = true ∧ inGroup s = true ∧ s.group.leadLost = true) := by decide +kernel

/-- Prefen with its one session parked; every stack in self-refresh; a power state. -/
def parkedAll : Prefen := { serving with sessions := [(3, { id := 3, build := 1, parked := true })], requests := [] }
def allResting (s : State) : State := (List.range 20).foldl (fun s n => reg (stkReg n 0x20) (2 * 4 + 1) s) s
def power (k : Nat) (s : State) : State := reg (embReg 0) (k * 2 ^ 60) s

/-- Every quadrant's rail on, at 1000 MHz. -/
def clocked : State := { base with ember := { base.ember with rails := (List.range 16).map (fun q => (q, 1000)) } }

/-- Mailbox 15 has an opcode of maintenance and the module serves. -/
def mailNow (op : Nat) (s : State) : Bool := running s && mbHas s 15 op

theorem witness_MaintenanceCommands_power :
    (∀ p ∈ [(parkedAll, true), (serving, false)], let s := mailed 15 0x80 [] p.1
      mailNow 0x80 s = true ∧ mayRest (setMbox 15 { mbox s 15 with taken := false } s) = p.2) ∧
    (let s := power 4 (allResting base); running s = true ∧ pstate s = 4 ∧ ∀ n < 20, srState s n = 2) ∧
    (let s := power 3 { talking with prefen := (rungWith 1).prefen }; running s = true ∧ pstate s = 3 ∧ (firstRung s).isSome = true) ∧
    (∀ p ∈ [(power 5 clocked, true), (power 5 (allResting clocked), false), (power 5 base, false)], running p.1 = true ∧ pstate p.1 = 5 ∧
      (let t := overList srRelease (List.range 20) p.1
       ((List.range 20).all (fun n => srState t n == 0) && !(List.range 16).any (fun q => quadClock t q == 0)) = p.2)) := by
  decide +kernel

theorem witness_MaintenanceCommands_resets :
    mailNow 0x81 (mailed 15 0x81 [] serving) = true ∧
    (let s : State := { base with board := { base.board with waiting := [3] } }
     running s = true ∧ mbHas s 15 0x81 = false ∧ frozen s = false ∧ s.up = true ∧ moduleResetWaits s = false ∧
     tabWf (fun _ => ({} : Queue)) s.queues = true) ∧
    (∀ i ∈ [5, 6, 69, 89, 1113, 11353, 11354, 2 ^ 16 + 6, 2 ^ 16 + 11353], mailNow 0x82 (mailed 15 0x82 [i] serving) = true) ∧
    natBits (2 ^ 16 + 11353) 15 0 = 11353 ∧ natBit (2 ^ 16 + 11353) 16 = true ∧ natBit 11353 16 = false := by decide +kernel

/-- ECC_TEST of one word: op, position, count. -/
def eccAsk (op space a : Nat) (s : State) : State :=
  { s with prefen := (mailed 15 0x83 [a, space * 2 ^ 60 + 2 ^ 16 + op, 0] serving).prefen }

/-- The site an ECC_TEST names, its test register set. -/
def eccArmed (space a : Nat) (s : State) : State :=
  let e := eccCtl (min (eccSite space a) 19)
  setRg (e + 8) (BitVec.ofNat 64 a) (setRf e 27 24 space (setRf e 2 2 0 (setMbox 15 { mbox s 15 with taken := false } s)))
def haltedAt (k : Nat) : State := { base with hearths := [(hxStack k, { halted := true })] }

theorem witness_MaintenanceCommands_ecc :
    (∀ op < 5, ∀ c ∈ [(4, 19 * 2 ^ 36 + 32, 19), (3, 19 * 2 ^ 32, 19)],
      (let s := eccAsk op c.1 c.2.1 (haltedAt c.2.2)
       mailNow 0x83 s = true ∧ natBits (nth ((mbox s 15).req.drop 2) 1 0) 2 0 = op ∧ eccSite c.1 c.2.1 = c.2.2 ∧
       natBits (nth ((mbox s 15).req.drop 2) 1 0) 15 8 + 1 ≤ lastPos c.1 ∧ eccAllowed (eccArmed c.1 c.2.1 s) c.2.2 = true ∧
       eccAllowed (eccArmed c.1 c.2.1 (eccAsk op c.1 c.2.1 base)) c.2.2 = false)) ∧
    (∀ op < 5, mailNow 0x83 (eccAsk op 5 0 base) = true ∧ natBits (nth ((mbox (eccAsk op 5 0 base) 15).req.drop 2) 1 0) 63 60 = 5) := by
  decide +kernel

/-- A step whose share met poison, on a module alone; with an origin in an SM ring, and executed for the third time. -/
def tainted (origins : List (Nat × Nat × Nat × Bool)) (execs : Nat) : Prefen :=
  { stepping with step := { stepping.step with tainted := true, origins := origins, execs := execs } }

theorem witness_MaintenanceCommands :
    mailNow 0x84 (mailed 15 0x84 [0, 5 * 2 ^ 60, 4096] serving) = true ∧
    (∀ p ∈ [tainted [] 1, tainted [] 3], let s := stood p
     running s = true ∧ prefenReady s = true ∧ s.prefen.step.on = true ∧ s.prefen.step.again = false ∧
     s.prefen.step.tainted = true ∧ stepLatched s = false ∧ s.prefen.step.cmds = [] ∧ isLead s = true ∧ groupFree s = true ∧
     memberPositions s = [] ∧ s.prefen.step.origins = [] ∧ s.prefen.step.lost = [] ∧ onlyQueues [] = false ∧
     (repairAll [] (remapAgain (prefenStart s))).2 = true) ∧
    (let s := member (tainted [] 1)
     running s = true ∧ prefenReady s = true ∧ stepLatched s = false ∧ isLead s = false) := by
  decide +kernel

theorem witness_MaintenanceCommands_update : let s := mailed 15 0x84 [0, 5 * 2 ^ 60, 4096] serving
    let u := acceptOp (.mailbox 15) 0x84 [0, 5 * 2 ^ 60, 4096] [] (setMbox 15 { mbox s 15 with taken := false } s)
    ∃ o, opByTag u (lastOpTag u) = some o := accepted_op 15 0x84 _ _ _ rfl
/-- Module 2 with port 11 up; partner 1 in an entry state, heard on that port, under connection 0x55. -/
def ported (st : Nat) : State :=
  reg 0x3F1020 (st * 2 ^ 60 + 2 ^ 43 + 0x55) (reg (portReg 11 8) (2 ^ 61) (reg (portReg 11 0) 1 (reg 0x3F0000 (2 * 2 ^ 48) base)))
/-- With a partner stream: its frames sent and not acknowledged. -/
def streaming (l : Link) : State := { ported 1 with links := [(1, l)] }
/-- A frame of partner 1 in that connection: one word of SM, or a flag. -/
def frameOf (ty psn : Nat) : Frame :=
  { ty := ty, src := 1, dst := 2, conn := 0x55, psn := psn, addr := 0x40, len := if ty = 0xB then 8 else 32,
    data := if ty = 9 then [] else List.replicate (if ty = 0xB then 8 else 32) 7 }
/-- A HELLO of a module with an id and a serial. -/
def helloOf (pid serial : Nat) : Frame := { ty := 0, src := pid, dst := 0xFF, len := 64, data := leBytes 8 serial ++ leBytes 1 pid ++ List.replicate 55 0 }
def sentFrame : Frame := { ty := 8, src := 2, dst := 1, psn := 4, addr := 0x40, len := 32, data := List.replicate 32 7, sent := 3 }

theorem witness_FabricPartnersAndFrames :
    (∀ st < 5, running (ported st) = true ∧ ptState (ported st) 1 = st) ∧
    portUp (ported 1) 11 = true ∧ frameForUs (ported 1) (frameOf 8 0) = true ∧ frameForUs (ported 1) { frameOf 8 0 with dst := 3 } = false ∧
    (link (ported 1) 1).asking = false ∧
    (let s : State := { ported 0 with links := [(1, { asking := true, askConn := 0x66 })] }
     (link s 1).asking = true ∧ 1 ≤ selfId s ∧ (link s 1).askConn = 0x66) ∧
    ofConnection (ported 1) (frameOf 8 0) = true ∧
    (∀ psn ∈ [0, 2 ^ 32 - 1], let s := streaming { recvNext := psn, sinceAck := 1 }
      let got := bumpRf (portReg 11 0x18) 63 0 1 s
      s.wf = true ∧ tabWf (fun _ => ({} : Link)) s.links = true ∧ (link got 1).ahead = [] ∧
      (∀ ty ∈ [8, 9, 0xA, 0xB], ofConnection got (frameOf ty psn) = true ∧ (frameOf ty psn).ackOk = false ∧
        2 ^ 31 ≤ diff32 (frameOf ty ((psn + 2 ^ 31) % 2 ^ 32)).psn (link got 1).recvNext) ∧
      (frameOf 8 psn).psn = (link got 1).recvNext ∧ (frameOf 8 psn).psn < 2 ^ 32 ∧ frameAddrOk s { frameOf 8 psn with ty := 8 } = true ∧
      pocFree got (.frame 1 { frameOf 8 psn with ty := 8 })) ∧
    ((frameOf 8 0).addr % 32 = 0 ∧ (frameOf 8 0).len = 32 ∧ (frameOf 8 0).pmap = [] ∧ (frameOf 8 0).crcBad = []) ∧
    (let s := streaming { unacked := [sentFrame] }
     (link s 1).queued = [] ∧ (link s 1).unacked = [sentFrame] ∧ (link s 1).unacked.find? (fun x => x.psn == 4) = some sentFrame ∧
     pmState s 1 = 1) ∧
    selfId (ported 1) ≠ 0xFF ∧ portLoop (ported 1) 11 = 0 ∧
    (∀ p ∈ [1, 2], leNat (((helloOf p 0x77).data.drop 8).take 1) = p ∧ leNat (((helloOf p 0x77).data.drop 0).take 8) = 0x77) ∧
    (∀ x ∈ (streaming { ahead := [frameOf 8 9] }).links, ∀ f ∈ x.2.ahead, f.psn ≠ x.2.recvNext) ∧
    rf (ported 1) (portReg 11 0) 0 0 = 1 ∧ stageFailed (ported 1) = false ∧ rf base (portReg 11 0) 0 0 = 0 ∧
    (∃ k < 12, rf (ported 1) (portReg k 0) 0 0 = 1) ∧ (∀ k < 12, rf base (portReg k 0) 0 0 = 0) ∧ inGroup base = false ∧
    inGroup (member serving) = true := by
  unfold pocFree; decide +kernel

/-- Whatever this module's serial is, some HELLO with its id names it, and some HELLO names another. -/
theorem witness_FabricPartnersAndFrames_serial : (∃ f, (∃ n, f = helloOf 2 n) ∧ leNat ((f.data.drop 0).take 8) = Config.serial.toNat) ∧
    ∃ f, (∃ n, f = helloOf 2 n) ∧ leNat ((f.data.drop 0).take 8) ≠ Config.serial.toNat := by
  have h (n : Nat) (hn : n < 2 ^ 64) : leNat (((helloOf 2 n).data.drop 0).take 8) = n := by
    simp [helloOf, leBytes, leNat]
    omega
  refine ⟨⟨helloOf 2 Config.serial.toNat, ⟨_, rfl⟩, h _ Config.serial.isLt⟩, ?_⟩
  by_cases e : Config.serial.toNat = 0x77
  · exact ⟨helloOf 2 0x78, ⟨_, rfl⟩, by rw [h _ (by decide), e]; decide⟩
  · exact ⟨helloOf 2 0x77, ⟨_, rfl⟩, by rw [h _ (by decide)]; exact fun c => e c.symm⟩
/-- The host link in a state, the module frozen or running, out of reset. -/
def linked (k : Nat) : State := reg (hstReg 0) (k * 2 ^ 60) base
/-- Vector 2047 masked and pending. -/
def pendingVector : State := reg (msixPbaReg 2047) (2 ^ 63) (reg (msixDataReg 2047) (2 ^ 32 + 9) (reg (msixAddrReg 2047) 0xFEE00000 base))
/-- Test hold, and a host loop-back that runs under it. -/
def testHeld : State := reg 0x1E0040 1 base
def hostLooping : State := reg (hstReg 0x20) (2 ^ 32 * 9 + 4) testHeld

theorem witness_HostPortEvents :
    linkUp base = true ∧ hostHeld base = false ∧ frozen frozenBase = true ∧ linkUp frozenBase = true ∧ frozen base = false ∧ base.up = true ∧
    moduleResetWaits base = false ∧ pendingVector.wf = true ∧ running pendingVector = true ∧ linkUp pendingVector = true ∧
    hostBars pendingVector = true ∧ stageFailed pendingVector = false ∧ pendingVector.cfg.msixEn = true ∧ pendingVector.cfg.msixMask = false ∧
    pendingVector.cfg.d3hot = false ∧ pendingVector.cfg.bme = true ∧ rf pendingVector (msixPbaReg 2047) (2047 % 64) (2047 % 64) = 1 ∧
    (∀ k ∈ [2, 3], linkState (linked k) = k ∧ (linked k).wf = true) ∧
    (∀ k ∈ [0, 1], linkState (linked k) ≤ 1 ∧ mayTrain (linked k) = true) ∧ linkState (linked 1) ≠ 0 ∧
    base.board.perst = false ∧ base.board.boot = 6 ∧ { base with board := { base.board with perst := true } }.board.perst = true ∧
    linkState (linked 0) = 0 ∧ rf (linked 0) (qchReg 0x40) 0 0 = 0 ∧ 6 ≤ (linked 0).board.boot ∧
    testHeld.wf = true ∧ running testHeld = true ∧ stageFailed testHeld = false ∧ rf testHeld (qchReg 0x40) 0 0 = 1 ∧
    (∀ k ∈ [1, 2], fieldOf (BitVec.ofNat 64 (k * 64)) 7 6 = k) ∧ rf base (qchReg 0x40) 0 0 = 0 ∧ hostLooping.wf = true ∧
    running hostLooping = true ∧ rf hostLooping (hstReg 0x20) 2 2 = 1 := by decide +kernel

/-- A source of a Bell in a state (0 INACTIVE to 3 ACTIVE_AND_PENDING), enabled, of priority 3, owned by and routed to a target. -/
def sourceIn (b src st t : Nat) (s : State) : State := reg (srcReg b src) (st * 2 ^ 60 + t * 2 ^ 56 + 2 ^ 15 + 3 * 2 ^ 8 + t) s
/-- Two sources pending at target 3 of Bell 0; core 67 claims there. -/
def claims : State := sourceIn 0 900 1 3 (sourceIn 0 20 1 3 base)
def inUser : State := { base with umode := [(67, true)] }
/-- Counter 16 of Bell 0 at 5, threshold 1; a queue with a command makes source 52's level 1. -/
def counting : State := reg (belReg 0 (0x4000 + 8 * 16)) (2 ^ 32 + 5) base

/-- A source of Bell 4 in each state, its latch clear; and one that is pending by its latch alone. -/
theorem witness_SoftwareLatchesActAsLevels :
    stageFailed base = false ∧ 1023 / 64 = 15 ∧ bitOf (BitVec.ofNat 64 (2 ^ 63)) (1023 % 64) = true ∧ bitOf (0 : Word) (1023 % 64) = false ∧
    (∀ st < 4, let s := sourceIn 4 1023 st 15 base
      running s = true ∧ s.wf = true ∧ rf s (srcReg 4 1023) 61 60 = st ∧ rf s (srcReg 4 1023) 62 62 = 0) ∧
    (∀ st < 4, let s := sourceIn 0 1023 st 3 base
      coreRuns s 67 = true ∧ coreWaits s 67 = false ∧ tabGet false s.umode 67 = false ∧
      rf s (srcReg (bellOf 67) 1023) 61 60 = st ∧ rf s (srcReg (bellOf 67) 1023) 62 62 = 0) ∧
    coreRuns claims 67 = true ∧ coreWaits claims 67 = false ∧ tabGet false claims.umode 67 = false ∧
    rf claims (srcReg 0 20) 61 60 = 1 ∧ claimable claims (bellOf 67) (targetOf 67) = [20, 900] ∧
    sourceLevel base 4 1023 = false ∧ rf (sourceIn 4 1023 1 15 base) (srcReg 4 1023) 61 60 = 1 ∧
    sourceLevel counting 0 16 = true ∧ rf (sourceIn 0 16 1 3 counting) (srcReg 0 16) 61 60 = 1 ∧
    sourceLevel (sourceIn 0 16 1 3 counting) 0 16 = true := by decide +kernel

theorem witness_BellsClaimAndComplete :
    coreRuns base 67 = true ∧ coreWaits base 67 = false ∧ tabGet false base.umode 67 = false ∧ claimable base (bellOf 67) (targetOf 67) = [] ∧
    claims.wf = true ∧ claimable claims (bellOf 67) (targetOf 67) = [20, 900] ∧
    tabWf (fun _ => 0) base.xregs = true ∧ tabWf (fun _ => 0) base.belsel = true ∧
    rf base (srcReg 0 1023) 61 60 < 2 ∧ rf (sourceIn 0 1023 2 2 base) (srcReg 0 1023) 59 56 ≠ targetOf 67 ∧
    (∀ st ∈ [2, 3], let s := sourceIn 0 16 st 3 counting
      s.wf = true ∧ 2 ≤ rf s (srcReg 0 16) 61 60 ∧ rf s (srcReg 0 16) 59 56 = targetOf 67 ∧ sourceLevel s 0 16 = true) ∧
    (let s := sourceIn 0 16 2 3 base
     rf s (srcReg 0 16) 61 60 = 2 ∧ rf s (srcReg 0 16) 59 56 = targetOf 67 ∧ sourceLevel s 0 16 = false) ∧
    inUser.wf = true ∧ coreRuns inUser 67 = true ∧ tabGet false inUser.umode 67 = true ∧ tabWf (fun _ => 0) inUser.mcause = true ∧
    tabWf (fun _ => false) inUser.umode = true ∧
    counterSource 0 31 = true ∧ counterSource 4 351 = true ∧ 1023 / 64 = 15 ∧ bitOf (BitVec.ofNat 64 (2 ^ 63)) (1023 % 64) = true ∧
    rf base (srcReg 4 1023) 62 62 = 0 ∧ rf base (srcReg 4 1023) 61 60 = 0 ∧ sourceLevel base 4 1023 = false ∧
    rf (sourceIn 4 1023 1 0 base) (srcReg 4 1023) 61 60 = 1 ∧
    rf counting (srcReg 0 16) 63 63 = 0 ∧ sourceLevel counting 0 16 = true ∧ rf counting (srcReg 0 16) 61 60 = 0 ∧
    rf (reg (tgtStat 4 15) (2 ^ 62) base) (tgtStat 4 15) 63 62 = 1 := by decide +kernel

/-- Ember runs, the converters on; what Ember holds replaced. -/
def embering (e : Ember) : State := { base with ember := { e with on := true } }
/-- Before the converters: 16 good rounds. -/
def dark (good : Nat) : State := { State.reset with ember := { on := true, good := good }, board := { boot := 1 } }

theorem witness_EmberActsAndAnswers :
    tabWf (fun _ => ({} : EmbCh)) base.ember.chans = true ∧ tabWf (fun _ => 0) base.ember.rails = true ∧ base.wf = true ∧
    tabWf (fun _ => ({} : Hearth)) base.hearths = true ∧ emberRuns base = true ∧
    (∀ k ∈ [0, 137], flagged base k = false ∧ (embCh base k).on = false) ∧ -2560 ≤ nth [-2560, 9600] 0 0 ∧ nth ([-2560, 9600] : List Int) 1 0 ≤ 9600 ∧
    convertersOn base = true ∧ (embering { decided := List.replicate 24 3 }).ember.decided ≠ [] ∧
    (let s := embering { rails := [(15, 16)] }; s.wf = true ∧ tabWf (fun _ => 0) s.ember.rails = true ∧ quadClock s 15 ≠ 0) ∧
    (∀ g ∈ [0, 16], let s := power 0 (dark g); s.wf = true ∧ emberRuns s = true ∧ pstate s = 0 ∧ s.ember.latch = false ∧ s.ember.open_ = false) ∧
    (let s := power 1 (dark 16); s.wf = true ∧ s.board.boot = 1 ∧ pstate s = 1 ∧ 16 ≤ s.ember.good ∧ emberRuns s = true) ∧
    base.ember.under = 0 ∧ base.ember.above = 0 ∧ base.ember.latch = false ∧ limiting base = false ∧
    (embering { latch := true }).ember.latch = true ∧ base.ember.on = true ∧ running base = true ∧
    flagged (reg (flagReg 255) (2 ^ 63) base) 255 = true ∧ State.reset.ember.on = false ∧ State.reset.wf = true := by decide +kernel

/-- The converters are on; Prefen's image is loaded and runs; a module reset has been made. -/
def booting : State := { State.reset with ember := { on := true }, board := { boot := 2, perst := false } }
def goodImage : Image := { ok := true, build := 5, sec := 1 }
def booted : State := reg (smcReg 0) (2 ^ 60) { booting with board := { booting.board with boot := 4, spiNew := false } }
def reseted : State := reg (smcReg 0) (2 ^ 62) base

theorem witness_StartupAndTestAccess :
    booting.wf = true ∧ running booting = true ∧ booting.board.boot = 2 ∧ (booting.board.warm && booting.board.perst) = false ∧
    booting.board.spiNew = true ∧
    (∀ p ∈ [(goodImage, ({} : Image), some 0), ({}, { goodImage with build := 6 }, some 1), (goodImage, { goodImage with build := 6 }, some 1), ({}, {}, none)],
      (bootSlot { booting with flash := tabSet {} (tabSet {} [] 0 p.1) 1 p.2.1 }).2 = p.2.2) ∧
    booted.wf = true ∧ running booted = true ∧ booted.board.boot = 4 ∧ fwStage booted = 1 ∧ rf booted (qchReg 0x40) 0 0 = 0 ∧
    reseted.wf = true ∧ running reseted = true ∧ reseted.board.boot = 6 ∧ fwStage reseted = 4 ∧
    jtagOn booted = true ∧ jtagOn booting = false ∧ tabWf (fun _ => 0) booted.board.boundary = true ∧
    spiAllowed testHeld = true ∧ spiAllowed base = false ∧ tabWf (fun _ => (none : Option Byte)) testHeld.board.spi = true ∧
    spiByte { testHeld with board := { testHeld.board with erased := [0] } } 65535 = 0xFF ∧
    running testHeld = true ∧ stageFailed testHeld = false ∧ rf testHeld (qchReg 0x40) 0 0 = 1 ∧ stageFailed base = false ∧
    rf base (qchReg 0x40) 0 0 = 0 ∧ (∀ d ∈ [1, 2], ∀ k ∈ [0, 1, 2], fieldOf (BitVec.ofNat 64 (k * 1024 + d * 256)) 11 10 ≠ 3 ∧
      fieldOf (BitVec.ofNat 64 (k * 1024 + d * 256)) 9 8 = d) ∧
    3 ∈ { base with board := { base.board with ucieRun := [3] } }.board.ucieRun := by decide +kernel

/-- A freeze asked for by the register or by the pin; a read-out that runs, to the host or to JTAG. -/
def freezing (pin : Bool) : State := if pin then reg (qchReg 0) 2 { base with board := { base.board with quenchN := true } } else reg (qchReg 0) 1 base
def reading (jtag : Nat) : State :=
  reg (qchReg 0x38) (2 ^ 63) { frozenBase with board := { frozenBase.board with roGo := [8 * jtag, 0x1000, 0x2000] } }

theorem witness_QuenchAndRegisterWrites :
    base.wf = true ∧ 2 ≤ base.board.boot ∧ (∀ pin ∈ [true, false], (freezing pin).wf = true ∧ freezeAsked (freezing pin) = true ∧
      frozen (freezing pin) = false ∧ pastStep2 (freezing pin) = true) ∧
    frozenBase.wf = true ∧ frozen frozenBase = true ∧ freezeAsked frozenBase = false ∧ rf frozenBase (qchReg 0x38) 63 63 = 0 ∧
    frozenBase.board.waiting = [] ∧ frozen base = false ∧ hmOpen frozenBase 1 = true ∧ 2 ≤ frozenBase.board.boot ∧
    (∀ j ∈ [0, 1], rf (reading j) (qchReg 0x38) 63 63 = 1 ∧ (reading j).board.roStop = none ∧
      (roBit (reading j) 3 = true ↔ j = 1) ∧ (reading j).board.shift = [] ∧ 2 ≤ (reading j).board.boot) ∧
    ({ reading 0 with board := { (reading 0).board with roStop := some 3 } } : State).board.roStop.isSome = true ∧ State.reset.board.boot < 2 ∧
    (∀ who ∈ [RegAgent.host, .smith 3, .jtag], agentRuns base who (qchReg 0x28) = true) ∧ linkUp base = true ∧ hostBars base = true ∧
    running base = true ∧ stageFailed base = false ∧ agentRuns (reg (clReg 3 15 0) (0x64 * 2 ^ 48 + 1) base) (.hammer 63) (clReg 3 15 0x20) = true ∧
    linkUp frozenBase = true ∧ hostBars frozenBase = true ∧ inQuench 0x1DFFF8 = false ∧ inQuench (qchReg 0x28) = true ∧ takesHalf 0x1E0000 = false ∧
    takesHalf 0x140000 = true ∧ stageFailed (reg (smcReg 0) (3 * 2 ^ 60) base) = true ∧ failedDecodes 0x200000 = false ∧
    coreRuns base 67 = true ∧ coreWaits base 67 = false ∧ tabGet false base.umode 67 = false ∧ tabGet false inUser.umode 67 = true := by
  decide +kernel
/-! ### Commands that cannot arise -/

def header8 (ty : Nat) : Frame := { ty := ty, src := 1, dst := 2 }

/-- Every check of `wellFormed` refuses a term that breaks it alone. -/
theorem test_wellFormed_refuses_data : ∀ i ∈ ([.hostSmWrite 0 (List.replicate 63 0) false {}, .backInvalidateResponse 0 (some []) true,
    .tgStop 0 0 0 [264], .tgRunDone 0 0 [264], .hostAccessError 0 0 (2 ^ 64), .hmCompletionTimeout 0 0 (2 ^ 64),
    .emberRound (List.replicate 255 0) false, .prefenStartup true [⟨0, 0, List.replicate 265 0, false⟩],
    .groupPrepare 0 (List.replicate 65 0), .groupPrepare 0 [255], .sparkCandidateExchange 0 0 0 0 [(2 ^ 32, 0)],
    .sparkCandidateExchange 0 0 0 0 [(0, 2 ^ 32)]] : List Instr), wellFormed i = false := by decide +kernel

/-- The errors of an access on its link name its own words, and a data lane. -/
theorem test_wellFormed_refuses_link_errors : ∀ i ∈ (let w (k : Nat) : LinkErr := { words := [k] }
    let f (k l : Nat) : LinkErr := { fixed := [(k, l)] }
    ([.hostSmWrite 0 (List.replicate 64 0) false (w 2), .hostSmRead ⟨0, f 0 256⟩ 0, .hostSmRead ⟨0, f 2 0⟩ 0, .coreLoad 0 ⟨0, w 2⟩ 3 false 5,
      .coreStore 0 ⟨0, w 1⟩ 0 3, .ldV 0 ⟨0, f 2 0⟩ 5, .atomicMemoryOperation 0 .add ⟨0, w 1⟩ true 0 5 false false,
      .loadReserved 0 ⟨0, w 1⟩ true 5 false false, .storeConditional 0 ⟨0, w 1⟩ true 0 5 false false,
      .tongsCopy 0 0 [(w 3, {})], .tongsGather 0 0 [({}, w 2)], .tongsScatter 0 0 [(f 3 0, {})],
      .load 0 ⟨0, [w 1]⟩, .store 0 ⟨0, [f 0 256]⟩, .mainPathBurst { burst with link := w 8 },
      .narrowPortAccess { narrowWrite with link := f 8 0 }] : List Instr)), wellFormed i = false := by decide +kernel

theorem test_wellFormed_refuses_paths : ∀ i ∈ ([.mainPathBurst { burst with addr := 2 ^ 44 }, .mainPathBurst { burst with write := true },
    .mainPathBurst { burst with len := 255 }, .mainPathBurst { narrowWrite with len := 256, data := List.replicate 256 (0, false) },
    .narrowPortAccess { narrowWrite with addr := 2 ^ 44 }, .narrowPortAccess { narrowWrite with data := [] },
    .narrowPortAccess { narrowWrite with write := false, len := 33 }, .narrowPortAccess burst] : List Instr), wellFormed i = false := by
  decide +kernel

theorem test_wellFormed_refuses_steps_and_images : ∀ i ∈ ([.stepStamp [(2 ^ 20 + 1, 0, 0)] [], .stepStamp [(0, 2 ^ 32, 0)] [],
    .stepStamp [(0, 0, 2 ^ 32)] [], .stepForward 0 [] [(2 ^ 20 + 1, 0, 0)] [], .stepForward 0 [] [(0, 2 ^ 32, 0)] [],
    .stepForward 0 [] [(0, 0, 2 ^ 32)] [], .fwUpdate 0 { minor := 256 }, .fwUpdate 0 { patch := 256 }, .fwUpdate 0 { build := 2 ^ 32 },
    .fwUpdate 0 { sec := 2 ^ 32 }, .hoodBoot { minor := 256 } {} false, .hoodBoot {} { sec := 2 ^ 32 } false] : List Instr),
    wellFormed i = false := by decide +kernel

/-- A row of frames takes only its own type, and no frame whose fields do not fit the header. -/
theorem test_wellFormed_refuses_frames : ∀ r ∈ ([(Instr.helloReceive 0, 0), (.attach 0, 1), (.attachAck 0, 2), (.bye 0, 3), (.ack 0, 4),
    (.nak 0, 5), (.write 0, 8), (.readReq 0, 9), (.readRsp 0, 10), (.flag 0, 11)] : List ((Frame → Instr) × Nat)),
    wellFormed (r.1 (header8 r.2)) = true ∧ wellFormed (r.1 (header8 (r.2 + 1))) = false ∧
    ∀ f ∈ ([{ header8 r.2 with src := 256 }, { header8 r.2 with dst := 256 }, { header8 r.2 with psn := 2 ^ 32 },
      { header8 r.2 with ack := 2 ^ 32 }, { header8 r.2 with conn := 2 ^ 32 }, { header8 r.2 with addr := 2 ^ 64 },
      { header8 r.2 with len := 2 ^ 16 }, { header8 r.2 with status := 2 ^ 16 }, { header8 r.2 with tag := 2 ^ 32 },
      { header8 r.2 with op := 2 }, { header8 r.2 with pmap := List.replicate 257 false }] : List Frame), wellFormed (r.1 f) = false := by
  decide +kernel

theorem test_wellFormed_refuses_long_frames (l : List Byte) (h : 8192 < l.length) : frameWf { header8 8 with data := l } = false := by
  simp [frameWf, Nat.not_le.2 h]

/-! ### Values from the spec's own numbers and examples -/

/-- R332: the CRC-64 of the ASCII bytes "123456789". -/
theorem test_crc64_check_value : crc64 [0x31, 0x32, 0x33, 0x34, 0x35, 0x36, 0x37, 0x38, 0x39] = 0x995DC9BBDF1939FA := by decide +kernel

/-- R143 and R152: the check symbols of a poisoned word give the poison syndrome, whatever its data. -/
theorem test_poison_syndrome : rsSyndromes (rsWord (rsPoison (List.replicate 32 0xA5)) (List.replicate 32 0xA5)) = [0, 0, 0, 1] := by
  decide +kernel

/-- The example of a stack that warms into T1 (file 19): y of the hottest channel over rounds 1 to 5, and T1 at the fifth. -/
theorem test_filter_of_a_warming_stack :
    let c : EmbCh := { on := true, samples := List.replicate 4 5600, y := 5600 }
    let c1 := filterCh 5696 c
    let c2 := filterCh 5696 c1
    let c3 := filterCh 5696 c2
    let c4 := filterCh 5696 c3
    [c1.y, c2.y, c3.y, c4.y, (filterCh 5696 c4).y] = [5600, 5606, 5617, 5626, 5634] ∧ nextState 7 0 5626 = 0 ∧ nextState 7 0 5634 = 1 ∧
    nextState 7 1 5440 = 1 ∧ nextState 7 1 5439 = 0 := by decide +kernel

/-- The example of a dot product on two placements (file 03): anchor 12, the accumulator of placement A, the two leaves of
placement B, and the FP32 result of both. -/
theorem test_dot_product_of_two_placements :
    let w := [blockValue .mx32 .e2m1 0x7F 0x3, blockValue .mx32 .e2m1 0x7F 0xE]
    let x := [blockValue .mx32 .e4m3 0x7F 0x40, blockValue .mx32 .e4m3 0x7F 0x2C]
    let w' := [blockValue .mx32 .e2m1 0x7F 0x1, blockValue .mx32 .e2m1 0x7F 0xA]
    let x' := [blockValue .mx32 .e4m3 0x1B 0x39, blockValue .mx32 .e4m3 0x1B 0x30]
    let a := accDot 12 (x ++ x') (w ++ w') accZero
    let l0 := accDot 12 x w accZero
    let l1 := accDot 12 x' w' accZero
    boundBlock .mx32 .e4m3 0x7F = some 9 ∧ boundBlock .mx32 .e4m3 0x1B = some (-91) ∧
    a.val = 3 * 2 ^ 83 - 1 ∧ accInt l0 = 3 * 2 ^ 83 ∧ accInt l1 = -1 ∧ accJoin l0 l1 = a ∧
    (convert .fp32 true .rne (accValue 12 a)).1 = 0x3FC00000 := by decide +kernel

/-- The example of parking through a mailbox (file 15): mailbox 3 and its request area in BAR0. -/
theorem test_mailbox_block : mbReg 3 0 = 0x103000 ∧ mbReg 3 0x400 = 0x103400 := by decide

/-- Configuration space's identity as R384's table has it (file 17). -/
theorem test_identity : identity.vendor = 0x1F4C ∧ identity.device = 0xC200 ∧ identity.revision = 0xB0 ∧ identity.classCode = 0x120000 ∧
    identity.subVendor = 0x1F4C ∧ identity.serial = Config.serial.toNat := ⟨rfl, rfl, rfl, rfl, rfl, rfl⟩

end Sys2Proof.Tests
end

namespace Sys2Proof.Proofs

open Sys2Proof Sys2Proof.Machine

/-! ### Rules that many commands share -/

/-- An event of an island that runs is not held back (R415, R463). -/
theorem live_of_running {s : State} (h : running s = true) (o : Host.Outcome State Fault Refusal) : live s o = o := if_pos h

/-- A taken command that meets none of the rejections common to all classes is acted on (R256, R261, R263). -/
theorem withHead_of_accepted {q : Nat} {s s1 : State} {k : Taken} (act : Taken → State → State) (ht : takeCmd q s = (s1, k))
    (hp : k.poison = false) (ha : pendingAbort s1 (queue s1 q) = none) (hb : k.hdr.bad = false)
    (hc : classAccepted (queue s1 q).ckind k.hdr.cls = true) : withHead q act s = act k s1 := by
  simp [withHead, ht, hp, ha, hb, hc]

/-! ### Control words: completion, rejection, NOP -/

@[simp] theorem setEngQueue_cnt (eng : Nat) (l : List EngWord) (x : CoreSt) : (setEngQueue eng l x).cnt = x.cnt := by
  unfold setEngQueue
  split <;> rfl

/-- The done counter that a completion bumps is the one from before its queue moved on (R225). -/
theorem bumpDone_setEngQueue (eng : Nat) (l : List EngWord) (x : CoreSt) : bumpDone eng (setEngQueue eng l x) =
    { setEngQueue eng l x with cnt := setNth x.cnt eng ((nth x.cnt eng 0 + 1) % 2 ^ 16) } := by
  rw [bumpDone, setEngQueue_cnt]

/-- A word that has run at the head of a core's engine completes (R225, R228). -/
theorem exec_wordComplete_core {a : Fin 4} {c k : Fin 16} {eng : Fin 4} {w : EngWord} {rest : List EngWord} {s : State}
    (hr : running s = true) (he : eng.val < 3) (hq : engQueue (coreSt s (coreNo a.val c.val k.val)) eng.val = w :: rest)
    (hw : w.ran = true) (hs : stoppedAt s (hxCore a.val c.val k.val) = false) :
    exec (.wordComplete a c k eng) s = .next (wordDone a.val c.val k.val eng.val w s) := by
  change execWordComplete a c k eng s = _
  simp [execWordComplete, live_of_running hr, Nat.ne_of_lt he, hq, hw, hs, done]

/-- The oldest LOAD or STORE of a cluster completes once it has run (R225, R230). -/
theorem exec_wordComplete_bellows {a : Fin 4} {c k : Fin 16} {eng : Fin 4} {w : EngWord} {rest : List EngWord} {s : State}
    (hr : running s = true) (he : eng.val = 3) (hq : (cluster s (clusterNo a.val c.val)).moving = w :: rest)
    (hw : w.ran = true) (hs : stoppedAt s (hxCluster a.val c.val) = false) :
    exec (.wordComplete a c k eng) s = .next (moveDone a.val c.val w rest s) := by
  change execWordComplete a c k eng s = _
  simp [execWordComplete, live_of_running hr, he, hq, hw, hs, done]

/-- An undefined word, or one with a reserved rounding, at the head of an engine is rejected whatever row was sent (R220). -/
theorem engineRun_of_undefined {a c k eng : Nat} {w : EngWord} {s : State} (op : Nat) (act : EngCtx → State → EngRes)
    (hw : headWord s a c k eng = some w) (hd : ewDefined eng (ewOp w) = false ∨ 2 ≤ ewRound w) :
    engineRun a c k eng op act s = .next (rejectWord a c k eng w s) := by
  have hc : (!ewDefined eng (ewOp w) || decide (2 ≤ ewRound w)) = true := by simpa using hd
  simp only [engineRun, hw, hc, if_true, done]

/-- ENGINE_NOP of an engine of a core runs its head word with nothing to do and no progress (R220). -/
theorem exec_engineNop_core {a : Fin 4} {c k : Fin 16} {eng : Fin 4} (he : eng.val < 3) (s : State) :
    exec (.engineNop a c k eng) s = live s (engineRun a.val c.val k.val eng.val 0x00 (fun _ t => .fin t 0 0) s) := by
  change execEngineNop a c k eng s = _
  rw [execEngineNop, if_neg (Nat.ne_of_lt he)]

/-- Settles O36: the two completions, the rejection of an undefined word and the NOP, each by its rule above. -/
theorem engineWordsCompleteOrAreRejected : Obligations.EngineWordsCompleteOrAreRejected := by
  unfold Obligations.EngineWordsCompleteOrAreRejected
  intro a c k eng w rest s hr
  refine ⟨fun he hq hw hs => ?core, fun he hq hw hs => ?bellows, fun he hw hd => ?undefined, fun he hready hop => ?nop⟩
  case core =>
    rw [exec_wordComplete_core hr he hq hw hs, wordDone, hq, bumpDone_setEngQueue]
  case bellows => exact exec_wordComplete_bellows hr he hq hw hs
  case undefined =>
    rw [exec_engineNop_core he, live_of_running hr, engineRun_of_undefined _ _ hw hd]
    rfl
  case nop => rw [exec_engineNop_core he, engineRun_ready hready 0 hop]

/-! ### Swage: a command taken -/

/-- Registers 0 to 55 of a taken command, with its tag in register 1 (R169, R173). -/
def takenRegs (k : Taken) : List Nat := ((bytesWords k.body).take 56).set 1 k.tag

/-- The run of a command that site n took from queue q in state s, in RECALL (R169 step 2). -/
def takenRun (n q : Nat) (k : Taken) (s : State) : StackRun :=
  { phase := 1, qid := q, idx := k.idx, tag := k.tag, cmd := takenRegs k,
    kind := if !cmdBlist (takenRegs k) then 0 else if cmdAttention (takenRegs k) then 1 else 2,
    ranges := cmdRanges s n (takenRegs k), area := (stackRun s n).area }

/-- The head command of class SWAGE whose turn it is starts its recalls, or is rejected where it does not meet R170. -/
theorem exec_swageCommandTake_head {n : Fin 20} {q : Nat} {s s1 : State} {k : Taken} (hr : running s = true)
    (hq : stackTurn s n.val = some q) (hh : (headHdr s q).cls = 1) (ht : takeCmd q s = (s1, k)) (hp : k.poison = false)
    (ha : pendingAbort s1 (queue s1 q) = none) (hb : k.hdr.bad = false)
    (hc : classAccepted (queue s1 q).ckind k.hdr.cls = true) :
    exec (.swageCommandTake n) s =
      if !swageAccepts s1 n.val (takenRegs k) then .next (rejectCmd q k s1)
      else .next (runRecall (takenRun n.val q k s1) (updHearth (hxStack n.val) (fun h => { h with running := true })
        (setRun n.val (takenRun n.val q k s1) (dropUnits n.val s1)))) := by
  change execSwageCommandTake n s = _
  simp only [execSwageCommandTake, live_of_running hr, hq, hh, withHead_of_accepted _ ht hp ha hb hc, done]
  exact apply_ite _ _ _ _

/-! ### Swage: the prologue -/

/-- S1 delivered, the anchors set, the registers broadcast and the start taken at the present time (R169 steps 4 to 6). -/
def startRun (n : Nat) (s : State) : State :=
  let t := broadcast n (setAnchors n (deliverS1 n s))
  setRun n { stackRun t n with phase := 3, start := t.time } t

/-- The state once the tables of site n's command are read, after the broadcast (R201). -/
def tablesRead (n : Nat) (s : State) : State := (readTables n (broadcast n s)).1

/-- The items that the tables list, as they stand after the broadcast (R199). -/
def siteItems (n : Nat) (s : State) : List Item := tableItems (broadcast n s) (stackRun s n).cmd

/-- The queued billets that those items and the lists read give (R201). -/
def siteBillets (n : Nat) (s : State) : List QBillet := queueAll (tablesRead n s) ((stackRun s n).kind == 1) (siteItems n s)

/-- Do those tables meet the checks of R201? -/
def siteTablesOk (n : Nat) (s : State) : Bool :=
  tablesOk (tablesRead n s) n (stackRun s n) (siteItems n s) (siteBillets n s)

/-- The run of site n holds its items and billets (R201). -/
def billetsQueued (n : Nat) (s : State) : State :=
  setRun n { stackRun (tablesRead n s) n with items := siteItems n s, billets := siteBillets n s,
                                              layer := lookNat (tablesRead n s) 3 (creg (stackRun s n) 20 + 4) 2 } (tablesRead n s)

section Prologue

variable {n : Fin 20} {s : State} (hr : running s = true) (hp : (stackRun s n.val).phase = 1) (hh : stackHeld s n.val = false)
include hr hp hh

/-- While lines of the command's ranges are to be recalled their snoops are sent (R169 step 3). -/
theorem exec_swagePrologue_recall (hl : runRecalls s (stackRun s n.val) ≠ []) :
    exec (.swagePrologue n) s = .next (runRecall (stackRun s n.val) s) := by
  change execSwagePrologue n s = _
  simp [execSwagePrologue, live_of_running hr, hp, hh, hl, done]

/-- With no line left to recall, a matrix-vector command starts and a billet-list command acts on its tables (R169 steps 4 to 6,
R201). -/
theorem exec_swagePrologue_recalled (hl : runRecalls s (stackRun s n.val) = []) :
    exec (.swagePrologue n) s =
      if (stackRun s n.val).kind = 0 then .next (startRun n.val (broadcast n.val s))
      else if (readTables n.val (broadcast n.val s)).2 then .next (rejectRun n.val true (tablesRead n.val s))
      else if !siteTablesOk n.val s then .next (rejectRun n.val false (tablesRead n.val s))
      else .next (startRun n.val (billetsQueued n.val s)) := by
  have hsite : ¬ (((stackRun s n.val).phase != 1 || stackHeld s n.val) = true) := by simp [hp, hh]
  have hnone : ¬ ((!(runRecalls s (stackRun s n.val)).isEmpty) = true) := by simp [hl]
  change execSwagePrologue n s = _
  rw [execSwagePrologue, live_of_running hr]
  refine (if_neg hsite).trans ((if_neg hnone).trans ?_)
  cases hz : readTables n.val (broadcast n.val s) with
  | mk t poison =>
    simp only [siteTablesOk, billetsQueued, siteBillets, tablesRead, hz]
    rfl

end Prologue

/-! ### Swage: the end of a command -/

section Merge

variable {n : Fin 20} {s : State} (hr : running s = true) (hp : (stackRun s n.val).phase = 3) (hd : allDone s n.val = true)
include hr hp hd

/-- A matrix-vector command whose units have ended writes its outputs and commits (R172, R182). -/
theorem exec_swageMerge_matrixVector (hk : (stackRun s n.val).kind = 0) :
    let cmd := (stackRun s n.val).cmd
    exec (.swageMerge n) s =
      .next (finishRun n.val (if strmUsed cmd 2 then cmdOuts cmd * cmdRows cmd else 0) (writeOutputs n.val s)) := by
  change execSwageMerge n s = _
  simp [execSwageMerge, live_of_running hr, hp, hd, hk, done]

/-- A cache-write command whose units have ended commits (R172). -/
theorem exec_swageMerge_cacheWrite (hk : (stackRun s n.val).kind = 2) :
    exec (.swageMerge n) s = .next (finishRun n.val (stackRun s n.val).written.length s) := by
  change execSwageMerge n s = _
  simp [execSwageMerge, live_of_running hr, hp, hd, hk, done]

end Merge

/-- Whether a unit has reached END is what its entry says, also before its first instruction. -/
theorem unitAt_isDone (s : State) (n u : Nat) :
    (unitAt s n u).isDone = (tabGet ({} : SwgUnit) s.units (n * 512 + u)).isDone := by
  simp only [unitAt]
  split <;> rfl

theorem allDone_eq_false {s : State} {n u : Nat} (hu : u < 512) (hd : (unitAt s n u).isDone = false) : allDone s n = false :=
  List.all_eq_false.mpr ⟨u, List.mem_range.mpr hu, by simpa [unitAt_isDone] using hd⟩

/-- The limit passes before the last END: the command stops and the first unit not done is named (R177). -/
theorem exec_swageTimeout_first {n : Fin 20} {u : Nat} {s : State} (hr : running s = true) (hu : u < 512)
    (hp : (stackRun s n.val).phase = 3) (hl : rf s (stkReg n.val 0x800) 63 32 ≠ 0)
    (hb : ∀ k < u, (unitAt s n.val k).isDone = true) (hd : (unitAt s n.val u).isDone = false) :
    exec (.swageTimeout n) s = .next (swageFault n.val 0x241 (hxUnit n.val u) (unitAt s n.val u).pc
      { s with time := max s.time ((stackRun s n.val).start + 1000 * rf s (stkReg n.val 0x800) 63 32) }) := by
  have hfirst : (List.range 512).find? (fun k => !(unitAt s n.val k).isDone) = some u := by
    rw [List.find?_range_eq_some]
    exact ⟨by simpa using hd, List.mem_range.mpr hu, fun k hk => by simpa using hb k hk⟩
  change execSwageTimeout n s = _
  simp [execSwageTimeout, live_of_running hr, hp, hl, allDone_eq_false hu hd, hfirst, done]

/-- Settles O29: the taking, the prologue, the end and the run-time limit, each by its rule above. -/
theorem swageCommandsStartAndEnd : Obligations.SwageCommandsStartAndEnd := by
  unfold Obligations.SwageCommandsStartAndEnd
  intro n s hr
  refine ⟨fun q s1 k hq hh ht hp ha hb hc => ?taken, fun hp hh => ?prologue, fun hp hd => ?ended, fun u hu hp hl hb hd => ?limit⟩
  case taken =>
    have htake := exec_swageCommandTake_head hr hq hh ht hp ha hb hc
    exact ⟨fun (hacc : swageAccepts s1 n.val (takenRegs k) = true) => htake.trans (if_neg (by simp [hacc])),
      fun (hacc : swageAccepts s1 n.val (takenRegs k) = false) => htake.trans (if_pos (by simp [hacc]))⟩
  case prologue =>
    refine ⟨exec_swagePrologue_recall hr hp hh, fun hl hk => ?matrixVector, fun hl hk => ?billetList⟩
    case matrixVector => exact (exec_swagePrologue_recalled hr hp hh hl).trans (if_pos hk)
    case billetList =>
      have htables := (exec_swagePrologue_recalled hr hp hh hl).trans (if_neg hk)
      refine ⟨fun hz => htables.trans (if_pos hz), fun hz ht => ?rejected, fun hz ht => ?queued⟩
      case rejected =>
        replace ht : siteTablesOk n.val s = false := ht
        exact htables.trans ((if_neg (by simp [hz])).trans (if_pos (by simp [ht])))
      case queued =>
        replace ht : siteTablesOk n.val s = true := ht
        exact htables.trans ((if_neg (by simp [hz])).trans (if_neg (by simp [ht])))
  case ended => exact ⟨exec_swageMerge_matrixVector hr hp hd, exec_swageMerge_cacheWrite hr hp hd⟩
  case limit => exact exec_swageTimeout_first hr hu hp hl hb hd

end Sys2Proof.Proofs

namespace Sys2Proof.Proofs

open Sys2Proof Sys2Proof.Machine Sys2Proof.Laws

/-! ### Sparse tables that may stand in no canonical form -/

/-- A value other than the default that was written is read back, whatever the table. -/
theorem tabGet_tabSet_ne_default {α : Type} [DecidableEq α] {d v : α} (e : α) (l : List (Nat × α)) (k : Nat) (hv : v ≠ d) :
    tabGet e (tabSet d l k v) k = v := by
  induction l with
  | nil => simp [tabSet, tabGet, hv]
  | cons x t ih =>
    simp only [tabSet, hv, if_false]
    split
    · simp [tabGet]
    · split
      · simp [tabGet]
      · next hne => simpa only [tabGet, if_neg hne] using ih

/-- A table cut down to some keys reads as before at those keys, and as the default elsewhere. -/
theorem tabGet_filter_key {α : Type} (d : α) (p : Nat → Bool) (l : List (Nat × α)) (k : Nat) :
    tabGet d (l.filter (fun x => p x.1)) k = if p k then tabGet d l k else d := by
  induction l with
  | nil => simp [tabGet]
  | cons x t ih =>
    by_cases hk : k = x.1
    · subst hk
      by_cases hp : p x.1 = true <;> simp [tabGet, hp, ih]
    · by_cases hp : p x.1 = true <;> simp [tabGet, hp, hk, ih]

/-! ### Entries of an accumulator bank -/

/-- The stored check bits of word j of entry (m, n), XORed with those of the word it holds (R165, R212). -/
def entrySyn (b : Bank) (m n j : Nat) : Nat := (tabGet 0 b.syn (4 * (64 * m + n) + j)).toNat

/-- An entry whose three words stand with their own check bits reads as its words hold it. -/
theorem bankEntry_eq_rawEntry {b : Bank} {m n : Nat} (h : ∀ j < 3, entrySyn b m n j = 0) : bankEntry b m n = rawEntry b m n := by
  have h0 := h 0 (by omega)
  have h1 := h 1 (by omega)
  have h2 := h 2 (by omega)
  simp only [entrySyn] at h0 h1 h2
  simp only [bankEntry, h0, h1, h2, beq_self_eq_true, Bool.and_self, Bool.or_true, if_true]

/-- What an entry reads as is decided by its words and their check bits. -/
theorem bankEntry_congr {b b' : Bank} {m n : Nat} (hraw : rawEntry b' m n = rawEntry b m n)
    (hsyn : ∀ j < 3, entrySyn b' m n j = entrySyn b m n j) : bankEntry b' m n = bankEntry b m n := by
  by_cases hz : ∀ j < 3, entrySyn b m n j = 0
  · rw [bankEntry_eq_rawEntry hz, bankEntry_eq_rawEntry (fun j hj => (hsyn j hj).trans (hz j hj)), hraw]
  · have hfull (y : Bank) (hy : ∀ j < 3, entrySyn y m n j = entrySyn b m n j) : y.syn.isEmpty = false := by
      rw [List.isEmpty_eq_false_iff]
      intro hnil
      exact hz fun j hj => (hy j hj).symm.trans (by rw [entrySyn, hnil]; rfl)
    have h0 := hsyn 0 (by omega)
    have h1 := hsyn 1 (by omega)
    have h2 := hsyn 2 (by omega)
    simp only [entrySyn] at h0 h1 h2
    simp only [bankEntry, hfull b (fun _ _ => rfl), hfull b' hsyn, hraw, h0, h1, h2, entryWords, show List.range 3 = [0, 1, 2] from rfl,
      List.zip_cons_cons, List.zip_nil_left, List.map_cons, List.map_nil]

/-- After a write the check bits of every word of the entry are its own, and those of another entry are as before. -/
theorem entrySyn_setEntry (m n : Nat) (e : BankEntry) (b : Bank) (m' n' : Nat) {j : Nat} (hj : j < 3) :
    entrySyn (setEntry m n e b) m' n' j = if 64 * m' + n' = 64 * m + n then 0 else entrySyn b m' n' j := by
  have hk : (4 * (64 * m' + n') + j) / 4 = 64 * m' + n' := by omega
  have hread := tabGet_filter_key 0 (fun k => k / 4 != 64 * m + n) b.syn (4 * (64 * m' + n') + j)
  simp only [hk] at hread
  simp only [entrySyn, setEntry, hread]
  by_cases h : 64 * m' + n' = 64 * m + n
  · simp [h]
  · simp [h]

/-- An entry that was written reads back. -/
theorem bankEntry_setEntry_same (m n : Nat) (e : BankEntry) (b : Bank) : bankEntry (setEntry m n e b) m n = e := by
  have hsyn : ∀ j < 3, entrySyn (setEntry m n e b) m n j = 0 := fun j hj => by simp [entrySyn_setEntry m n e b m n hj]
  rw [bankEntry_eq_rawEntry hsyn]
  simp [rawEntry, setEntry, tabGet_tabSet_ne_default]

/-- Every other entry reads as before. -/
theorem bankEntry_setEntry_other {m n m' n' : Nat} (e : BankEntry) (b : Bank) (hn : n < 64) (hn' : n' < 64)
    (h : (m', n') ≠ (m, n)) : bankEntry (setEntry m n e b) m' n' = bankEntry b m' n' := by
  have hkey : 64 * m' + n' ≠ 64 * m + n := fun hk => h (by simp only [Prod.mk.injEq]; omega)
  refine bankEntry_congr ?_ (fun j hj => by simp [entrySyn_setEntry m n e b m' n' hj, hkey])
  have hcell : m' * 64 + n' ≠ m * 64 + n := by omega
  simp only [rawEntry, setEntry, tabGet_tabSet_other _ _ hcell]

/-! ### MMA -/

/-- A bank with f done to each entry of a list, one after another. -/
def updEntries (f : Nat → Nat → BankEntry → BankEntry) (l : List (Nat × Nat)) (b : Bank) : Bank :=
  l.foldl (fun b p => setEntry p.1 p.2 (f p.1 p.2 (bankEntry b p.1 p.2)) b) b

/-- Beside its entries the bank is as before. -/
theorem updEntries_frame (f : Nat → Nat → BankEntry → BankEntry) (l : List (Nat × Nat)) (b : Bank) :
    updEntries f l b = { b with cells := (updEntries f l b).cells, syn := (updEntries f l b).syn } := by
  induction l generalizing b with
  | nil => rfl
  | cons p t ih => exact ih (setEntry p.1 p.2 (f p.1 p.2 (bankEntry b p.1 p.2)) b)

/-- Each entry of a list without repetition has f done to it once, and every other entry reads as before. -/
theorem bankEntry_updEntries (f : Nat → Nat → BankEntry → BankEntry) {l : List (Nat × Nat)} (b : Bank) (hl : l.Nodup)
    (hcol : ∀ p ∈ l, p.2 < 64) (m : Nat) {n : Nat} (hn : n < 64) :
    bankEntry (updEntries f l b) m n = if (m, n) ∈ l then f m n (bankEntry b m n) else bankEntry b m n := by
  induction l generalizing b with
  | nil => rfl
  | cons p t ih =>
    obtain ⟨hp, ht⟩ := List.nodup_cons.mp hl
    obtain ⟨hpcol, htcol⟩ := List.forall_mem_cons.mp hcol
    have hrest := ih (setEntry p.1 p.2 (f p.1 p.2 (bankEntry b p.1 p.2)) b) ht htcol
    change bankEntry (updEntries f t _) m n = _
    by_cases h : (m, n) = p
    · subst h
      simpa [hp, bankEntry_setEntry_same] using hrest
    · simpa [h, bankEntry_setEntry_other _ b hpcol hn h] using hrest

/-- The pairs of a row of X and a row of W. -/
def rowPairs (rows cols : Nat) : List (Nat × Nat) := (List.range rows).flatMap (fun m => (List.range cols).map (fun n => (m, n)))

@[simp] theorem mem_rowPairs {rows cols : Nat} {p : Nat × Nat} : p ∈ rowPairs rows cols ↔ p.1 < rows ∧ p.2 < cols := by
  obtain ⟨m, n⟩ := p
  simp only [rowPairs, List.mem_flatMap, List.mem_map, List.mem_range, Prod.mk.injEq]
  constructor
  · rintro ⟨_, hm, _, hn, rfl, rfl⟩
    exact ⟨hm, hn⟩
  · exact fun ⟨hm, hn⟩ => ⟨m, hm, n, hn, rfl, rfl⟩

theorem rowPairs_nodup (rows cols : Nat) : (rowPairs rows cols).Nodup := by
  refine List.pairwise_flatMap.mpr ⟨fun m _ => List.pairwise_map.mpr ?sameRow, ?otherRow⟩
  case sameRow => exact (List.nodup_range (n := cols)).imp fun hne heq => hne (Prod.mk.inj heq).2
  case otherRow =>
    refine (List.nodup_range (n := rows)).imp fun hne p hp q hq heq => ?_
    obtain ⟨_, _, rfl⟩ := List.mem_map.mp hp
    obtain ⟨_, _, rfl⟩ := List.mem_map.mp hq
    exact hne (Prod.mk.inj heq).1

theorem minOpt_eq_none {l : List (Option Nat)} (h : ∀ a ∈ l, a = none) : minOpt l = none := by
  induction l with
  | nil => rfl
  | cons a t ih =>
    obtain ⟨rfl, ht⟩ := List.forall_mem_cons.mp h
    exact ih ht

theorem collect_length {σ α β : Type} (f : α → σ → σ × β) (l : List α) (s : σ) : (collect f l s).2.length = l.length := by
  induction l generalizing s with
  | nil => rfl
  | cons x t ih => simpa [collect] using ih (f x s).1

@[simp] theorem readRows_length (who : Who) (d : Desc) (s : State) : (readRows who d s).2.length = d.size1 :=
  (collect_length _ _ s).trans List.length_range

/-- Where every row of an operand stays within its anchor, its list of first elements over the anchor names none (R214). -/
theorem firstOvers_eq_none {anchors : List (Option Int)} {d : Desc} {rows : List (List Elem)}
    (h : ∀ m < rows.length, firstOver (nth anchors m none) d (nth rows m []) = none) :
    ∀ o ∈ ((List.range rows.length).zip rows).map (fun p => firstOver (nth anchors p.1 none) d p.2), o = none := by
  intro o ho
  obtain ⟨p, hp, rfl⟩ := List.mem_map.mp ho
  obtain ⟨i, hi, rfl⟩ := List.mem_iff_getElem.mp hp
  have hrow : i < rows.length := by simpa using hi
  have hget : nth rows i [] = rows[i] := by rw [nth, List.getD_eq_getElem?_getD, List.getElem?_eq_getElem hrow, Option.getD_some]
  simp only [List.getElem_zip, List.getElem_range]
  exact hget ▸ h i hrow

/-- An element operand has whole groups of 16 elements (R221). -/
theorem size0_of_slotDesc {x : EngCtx} {v : Nat} {d : Desc} (h : slotDesc x v = some d) : d.size0 = 16 * slN0 v := by
  unfold slotDesc at h
  split at h
  · cases h
  · split at h
    · split at h
      · cases h
      · cases h; rfl
    · cases h

/-- The bank that an MMA word starts from: emptied under clr, with the word's anchors, else as it stands (R214). -/
def mmaBank (x : EngCtx) (s : State) : Bank :=
  if natBit x.w.w0 62 then { cleared := true, xa := x.prm.xanch, wa := x.prm.wanch } else bank s x.core (natBits x.w.w0 63 63)

/-- The frame of entry (m, n) of an MMA word: its two row anchors added (R72, R214). -/
def mmaFrame (x : EngCtx) (m n : Nat) : Option Int := addAnchors (nth x.prm.xanch m none) (nth x.prm.wanch n none)

/-- What an MMA word that runs to its end does to entry (m, n), from the rows of X and of W (R214). -/
def mmaStep (x : EngCtx) (k : Nat) (xs ws : List (List Elem)) (m n : Nat) (e : BankEntry) : BankEntry :=
  mmaPair (mmaFrame x m n) x.prm.bad k ((nth xs m []).take k) ((nth ws n []).take k) e

/-- The operands of an MMA word meet the checks of R214 and R222. -/
structure MmaOperands (x : EngCtx) (s : State) (dx dw : Desc) : Prop where
  slotX : slotDesc x x.w.w2 = some dx
  slotW : slotDesc x x.w.w1 = some dw
  srcX : srcOk s dx = true
  srcW : srcOk s dw = true
  fmtX : matrixOk dx = true
  fmtW : matrixOk dw = true
  len : dx.size0 = dw.size0
  rowsX : dx.size1 ≤ 64
  rowsW : dw.size1 ≤ 64

/-- MMA with good operands, entries that have room and hold no other anchor, and rows within their anchors ends with every pair of
rows added (R214). -/
theorem mma_fin {x : EngCtx} {s : State} {dx dw : Desc} (h : MmaOperands x s dx dw)
    (hroom : ∀ p ∈ rowPairs dx.size1 dw.size1, (bankEntry (mmaBank x s) p.1 p.2).terms + dx.size0 ≤ 2 ^ 24)
    (hanchor : ∀ p ∈ rowPairs dx.size1 dw.size1, ∀ z y, mmaFrame x p.1 p.2 = some z →
      (bankEntry (mmaBank x s) p.1 p.2).anchor = some y → (bankEntry (mmaBank x s) p.1 p.2).written = true → z = y)
    (hX : ∀ m < dx.size1, firstOver (nth x.prm.xanch m none) dx (nth (readRows x.who dx s).2 m []) = none)
    (hW : ∀ n < dw.size1, firstOver (nth x.prm.wanch n none) dw (nth (readRows x.who dw (readRows x.who dx s).1).2 n []) = none) :
    mma x s = .fin (setBank x.core (natBits x.w.w0 63 63)
      (updEntries (mmaStep x dx.size0 (readRows x.who dx s).2 (readRows x.who dw (readRows x.who dx s).1).2)
        (rowPairs dx.size1 dw.size1) (mmaBank x s)) (readRows x.who dw (readRows x.who dx s).1).1) 0 (dx.size0 / 16) := by
  have hover : minOpt (((List.range (readRows x.who dx s).2.length).zip (readRows x.who dx s).2).map
        (fun p => firstOver (nth x.prm.xanch p.1 none) dx p.2)
      ++ ((List.range (readRows x.who dw (readRows x.who dx s).1).2.length).zip (readRows x.who dw (readRows x.who dx s).1).2).map
        (fun p => firstOver (nth x.prm.wanch p.1 none) dw p.2)) = none :=
    minOpt_eq_none fun o ho => (List.mem_append.mp ho).elim (firstOvers_eq_none (by simpa using hX) o)
      (firstOvers_eq_none (by simpa using hW) o)
  have hwhole : 16 * (dx.size0 / 16) = dx.size0 := by rw [size0_of_slotDesc h.slotX]; omega
  simp only [mma, h.slotX, h.slotW]
  refine (if_neg ?checks).trans ((if_neg ?anchors).trans ?run)
  case checks =>
    have hfull : (rowPairs dx.size1 dw.size1).any
        (fun p => decide (2 ^ 24 < (bankEntry (mmaBank x s) p.1 p.2).terms + dx.size0)) = false :=
      List.any_eq_false.mpr fun p hp => by simpa using hroom p hp
    rw [h.srcX, h.srcW, h.fmtX, h.fmtW, h.len, bne_self_eq_false, decide_eq_false (Nat.not_lt.mpr h.rowsX),
      decide_eq_false (Nat.not_lt.mpr h.rowsW), ← h.len]
    exact Bool.eq_false_iff.mp hfull
  case anchors =>
    refine Bool.eq_false_iff.mp (List.any_eq_false.mpr fun p hp => ?_)
    split
    · next z y hz hy =>
      simp only [Bool.and_eq_true, bne_iff_ne, ne_eq, not_and, Classical.not_not]
      exact hanchor p hp z y hz hy
    · simp
  case run =>
    rw [hover]
    simp only [hwhole]
    rfl

/-- Settles O34: MMA of good operands is mma_fin, and each entry of its bank is read by bankEntry_updEntries. -/
theorem matrixWordAddsEveryPair : Obligations.MatrixWordAddsEveryPair := by
  unfold Obligations.MatrixWordAddsEveryPair
  intro a c k w s dx dw hready hop s1 x b b0 frame rx rw hdx hdw hsx hsw hfx hfw hlen hrx hrw hentry hX hW
  have hops : MmaOperands x s1 dx dw := ⟨hdx, hdw, hsx, hsw, hfx, hfw, hlen, hrx, hrw⟩
  have hfin := mma_fin hops (fun p hp => (hentry p.1 (mem_rowPairs.mp hp).1 p.2 (mem_rowPairs.mp hp).2).1)
    (fun p hp => (hentry p.1 (mem_rowPairs.mp hp).1 p.2 (mem_rowPairs.mp hp).2).2) hX hW
  refine ⟨updEntries (mmaStep x dx.size0 rx.2 rw.2) (rowPairs dx.size1 dw.size1) b0, ?ran, updEntries_frame _ _ b0, ?entries⟩
  case ran =>
    change execMma a c k s = _
    rw [execMma, engineRun_ready hready 1 hop]
    simp only [show mma (engStart a c k 0 w s).2 (engStart a c k 0 w s).1 = _ from hfin]
    rfl
  case entries =>
    intro m n hn
    rw [bankEntry_updEntries _ b0 (rowPairs_nodup _ _) (fun p hp => Nat.lt_of_lt_of_le (mem_rowPairs.mp hp).2 hrw) m hn]
    simp only [mem_rowPairs]
    rfl

end Sys2Proof.Proofs

namespace Sys2Proof.Proofs

open Sys2Proof Sys2Proof.Machine Sys2Proof.Laws

/-! ### Memory accesses leave the queue table alone -/

section MemoryQueues

variable (who : Who) (inBank : Bool) (space a off : Nat) (s : State)

@[simp] theorem latchEvent_queues (kind : Nat) : (latchEvent kind space a who s).queues = s.queues := by
  unfold latchEvent
  dsimp only
  split <;> simp

@[simp] theorem meetEvent_queues (kind : Nat) : (meetEvent kind space a who s).queues = s.queues := by
  unfold meetEvent
  split <;> simp

@[simp] theorem latchFound_queues : (latchFound who s).queues = s.queues := by
  unfold latchFound
  dsimp only
  split
  · simp
  · split <;> simp

@[simp] theorem countCorr_queues : (countCorr space a s).queues = s.queues := rfl
@[simp] theorem countPoisonRd_queues : (countPoisonRd space a s).queues = s.queues := rfl
@[simp] theorem countUncorr_queues : (countUncorr space a s).queues = s.queues := rfl
@[simp] theorem countRetries_queues (n k : Nat) : (countRetries n k s).queues = s.queues := rfl
@[simp] theorem wordCorr_queues : (wordCorr a s).queues = s.queues := rfl
@[simp] theorem rewritePoison_queues (pa : Nat) (data : List Byte) : (rewritePoison a pa data s).queues = s.queues := rfl

@[simp] theorem countSymbol_queues (n ch byte diff : Nat) : (countSymbol n ch byte diff s).queues = s.queues :=
  overList_keeps (p := fun t : State => t.queues = s.queues) (fun b t ht => by split <;> exact ht) _ rfl

@[simp] theorem fixValid_queues (pa : Nat) : (fixValid space a pa s).queues = s.queues := by
  unfold fixValid
  dsimp only
  split <;> simp

@[simp] theorem fillRow_queues (pa : Nat) : (fillRow space a pa s).queues = s.queues := by
  unfold fillRow
  dsimp only
  split <;> simp

@[simp] theorem afterWrite_queues (data : List Byte) (poisoned : Bool) : (afterWrite a data poisoned s).queues = s.queues := by
  unfold afterWrite
  dsimp only
  split
  · exact overList_keeps (p := fun t : State => t.queues = s.queues) (fun e t ht => by simpa using ht) _ rfl
  · rfl

@[simp] theorem smStore_queues (data : List Byte) (poisoned : Bool) : (smStore a data poisoned s).queues = s.queues := by
  simp [smStore]

@[simp] theorem sramStore_queues (w : Nat) (poisoned : Bool) : (sramStore space a w poisoned s).queues = s.queues := by
  simp [sramStore]

@[simp] theorem smReadWord_queues : (smReadWord who inBank a s).1.queues = s.queues := by
  unfold smReadWord
  dsimp only
  split
  · simp
  · simp
  · simp
  · split <;> simp
  · split <;> simp

@[simp] theorem smWriteWord_queues (bs : List PByte) : (smWriteWord who a off bs s).queues = s.queues := by
  unfold smWriteWord
  dsimp only
  split
  · simp
  · split <;> simp

@[simp] theorem sramReadWord_queues : (sramReadWord who space a s).1.queues = s.queues := by
  unfold sramReadWord
  dsimp only
  split <;> simp

@[simp] theorem sramWriteWord_queues (bs : List PByte) : (sramWriteWord who space a off bs s).queues = s.queues := by
  unfold sramWriteWord
  dsimp only
  split
  · simp
  · split <;> simp

@[simp] theorem readWord_queues : (readWord who inBank space a s).1.queues = s.queues := by
  unfold readWord
  split
  · simp
  · split
    · dsimp only
      split <;> rfl
    · simp

@[simp] theorem writeWord_queues (bs : List PByte) : (writeWord who space a off bs s).queues = s.queues := by
  unfold writeWord
  split
  · simp
  · split <;> simp

@[simp] theorem readWords_queues (k : Nat) : (readWords who inBank space a k s).1.queues = s.queues := by
  induction k generalizing a s with
  | zero => rfl
  | succ k ih => exact (ih _ _).trans (readWord_queues who inBank space a s)

@[simp] theorem readPiece_queues (k : Nat) : (readPiece who inBank space a k s).1.queues = s.queues := by
  unfold readPiece
  dsimp only
  split
  · dsimp only
    split <;> simp
  · simp only [latchFound_queues]
    split <;> simp

@[simp] theorem readPieces_queues (pw fuel i k : Nat) : (readPieces who inBank space pw fuel i k s).1.queues = s.queues := by
  induction fuel generalizing i k s with
  | zero => rfl
  | succ fuel ih =>
    unfold readPieces
    split
    · rfl
    · exact (ih _ _ _).trans (readPiece_queues _ _ _ _ _ _)

@[simp] theorem memRead_queues (n : Nat) : (memRead who inBank space a n s).1.queues = s.queues := by
  unfold memRead
  split
  · rfl
  · exact readPieces_queues _ _ _ _ _ _ _ _

@[simp] theorem memReadNat_queues (k : Nat) : (memReadNat who space a k s).1.queues = s.queues := memRead_queues _ _ _ _ _ _

@[simp] theorem writeWords_queues (fuel : Nat) (bs : List PByte) : (writeWords who space fuel a bs s).queues = s.queues := by
  induction fuel generalizing a bs s with
  | zero => rfl
  | succ fuel ih =>
    unfold writeWords
    split
    · rfl
    · exact (ih _ _ _).trans (writeWord_queues _ _ _ _ _ _)

@[simp] theorem memWrite_queues (bs : List PByte) : (memWrite who space a bs s).queues = s.queues := writeWords_queues _ _ _ _ _ _

/-! ### So do the writes that a part of the module posts -/

@[simp] theorem countNp_queues (n k : Nat) : (countNp n k s).queues = s.queues := rfl

@[simp] theorem wakeStack_queues (n : Nat) : (wakeStack n s).queues = s.queues := by
  unfold wakeStack
  split
  · simp
  · split <;> rfl

@[simp] theorem sendSnoop_queues (line : Nat) (data : Bool) : (sendSnoop line data s).queues = s.queues := by
  unfold sendSnoop
  dsimp only
  split <;> rfl

@[simp] theorem recallRange_queues (len : Nat) (write : Bool) : (recallRange a len write s).queues = s.queues :=
  overList_keeps (p := fun t : State => t.queues = s.queues) (fun line t ht => (sendSnoop_queues t line _).trans ht) _ rfl

@[simp] theorem rangeAsk_queues (len : Nat) (write : Bool) : (rangeAsk space a len write s).queues = s.queues := by
  unfold rangeAsk
  split <;> simp

@[simp] theorem postWrite_queues (source : Nat) (bs : List PByte) (note : PostNote) :
    (postWrite who source a bs note s).1.queues = s.queues := by
  unfold postWrite
  split <;> simp

@[simp] theorem writeBack_queues (q : Nat) : (writeBack q s).queues = s.queues := postWrite_queues _ _ _ _ _ _

@[simp] theorem prefenNeed_queues (len : Nat) (write : Bool) : (prefenNeed space a len write s).queues = s.queues := by
  unfold prefenNeed
  split <;> rfl

@[simp] theorem smithStore_queues (bs : List Byte) : (smithStore a bs s).queues = s.queues := by simp [smithStore]

end MemoryQueues

/-! ### QUEUE_ENABLE and the queue table -/

/-- The entry of a queue that QUEUE_ENABLE has just filled from its record: its indexes at the start, and as many generations as the
entry it replaces held, and one (R268, R269). -/
def enabledQueue (q start w0 w1 w2 : Nat) (s : State) : Queue :=
  let g := (memReadNat (schedWho 0) 4 (qtAddr s q + 60) 4 s).2
  { ringBase := w0, jrnlBase := w1, ringSpace := natBits w2 63 60, jrnlSpace := natBits w2 59 56, lg := natBits w2 55 51,
    ckind := natBits w2 50 48, stamp := natBit w2 47, ckey := natBits w2 31 0, prod := start, taken := start, done := start,
    gen := ((if g.2 then 0 else g.1) + 1) % 2 ^ 32 }

/-- QUEUE_ENABLE of a queue of no Tongs channel fills its entry, notes the state it shows and writes the entry back (R268, R269). -/
theorem enableQueue_eq {q start w0 w1 w2 : Nat} (s : State) (hkind : natBits w2 50 48 ≠ 3) : ∃ t : State,
    enableQueue q start w0 w1 w2 s = writeBack q (setQueue q { queue t q with shown := qstate t q } t) ∧
    t.queues = tabSet {} s.queues q (enabledQueue q start w0 w1 w2 s) := by
  refine ⟨setQueue q (enabledQueue q start w0 w1 w2 s) (smithStore (qtAddr s q) (leBytes 8 w0 ++ leBytes 8 w1 ++ leBytes 8 w2)
    (memReadNat (schedWho 0) 4 (qtAddr s q + 60) 4 s).1), ?_, ?_⟩
  · simp only [enableQueue, if_neg hkind]
    rfl
  · simp [setQueue]

/-- Every other entry is as it was. -/
theorem queue_enableQueue_other {q k start w0 w1 w2 : Nat} (s : State) (hkind : natBits w2 50 48 ≠ 3) (hk : k ≠ q) :
    queue (enableQueue q start w0 w1 w2 s) k = queue s k := by
  obtain ⟨t, heq, ht⟩ := enableQueue_eq (q := q) (start := start) (w0 := w0) (w1 := w1) s hkind
  simp only [heq, queue, writeBack_queues, setQueue, ht, tabGet_tabSet_other _ _ hk]

/-- The entry itself is the one filled from the record, but for the state that it shows. -/
theorem queue_enableQueue_same {q start w0 w1 w2 : Nat} {s : State} (hkind : natBits w2 50 48 ≠ 3)
    (hwf : tabWf (fun _ => ({} : Queue)) s.queues = true) : ∃ st,
    queue (enableQueue q start w0 w1 w2 s) q = { enabledQueue q start w0 w1 w2 s with shown := st } := by
  obtain ⟨t, heq, ht⟩ := enableQueue_eq (q := q) (start := start) (w0 := w0) (w1 := w1) s hkind
  have hentry : queue t q = enabledQueue q start w0 w1 w2 s := by rw [queue, ht, tabGet_tabSet_same q _ hwf]
  have htwf : tabWf (fun _ => ({} : Queue)) t.queues = true := ht ▸ tabWf_tabSet_const q _ hwf
  refine ⟨qstate t q, ?_⟩
  rw [heq, ← hentry]
  simp only [queue, writeBack_queues, setQueue, tabGet_tabSet_same q _ htwf]

/-! ### Rows of Prefen's, by what their act comes to -/

/-- A ready mailbox request answers with what its row's act comes to on its payload. -/
theorem mb_answers_eq {m : Fin 16} {op : Nat} {s t : State} {i : Instr} {act : List Nat → State → State}
    (hi : exec i s = prefenRow s (mbCmd m.val op act)) (ht : act (cmdWords (.mailbox m) s) (cmdStart (.mailbox m) s) = t)
    (h : CmdReady (.mailbox m) op 1 s) : prefenAnswers i s t :=
  ht ▸ mb_answers i act h hi

/-! ### Guards of Prefen's rows -/

/-- A check of what holds passes, a check of what does not hold stops the command, and so for a check of a number. -/
theorem guard_passed {b : Bool} (h : b = true) : ¬ ((!b) = true) := by simp [h]
theorem guard_stops {b : Bool} (h : b = false) : (!b) = true := by simp [h]
theorem bne_passed {n k : Nat} (h : n = k) : ¬ ((n != k) = true) := by simp [h]

/-- What is not in host memory, or may be read there now, keeps no load waiting (R395). -/
theorem hostGuard_passed {sp : Nat} {s : State} (h : sp ≠ 5 ∨ hmOpen s 0 = true) : ¬ ((sp == 5 && !hmOpen s 0) = true) := by
  rcases h with h | h <;> simp [h]

/-! ### The end of a model load -/

/-- The load in hand of a tag may end now: Prefen and its group are ready, it awaits no member, no step runs, and no stack that it has
programs for works on a command (R178, R360). -/
structure LoadEnds (tag : BitVec 32) (o : AsyncOp) (mp : List (Fin 20 × Fin 256 × Word)) (s : State) : Prop where
  live : running s = true
  found : s.prefen.ops.find? (fun o => o.op == 0x40 && o.tag == tag.toNat) = some o
  ready : prefenReady s = true
  free : groupFree s = true
  awaits : o.awaits = []
  step : s.prefen.step.on = false
  idle : mp.any (fun e => swgBusy s e.1.val) = false

section ModelLoadEnd

variable {tag : BitVec 32} {o : AsyncOp} {mp : List (Fin 20 × Fin 256 × Word)} {s : State}

/-- What lets a load end is as it was when Prefen's row starts. -/
theorem LoadEnds.start (h : LoadEnds tag o mp s) : LoadEnds tag o mp (prefenStart s) :=
  ⟨h.live, h.found, h.ready, h.free, h.awaits, h.step, h.idle⟩

/-- Nothing that a load waits for keeps it waiting. -/
theorem LoadEnds.guard_passed (h : LoadEnds tag o mp s) : ¬ ((!prefenReady s || !groupFree s || !o.awaits.isEmpty
    || s.prefen.step.on || mp.any (fun e => swgBusy s e.1.val)) = true) := by
  simp [h.ready, h.free, h.awaits, h.step, h.idle]

theorem exec_modelLoadCommit : exec (.modelLoadCommit tag mp) s = execModelLoadCommit tag mp s := rfl

variable (h : LoadEnds tag o mp s)
include h

/-- A load whose build the members of the group were told of ends as they answered (R360 step 4). -/
theorem modelLoadCommit_built {b : Build} (hb : o.built = some b) : prefenAnswers (.modelLoadCommit tag mp) s
    (if o.failed = 0 then adoptBuild o b (prefenStart s) else failLoad o o.failed (prefenStart s)) := by
  refine prefenRow_next _ _ _ _ exec_modelLoadCommit h.live ?_
  simp only [h.start.found, if_neg h.start.guard_passed, hb, done]

variable (hb : o.built = none) (hm : natBits (nth o.words 1 0) 63 60 ≠ 5 ∨ hmOpen s 0 = true)
include hb hm

/-- A manifest that does not give a build ends the load with its status (R360). -/
theorem modelLoadCommit_failed {u : State} {st : Nat} (hl : loadBuild o.words (prefenStart s) = (u, .error st)) :
    prefenAnswers (.modelLoadCommit tag mp) s (failLoad o st u) := by
  refine prefenRow_next _ _ _ _ exec_modelLoadCommit h.live ?_
  simp only [h.start.found, if_neg h.start.guard_passed, hb, if_neg (hostGuard_passed (s := prefenStart s) hm), hl, done]

/-- A manifest that gives a build has its programs written, and then it is current, or the other members are told of it (R178, R360). -/
theorem modelLoadCommit_loaded {u : State} {b : Build} (hl : loadBuild o.words (prefenStart s) = (u, .ok b)) :
    prefenAnswers (.modelLoadCommit tag mp) s (if (memberPositions (writePrograms mp u)).isEmpty then adoptBuild o b (writePrograms mp u)
      else tellMembers [msgForward, o.tag, 0x40]
        (setOp { o with built := some b, awaits := memberPositions (writePrograms mp u) } (writePrograms mp u))) := by
  refine prefenRow_next _ _ _ _ exec_modelLoadCommit h.live ?_
  simp only [h.start.found, if_neg h.start.guard_passed, hb, if_neg (hostGuard_passed (s := prefenStart s) hm), hl, done]

end ModelLoadEnd

/-! ### The end of an adapter load -/

/-- The load in hand of an adapter may end now: Prefen, its group and its serial order are ready (R348, R361). -/
structure PublishEnds (tag : BitVec 32) (o : AsyncOp) (s : State) : Prop where
  live : running s = true
  found : s.prefen.ops.find? (fun o => o.op == 0x50 && o.tag == tag.toNat) = some o
  ready : prefenReady s = true
  free : groupFree s = true
  serial : serialFree s = true

section AdapterLoadEnd

variable {tag : BitVec 32} {o : AsyncOp} {s : State}

/-- What lets a publication happen is as it was when Prefen's row starts. -/
theorem PublishEnds.start (h : PublishEnds tag o s) : PublishEnds tag o (prefenStart s) :=
  ⟨h.live, h.found, h.ready, h.free, h.serial⟩

/-- Nothing that a publication waits for keeps it waiting. -/
theorem PublishEnds.guard_passed (h : PublishEnds tag o s) :
    ¬ ((!prefenReady s || !groupFree s || !serialFree s) = true) := by
  simp [h.ready, h.free, h.serial]

theorem exec_adapterPublish {r : AdapterEnd} : exec (.adapterPublish tag r) s = execAdapterPublish tag r s := rfl

variable (h : PublishEnds tag o s)
include h

/-- An image that does not pass its check, or finds no room, ends the load with that status (R361). -/
theorem adapterPublish_bad : prefenAnswers (.adapterPublish tag .bad) s (endOp o stManifestBad 0 false (prefenStart s)) := by
  refine prefenRow_next _ _ _ _ exec_adapterPublish h.live ?_
  simp only [h.start.found, if_neg h.start.guard_passed, done]

theorem adapterPublish_full : prefenAnswers (.adapterPublish tag .full) s (endOp o stNoMemory 0 false (prefenStart s)) := by
  refine prefenRow_next _ _ _ _ exec_adapterPublish h.live ?_
  simp only [h.start.found, if_neg h.start.guard_passed, done]

variable {ts : List (List Nat × Nat × Nat)} {sp image : Nat} (hsp : natBits (nth o.words 2 0) 63 60 = sp)
  (himage : nth o.words 1 0 = image)
include hsp himage

/-- The first tensor whose place is no good ends the load with its status (R361). -/
theorem adapterPublish_badPlace {t : Tensor}
    (ht : (ts.map (adapterTensor sp image)).find? (fun t => tensorStatus (prefenStart s) t != 0) = some t) :
    prefenAnswers (.adapterPublish tag (.placed ts)) s (endOp o (tensorStatus (prefenStart s) t) 0 false (prefenStart s)) := by
  refine prefenRow_next _ _ _ _ exec_adapterPublish h.live ?_
  simp only [h.start.found, if_neg h.start.guard_passed, hsp, himage, ht, done]

variable (hplace : (ts.map (adapterTensor sp image)).find? (fun t => tensorStatus (prefenStart s) t != 0) = none)
  (hm : sp ≠ 5 ∨ hmOpen s 0 = true)
include hplace hm

/-- A tensor that does not stand inside the image ends the load (R361). -/
theorem adapterPublish_beyond (hb : ts.any (fun e => decide (natBits (nth o.words 2 0) 31 0 < e.2.1 + e.2.2)) = true) :
    prefenAnswers (.adapterPublish tag (.placed ts)) s (endOp o stManifestBad 0 false (prefenStart s)) := by
  refine prefenRow_next _ _ _ _ exec_adapterPublish h.live ?_
  simp only [h.start.found, if_neg h.start.guard_passed, hsp, himage, hplace, if_neg (hostGuard_passed (s := prefenStart s) hm),
    if_pos hb, done]

variable (hb : ts.any (fun e => decide (natBits (nth o.words 2 0) 31 0 < e.2.1 + e.2.2)) = false)
include hb

/-- A tensor whose bytes read as poison ends the load (R361). -/
theorem adapterPublish_poison {u : State} (hl : loadAdapter sp (ts.map (adapterTensor sp image)) (prefenStart s) = (u, none)) :
    prefenAnswers (.adapterPublish tag (.placed ts)) s (endOp o stManifestBad 0 false u) := by
  refine prefenRow_next _ _ _ _ exec_adapterPublish h.live ?_
  simp only [h.start.found, if_neg h.start.guard_passed, hsp, himage, hplace, if_neg (hostGuard_passed (s := prefenStart s) hm),
    hb, hl, done, Bool.false_eq_true, if_false]

/-- Else the next version of the slot stands, and it is current (R298, R361). -/
theorem adapterPublish_published {u : State} {l : List Tensor}
    (hl : loadAdapter sp (ts.map (adapterTensor sp image)) (prefenStart s) = (u, some l)) :
    let k := natBits (nth o.words 0 0) 15 0
    let v := nextVersion (adapter u k).current
    let ver : Version := { num := v, image := image, space := sp, bytes := natBits (nth o.words 2 0) 31 0, tensors := l }
    prefenAnswers (.adapterPublish tag (.placed ts)) s
      (endOp o 0 v false (setAdapter k { versions := (adapter u k).versions ++ [ver], current := v } u)) := by
  refine prefenRow_next _ _ _ _ exec_adapterPublish h.live ?_
  simp only [h.start.found, if_neg h.start.guard_passed, hsp, himage, hplace, if_neg (hostGuard_passed (s := prefenStart s) hm),
    hb, hl, done, Bool.false_eq_true, if_false]

end AdapterLoadEnd

/-! ### QUEUE_FLUSH -/

/-- A stopped queue has its waiting commands journaled FLUSHED, and their number is the answer (R271). -/
theorem queueFlush_answers {m : Fin 16} {q n : Nat} {s t : State} (hq : natBits (nth (cmdWords (.mailbox m) s) 0 0) 19 0 = q)
    (hst : qstate (cmdStart (.mailbox m) s) q = 4)
    (hf : flushQueue q (queue (cmdStart (.mailbox m) s) q).prod
      (diff32 (queue (cmdStart (.mailbox m) s) q).prod (queue (cmdStart (.mailbox m) s) q).taken) 0 (cmdStart (.mailbox m) s) = (t, n))
    (h : CmdReady (.mailbox m) 0x63 1 s) : prefenAnswers (.queueFlush m) s (respond m.val 0 [n] (syncQueue q t)) := by
  subst hq
  refine mb_answers_eq rfl ?_ h
  extract_lets q x
  rw [if_neg (bne_passed hst), show flushQueue q x.prod (diff32 x.prod x.taken) 0 (cmdStart (.mailbox m) s) = (t, n) from hf]

/-- Settles O51: each command's checks in their order, the ends of the two loads by the rules above, and the queue table after
QUEUE_ENABLE by queue_enableQueue_same and queue_enableQueue_other. -/
theorem modelsAdaptersAndQueues : Obligations.ModelsAdaptersAndQueues := by
  unfold Obligations.ModelsAdaptersAndQueues
  intro m s c s0 s1 w slot q does refuses
  refine ⟨?modelLoad, ?modelLoadEnd, ?modelUnload, ?adapterLoad, ?adapterLoadEnd, ?adapterRemove, ?queueEnable, ?queueDisable,
    ?queueNotStopped, ?queueStopped⟩
  case modelLoad =>
    intro space known dead
    refine ⟨fun hk => mb_answers_eq rfl ?badSpace, fun hk hd => mb_answers_eq rfl ?deadStack,
      fun hk hd hl => mb_answers_eq rfl ?loading, fun hk hd hl => mb_answers_eq rfl ?accepted⟩
    case badSpace => exact if_pos (guard_stops hk)
    case deadStack => exact (if_neg (guard_passed hk)).trans (if_pos hd)
    case loading => exact (if_neg (guard_passed hk)).trans ((if_neg (Bool.eq_false_iff.mp hd)).trans (if_pos hl))
    case accepted =>
      exact (if_neg (guard_passed hk)).trans ((if_neg (Bool.eq_false_iff.mp hd)).trans (if_neg (Bool.eq_false_iff.mp hl)))
  case modelLoadEnd =>
    intro tag o mp hr hop hready hfree hawaits hstep hbusy adopts fails
    have hends : LoadEnds tag o mp s := ⟨hr, hop, hready, hfree, hawaits, hstep, hbusy⟩
    refine ⟨fun b hb => modelLoadCommit_built hends hb, fun hb hm => ⟨fun st hl => ?failed, fun b hl =>
      ⟨fun hp => ?alone, fun hp => ?group⟩⟩⟩
    case failed => exact modelLoadCommit_failed hends hb hm (Prod.ext rfl hl)
    case alone =>
      have hrow := modelLoadCommit_loaded hends hb hm (Prod.ext rfl hl)
      rwa [if_pos (List.isEmpty_iff.mpr hp)] at hrow
    case group =>
      have hrow := modelLoadCommit_loaded hends hb hm (Prod.ext rfl hl)
      rwa [if_neg (Bool.eq_false_iff.mp (List.isEmpty_eq_false_iff.mpr hp))] at hrow
  case modelUnload =>
    intro free
    refine ⟨fun hf => mb_answers_eq rfl ?noModel, fun hf hs => mb_answers_eq rfl ?sessions, fun hf hs hp => mb_answers_eq rfl ?alone,
      fun hf hs hp => mb_answers_eq rfl ?group⟩
    case noModel => exact if_pos (guard_stops hf)
    case sessions => exact (if_neg (guard_passed hf)).trans (if_pos (guard_stops (List.isEmpty_eq_false_iff.mpr hs)))
    case alone =>
      exact (if_neg (guard_passed hf)).trans ((if_neg (guard_passed (List.isEmpty_iff.mpr hs))).trans (if_pos (List.isEmpty_iff.mpr hp)))
    case group =>
      have hmembers : ¬ ((memberPositions s1).isEmpty = true) := Bool.eq_false_iff.mp (List.isEmpty_eq_false_iff.mpr hp)
      exact (if_neg (guard_passed hf)).trans ((if_neg (guard_passed (List.isEmpty_iff.mpr hs))).trans
        ((if_neg hmembers).trans (if_neg hmembers)))
  case adapterLoad =>
    intro space known
    have hguard : (decide (adapterSlots ≤ slot) || !(space == 4 || space == 5)) = !known := by
      have hslot : decide (adapterSlots ≤ slot) = !decide (slot < 4096) := by
        rw [← decide_not]
        exact decide_eq_decide.mpr Nat.not_lt.symm
      rw [hslot, ← Bool.not_and]
    have hstops (hk : known = false) := hguard.trans (guard_stops hk)
    have hpassed (hk : known = true) := Bool.eq_false_iff.mp (hguard.trans (congrArg _ hk))
    refine ⟨fun hk => mb_answers_eq rfl ?badParam, fun hk hb => mb_answers_eq rfl ?noModel, fun hk hb hl => mb_answers_eq rfl ?full,
      fun hk hb hl => mb_answers_eq rfl ?accepted⟩
    case badParam => exact if_pos (hstops hk)
    case noModel => exact (if_neg (hpassed hk)).trans (if_pos (bne_iff_ne.mpr hb))
    case full => exact (if_neg (hpassed hk)).trans ((if_neg (bne_passed hb)).trans (if_pos hl))
    case accepted => exact (if_neg (hpassed hk)).trans ((if_neg (bne_passed hb)).trans (if_neg (Nat.not_le.mpr hl)))
  case adapterLoadEnd =>
    intro tag r ts o hr hop hready hfree hserial k image sp n l ends beyond
    have hends : PublishEnds tag o s := ⟨hr, hop, hready, hfree, hserial⟩
    refine ⟨?bad, ?full, ?badPlace, fun hres hplace hm => ⟨?beyond, ?poison, ?published⟩⟩
    case bad => rintro rfl; exact adapterPublish_bad hends
    case full => rintro rfl; exact adapterPublish_full hends
    case badPlace => rintro t rfl ht; exact adapterPublish_badPlace hends rfl rfl ht
    case beyond => subst hres; exact adapterPublish_beyond hends rfl rfl hplace hm
    case poison => subst hres; exact fun hb hl => adapterPublish_poison hends rfl rfl hplace hm hb (Prod.ext rfl hl)
    case published => subst hres; exact fun l' hb hl => adapterPublish_published hends rfl rfl hplace hm hb (Prod.ext rfl hl)
  case adapterRemove =>
    intro l pinned
    refine ⟨fun hk => mb_answers_eq rfl ?badParam, fun hk hl => mb_answers_eq rfl ?absent, fun hk hl hp => mb_answers_eq rfl ?pinned,
      fun hk hl hp => mb_answers_eq rfl ?removed⟩
    case badParam => exact if_pos hk
    case absent => exact (if_neg (Nat.not_le.mpr hk)).trans (if_pos (List.isEmpty_iff.mpr hl))
    case pinned =>
      exact (if_neg (Nat.not_le.mpr hk)).trans ((if_neg (Bool.eq_false_iff.mp (List.isEmpty_eq_false_iff.mpr hl))).trans (if_pos hp))
    case removed =>
      exact (if_neg (Nat.not_le.mpr hk)).trans ((if_neg (Bool.eq_false_iff.mp (List.isEmpty_eq_false_iff.mpr hl))).trans
        (if_neg (Bool.eq_false_iff.mp hp)))
  case queueEnable =>
    intro w2 start r fits taken u
    refine ⟨fun hf => mb_answers_eq rfl ?badParam, fun hf hq => mb_answers_eq rfl ?inUse, fun hf hq ht => mb_answers_eq rfl ?busy,
      fun hf hq ht => mb_answers_eq rfl ?enabled, fun _ hkind hwf => ?table⟩
    case badParam => exact if_pos (guard_stops hf)
    case inUse => exact (if_neg (guard_passed hf)).trans (if_pos (bne_iff_ne.mpr hq))
    case busy => exact (if_neg (guard_passed hf)).trans ((if_neg (bne_passed hq)).trans (if_pos ht))
    case enabled => exact (if_neg (guard_passed hf)).trans ((if_neg (bne_passed hq)).trans (if_neg (Bool.eq_false_iff.mp ht)))
    case table =>
      obtain ⟨st, hentry⟩ := queue_enableQueue_same (q := q) (start := start) (w0 := nth w 2 0) (w1 := nth w 3 0) (s := s1) hkind hwf
      intro y
      have hy : y = { enabledQueue q start (nth w 2 0) (nth w 3 0) w2 s1 with shown := st } := hentry
      rw [hy]
      exact ⟨rfl, rfl, rfl, rfl, rfl, rfl, rfl, rfl, fun k hk => queue_enableQueue_other s1 hkind hk⟩
  case queueDisable =>
    intro x r u u'
    have hmay : qstate s1 q = 1 ∨ qstate s1 q = 4 ↔ ¬ ((qstate s1 q != 1 && qstate s1 q != 4) = true) := by
      simp only [Bool.and_eq_true, bne_iff_ne, ne_eq, Classical.not_and_iff_not_or_not, Classical.not_not]
    refine ⟨fun hq => mb_answers_eq rfl ?disabled, fun h0 h1 h4 => mb_answers_eq rfl ?busy, fun hq => mb_answers_eq rfl ?idle⟩
    case disabled => exact if_pos hq
    case busy => exact (if_neg h0).trans (if_pos (Bool.and_eq_true_iff.mpr ⟨bne_iff_ne.mpr h1, bne_iff_ne.mpr h4⟩))
    case idle =>
      have hon : ¬ (qstate s1 q = 0) := by omega
      exact (if_neg hon).trans (if_neg (hmay.mp hq))
  case queueNotStopped =>
    exact fun hq => ⟨mb_answers_eq rfl (if_pos (bne_iff_ne.mpr hq)), mb_answers_eq rfl (if_pos (bne_iff_ne.mpr hq))⟩
  case queueStopped =>
    exact fun hq => ⟨mb_answers_eq rfl (if_neg (bne_passed hq)), queueFlush_answers rfl hq (Prod.eta _).symm⟩

end Sys2Proof.Proofs

namespace Sys2Proof.Proofs

open Sys2Proof Sys2Proof.Machine Sys2Proof.Laws

/-! ### Register writes and registers that keep their value -/

/-- A register write is carried out while the module runs and has not failed (R452, R464). -/
theorem liveWrite_of_running {s : State} (hr : running s = true) (hf : stageFailed s = false)
    (o : Host.Outcome State Fault Refusal) : liveWrite s o = o := by
  rw [liveWrite, if_pos hr, if_neg (Bool.eq_false_iff.mp hf)]

/-- A field put back as it was leaves the word as it was. -/
theorem withField_fieldOf (w : Word) {hi lo : Nat} (h : lo ≤ hi) : withField w hi lo (fieldOf w hi lo) = w := by
  have hsplit := split_at_field w.toNat hi lo h
  have hfit : natBits w.toNat hi lo % 2 ^ (hi + 1 - lo) = natBits w.toNat hi lo := Nat.mod_eq_of_lt (natBits_lt _ _ _)
  rw [withField, fieldOf, hfit, Nat.sub_add_cancel (by omega), BitVec.ofNat_toNat, BitVec.setWidth_eq]

/-- A field counted up by nothing leaves every register as it reads. -/
theorem rg_bumpRf_zero {s : State} {hi lo : Nat} (o o' : Nat) (hs : tabWf regReset s.regs = true) (h : lo ≤ hi) :
    rg (bumpRf o hi lo 0 s) o' = rg s o' := by
  rw [bumpRf, setRf, Nat.add_zero, rf, withField_fieldOf _ h]
  by_cases ho : o' = o
  · rw [ho, rg_setRg_same o _ hs]
  · exact rg_setRg_other s _ ho

/-! ### Yield points -/

/-- A yield point of a unit that works on a command is offered (R125, R185). -/
theorem exec_yieldPoint {n : Fin 20} {u : Fin 512} {s : State} (hr : running s = true) (hp : (stackRun s n.val).phase = 3)
    (hd : (tabGet ({} : SwgUnit) s.units (n.val * 512 + u.val)).isDone = false) (hh : (hearth s (hxStack n.val)).halted = false) :
    exec (.yieldPoint n u) s = .next (offerYield n.val u.val s) := by
  change execYieldPoint n u s = _
  rw [execYieldPoint, live_of_running hr]
  exact if_neg (by rw [hp, hd, hh]; decide)

/-- Where nothing is queued or held, nothing is tried again. -/
theorem yieldPaths_of_idle (n : Nat) {s : State} (hb : s.burstQ = []) (hh : s.held = []) : yieldPaths n s = s := by
  have hdrain : drainBursts s = s := by
    rw [drainBursts, hb, overList, ← hb]
  rw [yieldPaths, hdrain, release, hh, List.filter_nil, List.filter_nil, overList, ← hh]

theorem moveYielded_of_off {n : Nat} (u : Nat) {s : State} (h : (tabGet ({} : RMove) s.rmove n).on = false) :
    moveYielded n u s = s := by
  simp [moveYielded, h]

theorem issuePostponed_of_none (slice : Nat) {s : State} (h : s.postponed = []) :
    issuePostponed slice s = bumpRf (stkReg (slice / 512) 0x10) 63 32 0 s := by
  rw [issuePostponed, h, List.filter_nil, List.filter_nil, List.foldl_nil, ← h]

/-- A yield point that nothing waits for is counted, and offered (R125, R185). -/
theorem offerYield_of_idle {n : Nat} (u : Nat) {s : State} (hb : s.burstQ = []) (hh : s.held = []) (hp : s.postponed = [])
    (ha : s.asks = []) (hm : (tabGet ({} : RMove) s.rmove n).on = false) :
    offerYield n u s = bumpRf (stkReg ((n * 512 + u) / 512) 0x10) 63 32 0
      (setUnitCount n u { unitCount s n u with offered := ((unitCount s n u).offered + 1) % 2 ^ 32,
                                               paused := (unitCount s n u).paused % 2 ^ 32 }
        { s with yielded := tabSet 0 s.yielded (n * 512 + u) 1 }) := by
  have hnone : (tabGet false s.asks (n * 512 + u) || s.burstQ.any (fun r => sliceOf r.addr == n * 512 + u)) = false := by
    rw [ha, hb]; rfl
  have hasks : tabSet false s.asks (n * 512 + u) false = s.asks := by rw [ha]; rfl
  simp only [offerYield, hnone, setUnitCount, hasks]
  rw [issuePostponed_of_none _ (by exact hp), moveYielded_of_off _ (by exact hm), yieldPaths_of_idle _ (by exact hb) (by exact hh)]
  rfl

/-- Settles O16: the offered yield point, and what it comes to with nothing waiting for it. -/
theorem yieldPointsAreCounted : Obligations.YieldPointsAreCounted := by
  unfold Obligations.YieldPointsAreCounted
  intro n u s hr hp hd hh x c asked s1
  refine ⟨exec_yieldPoint hr hp hd hh, fun hb hheld hpost hasks hmove hwf => ?_⟩
  have hregs : tabWf regReset s.regs = true := wf_regs hwf
  refine ⟨_, (exec_yieldPoint hr hp hd hh).trans (congrArg _ (offerYield_of_idle u.val hb hheld hpost hasks hmove)),
    ⟨rfl, fun o _ => ?_⟩, rfl, rfl⟩
  exact rg_bumpRf_zero _ o (s := setUnitCount n.val u.val _ _) (by exact hregs) (by decide)

/-! ### Refresh and re-centring -/

/-- With no lane due for repair there is nothing to repair. -/
theorem repairDue_of_none (n ch : Nat) {s : State} (h : s.laneDue = []) : repairDue n ch s = s := by
  rw [repairDue, h]; rfl

section Refresh

variable {n : Fin 20} {ch : Fin 32} {ly : Fin 16} {bg bank : Fin 4} {bankHeld : Bool} {s : State} (hr : running s = true)
include hr

/-- A refresh of an active stack acts once the due lanes are repaired: it is postponed while a busy unit holds the bank and the
limit allows, else issued with the postponed ones (R129, R130, R135). -/
theorem exec_refreshCommand_active (hsr : srState s n.val = 0) :
    let key := bankKey n.val ch.val ly.val bg.val bank.val
    let k := tabGet 0 s.postponed key
    let s1 := repairDue n.val ch.val s
    exec (.refreshCommand n ch ly bg bank bankHeld) s =
      if (bankHeld && sliceBusy s1 (n.val * 2 ^ 36 + ly.val * 2 ^ 16 + ch.val * 2 ^ 11)
          && decide (k < min 8 (rf s (stkReg n.val 0x10) 7 4))) = true
      then .next { s1 with postponed := tabSet 0 s1.postponed key (k + 1) }
      else .next (bumpRf (stkReg n.val 0x10) 63 32 (k + 1) { s1 with postponed := tabSet 0 s1.postponed key 0 }) := by
  change execRefreshCommand n ch ly bg bank bankHeld s = _
  rw [execRefreshCommand, live_of_running hr]
  exact if_neg (bne_passed hsr)

/-- A channel in service is re-centred, and that is counted (R135). -/
theorem exec_laneRecentre_inService (hst : rf s (chReg n.val ch.val 0) 3 0 = 2 ∨ rf s (chReg n.val ch.val 0) 3 0 = 3) :
    exec (.laneRecentre n ch) s = .next (bumpRf (chReg n.val ch.val 0) 47 32 1 s) := by
  change execLaneRecentre n ch s = _
  rw [execLaneRecentre, live_of_running hr]
  exact if_pos hst

end Refresh

/-- Settles O17: the two ways of a refresh of an active stack, and the re-centre, by their rules above. -/
theorem refreshIsIssuedOrPostponed : Obligations.RefreshIsIssuedOrPostponed := by
  unfold Obligations.RefreshIsIssuedOrPostponed
  intro n ch ly bg bank bankHeld s hr key r a k s1
  refine ⟨repairDue_of_none n.val ch.val, fun hsr hheld => ?issued, fun hsr hheld => ?postponed, exec_laneRecentre_inService hr⟩
  case issued => exact (exec_refreshCommand_active hr hsr).trans (if_neg (Bool.eq_false_iff.mp hheld))
  case postponed => exact (exec_refreshCommand_active hr hsr).trans (if_pos hheld)

/-! ### Self-refresh -/

theorem chReg_ne_stkReg (n ch off : Nat) {k : Nat} (hk : k < 0x1000) : chReg n ch off ≠ stkReg n k := by
  unfold chReg stkReg
  omega

/-- What R131 asks of a stack that is to enter self-refresh. -/
theorem srAllowed_iff {s : State} {n : Nat} : srAllowed s n = true ↔
    (stackRun s n).phase = 0 ∧ (∀ h ∈ s.held, h.stack ≠ n) ∧ (∀ q ∈ s.burstQ, smStack q.addr ≠ n) ∧
      ∀ ch < 32, rf s (chReg n ch 0) 3 0 = 2 ∨ rf s (chReg n ch 0) 3 0 = 3 := by
  simp [srAllowed, and_assoc]

/-- The stack's own registers, STK_SR_CTL among them, have no part in those conditions. -/
theorem srAllowed_setRf (s : State) (n hi lo v : Nat) {k : Nat} (hk : k < 0x1000) :
    srAllowed (setRf (stkReg n k) hi lo v s) n = srAllowed s n := by
  simp only [srAllowed, rf_setRf_other s hi lo v _ _ (chReg_ne_stkReg n _ 0 hk)]
  rfl

/-- The state once a stack's request for self-refresh is noted (R131). -/
def srAsked (n : Nat) (s : State) : State := setRf (stkReg n 0x20) 1 1 0 (setRf (stkReg n 0x20) 0 0 1 s)

theorem srAllowed_srAsked (n : Nat) (s : State) : srAllowed (srAsked n s) n = srAllowed s n :=
  (srAllowed_setRf _ n 1 1 0 (by decide)).trans (srAllowed_setRf s n 0 0 1 (by decide))

section SelfRefresh

variable {n : Fin 20} {s : State} (hr : running s = true)
include hr

/-- A request is noted, and an active stack enters self-refresh or refuses it as R131 has it. -/
theorem exec_srRequest (hf : stageFailed s = false) : exec (.srRequest n) s = .next (syncStack n.val
    (if srState (srAsked n.val s) n.val != 0 then srAsked n.val s
     else if srAllowed s n.val then setRf (stkReg n.val 0x20) 3 2 1 (srAsked n.val s)
     else setRf (stkReg n.val 0x20) 1 1 1 (srAsked n.val s))) := by
  rw [← srAllowed_srAsked n.val s]
  exact liveWrite_of_running hr hf _

theorem exec_srExitRequest (hf : stageFailed s = false) : exec (.srExitRequest n) s = .next (syncStack n.val (wakeStack n.val
    (setRf (stkReg n.val 0x20) 1 1 0 (setRf (stkReg n.val 0x20) 0 0 0 s)))) :=
  liveWrite_of_running hr hf _

theorem exec_srEntryDone (hs : srState s n.val = 1) : exec (.srEntryDone n) s = .next (setRf (stkReg n.val 0x20) 3 2
    (if tabGet false s.srWant n.val || rf s (stkReg n.val 0x20) 0 0 == 0 then 3 else 2)
    { s with srWant := tabSet false s.srWant n.val false }) := by
  change execSrEntryDone n s = _
  rw [execSrEntryDone, live_of_running hr]
  exact if_neg (bne_passed hs)

theorem exec_srExitDone (hs : srState s n.val = 3) :
    exec (.srExitDone n) s = .next (syncStack n.val (release n.val (setRf (stkReg n.val 0x20) 3 2 0 s))) := by
  change execSrExitDone n s = _
  rw [execSrExitDone, live_of_running hr]
  exact if_neg (bne_passed hs)

theorem exec_srIdleReentry (hs : srState s n.val = 0) (hreq : rf s (stkReg n.val 0x20) 0 0 = 1) (hok : srAllowed s n.val = true) :
    exec (.srIdleReentry n) s = .next (syncStack n.val (setRf (stkReg n.val 0x20) 3 2 1 s)) := by
  change execSrIdleReentry n s = _
  rw [execSrIdleReentry, live_of_running hr]
  exact if_neg (by simp [hs, hreq, hok])

end SelfRefresh

/-- Settles O18: each command by its rule above, with R131's conditions as srAllowed_iff states them. -/
theorem selfRefreshStates : Obligations.SelfRefreshStates := by
  unfold Obligations.SelfRefreshStates
  intro n s hr r ok asked left
  have hok : srAllowed s n.val = true ↔ ok := srAllowed_iff
  refine ⟨fun hf hs _ => ⟨fun h => ?enters, fun h => ?refused⟩, fun hf hs => ?notActive, fun hf => ⟨exec_srExitRequest hr hf, fun h => if_pos h⟩,
    fun hs => ?entered, exec_srExitDone hr, fun hs hreq h => exec_srIdleReentry hr hs hreq (hok.mpr h)⟩
  case enters =>
    exact (exec_srRequest hr hf).trans (congrArg _ (congrArg _ ((if_neg (bne_passed hs)).trans (if_pos (hok.mpr h)))))
  case refused =>
    exact (exec_srRequest hr hf).trans (congrArg _ (congrArg _ ((if_neg (bne_passed hs)).trans (if_neg (mt hok.mp h)))))
  case notActive => exact (exec_srRequest hr hf).trans (congrArg _ (congrArg _ (if_pos (bne_iff_ne.mpr hs))))
  case entered => simpa only [Bool.or_eq_true, beq_iff_eq] using exec_srEntryDone hr hs

end Sys2Proof.Proofs

namespace Sys2Proof.Proofs

open Sys2Proof Sys2Proof.Machine Sys2Proof.Laws

/-! ### A field inside a field -/

theorem natBits_natBits (n : Nat) {hi lo hi' lo' : Nat} (hl : lo ≤ lo') (hh : hi' ≤ hi) (h' : lo' ≤ hi') :
    natBits (natBits n hi lo) (hi' - lo) (lo' - lo) = natBits n hi' lo' := by
  refine Nat.eq_of_testBit_eq fun i => ?_
  simp only [natBits, Nat.testBit_mod_two_pow, Nat.testBit_shiftRight, ← Nat.add_assoc, Nat.add_sub_cancel' hl]
  by_cases hlt : i < hi' + 1 - lo'
  · simp [show i < hi' - lo + 1 - (lo' - lo) by omega, show lo' - lo + i < hi + 1 - lo by omega, hlt]
  · simp [show ¬ i < hi' - lo + 1 - (lo' - lo) by omega, hlt]

/-- Where a field is copied from a word, so is every field inside it. -/
theorem fieldOf_withField_inside (w v : Word) {hi lo hi' lo' : Nat} (hw : hi < 64) (hl : lo ≤ lo') (hh : hi' ≤ hi) (h' : lo' ≤ hi') :
    fieldOf (withField w hi lo (fieldOf v hi lo)) hi' lo' = fieldOf v hi' lo' := by
  have hcopy : fieldOf (withField w hi lo (fieldOf v hi lo)) hi lo = fieldOf v hi lo :=
    fieldOf_withField w (by omega) hw (natBits_lt _ _ _)
  rw [fieldOf, ← natBits_natBits _ hl hh h']
  exact (congrArg (natBits · _ _) hcopy).trans (natBits_natBits _ hl hh h')

/-! ### Traffic generator -/

/-- The RW fields of a start write of CH_TG stored (R139). -/
def tgStored (n ch : Nat) (v : Word) (s : State) : State :=
  let c := chReg n ch 0x20
  setRf c 63 32 (fieldOf v 63 32) (setRf c 11 8 (fieldOf v 11 8) (setRf c 4 2 (fieldOf v 4 2) s))

theorem chReg_ne_qchReg (n ch off : Nat) {k : Nat} (hk : k < 0x10000) : qchReg k ≠ chReg n ch off := by
  unfold chReg stkReg qchReg
  omega

theorem resetOrHalted_setRf {s : State} {o : Nat} (ho : qchReg 8 ≠ o) (i hi lo v : Nat) :
    resetOrHalted (setRf o hi lo v s) i = resetOrHalted s i := by
  simp only [resetOrHalted, frozen, rf_setRf_other s hi lo v _ _ ho]
  rfl

section TgStored

variable (n ch : Nat) (v : Word) (s : State)

theorem resetOrHalted_tgStored (i : Nat) : resetOrHalted (tgStored n ch v s) i = resetOrHalted s i := by
  simp only [tgStored, resetOrHalted_setRf (chReg_ne_qchReg n ch _ (by decide))]

theorem rf_tgStored_other {o hi lo : Nat} (ho : o ≠ chReg n ch 0x20) : rf (tgStored n ch v s) o hi lo = rf s o hi lo := by
  simp only [tgStored, rf_setRf_other _ _ _ _ _ _ ho]

variable {s} (hs : tabWf regReset s.regs = true)
include hs

/-- The direction lies inside the field [11:8] that the start write stores. -/
theorem rf_tgStored_dir : rf (tgStored n ch v s) (chReg n ch 0x20) 9 8 = fieldOf v 9 8 := by
  rw [tgStored, rf_setRf_below _ (regs_setRf _ _ _ _ (regs_setRf _ _ _ _ hs)) (by decide) (by decide) (by decide) (by decide), rf,
    setRf, rg_setRg_same _ _ (regs_setRf _ _ _ _ hs)]
  exact fieldOf_withField_inside _ v (by decide) (by decide) (by decide) (by decide)

theorem rf_tgStored_pattern : rf (tgStored n ch v s) (chReg n ch 0x20) 4 2 = fieldOf v 4 2 := by
  rw [tgStored, rf_setRf_below _ (regs_setRf _ _ _ _ (regs_setRf _ _ _ _ hs)) (by decide) (by decide) (by decide) (by decide),
    rf_setRf_below _ (regs_setRf _ _ _ _ hs) (by decide) (by decide) (by decide) (by decide)]
  exact rf_setRf_same hs (by decide) (by decide) (natBits_lt _ _ _)

end TgStored

/-- What R139 asks of a start, as the command finds it once the write is stored. -/
def tgGuard (n ch : Nat) (s : State) : Bool :=
  resetOrHalted s (hxStack n) && rf s (chReg n ch 0) 3 0 != 1 && rf s (chReg n ch 0x20) 9 8 != 3 && rf s (chReg n ch 0x20) 4 2 < 6
    && rf s (chReg n ch 0x28) 31 16 != 0 && rf s (chReg n ch 0x28) 11 0 < 3072

theorem chReg_ne_chReg (n ch : Nat) {off off' : Nat} (h : off ≠ off') : chReg n ch off ≠ chReg n ch off' := by
  unfold chReg stkReg
  omega

/-- It asks it of the state before the write and of the written value. -/
theorem tgGuard_tgStored {n ch : Nat} {v : Word} {s : State} (hs : tabWf regReset s.regs = true) :
    tgGuard n ch (tgStored n ch v s) = true ↔ resetOrHalted s (hxStack n) = true ∧ rf s (chReg n ch 0) 3 0 ≠ 1 ∧
      fieldOf v 9 8 ≠ 3 ∧ fieldOf v 4 2 < 6 ∧ rf s (chReg n ch 0x28) 31 16 ≠ 0 ∧ rf s (chReg n ch 0x28) 11 0 < 3072 := by
  rw [tgGuard, resetOrHalted_tgStored, rf_tgStored_dir n ch v hs, rf_tgStored_pattern n ch v hs,
    rf_tgStored_other n ch v s (chReg_ne_chReg n ch (by decide)), rf_tgStored_other n ch v s (chReg_ne_chReg n ch (by decide)),
    rf_tgStored_other n ch v s (chReg_ne_chReg n ch (by decide))]
  simp only [Bool.and_eq_true, bne_iff_ne, decide_eq_true_eq, and_assoc]

theorem laneBitmaps_eq (n ch : Nat) :
    strideList (chReg n ch 0x40) 8 5 = (List.range 5).map (fun k => chReg n ch (0x40 + 8 * k)) := by
  simp [strideList, List.range_succ, chReg, stkReg, Nat.add_assoc]

section TrafficGenerator

variable {n : Fin 20} {ch : Fin 32} {s : State} (hr : running s = true)
include hr

/-- A start stores its fields; it begins a run where R139 allows it, else it is refused. -/
theorem exec_tgStart (v : Word) (hf : stageFailed s = false) : exec (.tgStart n ch v) s =
    if (!tgGuard n.val ch.val (tgStored n.val ch.val v s)) = true
    then .next (setRf (chReg n.val ch.val 0x38) 3 3 1 (tgStored n.val ch.val v s))
    else .next (setRf (chReg n.val ch.val 0x38) 0 0 1 (resetRegs
      (chReg n.val ch.val 0x38 :: (List.range 5).map (fun k => chReg n.val ch.val (0x40 + 8 * k))) (tgStored n.val ch.val v s))) := by
  rw [← laneBitmaps_eq]
  exact liveWrite_of_running hr hf _

variable {ran : Nat} {bad : List Nat}

/-- A stop ends the run in progress after the current burst, or after the bursts it was given if they are fewer (R140). -/
theorem exec_tgStop_busy (hf : stageFailed s = false) (hb : rf s (chReg n.val ch.val 0x38) 0 0 = 1) :
    exec (.tgStop n ch ran bad) s = .next (tgEnd n.val ch.val (if rf s (chReg n.val ch.val 0x20) 63 32 = 0 then ran
      else min ran (rf s (chReg n.val ch.val 0x20) 63 32)) bad s) :=
  (liveWrite_of_running hr hf _).trans (if_neg (by omega))

/-- With no run in progress a stop changes nothing. -/
theorem exec_tgStop_idle (hf : stageFailed s = false) (hb : rf s (chReg n.val ch.val 0x38) 0 0 = 0) :
    exec (.tgStop n ch ran bad) s = .next s :=
  (liveWrite_of_running hr hf _).trans (if_pos hb)

theorem exec_tgRunDone : exec (.tgRunDone n ch bad) s =
    if (decide (rf s (chReg n.val ch.val 0x38) 0 0 = 0) || decide (rf s (chReg n.val ch.val 0x20) 63 32 = 0)) = true then .next s
    else .next (tgEnd n.val ch.val (rf s (chReg n.val ch.val 0x20) 63 32) bad s) :=
  live_of_running hr _

end TrafficGenerator

/-- Settles O19: start, stop and end by their rules above, with R139's conditions as tgGuard_tgStored states them. -/
theorem trafficGeneratorRuns : Obligations.TrafficGeneratorRuns := by
  unfold Obligations.TrafficGeneratorRuns
  intro n ch v ran bad s hr st ad c ended stored ok
  have hok (hwf : s.wf = true) : tgGuard n.val ch.val stored = true ↔ ok := tgGuard_tgStored (wf_regs hwf)
  refine ⟨fun hf hwf h => ?starts, fun hf hwf h => ?refused, fun hf hb => ⟨fun hz => ?unbounded, fun hz => ?counted⟩,
    exec_tgStop_idle hr, fun hb hz => ?ends, fun h => ?nothing⟩
  case starts => exact (exec_tgStart hr v hf).trans (if_neg (guard_passed ((hok hwf).mpr h)))
  case refused => exact (exec_tgStart hr v hf).trans (if_pos (guard_stops (Bool.eq_false_iff.mpr (mt (hok hwf).mp h))))
  case unbounded => exact (exec_tgStop_busy hr hf hb).trans (by rw [if_pos hz]; rfl)
  case counted => exact (exec_tgStop_busy hr hf hb).trans (by rw [if_neg hz]; rfl)
  case ends =>
    replace hb : rf s (chReg n.val ch.val 0x38) 0 0 ≠ 0 := by rw [hb]; decide
    exact (exec_tgRunDone hr).trans (if_neg (by simpa using ⟨hb, hz⟩))
  case nothing => exact (exec_tgRunDone hr).trans (if_pos (by simpa using h))

end Sys2Proof.Proofs

namespace Sys2Proof.Proofs

open Sys2Proof Sys2Proof.Machine Sys2Proof.Laws

/-! ### The boot ROM's choice of an image -/

/-- The image of a slot of the flash. -/
def slotImage (s : State) (k : Nat) : Image := tabGet {} s.flash k

theorem mem_slots {k : Nat} : k ∈ [0, 1] ↔ k < 2 := by
  simp only [List.mem_cons, List.not_mem_nil, or_false]
  omega

theorem mem_runnable {s : State} {k : Nat} : k ∈ runnable s ↔ k < 2 ∧ imageAccepted s (slotImage s k) = true := by
  rw [runnable, List.mem_filter, mem_slots]
  rfl

/-- The boot ROM finds no slot that may run, or it takes the one that may, or one of both whose build number is the highest. -/
theorem bootSlot_cases (s : State) : (runnable s = [] ∧ bootSlot s = (s, none)) ∨
    (∃ k, runnable s = [k] ∧ bootSlot s = (s, some k)) ∨
    (runnable s = [0, 1] ∧ ∃ f k, k < 2 ∧ bootSlot s = ({ s with free := f }, some k) ∧
      ∀ j < 2, (slotImage s j).build ≤ (slotImage s k).build) := by
  have hshape : runnable s = [] ∨ runnable s = [0] ∨ runnable s = [1] ∨ runnable s = [0, 1] := by
    unfold runnable
    cases h0 : imageAccepted s (tabGet {} s.flash 0) <;> cases h1 : imageAccepted s (tabGet {} s.flash 1) <;> simp [h0, h1]
  have htwo {k : Nat} (h0 : (slotImage s 0).build ≤ (slotImage s k).build) (h1 : (slotImage s 1).build ≤ (slotImage s k).build) :
      ∀ j < 2, (slotImage s j).build ≤ (slotImage s k).build := by
    intro j hj
    obtain rfl | rfl : j = 0 ∨ j = 1 := by omega
    · exact h0
    · exact h1
  rcases hshape with h | h | h | h
  · exact .inl ⟨h, by simp only [bootSlot, h]⟩
  · exact .inr (.inl ⟨0, h, by simp only [bootSlot, h]⟩)
  · exact .inr (.inl ⟨1, h, by simp only [bootSlot, h]⟩)
  · refine .inr (.inr ⟨h, ?_⟩)
    rcases Nat.lt_trichotomy (slotImage s 0).build (slotImage s 1).build with hlt | heq | hgt
    · exact ⟨s.free, 1, by decide, by simp only [bootSlot, h]; exact if_pos hlt, htwo (Nat.le_of_lt hlt) (Nat.le_refl _)⟩
    · refine ⟨s.free + 1, Config.place s.free % 2, Nat.mod_lt _ (by decide), ?_, ?_⟩
      · simp only [bootSlot, h]
        exact (if_neg (Nat.not_lt.mpr (Nat.le_of_eq heq.symm))).trans (if_neg (Nat.not_lt.mpr (Nat.le_of_eq heq)))
      · obtain hk | hk : Config.place s.free % 2 = 0 ∨ Config.place s.free % 2 = 1 := by omega
        · exact hk ▸ htwo (Nat.le_refl _) (Nat.le_of_eq heq.symm)
        · exact hk ▸ htwo (Nat.le_of_eq heq) (Nat.le_refl _)
    · refine ⟨s.free, 0, by decide, ?_, htwo (Nat.le_refl _) (Nat.le_of_lt hgt)⟩
      simp only [bootSlot, h]
      exact (if_neg (Nat.not_lt.mpr (Nat.le_of_lt hgt))).trans (if_pos hgt)

/-- Where it takes none, no slot is accepted. -/
theorem bootSlot_none {s : State} (h : (bootSlot s).2 = none) {k : Nat} (hk : k < 2) : imageAccepted s (slotImage s k) = false := by
  have hnone : runnable s = [] := by
    rcases bootSlot_cases s with ⟨hn, _⟩ | ⟨_, _, hz⟩ | ⟨_, _, _, _, hz, _⟩
    · exact hn
    · simp [hz] at h
    · simp [hz] at h
  exact Bool.eq_false_iff.mpr fun hacc => by simpa [hnone] using mem_runnable.mpr ⟨hk, hacc⟩

/-- What it takes is accepted and of the highest build number among those accepted, and the flash is as before. -/
theorem bootSlot_some {s : State} {k : Nat} (h : (bootSlot s).2 = some k) : k < 2 ∧ imageAccepted s (slotImage s k) = true ∧
    (∀ j < 2, imageAccepted s (slotImage s j) = true → (slotImage s j).build ≤ (slotImage s k).build) ∧
    (bootSlot s).1.flash = s.flash := by
  rcases bootSlot_cases s with ⟨_, hz⟩ | ⟨i, hone, hz⟩ | ⟨htwo, f, i, hi, hz, hbest⟩
  · simp [hz] at h
  · obtain rfl : i = k := by simpa [hz] using h
    obtain ⟨hlt, hacc⟩ := mem_runnable.mp (hone ▸ List.mem_singleton_self i : i ∈ runnable s)
    refine ⟨hlt, hacc, fun j hj hjacc => ?_, by rw [hz]⟩
    obtain rfl : j = i := by simpa [hone] using mem_runnable.mpr ⟨hj, hjacc⟩
    exact Nat.le_refl _
  · obtain rfl : i = k := by simpa [hz] using h
    have hmem : i ∈ runnable s := htwo ▸ mem_slots.mpr hi
    exact ⟨hi, (mem_runnable.mp hmem).2, fun j hj _ => hbest j hj, by rw [hz]⟩

/-! ### Startup steps 3 to 8 -/

/-- The state that the boot ROM finds: the images of a flash that was written since it last looked, and the strap sampled. -/
def bootStart (a1 a2 : Image) (common : Bool) (s : State) : State :=
  updBoard (fun x => { x with boot := 4, common := common, spiNew := false })
    (if s.board.spiNew then { s with flash := tabSet {} (tabSet {} [] 0 a1) 1 a2 } else s)

/-- Prefen runs the image of slot k and trains the channels (R134, R451 step 4). -/
def bootRuns (i : Image) (k : Nat) (u : State) : State :=
  setChannels 1 (setStage 1 (setRf (smcReg 0) 29 29 (b2n i.eng) (setRf (smcReg 0) 39 32 i.patch (setRf (smcReg 0) 47 40 i.minor
    (updEmber (fun e => { e with rollback := max e.rollback i.sec }) { u with runSlot := k })))))

/-- What becomes of startup step 4 with the slot that the boot ROM takes, or with none (R451, R452). -/
def bootOutcome (u : State) : Option Nat → State
  | none => startupFails 0x2A0 u
  | some k => bootRuns (slotImage u k) k u

/-- At step 3 the boot ROM runs the image it takes, and startup fails where it takes none. -/
theorem exec_hoodBoot (a1 a2 : Image) (common : Bool) {s : State} (hr : running s = true) (hb : s.board.boot = 2)
    (hp : (s.board.warm && s.board.perst) = false) :
    let z := bootSlot (bootStart a1 a2 common s)
    exec (.hoodBoot a1 a2 common) s = .next (bootOutcome z.1 z.2) := by
  have hguard : ¬ ((s.board.boot != 2 || (s.board.warm && s.board.perst)) = true) := by rw [hb, hp]; decide
  change execHoodBoot a1 a2 common s = _
  rw [execHoodBoot, live_of_running hr]
  refine (if_neg hguard).trans ?_
  change (match bootSlot (bootStart a1 a2 common s) with
    | (u, none) => done (startupFails 0x2A0 u)
    | (u, some k) => done (bootRuns (slotImage u k) k u)) = _
  obtain ⟨u, o⟩ := bootSlot (bootStart a1 a2 common s)
  cases o <;> rfl

/-- Prefen's startup of a module that is not under test hold goes through steps 5 to 8. -/
theorem exec_prefenStartup_cold {ok : Bool} {chans : List ChanTrain} {s : State} (hr : running s = true) (hb : s.board.boot = 4)
    (hs : fwStage s = 1) (ht : rf s (qchReg 0x40) 0 0 = 0) : exec (.prefenStartup ok chans) s = .next (startUp ok chans s) := by
  change execPrefenStartup ok chans s = _
  rw [execPrefenStartup, live_of_running hr]
  exact if_pos ⟨hb, hs, ht⟩

/-- After a module reset it is Prefen's way back to READY. -/
theorem exec_prefenStartup_reset {ok : Bool} {chans : List ChanTrain} {s : State} (hr : running s = true) (hb : s.board.boot = 6)
    (hs : fwStage s = 4) : exec (.prefenStartup ok chans) s = .next (afterReset s) := by
  change execPrefenStartup ok chans s = _
  rw [execPrefenStartup, live_of_running hr]
  exact (if_neg (by simp [hb])).trans (if_pos ⟨hb, hs⟩)

/-- A channel that training finds nothing on is READY. -/
theorem trainChannel_of_unnamed {chans : List ChanTrain} {n : Fin 20} {ch : Fin 32} (t : State)
    (h : ∀ c ∈ chans, c.stack ≠ n ∨ c.channel ≠ ch) : trainChannel chans n.val ch.val t = setRf (chReg n.val ch.val 0) 3 0 2 t := by
  have hnone : chans.find? (fun c => c.stack.val == n.val && c.channel.val == ch.val) = none := by
    refine List.find?_eq_none.mpr fun c hc => ?_
    simpa [← Fin.ext_iff, Classical.or_iff_not_imp_left] using h c hc
  rw [trainChannel, hnone]

/-! ### JTAG -/

section JtagScan

variable (tap code n : Nat) (value : State → Nat) (s : State)

/-- Before step 3 a scan shifts out ones, and nothing else happens. -/
theorem jtagScan_off (h : jtagOn s = false) : jtagScan tap code n value s = { s with out := s.out ++ [.tdo tap (2 ^ n - 1)] } := by
  simp [jtagScan, h, emit]

/-- From then on it shifts out the value of the instruction. -/
theorem jtagScan_on_out (h : jtagOn s = true) : (jtagScan tap code n value s).out = s.out ++ [.tdo tap (value s)] := by
  simp [jtagScan, h, emit, updBoard]

/-- A scan selects an instruction and shifts out: of the board it writes the TAP's instruction alone. -/
theorem jtagScan_board : ∃ l, (jtagScan tap code n value s).board = { s.board with ir := l } := by
  unfold jtagScan
  split
  · exact ⟨s.board.ir, rfl⟩
  · exact ⟨_, rfl⟩

@[simp] theorem jtagOn_jtagScan : jtagOn (jtagScan tap code n value s) = jtagOn s := by
  obtain ⟨l, hl⟩ := jtagScan_board tap code n value s
  rw [jtagOn, hl]
  rfl

@[simp] theorem spiByte_jtagScan (a : Nat) : spiByte (jtagScan tap code n value s) a = spiByte s a := by
  obtain ⟨l, hl⟩ := jtagScan_board tap code n value s
  simp only [spiByte, hl]

end JtagScan

/-- A code selects BYPASS unless it names another instruction of the TAP (R461). -/
theorem exec_bypass (tap : Fin 5) (code : Fin 256) (s : State) : exec (.bypass tap code) s =
    if code.val ≤ 2 ∨ (tap.val = 0 ∧ (code.val = 0x10 ∨ code.val = 0x11 ∨ code.val = 0x20)) then .next s
    else .next (jtagScan tap.val 0xFF 1 (fun _ => 0) s) := by
  have hnamed : ([0x00, 0x01, 0x02] ++ (if tap.val = 0 then [0x10, 0x11, 0x20] else [])).contains code.val = true ↔
      code.val ≤ 2 ∨ (tap.val = 0 ∧ (code.val = 0x10 ∨ code.val = 0x11 ∨ code.val = 0x20)) := by
    rw [List.contains_iff_mem, List.mem_append]
    by_cases htap : tap.val = 0
    · simp [htap]; omega
    · simp [htap]; omega
  exact ite_congr (propext hnamed) (fun _ => rfl) (fun _ => rfl)

/-- The boundary register of a TAP captures its pins, a free value, and shifts them out (R461). -/
def boundaryOut (tap code : Nat) (s : State) : State :=
  let n := if tap = 0 then 64 else 1
  jtagScan tap code n (fun _ => Config.boundary (takeFree s).2 % 2 ^ n) (takeFree s).1

theorem boundaryScan_eq (tap code : Nat) (v : Word) (s : State) : boundaryScan tap code v s =
    if jtagOn s then updBoard (fun b => { b with boundary := tabSet 0 b.boundary tap (boundaryBits tap v) }) (boundaryOut tap code s)
    else boundaryOut tap code s := by
  have hon : jtagOn (boundaryOut tap code s) = jtagOn s := jtagOn_jtagScan _ _ _ _ _
  have hpins : (if tap = 0 then 2 ^ 64 else 2) = 2 ^ (if tap = 0 then 64 else 1) := by split <;> rfl
  rw [← hon, boundaryOut, ← hpins]
  rfl

/-- A scan of ROSHIFT takes from the read-out image the bytes that it delivers, where any are ready (R461). -/
theorem exec_roshift (s : State) :
    let t := jtagScan 0 0x11 64 (fun s => leNat (s.board.shift.take 8)) s
    exec .roshift s = .next (if jtagOn s && !s.board.shift.isEmpty
      then bumpRf (qchReg 0x38) 47 0 (s.board.shift.take 8).length (updBoard (fun b => { b with shift := b.shift.drop 8 }) t) else t) := by
  change execRoshift s = _
  unfold execRoshift
  cases jtagOn s <;> cases s.board.shift.isEmpty <;> rfl

/-! ### The SPI flash -/

theorem spiByte_of_written {s : State} {a : Nat} {b : Byte} (h : tabGet none s.board.spi a = some b) : spiByte s a = b := by
  rw [spiByte, h]

theorem spiByte_congr {s t : State} {a : Nat} (h : tabGet none t.board.spi a = tabGet none s.board.spi a)
    (he : t.board.erased = s.board.erased) (hp : t.board.spiEpoch = s.board.spiEpoch) : spiByte t a = spiByte s a := by
  rw [spiByte, spiByte, h, he, hp]

/-- A byte programmed leaves every other byte of the flash. -/
theorem spiByte_spiPut_other {a a' : Nat} (b : Byte) (s : State) (h : a' ≠ a) : spiByte (spiPut a b s) a' = spiByte s a' := by
  unfold spiPut
  split
  · exact spiByte_congr (tabGet_tabSet_other _ _ h) rfl rfl
  · exact spiByte_congr (tabGet_tabSet_other _ _ h) rfl rfl

/-- An erased byte takes the data that is programmed. -/
theorem spiByte_spiPut_erased {a : Nat} (b : Byte) {s : State} (h : spiByte s a = 0xFF) : spiByte (spiPut a b s) a = b := by
  rw [spiPut, if_pos h]
  exact spiByte_of_written (tabGet_tabSet_ne_default none _ a (Option.some_ne_none b))

/-- Bytes programmed at other addresses leave a byte. -/
theorem spiByte_spiPuts_other {a addr : Nat} (f : Nat → Byte) {l : List Nat} (s : State) (h : ∀ x ∈ l, a ≠ addr + x) :
    spiByte (overList (fun x t => spiPut (addr + x) (f x) t) l s) a = spiByte s a := by
  induction l generalizing s with
  | nil => rfl
  | cons x l ih =>
    obtain ⟨hx, hl⟩ := List.forall_mem_cons.mp h
    exact (ih _ hl).trans (spiByte_spiPut_other _ _ hx)

/-- Of bytes programmed one after another, each that was erased takes its data. -/
theorem spiByte_spiPuts_erased {addr j : Nat} (f : Nat → Byte) {l : List Nat} (s : State) (hl : l.Nodup) (hj : j ∈ l)
    (h : spiByte s (addr + j) = 0xFF) : spiByte (overList (fun x t => spiPut (addr + x) (f x) t) l s) (addr + j) = f j := by
  induction l generalizing s with
  | nil => cases hj
  | cons x l ih =>
    obtain ⟨hx, hl⟩ := List.nodup_cons.mp hl
    by_cases hjx : j = x
    · subst hjx
      have hrest : ∀ y ∈ l, addr + j ≠ addr + y := fun y hy he => hx (Nat.add_left_cancel he ▸ hy)
      exact (spiByte_spiPuts_other f _ hrest).trans (spiByte_spiPut_erased _ h)
    · exact ih _ hl (List.mem_of_ne_of_mem hjx hj) ((spiByte_spiPut_other _ _ (by omega)).trans h)

/-- The flash with a block of 64 KiB erased. -/
def blockErased (k : Nat) (s : State) : State :=
  updBoard (fun b => { b with spiNew := true, erased := k :: b.erased.filter (fun j => j != k),
                              spi := b.spi.filter (fun e => e.1 / 65536 != k) }) s

/-- Every byte of an erased block reads ones. -/
theorem spiByte_blockErased {a k : Nat} (s : State) (h : a / 65536 = k) : spiByte (blockErased k s) a = 0xFF := by
  have hgone : tabGet none (s.board.spi.filter (fun e => e.1 / 65536 != k)) a = (none : Option Byte) := by
    rw [tabGet_filter_key none (fun x => x / 65536 != k), h, bne_self_eq_false, if_neg Bool.false_ne_true]
  simp only [spiByte, blockErased, updBoard, hgone, h, List.contains_cons, beq_self_eq_true, Bool.true_or, if_true]

/-! ### Test hold and the UCIe test -/

/-- What R458 asks of a start of the test: test hold, a pattern and a depth. -/
def ucieMay (v : Word) (t : State) : Prop :=
  rf t (qchReg 0x40) 0 0 = 1 ∧ fieldOf v 11 10 ≠ 3 ∧ (fieldOf v 9 8 = 1 ∨ fieldOf v 9 8 = 2)

/-- The fields of a start write stored, and the count of errors cleared. -/
def ucieStored (a : Nat) (v : Word) (s : State) : State := setRf (ucieReg a) 63 32 0 (setRf (ucieReg a) 11 8 (fieldOf v 11 8) s)

theorem ucieGuard_iff (v : Word) (t : State) : (decide (rf t (qchReg 0x40) 0 0 = 1) && fieldOf v 11 10 != 3
    && (fieldOf v 9 8 == 1 || fieldOf v 9 8 == 2)) = true ↔ ucieMay v t := by
  simp only [ucieMay, Bool.and_eq_true, Bool.or_eq_true, decide_eq_true_eq, bne_iff_ne, beq_iff_eq, and_assoc, ne_eq]

section Ucie

variable {a : Fin 4} {s : State} (hr : running s = true)
include hr

theorem exec_ucieTestStart_runs {v : Word} (hf : stageFailed s = false) (h : ucieMay v (ucieStored a.val v s)) :
    exec (.ucieTestStart a v) s = .next (updBoard (fun b => { b with ucieRun := a.val :: b.ucieRun.filter (fun x => x != a.val) })
      (setRf (ucieReg a.val) 2 1 0 (ucieStored a.val v s))) :=
  (liveWrite_of_running hr hf _).trans (congrArg _ (if_pos ((ucieGuard_iff v _).mpr h)))

theorem exec_ucieTestStart_refused {v : Word} (hf : stageFailed s = false) (h : ¬ ucieMay v (ucieStored a.val v s)) :
    exec (.ucieTestStart a v) s = .next (setRf (ucieReg a.val) 1 1 1 (ucieStored a.val v s)) :=
  (liveWrite_of_running hr hf _).trans (congrArg _ (if_neg (mt (ucieGuard_iff v _).mp h)))

/-- The end of a test that runs sets done and counts its errors. -/
theorem exec_ucieTestDone (errs : BitVec 32) : exec (.ucieTestDone a errs) s =
    if a.val ∈ s.board.ucieRun then .next (setRf (ucieReg a.val) 2 2 1 (satRf (ucieReg a.val) 63 32 errs.toNat
      (updBoard (fun b => { b with ucieRun := b.ucieRun.filter (fun x => x != a.val) }) s)))
    else .next s := by
  change execUcieTestDone a errs s = _
  rw [execUcieTestDone, live_of_running hr]
  by_cases h : a.val ∈ s.board.ucieRun
  · rw [if_pos h]
    exact if_neg (guard_passed (List.contains_iff_mem.mpr h))
  · rw [if_neg h]
    exact if_pos (by simpa using h)

end Ucie

/-- Settles O59: each command by its rule above. -/
theorem startupAndTestAccess : Obligations.StartupAndTestAccess := by
  unfold Obligations.StartupAndTestAccess
  intro s on b
  refine ⟨fun a1 a2 common hr hb hp => ?boot, fun chans hr hb hs ht => ⟨exec_prefenStartup_cold hr hb hs ht,
      exec_prefenStartup_cold hr hb hs ht, fun n ch t h => trainChannel_of_unnamed t h⟩,
    fun u chans hr hb hs => exec_prefenStartup_reset hr hb hs,
    fun tap code n value => ⟨jtagScan_on_out tap code n value s, jtagScan_off tap code n value s⟩, fun tap => ?codes,
    exec_roshift s, fun off v => ?regacc, fun addr data => ?spi, fun h => ?hold, fun a v hr => ?ucie⟩
  case boot =>
    intro t img u
    have hexec : exec (.hoodBoot a1 a2 common) s = .next (bootOutcome u (bootSlot t).2) := exec_hoodBoot a1 a2 common hr hb hp
    refine ⟨fun hnone => ?none, fun k hk => ?some⟩
    case none =>
      rw [hnone] at hexec
      exact ⟨hexec, bootSlot_none hnone (by decide), bootSlot_none hnone (by decide)⟩
    case some =>
      obtain ⟨hlt, hacc, hbest, hflash⟩ := bootSlot_some hk
      have himg : img k = slotImage u k := congrArg (tabGet {} · k) hflash.symm
      rw [hk] at hexec
      refine ⟨hlt, hacc, hbest, ?_⟩
      rw [himg]
      exact hexec
  case codes =>
    refine ⟨rfl, fun code => ⟨fun h => (exec_bypass tap code s).trans (if_pos h), fun h1 h2 => ?unnamed⟩, fun v i code hi => ?boundary⟩
    case unnamed => exact (exec_bypass tap code s).trans (if_neg (by omega))
    case boundary =>
      have hscan : exec i s = .next (boundaryScan tap.val code v s) := by
        simp only [List.mem_cons, Prod.mk.injEq, List.not_mem_nil, or_false] at hi
        obtain ⟨rfl, rfl⟩ | ⟨rfl, rfl⟩ := hi <;> rfl
      rw [hscan, boundaryScan_eq]
      exact ⟨fun h => congrArg _ (if_neg (Bool.eq_false_iff.mp h)), fun h => congrArg _ (if_pos h)⟩
  case regacc =>
    intro t o tag
    refine ⟨fun h w => if_pos (guard_stops h), fun h => ⟨?write, ?read⟩⟩
    case write => exact (if_neg (guard_passed h)).trans (if_pos rfl)
    case read =>
      have htag : 0x00340000 ≤ o ∧ o < 0x00380000 ∧ 0x1000 ≤ o % 0x10000 ∧ o % 0x10000 < 0x2000 ∧ o % 0x100 = 0x10 ∧ running t = true ↔
          tag = true := by
        simp only [tag, Bool.and_eq_true, decide_eq_true_eq, beq_iff_eq, and_assoc]
      exact (if_neg (guard_passed h)).trans ((if_neg Bool.false_ne_true).trans
        (congrArg (fun u => Host.Outcome.next (updBoard (fun x => { x with regacc := barRead true t o }) u)) (ite_congr (propext htag) (fun _ => rfl) (fun _ => rfl))))
  case spi =>
    intro t k
    refine ⟨fun h => ⟨?read, ?program, ?erase⟩, fun h i hi => ?notAllowed⟩
    case read => exact if_neg (guard_passed h)
    case program =>
      intro u
      refine ⟨if_neg (guard_passed h), fun _ j hj hones => ?_⟩
      exact spiByte_spiPuts_erased _ _ List.nodup_range (List.mem_range.mpr hj) ((spiByte_jtagScan _ _ _ _ s _).trans hones)
    case erase => exact ⟨if_neg (guard_passed h), fun a ha => spiByte_blockErased t ha⟩
    case notAllowed =>
      simp only [List.mem_cons, List.not_mem_nil, or_false] at hi
      obtain rfl | rfl | rfl := hi <;> exact if_pos (guard_stops h)
  case hold => exact ⟨fun hon => if_neg (guard_passed hon), fun hoff => if_pos (guard_stops hoff)⟩
  case ucie =>
    intro r t may
    refine ⟨fun hf => ⟨exec_ucieTestStart_runs hr hf, exec_ucieTestStart_refused hr hf⟩, fun errs => ⟨fun h => ?_, fun h => ?_⟩⟩
    · exact (exec_ucieTestDone hr errs).trans (if_neg h)
    · exact (exec_ucieTestDone hr errs).trans (if_pos h)

end Sys2Proof.Proofs

namespace Sys2Proof.Proofs

open Sys2Proof Sys2Proof.Machine Sys2Proof.Laws

/-! ### Checker test mode -/

/-- A go that R164 allows does its operation on the stored fields, and any other sets refused. -/
theorem eccGo_allowed {b op : Nat} {v : Word} {s : State} (run : State → State) (h : eccAllowed (eccWrite b op v s) b = true) :
    eccGo b op v run s = run (eccWrite b op v s) := if_pos h

theorem eccGo_refused {b op : Nat} {v : Word} {s : State} (run : State → State) (h : eccAllowed (eccWrite b op v s) b = false) :
    eccGo b op v run s = setRf (eccCtl b) 2 2 1 (eccWrite b op v s) := if_neg (Bool.eq_false_iff.mp h)

/-- The operations of the checker test mode: the code of each, its command and what it does (R164). -/
def eccOps (b : Fin 24) (v : Word) : List (Nat × Instr × (State → State)) :=
  [(0, .eccRawRead b v, eccRawRead b.val), (1, .eccRawWrite b v, eccRawWrite b.val),
    (2, .eccDecodedRead b v, eccDecodedRead b.val testWho), (3, .eccEncodedWrite b v, eccEncodedWrite b.val testWho)]

/-- Each of the four commands is a go of its operation. -/
theorem exec_eccOp {b : Fin 24} {v : Word} {s : State} {op : Nat} {i : Instr} {run : State → State} (hr : running s = true)
    (hf : stageFailed s = false) (h : (op, i, run) ∈ eccOps b v) : exec i s = .next (eccGo b.val op v run s) := by
  simp only [eccOps, List.mem_cons, Prod.mk.injEq, List.not_mem_nil, or_false] at h
  obtain ⟨rfl, rfl, rfl⟩ | ⟨rfl, rfl, rfl⟩ | ⟨rfl, rfl, rfl⟩ | ⟨rfl, rfl, rfl⟩ := h <;> exact liveWrite_of_running hr hf _

/-- Settles O24: each command is a go of its operation, which is done where R164 allows it and else refused. -/
theorem checkerTestModeActsOrRefuses : Obligations.CheckerTestModeActsOrRefuses := by
  unfold Obligations.CheckerTestModeActsOrRefuses
  intro b v s hr hf c op i run h t
  have hexec : exec i s = .next (eccGo b.val op v run s) := exec_eccOp hr hf h
  exact ⟨fun hok => hexec.trans (congrArg _ (eccGo_allowed run hok)), fun hno => hexec.trans (congrArg _ (eccGo_refused run hno))⟩

/-! ### Patrol scrub -/

/-- The next valid row of a slice scrubbed, and the copies of valid bits and remap entries up to it put right (R160, R161). -/
def sliceScrubbed (n ch ly : Nat) (s : State) : State :=
  let k := sliceKey n ch ly
  let from_ := tabGet 0 s.scrubPos k
  match firstRow (validRows s n ch ly from_) with
  | some a =>
    let u := overList (fun w s => scrubWord (a + 32 * w) s) (List.range 64) (scrubCopies n ch ly from_ (rowInSlice a) s)
    { u with scrubPos := tabSet 0 u.scrubPos k (rowInSlice a + 1) }
  | none => scrubCopies n ch ly from_ 49151 s

section Scrub

variable {n : Fin 20} {s : State} (hr : running s = true)
include hr

/-- A start begins a pass unless one is in progress (R160). -/
theorem exec_scrubStart (hf : stageFailed s = false) : exec (.scrubStart n) s =
    if rf s (stkReg n.val 0x200) 1 1 = 1 then .next s else .next (scrubBegin n.val s) := liveWrite_of_running hr hf _

/-- Of a pass in progress on an active stack, a scrub of a free slice does its next row; the pass is counted when no row is left, and
ends with this one where the period is 0 (R160, R161). -/
theorem exec_scrubRow_busy {ch : Fin 32} {ly : Fin 16} (hsr : srState s n.val = 0) (hb : rf s (stkReg n.val 0x200) 1 1 = 1)
    (hh : sliceHeld s (rowAddr n.val ch.val ly.val 0 0 0) = false) :
    let r := stkReg n.val 0x200
    let t := sliceScrubbed n.val ch.val ly.val s
    exec (.scrubRow n ch ly) s = if scrubFinished t n.val = true then .next (bumpRf r 63 48 1 (setRf r 1 1 0 t))
      else if rf t r 15 8 = 0 then .next (setRf r 1 1 0 t) else .next t := by
  have hbusy : ¬ rf s (stkReg n.val 0x200) 1 1 = 0 := by omega
  change execScrubRow n ch ly s = _
  rw [execScrubRow, live_of_running hr]
  refine (if_neg (by simp [hsr, hb, hh])).trans ?_
  simp only [if_neg hbusy]
  rfl

end Scrub

/-- Settles O23: the start, and the three ways in which the scrub of a slice's next row ends. -/
theorem scrubPassesAreCounted : Obligations.ScrubPassesAreCounted := by
  unfold Obligations.ScrubPassesAreCounted
  intro n ch ly s hr _ r k from_ row t
  refine ⟨fun hf hb => ?begins, fun hf hb => ?inProgress,
    fun hsr hb hh => ⟨fun hfin => ?counted, fun hfin hp => ?goesOn, fun hfin hp => ?periodZero⟩⟩
  case begins => exact (exec_scrubStart hr hf).trans (if_neg (by rw [hb]; decide))
  case inProgress => exact (exec_scrubStart hr hf).trans (if_pos hb)
  case counted => exact (exec_scrubRow_busy hr hsr hb hh).trans (if_pos hfin)
  case goesOn => exact (exec_scrubRow_busy hr hsr hb hh).trans ((if_neg (Bool.eq_false_iff.mp hfin)).trans (if_neg hp))
  case periodZero => exact (exec_scrubRow_busy hr hsr hb hh).trans ((if_neg (Bool.eq_false_iff.mp hfin)).trans (if_pos hp))

/-! ### Stored-data events -/

/-- The rows of block b's stack that wait for a remap decision are served while no move of it is busy (R158, R159). -/
def dueRowsServed (b : Nat) (s : State) : State :=
  if b < 20 && rf s (stkReg b 0x230) 63 63 == 0 then
    match s.remapDue.find? (fun a => smStack a == b), rowDue s b with
    | some a, _ => remapRow a { s with remapDue := s.remapDue.erase a }
    | none, some a => forgetRow a (remapRow a s)
    | none, none => s
  else s

/-- With no row waiting nothing happens. -/
theorem dueRowsServed_of_none (b : Nat) {s : State} (hc : s.corrLog = []) (hd : s.remapDue = []) : dueRowsServed b s = s := by
  have hrow : rowDue s b = none := by simp [rowDue, hc]
  simp [dueRowsServed, hd, hrow]

/-- The event that block b's latch holds, as Prefen reports it (R163). -/
def latchedEvent (b : Nat) (s : State) : Event :=
  let r := latchInfoReg b
  { kind := 2, status := 0x230 + rf s r 27 24, tag := rf s r 63 32, addr := (rg s (latchAddrReg b)).toNat,
    info0 := blockHearth b * 2 ^ 16 + rf s r 23 20 * 2 ^ 12 + rf s r 31 28 * 2 ^ 4 + rf s r 27 24 }

/-- Outside a step no command of one is tainted (R440). -/
theorem taintBy_of_off {s : State} (h : s.prefen.step.on = false) (tag space addr : Nat) (ovfl : Bool) :
    taintBy tag space addr ovfl s = s := by
  simp [taintBy, h]

section StoredError

variable {b : Fin 24} {s : State} (hr : running s = true)
include hr

/-- With nothing latched only the waiting rows are served. -/
theorem exec_storedErrorService_empty (hv : bitOf (rg s (latchInfoReg b.val)) 0 = false) :
    exec (.storedErrorService b) s = .next (dueRowsServed b.val s) :=
  (live_of_running hr _).trans (if_pos (guard_stops hv))

/-- A latched event is posted and its valid bit cleared; then the row of an uncorrectable word that scrub found in stack memory is
remapped, or after any other event the waiting rows are served (R159, R163). -/
theorem exec_storedErrorService_latched (hstep : s.prefen.step.on = false) (hv : bitOf (rg s (latchInfoReg b.val)) 0 = true) :
    let r := latchInfoReg b.val
    let t := setRf r 0 0 0 (postEvent (latchedEvent b.val s) s)
    exec (.storedErrorService b) s = .next
      (if rf s r 27 24 = 0 && rf s r 31 28 = 6 && rf s r 23 20 = 4 then remapRow (rg s (latchAddrReg b.val)).toNat t
       else dueRowsServed b.val t) := by
  change execStoredErrorService b s = _
  rw [execStoredErrorService, live_of_running hr]
  refine (if_neg (guard_passed hv)).trans ?_
  simp only [taintBy_of_off hstep]
  rfl

end StoredError

/-- Settles O21: the write that clears a latch, and Prefen's service of an empty and of a full one. -/
theorem storedErrorsAreServiced : Obligations.StoredErrorsAreServiced := by
  unfold Obligations.StoredErrorsAreServiced
  intro b s hr r addr t scrubbed
  refine ⟨fun ov hf => liveWrite_of_running hr hf _, fun _ hv hc hd => ?nothing, fun hstep hv hs => ?remapped,
    fun hstep hv hs hc hd => ?posted⟩
  case nothing => exact (exec_storedErrorService_empty hr hv).trans (congrArg _ (dueRowsServed_of_none b.val hc hd))
  case remapped =>
    obtain ⟨hkind, hsrc, hspace⟩ := hs
    exact (exec_storedErrorService_latched hr hstep hv).trans (congrArg _ (if_pos (by simp [r, hkind, hsrc, hspace])))
  case posted =>
    have hother : ¬ ((decide (rf s r 27 24 = 0) && decide (rf s r 31 28 = 6) && decide (rf s r 23 20 = 4)) = true) := by
      simpa [scrubbed, and_assoc] using hs
    exact (exec_storedErrorService_latched hr hstep hv).trans
      (congrArg _ ((if_neg hother).trans (dueRowsServed_of_none b.val hc hd)))

end Sys2Proof.Proofs

namespace Sys2Proof.Proofs

open Sys2Proof Sys2Proof.Machine Sys2Proof.Laws

/-! ### Remap entries and the places of rows -/

theorem rmapReg_ne_stkReg (n ch e : Nat) {k : Nat} (hk : k < 0x400) : rmapReg n ch e ≠ stkReg n k := by
  unfold rmapReg stkReg
  omega

/-- The registers of a stack below its remap table have no part in its remap entries. -/
theorem rmapEntry_setRf (s : State) (n ch e hi lo v : Nat) {k : Nat} (hk : k < 0x400) :
    rmapEntry (setRf (stkReg n k) hi lo v s) n ch e = rmapEntry s n ch e := by
  rw [rmapEntry, rg_setRf_other _ _ _ _ (rmapReg_ne_stkReg n ch e hk), rmapEntry]

theorem smPhys_setRf (s : State) {n a : Nat} (hi lo v : Nat) {k : Nat} (ha : smStack a = n) (hk : k < 0x400) :
    smPhys (setRf (stkReg n k) hi lo v s) a = smPhys s a := by
  subst ha
  exact congrArg (physBy · a) (funext fun e => rmapEntry_setRf s _ _ e hi lo v hk)

/-- A row is held at its own place or at one of the two spares above the addressable rows. -/
theorem physBy_le (ent : Nat → Nat) (a : Nat) : physBy ent a ≤ a + 3073 * 2 ^ 24 := by
  unfold physBy
  split
  · next e _ =>
    have hspare := natBits_lt (ent e) 10 10
    omega
  · exact Nat.le_add_right _ _

theorem smPhys_lt {s : State} {a : Nat} (ha : smStack a < 20) : smPhys s a < 2 ^ 64 := by
  have hle : smPhys s a ≤ a + 3073 * 2 ^ 24 := physBy_le _ a
  unfold smStack at ha
  omega

/-! ### Row moves -/

/-- The fields of a move's write stored (R158). -/
def moveStored (n : Nat) (v : Word) (s : State) : State := setRf (stkReg n 0x230) 31 3 (fieldOf v 31 3) s

/-- Is a move busy, or the entry or the spare that a write names taken (R158)? -/
def moveTaken (s : State) (n : Nat) (v : Word) : Bool :=
  let ch := fieldOf v 31 27
  rf s (stkReg n 0x230) 63 63 = 1 || natBit (rmapEntry s n ch (fieldOf v 6 4)) 31 || (List.range 8).any (fun e =>
    natBit (rmapEntry s n ch e) 31 && natBits (rmapEntry s n ch e) 30 27 == fieldOf v 26 23
      && natBits (rmapEntry s n ch e) 26 25 == fieldOf v 22 21 && natBits (rmapEntry s n ch e) 24 23 == fieldOf v 20 19
      && natBits (rmapEntry s n ch e) 10 10 == fieldOf v 3 3)

/-- Storing the fields changes nothing of that. -/
theorem moveTaken_moveStored {n : Nat} {v : Word} {s : State} (hs : tabWf regReset s.regs = true) :
    moveTaken (moveStored n v s) n v = moveTaken s n v := by
  have hbusy : rf (moveStored n v s) (stkReg n 0x230) 63 63 = rf s (stkReg n 0x230) 63 63 :=
    rf_setRf_above _ hs (by decide) (by decide) (by decide)
  have hent (ch e : Nat) : rmapEntry (moveStored n v s) n ch e = rmapEntry s n ch e := rmapEntry_setRf s n ch e _ _ _ (by decide)
  simp only [moveTaken, hbusy, hent]

/-- What R158 asks of a move, as a statement. -/
theorem moveTaken_eq_false {s : State} {n : Nat} {v : Word} : moveTaken s n v = false ↔
    rf s (stkReg n 0x230) 63 63 = 0 ∧ natBit (rmapEntry s n (fieldOf v 31 27) (fieldOf v 6 4)) 31 = false ∧
      ¬ ∃ e < 8, natBit (rmapEntry s n (fieldOf v 31 27) e) 31 = true ∧
        natBits (rmapEntry s n (fieldOf v 31 27) e) 30 27 = fieldOf v 26 23 ∧
        natBits (rmapEntry s n (fieldOf v 31 27) e) 26 25 = fieldOf v 22 21 ∧
        natBits (rmapEntry s n (fieldOf v 31 27) e) 24 23 = fieldOf v 20 19 ∧
        natBits (rmapEntry s n (fieldOf v 31 27) e) 10 10 = fieldOf v 3 3 := by
  have hbit : rf s (stkReg n 0x230) 63 63 < 2 := natBits_lt _ 63 63
  have hidle : rf s (stkReg n 0x230) 63 63 = 0 ↔ ¬ rf s (stkReg n 0x230) 63 63 = 1 := by omega
  simp only [hidle, moveTaken, Bool.or_eq_false_iff, decide_eq_false_iff_not, and_assoc]
  simp only [← Bool.not_eq_true, List.any_eq_true, List.mem_range, Bool.and_eq_true, beq_iff_eq, and_assoc]

/-- The move that a write asks for (R158). -/
def moveAsked (v : Word) : RMove :=
  { on := true, row := fieldOf v 18 7, channel := fieldOf v 31 27, layer := fieldOf v 26 23, bg := fieldOf v 22 21,
    bank := fieldOf v 20 19, entry := fieldOf v 6 4, spare := fieldOf v 3 3 }

/-- A write to the remap control register is stored, and asks for a move unless one is busy or its entry or spare is taken. -/
theorem exec_remapMove {n : Fin 20} (v : Word) {s : State} (hr : running s = true) (hf : stageFailed s = false) :
    let r := stkReg n.val 0x230
    let stored := moveStored n.val v s
    exec (.remapMove n v) s = .next (if moveTaken stored n.val v = true then setRf r 62 62 1 stored
      else setRf r 62 62 0 (setRf r 63 63 1 { stored with rmove := tabSet {} s.rmove n.val (moveAsked v) })) :=
  liveWrite_of_running hr hf _

/-- Settles O22: the write by the conditions of R158 on the state before it, and the end of a move that nothing keeps waiting. -/
theorem rowMovesGoThroughTheirSteps : Obligations.RowMovesGoThroughTheirSteps := by
  unfold Obligations.RowMovesGoThroughTheirSteps
  intro n v s hr hwf r ch used free stored asked
  have hsame : moveTaken stored n.val v = moveTaken s n.val v := moveTaken_moveStored (wf_regs hwf)
  have hfree : moveTaken stored n.val v = false ↔ free := by
    rw [hsame]
    exact moveTaken_eq_false
  refine ⟨fun hf h => ?accepted, fun hf h => ?refused, ?ends⟩
  case accepted => exact (exec_remapMove v hr hf).trans (congrArg _ (if_neg (Bool.eq_false_iff.mp (hfree.mpr h))))
  case refused =>
    have htaken : moveTaken stored n.val v = true := eq_true_of_ne_false (mt hfree.mp h)
    exact (exec_remapMove v hr hf).trans (congrArg _ (if_pos htaken))
  case ends =>
    intro m src dst ent hon hslice hqueue f t
    have hguard : ¬ ((!m.on || (sliceHeld s src && !m.yielded) || s.burstQ.any (fun q => moveCovers m q.addr)) = true) := by
      rcases hslice with hslice | hslice <;> simp [hon, hslice, hqueue]
    exact (live_of_running hr _).trans (if_neg hguard)

/-! ### Valid-bit clears -/

/-- The fields of a clear's write stored (R151). -/
def clearStored (n : Nat) (v : Word) (s : State) : State := setRf (stkReg n 0x228) 63 6 (fieldOf v 63 6) s

theorem rf_clearStored_busy {n : Nat} (v : Word) {s : State} (hs : tabWf regReset s.regs = true) :
    rf (clearStored n v s) (stkReg n 0x228) 1 1 = rf s (stkReg n 0x228) 1 1 :=
  rf_setRf_below _ hs (by decide) (by decide) (by decide) (by decide)

/-- A go while no clear runs, with its first block in the stack, is accepted, and any other is refused (R151). -/
theorem vbGo_accepted {n : Nat} {v : Word} {s : State} (hs : tabWf regReset s.regs = true) (hb : rf s (stkReg n 0x228) 1 1 = 0)
    (hfirst : fieldOf v 39 16 ≤ 12582911) :
    vbGo n v s = setVclear n { on := true, first := fieldOf v 39 16, count := fieldOf v 63 40, slice := bitOf v 15,
                               channel := fieldOf v 14 10, layer := fieldOf v 9 6 }
      (setRf (stkReg n 0x228) 2 2 0 (setRf (stkReg n 0x228) 1 1 1 (clearStored n v s))) := by
  have hbusy := (rf_clearStored_busy v hs).trans hb
  exact if_neg (by rintro (h : rf (clearStored n v s) _ 1 1 = 1 ∨ _); omega)

theorem vbGo_refused {n : Nat} {v : Word} {s : State} (hs : tabWf regReset s.regs = true)
    (h : rf s (stkReg n 0x228) 1 1 = 1 ∨ 12582911 < fieldOf v 39 16) :
    vbGo n v s = setRf (stkReg n 0x228) 2 2 1 (clearStored n v s) :=
  if_pos (h.imp_left (rf_clearStored_busy v hs).trans)

/-- Where nothing of a stack is held, nothing of it is tried again. -/
theorem release_of_none {n : Nat} {s : State} (h : ∀ x ∈ s.held, x.stack ≠ n) : release n s = s := by
  have hmine : s.held.filter (fun x => x.stack == n) = [] := List.filter_eq_nil_iff.mpr (by simpa using h)
  have hrest : s.held.filter (fun x => x.stack != n) = s.held := List.filter_eq_self.mpr (by simpa using h)
  rw [release, hmine, hrest]
  rfl

/-- Where Prefen asks for no clear, none follows. -/
theorem nextClear_of_none (n : Nat) {s : State} (h : s.prefen.clears = []) : nextClear n s = s := by
  simp [nextClear, h]

/-- Does the valid bit with a key belong to a row that serves an address of which `p` holds (R151, R157)? -/
def rowGone (p : Nat → Bool) (s : State) (k : Nat) : Bool := k / 2 ^ 64 == 4 && (servedRow s (k % 2 ^ 64)).any p

theorem clearRows_valid (p : Nat → Bool) (s : State) :
    (clearRows p s).mem.valid = s.mem.valid.filter (fun e => !rowGone p s e.1) := by
  refine congrArg (List.filter · s.mem.valid) (funext fun e => ?_)
  dsimp only [rowGone]
  generalize servedRow s (e.1 % 2 ^ 64) = row
  cases row <;> rfl

/-- Clearing rows of stack memory leaves the valid bits of every other space alone. -/
theorem isValid_clearRows_other (p : Nat → Bool) (s : State) {space a : Nat} (hspace : space ≠ 4) (ha : a < 2 ^ 64) :
    isValid (clearRows p s) space a = isValid s space a := by
  have hkey : validKey space a / 2 ^ 64 = space := by
    unfold validKey cellKey
    have hle : a / validSpan space * validSpan space ≤ a := Nat.div_mul_le_self _ _
    omega
  have hgone : rowGone p s (validKey space a) = false := by
    rw [rowGone, hkey, beq_false_of_ne hspace, Bool.false_and]
  rw [isValid, clearRows_valid, tabGet_filter_key 0 (fun k => !rowGone p s k), hgone]
  rfl

/-- A row that serves an address of the cleared ones is not valid any more. -/
theorem isValid_clearRows_served {p : Nat → Bool} {s : State} {pa a : Nat} (hpa : pa < 2 ^ 64)
    (hrow : servedRow s (pa / 2048 * 2048) = some a) (hp : p a = true) : isValid (clearRows p s) 4 pa = false := by
  have hkey : validKey 4 pa = 4 * 2 ^ 64 + pa / 2048 * 2048 := rfl
  have hhi : validKey 4 pa / 2 ^ 64 = 4 := by omega
  have hlo : validKey 4 pa % 2 ^ 64 = pa / 2048 * 2048 := by omega
  have hgone : rowGone p s (validKey 4 pa) = true := by
    rw [rowGone, hhi, hlo, hrow]
    exact hp
  rw [isValid, clearRows_valid, tabGet_filter_key 0 (fun k => !rowGone p s k), hgone, if_neg (by decide)]
  decide

/-- A byte of a row or block that is not valid reads as zero (R149). -/
theorem peekByte_of_not_valid {s : State} {a : Nat} (h : isValid s 4 (smPhys s a) = false) : peekByte s 4 a = 0 := by
  simp [peekByte, h]

/-- Where Prefen asks for no clear, there is none to drop. -/
theorem dropClear_of_none (n : Nat) {s : State} (h : s.prefen.clears = []) :
    { s with prefen := { s.prefen with clears := dropClear n s.prefen.clears } } = s := by
  have hdrop : dropClear n s.prefen.clears = s.prefen.clears := by rw [h]; rfl
  rw [hdrop]

section Clear

variable {n : Fin 20} {s : State} (hr : running s = true)
include hr

theorem exec_validBitClear (v : Word) (hf : stageFailed s = false) : exec (.validBitClear n v) s = .next (vbGo n.val v s) :=
  liveWrite_of_running hr hf _

/-- An accepted clear starts once no accepted Swage command and no access accepted before it meets its rows (R151). -/
theorem exec_validBitClearStart (hon : (vclearOf s n.val).on = true) (hst : (vclearOf s n.val).started = false)
    (hrun : (stackRun s n.val).phase ≠ 0 → (stackRun s n.val).ranges.any (vclearMeets n.val (vclearOf s n.val)) = false)
    (hfirst : reachedFirst s n.val (vclearNames (vclearOf s n.val)) = false) :
    exec (.validBitClearStart n) s = .next (setVclear n.val { vclearOf s n.val with started := true } s) := by
  have hmeets : ((stackRun s n.val).phase != 0 && (stackRun s n.val).ranges.any (vclearMeets n.val (vclearOf s n.val))) = false := by
    by_cases hp : (stackRun s n.val).phase = 0
    · simp [hp]
    · simp [hrun hp]
  exact (live_of_running hr _).trans (if_neg (by simp only [hon, hst, hmeets, hfirst]; decide))

/-- The rows of the clear of stack n no longer valid, and Prefen's request for the clear dropped where it asked for it. -/
def rowsCleared (n : Nat) (s : State) : State :=
  let t := clearRows (fun a => smStack a == n && vclearCovers (vclearOf s n) a) s
  if (vclearOf s n).own then { t with prefen := { t.prefen with clears := dropClear n t.prefen.clears } } else t

theorem exec_validBitClearDone (hon : (vclearOf s n.val).on = true) (hst : (vclearOf s n.val).started = true) :
    exec (.validBitClearDone n) s =
      .next (nextClear n.val (release n.val (setRf (stkReg n.val 0x228) 1 1 0 (setVclear n.val {} (rowsCleared n.val s))))) :=
  (live_of_running hr _).trans (if_neg (by simp [hon, hst]))

/-- The state after the clear of stack n where nothing waited for its end. -/
def clearEnded (n : Nat) (s : State) : State :=
  setRf (stkReg n 0x228) 1 1 0 (setVclear n {} (clearRows (fun a => smStack a == n && vclearCovers (vclearOf s n) a) s))

theorem exec_validBitClearDone_alone (hon : (vclearOf s n.val).on = true) (hst : (vclearOf s n.val).started = true)
    (hheld : ∀ h ∈ s.held, h.stack ≠ n.val) (hnone : s.prefen.clears = []) :
    exec (.validBitClearDone n) s = .next (clearEnded n.val s) := by
  have hrows : rowsCleared n.val s = clearRows (fun a => smStack a == n.val && vclearCovers (vclearOf s n.val) a) s := by
    unfold rowsCleared
    split
    · exact dropClear_of_none n.val (by exact hnone)
    · rfl
  rw [exec_validBitClearDone hr hon hst, hrows, release_of_none, nextClear_of_none]
  · rfl
  · exact hnone
  · exact hheld

end Clear

section ClearEnded

variable {n : Nat} {s : State}

theorem peekByte_clearEnded_other {space a : Nat} (hspace : space ≠ 4) (ha : a < 2 ^ 64) :
    peekByte (clearEnded n s) space a = peekByte s space a := by
  have hvalid : isValid (clearEnded n s) space a = isValid s space a := isValid_clearRows_other _ s hspace ha
  simp only [peekByte, if_neg hspace, hvalid]
  rfl

/-- Every byte of a row that the clear covers reads as zero, where the row is served from its own place or its spare. -/
theorem peekByte_clearEnded_covered {a : Nat} (hn : n < 20) (ha : smStack a = n)
    (hrow : servedRow s (smPhys s a / 2048 * 2048) = some (a / 2048 * 2048))
    (hcov : vclearCovers (vclearOf s n) (a / 2048 * 2048) = true) : peekByte (clearEnded n s) 4 a = 0 := by
  have hphys : smPhys (clearEnded n s) a = smPhys s a := smPhys_setRf _ 1 1 0 ha (by decide)
  have hstack : smStack (a / 2048 * 2048) = n := by
    unfold smStack at ha ⊢
    omega
  refine peekByte_of_not_valid ?_
  rw [hphys]
  exact isValid_clearRows_served (smPhys_lt (ha ▸ hn)) hrow (by simp [hstack, hcov])

end ClearEnded

/-- Settles O20: the go, the start and the end by their rules above, and what an end that nothing waited for leaves in memory. -/
theorem validBitClearGoesThroughItsSteps : Obligations.ValidBitClearGoesThroughItsSteps := by
  unfold Obligations.ValidBitClearGoesThroughItsSteps
  intro n v s hr hwf r c k asked
  refine ⟨fun hf hb hfirst => ?accepted, fun hf h => ?refused, exec_validBitClearStart hr, exec_validBitClearDone hr,
    fun hon hst hheld hnone => ?alone⟩
  case accepted => exact (exec_validBitClear hr v hf).trans (congrArg _ (vbGo_accepted (wf_regs hwf) hb hfirst))
  case refused => exact (exec_validBitClear hr v hf).trans (congrArg _ (vbGo_refused (wf_regs hwf) h))
  case alone =>
    refine ⟨clearEnded n.val s, exec_validBitClearDone_alone hr hon hst hheld hnone, ⟨rfl, fun o ho => ?_⟩, ?_, rfl,
      fun space a hspace ha => peekByte_clearEnded_other hspace ha, fun a ha hrow hcov => peekByte_clearEnded_covered n.isLt ha hrow hcov⟩
    · exact rg_setRf_other _ _ _ _ (List.ne_of_not_mem_cons ho)
    · exact rf_setRf_same (show tabWf regReset s.regs = true from wf_regs hwf) (by decide) (by decide) (by decide)

end Sys2Proof.Proofs

namespace Sys2Proof.Proofs

open Sys2Proof Sys2Proof.Machine Sys2Proof.Laws

/-! ### A run of entries of a table changed one by one -/

/-- Entries `base` on, `n` of them, each replaced by what `f` makes of its offset and its value. -/
def tabChangeRun {α : Type} [DecidableEq α] (d : α) (base : Nat) (f : Nat → α → α) (n : Nat) (m : List (Nat × α)) :
    List (Nat × α) :=
  (List.range n).foldl (fun m k => tabSet d m (base + k) (f k (tabGet d m (base + k)))) m

section ChangeRun

variable {α : Type} [DecidableEq α] {d : α} {base : Nat} {f : Nat → α → α} {m : List (Nat × α)}

theorem tabChangeRun_succ (n : Nat) : tabChangeRun d base f (n + 1) m =
    tabSet d (tabChangeRun d base f n m) (base + n) (f n (tabGet d (tabChangeRun d base f n m) (base + n))) := by
  simp [tabChangeRun, List.range_succ]

theorem tabWf_tabChangeRun (n : Nat) (h : tabWf (fun _ => d) m = true) : tabWf (fun _ => d) (tabChangeRun d base f n m) = true := by
  induction n with
  | zero => exact h
  | succ n ih => exact tabChangeRun_succ (m := m) n ▸ tabWf_tabSet_const _ _ ih

/-- An entry outside the run reads as before. -/
theorem tabGet_tabChangeRun_other {n j : Nat} (hj : j < base ∨ base + n ≤ j) :
    tabGet d (tabChangeRun d base f n m) j = tabGet d m j := by
  induction n with
  | zero => rfl
  | succ n ih => rw [tabChangeRun_succ, tabGet_tabSet_other _ _ (by omega), ih (by omega)]

/-- An entry of the run reads as what was made of its value. -/
theorem tabGet_tabChangeRun {n k : Nat} (h : tabWf (fun _ => d) m = true) (hk : k < n) :
    tabGet d (tabChangeRun d base f n m) (base + k) = f k (tabGet d m (base + k)) := by
  induction n with
  | zero => exact absurd hk (Nat.not_lt_zero k)
  | succ n ih =>
    rw [tabChangeRun_succ]
    by_cases hkn : k = n
    · subst hkn
      rw [tabGet_tabSet_same _ _ (tabWf_tabChangeRun k h), tabGet_tabChangeRun_other (.inr (Nat.le_refl _))]
    · rw [tabGet_tabSet_other _ _ (by omega), ih (by omega)]

end ChangeRun

/-- Two changes that agree where `p` holds, which the second keeps, agree when repeated over a list. -/
theorem overList_congr_of {σ α : Type} {f g : α → σ → σ} {p : σ → Prop} (hfg : ∀ a s, p s → f a s = g a s)
    (hg : ∀ a s, p s → p (g a s)) (l : List α) {s : σ} (hs : p s) : overList f l s = overList g l s := by
  induction l generalizing s with
  | nil => rfl
  | cons a t ih => rw [overList, overList, hfg a s hs, ih (hg a s hs)]

/-! ### Swage: an instruction that goes on or stops -/

section UnitInstruction

variable {n : Fin 20} {u : Fin 512} {w op : Nat} {s t : State} {y : SwgUnit} {act : Nat → SwgUnit → State → UnitRes}
  (h : UnitReady n u w s) (hd : miDefined op = true) (hop : miOp w = op)
include h hd hop

theorem unitStep_go (ha : act w (unitNext n u s) (unitBegun n u s) = .go t y) :
    live s (unitStep n.val u.val op act s) = .next (unitEnded n u y t) := by
  rw [live_of_running h.1, unitStep_ready h op hd hop, ha]

theorem unitStep_stop {code : Nat} (ha : act w (unitNext n u s) (unitBegun n u s) = .stop code t) :
    live s (unitStep n.val u.val op act s) = .next (unitFault n.val u.val (unitAt s n.val u.val).pc code t) := by
  rw [live_of_running h.1, unitStep_ready h op hd hop, ha]

end UnitInstruction

/-! ### Swage: MVM -/

/-- What RB reads as depends on a unit's state by the flipped bits of its words alone. -/
theorem rbFrom_congr {x y : SwgUnit} (h : y.rbSyn = x.rbSyn) (r : StackRun) (off : Nat) : rbFrom r y off = rbFrom r x off := by
  simp only [rbFrom, rbWord, h]

/-- RB byte where MVM's row operand of row k starts (R180). -/
def mvmOff (w : Nat) (b : Desc) (k : Nat) : Nat := 32 * miImm w + k * rowBytes b

/-- An accumulator with the products of the elements of a row and of those of row k of the row operand added, in the frame of the two
anchors (R182). -/
def mvmSum (r : StackRun) (w : Nat) (b w0 : Desc) (own : List Nat) (ws : List Elem) (x : SwgUnit) (k : Nat) (a : Accum) : Accum :=
  dotInto ((nth r.anchors k none).map (fun ax => w0.anchor + ax)) (own.map (elemOf b (rbFrom r x (mvmOff w b k)))) ws a

/-- The unit with those sums in its accumulators `acc` to `acc + rw`. -/
def mvmAdded (r : StackRun) (w : Nat) (b w0 : Desc) (own : List Nat) (ws : List Elem) (x : SwgUnit) : SwgUnit :=
  overList (fun k y => setAcc (miAcc w + k) (mvmSum r w b w0 own ws x k (accOf y (miAcc w + k))) y) (List.range (miRw w + 1)) x

/-- A run of accumulators each replaced by what is made of its value. -/
theorem overList_setAcc (first : Nat) (f : Nat → Accum → Accum) (l : List Nat) (x : SwgUnit) :
    overList (fun k y => setAcc (first + k) (f k (accOf y (first + k))) y) l x =
      { x with acc := l.foldl (fun m k => tabSet accZero m (first + k) (f k (tabGet accZero m (first + k)))) x.acc } := by
  induction l generalizing x with
  | nil => rfl
  | cons k t ih => exact ih _

section MvmSums

variable (r : StackRun) (w : Nat) (b w0 : Desc) (own : List Nat) (ws : List Elem) (x : SwgUnit)

theorem accOf_mvmAdded (j : Nat) : accOf (mvmAdded r w b w0 own ws x) j =
    tabGet accZero (tabChangeRun accZero (miAcc w) (mvmSum r w b w0 own ws x) (miRw w + 1) x.acc) j := by
  rw [mvmAdded, overList_setAcc, accOf, tabChangeRun]

theorem accOf_mvmAdded_same {k : Nat} (hx : tabWf (fun _ => accZero) x.acc = true) (hk : k ≤ miRw w) :
    accOf (mvmAdded r w b w0 own ws x) (miAcc w + k) = mvmSum r w b w0 own ws x k (accOf x (miAcc w + k)) :=
  (accOf_mvmAdded ..).trans (tabGet_tabChangeRun hx (Nat.lt_succ_of_le hk))

theorem accOf_mvmAdded_other {j : Nat} (hj : j < miAcc w ∨ miAcc w + miRw w < j) :
    accOf (mvmAdded r w b w0 own ws x) j = accOf x j :=
  (accOf_mvmAdded ..).trans (tabGet_tabChangeRun_other (by omega))

/-- MVM past its checks leaves those sums, none of which depends on the one before, and counts the products. -/
theorem mvm_go_eq (n u : Nat) (t : State) : mvm.go n u w t x own ws (mvmOff w b) b w0 =
    .go (countMacs n u (own.length * (miRw w + 1)) t) (mvmAdded (stackRun t n) w b w0 own ws x) := by
  refine congrArg (UnitRes.go _)
    (overList_congr_of (p := fun y : SwgUnit => y.rbSyn = x.rbSyn) (fun k y hy => ?_) (fun k y hy => ?_) _ rfl)
  case refine_2 => exact hy
  simp only [mvmSum, rbFrom_congr hy]
  cases nth (stackRun t n).anchors k none <;> rfl

end MvmSums

/-- The current row of stream sa, none on a billet list and past the stream's end. -/
def rowNow (n u : Nat) (r : StackRun) (sa : Nat) (d : Desc) (x : SwgUnit) : Option Nat :=
  if strmBlist r.cmd sa then none else (ownedRows n u d)[cursorOf x sa]?

theorem rowNow_eq_getElem? (n u : Nat) (r : StackRun) (sa : Nat) (d : Desc) (x : SwgUnit) :
    rowNow n u r sa d x = (if strmBlist r.cmd sa then [] else ownedRows n u d)[cursorOf x sa]? := by
  unfold rowNow
  split <;> rfl

theorem rowNow_eq_some {n u sa row : Nat} {r : StackRun} {d : Desc} {x : SwgUnit} (h : rowNow n u r sa d x = some row) :
    strmBlist r.cmd sa = false ∧ (ownedRows n u d)[cursorOf x sa]? = some row := by
  simpa [rowNow] using h

theorem rowNow_eq_none {n u sa : Nat} {r : StackRun} {d : Desc} {x : SwgUnit} (h : rowNow n u r sa d x = none)
    (hb : strmBlist r.cmd sa = false) : (ownedRows n u d)[cursorOf x sa]? = none := by
  rwa [rowNow, hb, if_neg Bool.false_ne_true] at h

/-- What MVM asks of its command's streams and of the accumulators it names (R180). -/
structure MvmOperands (r : StackRun) (w : Nat) (d b w0 : Desc) : Prop where
  used : strmUsed r.cmd (miSa w) = true
  desc : strmDesc r.cmd (miSa w) = some d
  operand : rbDesc r.cmd = some b
  used0 : strmUsed r.cmd 0 = true
  desc0 : strmDesc r.cmd 0 = some w0
  accs : miAcc w + miRw w ≤ 2047

section Mvm

variable {n u w : Nat} {x : SwgUnit} {s : State} {d b w0 : Desc} (h : MvmOperands (stackRun s n) w d b w0)
include h

theorem mvm_noRow (hrow : rowNow n u (stackRun s n) (miSa w) d x = none) : mvm n u w x s = .go s x := by
  simp only [mvm, h.used, h.desc, h.operand, h.used0, h.desc0, if_neg (Nat.not_lt.mpr h.accs)]
  split
  · rfl
  · next hb => rw [currentRow, rowNow_eq_none hrow (Bool.eq_false_iff.mpr hb)]

variable {row : Nat} (hrow : rowNow n u (stackRun s n) (miSa w) d x = some row)
  (hin : (ownedElems n u d row).all (rbHolds b (mvmOff w b (miRw w))) = true)
include hrow hin

/-- With a current row whose operand lies in RB, MVM reads the row and asks whether its anchor is below the row's bound. -/
theorem mvm_row : let read := readUnitRow n u d (rowAt d row 0 0) s
    let ws := (ownedElems n u d row).map (elemOf d read.2)
    ((∀ z, rowBound d (ws.filter (fun e => !e.poison)) = some z → z ≤ w0.anchor) →
      mvm n u w x s = mvm.go n u w read.1 x (ownedElems n u d row) ws (mvmOff w b) b w0) ∧
    ∀ z, rowBound d (ws.filter (fun e => !e.poison)) = some z → w0.anchor < z → mvm n u w x s = .stop stAnchor read.1 := by
  obtain ⟨hb, hcur⟩ := rowNow_eq_some hrow
  replace hin : (ownedElems n u d row).all (rbHolds b (32 * miImm w + miRw w * rowBytes b)) = true := hin
  simp only [mvm, h.used, h.desc, h.operand, h.used0, h.desc0, if_neg (Nat.not_lt.mpr h.accs), hb, currentRow, hcur, hin,
    Bool.false_eq_true, Bool.not_true, if_false]
  refine ⟨fun hz => ?fits, fun z hz hlt => ?stops⟩
  case fits =>
    split
    · next z hbound => exact if_neg (Int.not_lt.mpr (hz z hbound))
    · rfl
  case stops =>
    rw [hz]
    exact if_pos hlt

end Mvm

/-! ### Swage: PSND -/

/-- The partials of accumulators `acc` to `acc + rw` added into the merge entries of a row (R85, R182). -/
def psndMerged (w row : Nat) (x : SwgUnit) (m : List (Nat × Accum)) : List (Nat × Accum) :=
  tabChangeRun accZero (row * 8) (fun k a => accJoin a (accOf x (miAcc w + k))) (miRw w + 1) m

theorem tabGet_psndMerged_same {w row k : Nat} {x : SwgUnit} {m : List (Nat × Accum)} (hm : tabWf (fun _ => accZero) m = true)
    (hk : k ≤ miRw w) : tabGet accZero (psndMerged w row x m) (row * 8 + k) =
      accJoin (tabGet accZero m (row * 8 + k)) (accOf x (miAcc w + k)) :=
  tabGet_tabChangeRun hm (Nat.lt_succ_of_le hk)

theorem tabGet_psndMerged_other {w row j : Nat} {x : SwgUnit} {m : List (Nat × Accum)} (hj : j < row * 8 ∨ row * 8 + miRw w < j) :
    tabGet accZero (psndMerged w row x m) j = tabGet accZero m j :=
  tabGet_tabChangeRun_other (by omega)

section Psnd

variable {n : Fin 20} {u : Fin 512} {w : Nat} {s : State} {d : Desc} (h : UnitReady n u w s) (hop : miOp w = 0x0A)
  (hused : strmUsed (stackRun (unitBegun n u s) n.val).cmd (miSa w) = true)
  (hdesc : strmDesc (stackRun (unitBegun n u s) n.val).cmd (miSa w) = some d) (hacc : miAcc w + miRw w < 2048)
include h hop hused hdesc hacc

/-- With no current row PSND only clears the accumulators it names (R180). -/
theorem exec_psnd_noRow (hrow : rowNow n.val u.val (stackRun (unitBegun n u s) n.val) (miSa w) d (unitNext n u s) = none) :
    exec (.psnd n u) s =
      .next (unitEnded n u (clearAcc (miAcc w) (miRw w + 1) (unitNext n u s)) (unitBegun n u s)) := by
  have hlim : ¬ 2048 < miAcc w + (miRw w + 1) := by omega
  change execPsnd n u s = _
  refine unitStep_go h rfl hop ?_
  rw [rowNow_eq_getElem?] at hrow
  simp only [hused, hdesc, if_neg hlim, hrow]

/-- Else it adds their partials into the merge entries of that row, clears them and moves the cursor on (R180, R182). -/
theorem exec_psnd_row {row : Nat}
    (hrow : rowNow n.val u.val (stackRun (unitBegun n u s) n.val) (miSa w) d (unitNext n u s) = some row) :
    let x := unitNext n u s
    let r := stackRun (unitBegun n u s) n.val
    let y := moveCursor (miSa w) (cursorOf x (miSa w) + 1) (ownedRows n.val u.val d).length (clearAcc (miAcc w) (miRw w + 1) x)
    exec (.psnd n u) s = .next (unitEnded n u { y with prog := (y.prog + 1) % 2 ^ 32 }
      (setRun n.val { r with merge := psndMerged w row x r.merge } (unitBegun n u s))) := by
  have hlim : ¬ 2048 < miAcc w + (miRw w + 1) := by omega
  obtain ⟨hb, hcur⟩ := rowNow_eq_some hrow
  change execPsnd n u s = _
  refine unitStep_go h rfl hop ?_
  simp only [hused, hdesc, if_neg hlim, hb, Bool.false_eq_true, if_false, hcur]
  rfl

end Psnd

/-! ### Swage: CWR -/

theorem cwrRow_noRow {n u w : Nat} {d b : Desc} {x : SwgUnit} {s : State} (hrow : (ownedRows n u d)[cursorOf x (miSa w)]? = none) :
    cwrRow n u w d b x s = .go s x := by
  rw [cwrRow, hrow]

/-- The row operand of CWR converted to the codes of a row (R180). -/
def cwrPacked (r : StackRun) (w : Nat) (d b : Desc) (row : Nat) (x : SwgUnit) : List PByte × Nat :=
  let l := rbFrom r x (32 * miImm w + miRw w * rowBytes b)
  packRow d (elemPos d 0 row 0 0) ((List.range d.size0).map (fun i => ((elemOf b l i).val, (elemOf b l i).poison)))

/-- The unit's part of those codes written, and the command marked as having written SM (R172, R180). -/
def cwrWritten (n u w : Nat) (d b : Desc) (row : Nat) (x : SwgUnit) (s : State) : State :=
  let r := stackRun s n
  let p := cwrPacked r w d b row x
  let t := writeOwn n u (swgWho r) (p.1.length / 2048 + 2) (rowAt d row 0 0) p.1 s
  setRun n { stackRun t n with wroteSm := true } t

theorem cwrRow_row {n u w row : Nat} {d b : Desc} {x : SwgUnit} {s : State}
    (hrow : (ownedRows n u d)[cursorOf x (miSa w)]? = some row)
    (hin : rbHolds b (32 * miImm w + miRw w * rowBytes b) (d.size0 - 1) = true) :
    let z := noteExc n (cwrPacked (stackRun s n) w d b row x).2
      (moveCursor (miSa w) (cursorOf x (miSa w) + 1) (ownedRows n u d).length x) (cwrWritten n u w d b row x s)
    cwrRow n u w d b x s = .go z.1 { z.2 with prog := (z.2.prog + 1) % 2 ^ 32 } := by
  simp only [cwrRow, hrow, hin, Bool.not_true, Bool.false_eq_true, if_false]
  rfl

section Cwr

variable {n u w : Nat} {x : SwgUnit} {s : State} {d b : Desc} (hused : strmUsed (stackRun s n).cmd (miSa w) = true)
  (hdesc : strmDesc (stackRun s n).cmd (miSa w) = some d) (hrb : rbDesc (stackRun s n).cmd = some b)
include hused hdesc hrb

/-- CWR works on the current row of a stream with rows; on a billet list only in cache-write mode (R180, R202). -/
theorem cwr_rows (hb : strmBlist (stackRun s n).cmd (miSa w) = false) : cwr n u w x s = cwrRow n u w d b x s := by
  simp only [cwr, hused, hdesc, hrb, hb, Bool.false_eq_true, if_false]

theorem cwr_billet (hb : strmBlist (stackRun s n).cmd (miSa w) = true) (hk : (stackRun s n).kind = 2) :
    cwr n u w x s = cwrBillet n u w d b x s := by
  simp only [cwr, hused, hdesc, hrb, hb, hk, if_true]

theorem cwr_otherMode (hb : strmBlist (stackRun s n).cmd (miSa w) = true) (hk : (stackRun s n).kind ≠ 2) :
    cwr n u w x s = .go s x := by
  simp only [cwr, hused, hdesc, hrb, hb, if_true, if_neg hk]

end Cwr

/-- Settles O27: each instruction on a ready unit acts by its rules above, and the accumulators and merge entries it changes read as
tabGet_tabChangeRun says. -/
theorem swageRowInstructions : Obligations.SwageRowInstructions := by
  unfold Obligations.SwageRowInstructions
  intro n u w s d b h x s0 r sa first row? last goes hused hdesc
  refine ⟨fun w0 hop hrb hused0 hdesc0 hacc => ?mvm, fun hop hacc => ?psnd, fun hop hrb => ?cwr⟩
  case mvm =>
    have hops : MvmOperands r w d b w0 := ⟨hused, hdesc, hrb, hused0, hdesc0, hacc⟩
    refine ⟨fun hrow => unitStep_go h rfl hop (mvm_noRow hops hrow), fun row hrow => ?rowAdded⟩
    intro own off read ws r1 hin sum y
    obtain ⟨hfits, hstops⟩ := mvm_row hops hrow hin
    refine ⟨fun hz => ⟨?goes, fun hx => ⟨fun k hk => ?sums, fun j hj => ?others⟩⟩,
      fun z hz hlt => unitStep_stop h rfl hop (hstops z hz hlt)⟩
    case goes => exact unitStep_go h rfl hop ((hfits hz).trans (mvm_go_eq w b w0 own ws x n.val u.val read.1))
    case sums => exact accOf_mvmAdded_same r1 w b w0 own ws x hx hk
    case others => exact accOf_mvmAdded_other r1 w b w0 own ws x hj
  case psnd =>
    exact ⟨exec_psnd_noRow h hop hused hdesc hacc, fun row hrow => ⟨exec_psnd_row h hop hused hdesc hacc hrow,
      fun hm => ⟨fun k hk => tabGet_psndMerged_same hm hk, fun j hj => tabGet_psndMerged_other hj⟩⟩⟩
  case cwr =>
    refine ⟨fun hrow hmode => unitStep_go h rfl hop ?noRow, fun row hrow hin => unitStep_go h rfl hop ?rowWritten,
      fun s1 y hb hk hgo => unitStep_go h rfl hop ((cwr_billet hused hdesc hrb hb hk).trans hgo)⟩
    case noRow =>
      cases hb : strmBlist r.cmd sa with
      | false => exact (cwr_rows hused hdesc hrb hb).trans (cwrRow_noRow (rowNow_eq_none hrow hb))
      | true => exact cwr_otherMode hused hdesc hrb hb (hmode.resolve_left (by simp [hb]))
    case rowWritten =>
      obtain ⟨hb, hcur⟩ := rowNow_eq_some hrow
      exact (cwr_rows hused hdesc hrb hb).trans (cwrRow_row hcur hin)

end Sys2Proof.Proofs

namespace Sys2Proof.Proofs

open Sys2Proof Sys2Proof.Machine Sys2Proof.Laws

/-! ### The micro-program store -/

/-- A command is busy from its acceptance to its commit (R173). -/
theorem swgBusy_iff {s : State} {n : Nat} : swgBusy s n = true ↔ (stackRun s n).phase ≠ 0 := bne_iff_ne

section MpStore

variable {n : Fin 20} {s : State} (hr : running s = true) (hf : stageFailed s = false)
include hr hf

theorem exec_mpWrite (i : Fin 256) (v : Word) : exec (.mpWrite n i v) s = .next (mpWrite n.val i.val v s) :=
  liveWrite_of_running hr hf _

theorem exec_mpWenWrite (b : Bool) : exec (.mpWenWrite n b) s = .next (mpWen n.val b s) := liveWrite_of_running hr hf _

end MpStore

/-- Settles O31: both writes by what R178 and R187 ask of them, mp_wen and an idle dispatcher. -/
theorem microProgramStoreIsWritten : Obligations.MicroProgramStoreIsWritten := by
  unfold Obligations.MicroProgramStoreIsWritten
  intro n i v b s hr hf st c ok
  have hok : (decide (rf s c 2 2 = 1) && !swgBusy s n.val) = true ↔ ok := by
    rw [Bool.and_eq_true, decide_eq_true_eq, Bool.not_eq_true', ← Bool.not_eq_true, swgBusy_iff, Decidable.not_not]
  refine ⟨fun h => ?stored, fun h => ?refused, fun h => ?set, fun h => ?kept⟩
  case stored => exact (exec_mpWrite hr hf i v).trans (congrArg _ (if_pos (hok.mpr h)))
  case refused => exact (exec_mpWrite hr hf i v).trans (congrArg _ (if_neg (mt hok.mp h)))
  case set => exact (exec_mpWenWrite hr hf b).trans (congrArg _ (if_neg (mt swgBusy_iff.mp (Decidable.not_not.mpr h))))
  case kept => exact (exec_mpWenWrite hr hf b).trans (congrArg _ (if_pos (swgBusy_iff.mpr h)))

/-! ### Swage: billet sets and maxima -/

/-- Settles O26: each instruction on a ready unit, by whether its stream is a billet list and its scores and sums lie in their files. -/
theorem swageBilletSetsAndMaxima : Obligations.SwageBilletSetsAndMaxima := by
  unfold Obligations.SwageBilletSetsAndMaxima
  intro n u w s h x s0 r rows c goes stops
  refine ⟨fun hop => ?lenl, fun hop => unitStep_go h rfl hop rfl, fun hop => ?smax, fun hop => ?sexp⟩
  case lenl =>
    exact ⟨fun hb => unitStep_go h rfl hop (if_neg (guard_passed hb)), fun hb => unitStep_stop h rfl hop (if_pos (guard_stops hb))⟩
  case smax =>
    exact ⟨fun hsf => unitStep_go h rfl hop (if_neg (guard_passed hsf)), fun hsf => unitStep_stop h rfl hop (if_pos (guard_stops hsf))⟩
  case sexp =>
    refine ⟨fun hsf hacc => unitStep_go h rfl hop (if_neg ?inside), fun hout => unitStep_stop h rfl hop (if_pos ?outside)⟩
    case inside => simp [c, x, hsf, hacc]
    case outside => simpa using hout

/-! ### Lists walked with what they hold -/

/-- A list with its indexes. -/
theorem zip_range_eq_map {α : Type} (l : List α) (d : α) :
    (List.range l.length).zip l = (List.range l.length).map (fun p => (p, nth l p d)) := by
  refine List.ext_getElem (by simp) fun i h1 h2 => ?_
  have hi : i < l.length := by simpa using h2
  simp [nth, hi]

/-- Two results carried along a list side by side. -/
theorem foldl_prodMk {α β γ : Type} (f : α → γ → α) (g : β → γ → β) (l : List γ) (a : α) (b : β) :
    l.foldl (fun ab c => (f ab.1 c, g ab.2 c)) (a, b) = (l.foldl f a, l.foldl g b) := by
  induction l generalizing a b with
  | nil => rfl
  | cons c t ih => exact ih _ _

/-- Two steps that agree on the items of a list carry the same result along it. -/
theorem foldl_congr_of_mem {α β : Type} {f g : β → α → β} {l : List α} (h : ∀ b, ∀ a ∈ l, f b a = g b a) (b : β) :
    l.foldl f b = l.foldl g b := by
  induction l generalizing b with
  | nil => rfl
  | cons a t ih =>
    rw [List.foldl_cons, List.foldl_cons, h b a List.mem_cons_self]
    exact ih (fun b a ha => h b a (List.mem_cons_of_mem _ ha)) _

/-- A walk over rows and columns is one over their pairs. -/
theorem foldl_rowPairs {β : Type} (f : β → Nat × Nat → β) (rows cols : Nat) (b : β) :
    (rowPairs rows cols).foldl f b = (List.range rows).foldl (fun b m => (List.range cols).foldl (fun b k => f b (m, k)) b) b := by
  simp only [rowPairs, List.foldl_flatMap, List.foldl_map]

/-- Values written into a table for each item of a list, and read where the items of one key have one value. -/
theorem tabGet_foldl_tabSet {α ι : Type} [DecidableEq α] {d : α} {key : ι → Nat} {val : ι → α} {l : List ι} {m : List (Nat × α)}
    (hm : tabWf (fun _ => d) m = true) {a : ι} (hval : ∀ b ∈ l, key b = key a → val b = val a)
    (ha : a ∈ l ∨ tabGet d m (key a) = val a) :
    tabGet d (l.foldl (fun m b => tabSet d m (key b) (val b)) m) (key a) = val a := by
  induction l generalizing m with
  | nil => exact ha.resolve_left List.not_mem_nil
  | cons b t ih =>
    obtain ⟨hb, ht⟩ := List.forall_mem_cons.mp hval
    refine ih (m := tabSet d m (key b) (val b)) (tabWf_tabSet_const _ _ hm) ht ?_
    by_cases hk : key b = key a
    · exact .inr (by rw [hk, tabGet_tabSet_same _ _ hm, hb hk])
    · refine ha.imp (fun hmem => (List.mem_cons.mp hmem).resolve_left ?_) fun hget => ?_
      · exact fun heq => hk (congrArg key heq.symm)
      · rw [tabGet_tabSet_other _ _ (Ne.symm hk), hget]

theorem tabGet_foldl_tabSet_other {α ι : Type} [DecidableEq α] {d : α} {key : ι → Nat} {val : ι → α} {l : List ι} (m : List (Nat × α))
    {j : Nat} (hj : ∀ b ∈ l, j ≠ key b) :
    tabGet d (l.foldl (fun m b => tabSet d m (key b) (val b)) m) j = tabGet d m j := by
  induction l generalizing m with
  | nil => rfl
  | cons b t ih =>
    obtain ⟨hb, ht⟩ := List.forall_mem_cons.mp hj
    exact (ih _ ht).trans (tabGet_tabSet_other _ _ hb)

/-! ### Swage: DOTS -/

/-- The score file with a value written for each item of a list. -/
def sfWritten {ι : Type} (key : ι → Nat) (val : ι → Nat × Bool) (l : List ι) (x : SwgUnit) : SwgUnit :=
  l.foldl (fun x b => setSf (key b) (val b) x) x

section ScoreFile

variable {ι : Type} (key : ι → Nat) (val : ι → Nat × Bool) (l : List ι) (x : SwgUnit)

theorem sfWritten_cons (b : ι) : sfWritten key val (b :: l) x = sfWritten key val l (setSf (key b) (val b) x) := rfl

/-- A write to the score file changes only its entries and its check bits. -/
theorem setSf_frame (k : Nat) (v : Nat × Bool) : setSf k v x = { x with sf := (setSf k v x).sf, sfSyn := (setSf k v x).sfSyn } := by
  by_cases h : tabGet 0 x.sfSyn (k / 2) = 0
  · simp only [setSf, if_pos h]
  · simp only [setSf, if_neg h]

theorem sfWritten_frame : sfWritten key val l x = { x with sf := (sfWritten key val l x).sf, sfSyn := (sfWritten key val l x).sfSyn } := by
  induction l generalizing x with
  | nil => rfl
  | cons b t ih =>
    rw [sfWritten_cons, ih, setSf_frame]

variable {x}

/-- With sound check bits a write is one of its entry alone (R165). -/
theorem setSf_sound (h : x.sfSyn = []) (k : Nat) (v : Nat × Bool) : setSf k v x = { x with sf := tabSet (0, false) x.sf k v } := by
  simp [setSf, h, tabGet]

theorem sfWritten_sound (h : x.sfSyn = []) :
    (sfWritten key val l x).sf = l.foldl (fun m b => tabSet (0, false) m (key b) (val b)) x.sf := by
  induction l generalizing x with
  | nil => rfl
  | cons b t ih =>
    rw [sfWritten_cons, setSf_sound h]
    exact ih (x := { x with sf := tabSet (0, false) x.sf (key b) (val b) }) h

end ScoreFile

/-- Index in the score file of the score of vector p and row k (R180). -/
def sfIndex (w : Nat) (pk : Nat × Nat) : Nat := miImm w + 8 * pk.1 + pk.2

/-- Scores of different vectors or rows have different entries. -/
theorem sfIndex_inj {w : Nat} {p q : Nat × Nat} (hp : p.2 ≤ miRw w) (hq : q.2 ≤ miRw w) (h : sfIndex w p = sfIndex w q) : p = q := by
  have hrw : miRw w < 8 := natBits_lt w 51 49
  unfold sfIndex at h
  exact Prod.ext (by omega) (by omega)

/-- The query of row k as DOTS reads it from the row buffer (R184). -/
def dotsQuery (r : StackRun) (u w : Nat) (d b : Desc) (v : Vectors) (k : Nat) : List Elem :=
  (List.range d.size0).map (elemOf b (rbFrom r v.x (queryOff r u (miSa w) v.x b d k)))

/-- The score of vector p and row k among the vectors that DOTS took, with its exception bits (R184). -/
def dotsScore (r : StackRun) (u w : Nat) (d b : Desc) (x : SwgUnit) (v : Vectors) (pk : Nat × Nat) : (Nat × Bool) × Nat :=
  score (queryAnchor r u (miSa w) x pk.2) d (nth v.vecs pk.1 []) (dotsQuery r u w d b v pk.2)

/-- The vectors and rows that DOTS scores, in its order. -/
def dotsPairs (w : Nat) (v : Vectors) : List (Nat × Nat) := rowPairs v.vecs.length (miRw w + 1)

/-- The unit with those scores in its score file. -/
def dotsWritten (r : StackRun) (u w : Nat) (d b : Desc) (x : SwgUnit) (v : Vectors) : SwgUnit :=
  sfWritten (sfIndex w) (fun pk => (dotsScore r u w d b x v pk).1) (dotsPairs w v) v.x

/-- The exception bits of those scores. -/
def dotsExc (r : StackRun) (u w : Nat) (d b : Desc) (x : SwgUnit) (v : Vectors) : Nat :=
  (dotsPairs w v).foldl (fun e pk => e ||| (dotsScore r u w d b x v pk).2) 0

section Dots

variable (r : StackRun) (u w : Nat) (d b : Desc) (x : SwgUnit) (v : Vectors)

theorem dotsExc_eq : dotsExc r u w d b x v = ((List.range v.vecs.length).flatMap (fun p =>
    (List.range (miRw w + 1)).map (fun k => (dotsScore r u w d b x v (p, k)).2))).foldl (· ||| ·) 0 := by
  simp only [dotsExc, dotsPairs, foldl_rowPairs, List.foldl_flatMap, List.foldl_map]

variable {v}

theorem sf_dotsWritten_same (hsyn : v.x.sfSyn = []) (hsf : tabWf (fun _ => (0, false)) v.x.sf = true) {p k : Nat}
    (hp : p < v.vecs.length) (hk : k ≤ miRw w) :
    tabGet (0, false) (dotsWritten r u w d b x v).sf (miImm w + 8 * p + k) = (dotsScore r u w d b x v (p, k)).1 := by
  rw [dotsWritten, sfWritten_sound _ _ _ hsyn]
  refine tabGet_foldl_tabSet (key := sfIndex w) (a := (p, k)) hsf (fun q hq hkey => ?_) (.inl (mem_rowPairs.mpr ⟨hp, Nat.lt_succ_of_le hk⟩))
  rw [sfIndex_inj (Nat.le_of_lt_succ (mem_rowPairs.mp hq).2) hk hkey]

theorem sf_dotsWritten_other (hsyn : v.x.sfSyn = []) {j : Nat}
    (hj : ∀ p < v.vecs.length, ∀ k ≤ miRw w, j ≠ miImm w + 8 * p + k) :
    tabGet (0, false) (dotsWritten r u w d b x v).sf j = tabGet (0, false) v.x.sf j := by
  rw [dotsWritten, sfWritten_sound _ _ _ hsyn]
  refine tabGet_foldl_tabSet_other _ fun q hq => ?_
  obtain ⟨hp, hk⟩ := mem_rowPairs.mp hq
  exact hj q.1 hp q.2 (Nat.le_of_lt_succ hk)

end Dots

/-- What DOTS asks of its streams, of the score file and of the row buffer (R180, R181, R491). -/
structure DotsOperands (n u w : Nat) (d b : Desc) (x : SwgUnit) (s : State) (v : Vectors) : Prop where
  used : strmUsed (stackRun s n).cmd (miSa w) = true
  desc : strmDesc (stackRun s n).cmd (miSa w) = some d
  operand : rbDesc (stackRun s n).cmd = some b
  taken : vectors n u (miSa w) (miCnt w) d x s = some v
  inSf : sfOk (miImm w) (if miCnt w = 0 then v.vecs.length else miCnt w) (miRw w) = true
  inRb : v.vecs ≠ [] → ∀ k ≤ miRw w, rbHolds b (queryOff (stackRun s n) u (miSa w) v.x b d k) (d.size0 - 1) = true

/-- The walk of DOTS over its vectors and rows writes the scores and collects their exception bits. -/
theorem dots_walk {r : StackRun} {u w : Nat} {d b : Desc} {v : Vectors} {qs : List (List Elem)}
    (hqs : ∀ k ≤ miRw w, nth qs k [] = dotsQuery r u w d b v k) (x : SwgUnit) :
    ((List.range v.vecs.length).zip v.vecs).foldl (fun xe pv => (List.range (miRw w + 1)).foldl (fun xe k =>
        let z := score (queryAnchor r u (miSa w) x k) d pv.2 (nth qs k [])
        (setSf (miImm w + 8 * pv.1 + k) z.1 xe.1, xe.2 ||| z.2)) xe) (v.x, 0) =
      (dotsWritten r u w d b x v, dotsExc r u w d b x v) := by
  rw [zip_range_eq_map v.vecs [], List.foldl_map, dotsWritten, sfWritten, dotsExc, ← foldl_prodMk, dotsPairs, foldl_rowPairs]
  refine congrArg (fun f => List.foldl f _ _) (funext fun xe => funext fun p => foldl_congr_of_mem (fun xe k hk => ?_) _)
  rw [hqs k (Nat.le_of_lt_succ (List.mem_range.mp hk))]
  rfl

/-- DOTS goes on with the unit and the exception bits that its walk gave, and counts its vectors and its products (R180). -/
def dotsEnded (n u w : Nat) (d : Desc) (v : Vectors) (xe : SwgUnit × Nat) : UnitRes :=
  let z := noteExc n xe.2 xe.1 (countMacs n u (v.vecs.length * d.size0 * (miRw w + 1)) v.st)
  .go z.1 { z.2 with lastCnt := v.vecs.length }

theorem dots_eq {n u w : Nat} {d b : Desc} {x : SwgUnit} {s : State} {v : Vectors} (h : DotsOperands n u w d b x s v) :
    dots n u w x s = dotsEnded n u w d v (dotsWritten (stackRun s n) u w d b x v, dotsExc (stackRun s n) u w d b x v) := by
  have hrb : (!v.vecs.isEmpty && ((List.range (miRw w + 1)).map (queryOff (stackRun s n) u (miSa w) v.x b d)).any
      (fun o => !rbHolds b o (d.size0 - 1))) = false := by
    cases hv : v.vecs with
    | nil => rfl
    | cons vec t => simpa [Nat.lt_succ_iff] using h.inRb (by simp [hv])
  have hqs (k : Nat) (hk : k ≤ miRw w) : nth (((List.range (miRw w + 1)).map (queryOff (stackRun s n) u (miSa w) v.x b d)).map
      (fun o => (List.range d.size0).map (elemOf b (rbFrom (stackRun s n) v.x o)))) k [] = dotsQuery (stackRun s n) u w d b v k := by
    simp [nth, dotsQuery, Nat.lt_succ_of_le hk]
  simp only [dots, h.used, h.desc, h.operand, h.taken, h.inSf, hrb, Bool.not_true, Bool.or_self, Bool.false_eq_true, if_false]
  exact congrArg (dotsEnded n u w d v) (dots_walk hqs x)

/-! ### Swage: VACC -/

/-- Unit y is unit x with at most its accumulators from `first` on, `k` of them, changed. -/
structure SumsOnly (first k : Nat) (x y : SwgUnit) : Prop where
  frame : y = { x with acc := y.acc }
  others : ∀ j, (j < first ∨ first + k ≤ j) → accOf y j = accOf x j

section SumsOnly

variable {first k : Nat} {x y z : SwgUnit}

theorem SumsOnly.refl (x : SwgUnit) : SumsOnly first k x x := ⟨rfl, fun _ _ => rfl⟩

theorem SumsOnly.trans (hxy : SumsOnly first k x y) (hyz : SumsOnly first k y z) : SumsOnly first k x z where
  frame := by rw [hyz.frame, hxy.frame]
  others j hj := (hyz.others j hj).trans (hxy.others j hj)

theorem sumsOnly_setAcc {j : Nat} (hlo : first ≤ j) (hhi : j < first + k) (a : Accum) (x : SwgUnit) :
    SumsOnly first k x (setAcc j a x) :=
  ⟨rfl, fun _ hi => tabGet_tabSet_other _ _ (by omega)⟩

/-- A repeated change of those accumulators is one. -/
theorem sumsOnly_overList {α : Type} {f : α → SwgUnit → SwgUnit} {l : List α} (hf : ∀ a ∈ l, ∀ x, SumsOnly first k x (f a x))
    (x : SwgUnit) : SumsOnly first k x (overList f l x) := by
  induction l generalizing x with
  | nil => exact .refl x
  | cons a t ih =>
    obtain ⟨ha, ht⟩ := List.forall_mem_cons.mp hf
    exact (ha x).trans (ih ht _)

end SumsOnly

/-- A weighted vector of one row goes into the value sums of the command's rows (R180). -/
theorem sumsOnly_vaccOne (fv : Int) (acc dd imm p : Nat) {k rw : Nat} (hk : k ≤ rw) (vec : List Elem) (x : SwgUnit) :
    SumsOnly (acc + 8) (dd * (rw + 1)) x (vaccOne fv acc dd imm p k vec x) := by
  unfold vaccOne
  split
  · exact .refl x
  · refine sumsOnly_overList (fun i hi x => sumsOnly_setAcc ?_ ?_ _ x) x
    · omega
    · have hrow : dd * (k + 1) ≤ dd * (rw + 1) := Nat.mul_le_mul_left dd (Nat.succ_le_succ hk)
      have hi : i < dd := List.mem_range.mp hi
      rw [Nat.mul_succ] at hrow
      omega

/-- The unit with the weighted vectors that VACC took added (R180). -/
def vaccAdded (fv : Int) (w : Nat) (d : Desc) (v : Vectors) : SwgUnit :=
  overList (fun (pv : Nat × List Elem) x =>
    overList (fun k x => vaccOne fv (miAcc w) d.size0 (miImm w) pv.1 k pv.2 x) (List.range (miRw w + 1)) x)
    ((List.range v.vecs.length).zip v.vecs) v.x

theorem sumsOnly_vaccAdded (fv : Int) (w : Nat) (d : Desc) (v : Vectors) :
    SumsOnly (miAcc w + 8) (d.size0 * (miRw w + 1)) v.x (vaccAdded fv w d v) :=
  sumsOnly_overList (fun pv _ => sumsOnly_overList fun _ hk =>
    sumsOnly_vaccOne fv _ _ _ pv.1 (Nat.le_of_lt_succ (List.mem_range.mp hk)) pv.2) v.x

theorem vaccAdded_one (fv : Int) (w : Nat) (d : Desc) {v : Vectors} {vec : List Elem} (h : v.vecs = [vec]) :
    vaccAdded fv w d v = overList (fun k y => vaccOne fv (miAcc w) d.size0 (miImm w) 0 k vec y) (List.range (miRw w + 1)) v.x := by
  rw [vaccAdded, h]
  rfl

section Vacc

variable {n u w : Nat} {d : Desc} {x : SwgUnit} {s : State} {fv : Int} (hused : strmUsed (stackRun s n).cmd (miSa w) = true)
  (hdesc : strmDesc (stackRun s n).cmd (miSa w) = some d) (hfv : valueFrame d = some fv)
  (hacc : miAcc w + 7 + d.size0 * (miRw w + 1) ≤ 2047) (hsf : sfOk (miImm w) (countOr w x) (miRw w) = true)
include hused hdesc hfv hacc hsf

theorem vacc_zero (hc : countOr w x = 0) : vacc n u w x s = .go s x := by
  simp only [vacc, hused, hdesc, hfv, if_neg (Nat.not_lt.mpr hacc), hsf, Bool.not_true, Bool.false_eq_true, if_false, if_pos hc]

theorem vacc_go {v : Vectors} (hc : countOr w x ≠ 0) (hv : vectors n u (miSa w) (countOr w x) d x s = some v) :
    vacc n u w x s = .go (countMacs n u (v.vecs.length * d.size0 * (miRw w + 1)) v.st) (vaccAdded fv w d v) := by
  simp only [vacc, hused, hdesc, hfv, if_neg (Nat.not_lt.mpr hacc), hsf, Bool.not_true, Bool.false_eq_true, if_false, if_neg hc, hv,
    vaccAdded]

end Vacc

/-! ### Swage: PART -/

/-- The partial records of the command's rows sent and stored, one row after another (R190, R203). -/
def partsSent (n w : Nat) (d s5 : Desc) (q : QBillet) (x : SwgUnit) (s : State) : State × SwgUnit :=
  (List.range (cmdRows (stackRun s n).cmd)).foldl
    (fun sx k => partRow n (miAcc w) d s5 ((valueFrame d).getD 9) q k sx.2 sx.1) (s, x)

theorem part_go {n u w : Nat} {d s5 : Desc} {q : QBillet} {x : SwgUnit} {s : State} (hk : (stackRun s n).kind = 1)
    (h3 : strmDesc (stackRun s n).cmd 3 = some d) (h5 : strmDesc (stackRun s n).cmd 5 = some s5)
    (hq : curBillet (stackRun s n) u x 3 = some q)
    (hacc : miAcc w + 7 + d.size0 * max (miRw w + 1) (cmdRows (stackRun s n).cmd) ≤ 2047) :
    let r := stackRun s n
    let rows := max (miRw w + 1) (cmdRows r.cmd)
    let z := partsSent n w d s5 q x s
    let y := nextBillet r u (clearAcc (miAcc w) rows (clearAcc (miAcc w + 8) (d.size0 * rows) z.2))
    part n u w x s = .go z.1 { y with rowBad := List.replicate 8 false, prog := (y.prog + 1) % 2 ^ 32 } := by
  simp only [part, h3, h5, hq, if_neg (bne_passed hk), if_neg (Nat.not_lt.mpr hacc)]
  rfl

/-- Settles O28: each instruction on a ready unit acts by its rules above; the entries that DOTS writes and the sums that VACC leaves
alone read as sf_dotsWritten_same, sf_dotsWritten_other and sumsOnly_vaccAdded say. -/
theorem swageVectorInstructions : Obligations.SwageVectorInstructions := by
  unfold Obligations.SwageVectorInstructions
  intro n u w s d b h x s0 r sa rows goes
  refine ⟨fun v hop hused hdesc hrb hv hsf hin => ?dots, fun fv hop hused hdesc hfv hacc hsf => ⟨fun hc => ?none, fun v hc hv => ?vacc⟩,
    fun q s5 hop hk h3 h5 hq hacc => unitStep_go h rfl hop (part_go hk h3 h5 hq hacc)⟩
  case dots =>
    have hgo := dots_eq ⟨hused, hdesc, hrb, hv, hsf, hin⟩
    exact ⟨dotsWritten r u w d b x v, dotsExc r u w d b x v, unitStep_go h rfl hop hgo, sfWritten_frame _ _ _ _,
      dotsExc_eq r u w d b x v, fun hsyn hwf => ⟨fun p hp k hk => sf_dotsWritten_same r u w d b x hsyn hwf hp hk,
        fun j hj => sf_dotsWritten_other r u w d b x hsyn hj⟩⟩
  case none => exact unitStep_go h rfl hop (vacc_zero hused hdesc hfv hacc hsf hc)
  case vacc =>
    obtain ⟨hframe, hothers⟩ := sumsOnly_vaccAdded fv w d v
    exact ⟨vaccAdded fv w d v, unitStep_go h rfl hop (vacc_go hused hdesc hfv hacc hsf hc hv), hframe, fun _ => hothers,
      fun vec hvec => vaccAdded_one fv w d hvec⟩

end Sys2Proof.Proofs

namespace Sys2Proof.Proofs

open Sys2Proof Sys2Proof.Machine

/-! ### Swage: what the exchange holds -/

/-- An abort is held at site n under a key (R205). -/
def abortHeld (s : State) (n key : Nat) : Bool := (exchOf s n).any (fun q => q.xkey == key && q.abort)

/-- The values that site n holds under a key (R204 step 2). -/
def valuesHeld (s : State) (n key : Nat) : List PeerMax := (exchOf s n).filter (fun q => q.xkey == key && !q.abort)

section Held

variable {s : State} {n key : Nat}

theorem abortHeld_iff : abortHeld s n key = true ↔ ∃ q ∈ exchOf s n, q.xkey = key ∧ q.abort = true := by
  simp [abortHeld]

theorem abortHeld_eq_false : abortHeld s n key = false ↔ ∀ q ∈ exchOf s n, ¬ (q.xkey = key ∧ q.abort = true) := by
  simp [abortHeld]

theorem mem_valuesHeld {q : PeerMax} : q ∈ valuesHeld s n key ↔ q ∈ exchOf s n ∧ q.xkey = key ∧ q.abort = false := by
  simp [valuesHeld]

end Held

/-! ### Swage: one site sends its maxima to another -/

/-- Site src may send its maxima to site n now: R204 step 2 asks for it, no abort stops it and n has room (R205). -/
structure ExchangeReady (n src : Fin 20) (s : State) : Prop where
  live : running s = true
  other : n ≠ src
  ready : readyToMerge s src.val = true
  masked : n.val ∈ maskSites (stackRun s src.val).cmd
  unsent : n.val ∉ (stackRun s src.val).sent
  noAbort : abortHeld s src.val (siteMax src.val (stackRun s src.val)).xkey = false
  room : exchRoom s n.val (siteMax src.val (stackRun s src.val)).xkey = true

/-- Site src in MERGE with its maxima handed to site n (R204 step 2). -/
def maximaSent (n src : Nat) (s : State) : State :=
  setExch n (exchOf s n ++ [siteMax src (stackRun s src)])
    (setRun src { stackRun s src with phase := 4, sent := n :: (stackRun s src).sent } s)

/-- Values received at site n do not fit its command that runs under their key (R205). -/
def maximaClash (n : Nat) (p : PeerMax) (s : State) : Bool :=
  mergesUnder s n p.xkey && 3 ≤ (stackRun s n).phase && !peerFits (stackRun s n) p

/-- A site that may send does, and the receiver stops with a fault where the values do not fit its command (R205). -/
theorem exec_mergeExchangeReceive_ready {n src : Fin 20} {s : State} (h : ExchangeReady n src s) :
    exec (.mergeExchangeReceive n src) s =
      if maximaClash n.val (siteMax src.val (stackRun s src.val)) (maximaSent n.val src.val s)
      then .next (swageFault n.val 0x243 (hxStack n.val) 0 (maximaSent n.val src.val s))
      else .next (maximaSent n.val src.val s) := by
  have hguard : ¬ ((decide (n = src) || !readyToMerge s src.val || !(maskSites (stackRun s src.val).cmd).contains n.val
      || (stackRun s src.val).sent.contains n.val || abortHeld s src.val (siteMax src.val (stackRun s src.val)).xkey
      || !exchRoom s n.val (siteMax src.val (stackRun s src.val)).xkey) = true) := by
    simp [h.other, h.ready, h.masked, h.unsent, h.noAbort, h.room]
  exact (live_of_running h.live _).trans (if_neg hguard)

/-! ### Swage: an aborted merge -/

/-- The key of site n's command: field xkey of its SWG_P15 (R205). -/
def mergeKey (s : State) (n : Nat) : Nat := maskKey (stackRun s n).cmd

/-- Under an abort of its key the site's command ends NOT_STARTED with MERGE_ABORT (R205). -/
theorem exec_mergeAbort_held {n : Fin 20} {s : State} (hr : running s = true) (hm : mergesUnder s n.val (mergeKey s n.val) = true)
    (ha : abortHeld s n.val (mergeKey s n.val) = true) :
    let me := stackRun s n.val
    exec (.mergeAbort n) s = .next (endRun n.val (journal me.qid me.idx me.tag { state := 0, status := stMergeAbort } s)) := by
  have hguard : ¬ ((!mergesUnder s n.val (mergeKey s n.val) || !abortHeld s n.val (mergeKey s n.val)) = true) := by
    simp [hm, ha]
  exact (live_of_running hr _).trans (if_neg hguard)

/-! ### Swage: the merge of the maxima -/

/-- The other sites of the mask of site n's command. -/
def otherSites (s : State) (n : Nat) : List Nat := (maskSites (stackRun s n).cmd).filter (fun k => k != n)

theorem mem_otherSites {s : State} {n k : Nat} : k ∈ otherSites s n ↔ k ∈ maskSites (stackRun s n).cmd ∧ k ≠ n := by
  simp [otherSites]

/-- The rows of S2 written, item by item and row by row, from the records of site n's command and the values it holds (R204 step 5). -/
def attentionRowsWritten (n : Nat) (o : Desc) (s : State) : State :=
  let me := stackRun s n
  overList (fun j t => overList (fun k t =>
      memWrite (mergeWho me) o.space (rowAt o (j * cmdRows me.cmd + k) 0 0)
        (attentionRow me (valuesHeld s n (mergeKey s n)) (runFrame me) j k) t) (List.range (cmdRows me.cmd)) t)
    (List.range me.items.length) { s with found := me.found }

/-- Site n may merge now: every other site of its mask has sent and taken maxima, and all that it holds fit (R204 step 3, R205). -/
structure MergeReady (n : Fin 20) (s : State) : Prop where
  live : running s = true
  ready : readyToMerge s n.val = true
  fits : ∀ q ∈ exchOf s n.val, q.xkey = mergeKey s n.val → q.abort = false ∧ peerFits (stackRun s n.val) q = true
  exchanged : ∀ k ∈ maskSites (stackRun s n.val).cmd, k ≠ n.val →
    k ∈ (stackRun s n.val).sent ∧ ∃ q ∈ exchOf s n.val, q.xkey = mergeKey s n.val ∧ q.site = k

section MergeReady

variable {n : Fin 20} {s : State} (h : MergeReady n s)
include h

theorem MergeReady.noAbort : abortHeld s n.val (mergeKey s n.val) = false :=
  abortHeld_eq_false.mpr fun q hq ⟨hkey, habort⟩ => Bool.eq_false_iff.mp (h.fits q hq hkey).1 habort

/-- The other sites of the mask have taken this site's maxima. -/
theorem MergeReady.taken : (otherSites s n.val).all (fun k => (stackRun s n.val).sent.contains k) = true := by
  simp only [List.all_eq_true, mem_otherSites, List.contains_iff_mem]
  exact fun k ⟨hk, hne⟩ => (h.exchanged k hk hne).1

/-- The other sites of the mask have sent theirs, and no abort stands in for them. -/
theorem MergeReady.received :
    (otherSites s n.val).all (fun k => (valuesHeld s n.val (mergeKey s n.val)).any (fun q => q.site == k)) = true := by
  simp only [List.all_eq_true, mem_otherSites, List.any_eq_true, beq_iff_eq]
  intro k ⟨hk, hne⟩
  obtain ⟨-, q, hq, hkey, hsite⟩ := h.exchanged k hk hne
  exact ⟨q, mem_valuesHeld.mpr ⟨hq, hkey, (h.fits q hq hkey).1⟩, hsite⟩

theorem MergeReady.allFit : (valuesHeld s n.val (mergeKey s n.val)).all (peerFits (stackRun s n.val)) = true := by
  refine List.all_eq_true.mpr fun q hq => ?_
  obtain ⟨hmem, hkey, -⟩ := mem_valuesHeld.mp hq
  exact (h.fits q hmem hkey).2

/-- A merge that waits for nothing writes the rows of S2 and commits (R204 steps 5 and 6). -/
theorem exec_attentionMerge_ready {o : Desc} (ho : strmDesc (stackRun s n.val).cmd 2 = some o) :
    let me := stackRun s n.val
    let t := attentionRowsWritten n.val o s
    exec (.attentionMerge n) s = .next (finishRun n.val (me.items.length * cmdRows me.cmd)
      (setRun n.val { stackRun t n.val with found := t.found } { t with found := [] })) := by
  have hguard : ¬ ((!readyToMerge s n.val || abortHeld s n.val (mergeKey s n.val)
      || !(otherSites s n.val).all (fun k => (valuesHeld s n.val (mergeKey s n.val)).any (fun q => q.site == k))
      || !(otherSites s n.val).all (fun k => (stackRun s n.val).sent.contains k)) = true) := by
    simp only [h.ready, h.noAbort, h.received, h.taken]
    decide
  refine (live_of_running h.live _).trans ((if_neg hguard).trans ((if_neg (guard_passed h.allFit)).trans ?_))
  rw [ho]
  rfl

end MergeReady

/-- Settles O30: what a site that may send, an aborted site and a site that may merge do, by their rules above. -/
theorem attentionMergeExchange : Obligations.AttentionMergeExchange := by
  unfold Obligations.AttentionMergeExchange
  intro n src o s hr r p me key peers
  refine ⟨fun hne hready hmask hsent habort hroom => ?exchange, fun hm ha => exec_mergeAbort_held hr hm (abortHeld_iff.mpr ha),
    fun hready hfits hall ho => exec_attentionMerge_ready ⟨hr, hready, hfits, hall⟩ ho⟩
  case exchange =>
    have hexec := exec_mergeExchangeReceive_ready ⟨hr, hne, hready, hmask, hsent, abortHeld_eq_false.mpr habort, hroom⟩
    exact ⟨fun hfit => hexec.trans (if_neg (Bool.eq_false_iff.mp hfit)), fun hclash => hexec.trans (if_pos hclash)⟩

end Sys2Proof.Proofs

namespace Sys2Proof.Proofs

open Sys2Proof Sys2Proof.Machine

/-! ### Time passes -/

/-- On an empty queue a step is the passing of time. -/
theorem step_of_empty {s : State} (h : s.pending = []) : step s = .next (tick s) := by
  simp [step, h]

/-- No waiting reset is handled where none waits, or while the module is frozen (R464). -/
theorem serveWaiting_of_none {s : State} (h : s.board.waiting = []) : serveWaiting s = s := if_pos (by simp [h])
theorem serveWaiting_of_frozen {s : State} (h : frozen s = true) : serveWaiting s = s := if_pos (by simp [h])

/-- A frozen module lets no time pass (R463, R464). -/
theorem tick_of_frozen {s : State} (h : frozen s = true) : tick s = s := by
  have hstop : ¬ running s = true := by simp [running, h]
  simp only [tick, serveWaiting_of_frozen h, if_neg hstop]

/-- While the module runs with nothing to handle or to send, the timebase alone counts on (R238). -/
theorem tick_of_running {s : State} (hr : running s = true) (hw : s.board.waiting = [])
    (hh : hostAgain { s with time := s.time + 1 } = { s with time := s.time + 1 }) : tick s = { s with time := s.time + 1 } := by
  simp only [tick, serveWaiting_of_none hw, if_pos hr, hh]

/-- Settles O2: a step on an empty queue is a tick, and a tick is read by whether the module is frozen or runs. -/
theorem emptyQueueLetsTimePass : Obligations.EmptyQueueLetsTimePass := by
  unfold Obligations.EmptyQueueLetsTimePass
  intro s hp
  refine ⟨⟨tick s, step_of_empty hp⟩, fun hf => ?frozen, fun hr hw hh => ?running⟩
  case frozen => rw [step_of_empty hp, tick_of_frozen hf]
  case running => rw [step_of_empty hp, tick_of_running hr hw hh]

end Sys2Proof.Proofs

namespace Sys2Proof.Proofs

open Sys2Proof Sys2Proof.Machine Sys2Proof.Laws

/-! ### Engine words that run or are rejected -/

section EngineWord

variable {a : Fin 4} {c k : Fin 16} {eng op : Nat} {w : EngWord} {s : State} {i : Instr} {act : EngCtx → State → EngRes}
  (h : EngineReady a c k eng w s) (hi : exec i s = live s (engineRun a c k eng op act s)) (hop : ewOp w = op)
include h hi hop

/-- A ready word whose operation ends has run, with its exception bits and progress (R225). -/
theorem exec_engineWord_ran {t : State} {exc prog : Nat}
    (ha : act (engStart a c k eng w s).2 (engStart a c k eng w s).1 = .fin t exc prog) :
    exec i s = .next (wordRan (engStart a c k eng w s).2 eng exc prog t) := by
  rw [hi, engineRun_ready h op hop, ha]

/-- A ready word whose operands fail a check is rejected with nothing done (R222, R229). -/
theorem exec_engineWord_rejected (ha : act (engStart a c k eng w s).2 (engStart a c k eng w s).1 = .reject) :
    exec i s = .next (rejectWord a c k eng w s) := by
  rw [hi, engineRun_ready h op hop, ha]

end EngineWord

/-! ### Vector engine: elementwise words -/

section Elementwise

variable {needB takesB int32 : Bool} {f : EngCtx → ExNum → ExNum → ExNum} {x : EngCtx} {s : State}

theorem elementwise_of_trio {t : Trio} (h : trioOf x s needB takesB int32 = some t) : elementwise needB takesB int32 f x s =
    .fin (rowsThrough x t (f x) s).1 (rowsThrough x t (f x) s).2 t.a.size1 := by
  rw [elementwise, h]

theorem elementwise_of_none (h : trioOf x s needB takesB int32 = none) : elementwise needB takesB int32 f x s = .reject := by
  rw [elementwise, h]

end Elementwise

/-- An elementwise operation of R216: its row for a core, its opcode, whether it needs B, may take B, and takes INT32, and its value. -/
abbrev ElementwiseOp := Instr × Nat × Bool × Bool × Bool × (EngCtx → ExNum → ExNum → ExNum)

/-- The elementwise operations of R217, for core k of cluster c of Anvil a. -/
def elementwiseOps (a : Fin 4) (c k : Fin 16) : List ElementwiseOp :=
  [(.vadd a c k, 0x01, true, true, false, fun _ p q => roundFp32 (numAdd p q)),
   (.vsub a c k, 0x02, true, true, false, fun _ p q => roundFp32 (numAdd p (numFlip q))),
   (.vmul a c k, 0x03, true, true, false, fun _ p q => roundFp32 (numMul p q)),
   (.vdiv a c k, 0x04, true, true, false, fun _ p q => roundFp32 (numDiv p q)),
   (.vmax a c k, 0x05, true, true, false, fun _ => vMax), (.vmin a c k, 0x06, true, true, false, fun _ => vMin),
   (.vsqrt a c k, 0x07, false, false, false, fun _ p _ => roundFp32 (numSqrt p)),
   (.vexp a c k, 0x08, false, true, false, fun x p q => expValue (if slUsed x.w.w1 then numAdd p (numFlip q) else p)),
   (.vscl a c k, 0x09, false, false, false, fun x p _ => roundFp32 (numAdd (numMul p (fp32 x.prm.s0)) (fp32 x.prm.s1))),
   (.vcvt a c k, 0x0A, false, false, true, fun _ p _ => p)]

/-- Each of their rows runs the vector engine's head word with its operation (R217). -/
theorem exec_elementwiseOps (a : Fin 4) (c k : Fin 16) (s : State) : ∀ p ∈ elementwiseOps a c k,
    exec p.1 s = live s (engineRun a c k 1 p.2.1 (elementwise p.2.2.1 p.2.2.2.1 p.2.2.2.2.1 p.2.2.2.2.2) s) := by
  simp only [elementwiseOps, List.forall_mem_cons]
  exact ⟨rfl, rfl, rfl, rfl, rfl, rfl, rfl, rfl, rfl, rfl, fun _ => (absurd · List.not_mem_nil)⟩

/-- Settles O32: whatever the operation, its row runs `elementwise`, which ends or is rejected as trioOf says. -/
theorem elementwiseWordsWriteTheirRows : Obligations.ElementwiseWordsWriteTheirRows := by
  unfold Obligations.ElementwiseWordsWriteTheirRows
  intro a c k w s h s1 x i op needB takesB int32 f hmem hop
  have hi := exec_elementwiseOps a c k s _ hmem
  exact ⟨fun tr htr => exec_engineWord_ran h hi hop (elementwise_of_trio htr),
    fun hnone => exec_engineWord_rejected h hi hop (elementwise_of_none hnone)⟩

/-! ### Vector engine: one result per row -/

/-- Row m of A read, and its result under f written to row m of C, with the exception bits so far (R217). -/
def rowResult (f : Desc → List Elem → ExNum) (x : EngCtx) (da dc : Desc) (se : State × Nat) (m : Nat) : State × Nat :=
  let r := readRow x.who false da (rowAt da m 0 0) se.1
  let es := rowElems da r.2
  let p := putRow x.who dc (rowAt dc m 0 0) (drawPos x m) [(f da es, es.any (·.poison) || x.prm.bad)] r.1
  (p.1, se.2 ||| p.2)

/-- Row m of A read, and value m of C raised to the row's largest bound exponent (R217). -/
def raiseToBound (x : EngCtx) (da : Desc) (m : Nat) (t : State) : State :=
  let r := readRow x.who false da (rowAt da m 0 0) t
  let es := rowElems da r.2
  max16At x (slotInts x x.w.w0) m (anchorCode (rowBound da es)) (es.any (·.poison)) r.1

/-- Value m of A read, and value m of C raised to it (R217). -/
def raiseToValue (x : EngCtx) (m : Nat) (t : State) : State :=
  let r := memRead x.who false 1 ((slotInts x x.w.w2).base + 2 * m) 2 t
  max16At x (slotInts x x.w.w0) m (leNat (r.2.map (·.1))) (r.2.any (·.2)) r.1

/-- The pattern of VFILL over a row of C (R217). -/
def fillPattern (x : EngCtx) (dc : Desc) : List PByte :=
  (List.range (rowBytes dc)).map (fun i => (BitVec.ofNat 8 (x.prm.s0 >>> (8 * (i % 4))), x.prm.bad))

theorem notInt32_iff {d : Desc} : notInt32 d = true ↔ d.fmt ≠ .int32 := bne_iff_ne

section RowWords

variable {x : EngCtx} {s : State} {da dc : Desc}

/-- VRSUM and VRMAXF of operands that pass their checks (R217, R222). -/
theorem perRow_fin (f : Desc → List Elem → ExNum) (ha : slotDesc x x.w.w2 = some da) (hc : slotDesc x x.w.w0 = some dc)
    (hsrc : srcOk s da = true) (hdst : dstOk s dc = true) (hfa : da.fmt ≠ .int32) (hfc : dc.fmt ≠ .int32)
    (hsize : da.size1 = dc.size1) (hapart : opsMeet da dc = false) (hprm : prmClear x dc = true) :
    perRow f x s = .fin ((List.range da.size1).foldl (rowResult f x da dc) (s, 0)).1
      ((List.range da.size1).foldl (rowResult f x da dc) (s, 0)).2 da.size1 := by
  have hchecks : ¬ ((!srcOk s da || !dstOk s dc || !notInt32 da || !notInt32 dc || da.size1 != dc.size1
      || !apartFrom false da x.w.w2 dc x.w.w0 || !prmClear x dc) = true) := by
    simp [hsrc, hdst, notInt32_iff.mpr hfa, notInt32_iff.mpr hfc, hsize, apartFrom, hapart, hprm]
  simp only [perRow, ha, hc, if_neg hchecks]
  rfl

/-- VFILL of an operand that passes its checks (R217, R222). -/
theorem vfill_fin (hc : slotDesc x x.w.w0 = some dc) (hdst : dstOk s dc = true) (hprm : prmApart x 32 dc = true) :
    vfill x s = .fin (overList (fun m t => memWrite x.who 1 (rowAt dc m 0 0) (fillPattern x dc) t) (List.range dc.size1) s) 0
      dc.size1 := by
  have hchecks : ¬ ((!dstOk s dc || !prmApart x 32 dc) = true) := by simp [hdst, hprm]
  simp only [vfill, hc, if_neg hchecks]
  rfl

/-- VAMAX of operands that pass their checks (R217, R222). -/
theorem vamax_fin (ha : slotDesc x x.w.w2 = some da) (hused : slUsed x.w.w0 = true) (hsrc : srcOk s da = true)
    (hfa : da.fmt ≠ .int32) (hints : intsOk s (slotInts x x.w.w0) = true) (hsize : da.size1 ≤ slN0 x.w.w0)
    (hapart : opsMeet da (slotInts x x.w.w0) = false) (hprm : prmClear x (slotInts x x.w.w0) = true) :
    vamax x s = .fin (overList (raiseToBound x da) (List.range da.size1) s) 0 da.size1 := by
  have hchecks : ¬ ((!slUsed x.w.w0 || !srcOk s da || !notInt32 da || !intsOk s (slotInts x x.w.w0)
      || decide (slN0 x.w.w0 < da.size1) || opsMeet da (slotInts x x.w.w0) || !prmClear x (slotInts x x.w.w0)) = true) := by
    simp [hused, hsrc, notInt32_iff.mpr hfa, hints, hsize, hapart, hprm]
  simp only [vamax, ha, if_neg hchecks]
  rfl

/-- VIMAX of operands that pass their checks: apart, or the same values (R217, R222). -/
theorem vimax_fin (husedA : slUsed x.w.w2 = true) (husedC : slUsed x.w.w0 = true) (hsize : slN0 x.w.w2 = slN0 x.w.w0)
    (hintsA : intsOk s (slotInts x x.w.w2) = true) (hintsC : intsOk s (slotInts x x.w.w0) = true)
    (hapart : opsMeet (slotInts x x.w.w2) (slotInts x x.w.w0) = false ∨ slOffset x.w.w2 = slOffset x.w.w0)
    (hprm : prmClear x (slotInts x x.w.w0) = true) :
    vimax x s = .fin (overList (raiseToValue x) (List.range (slN0 x.w.w2)) s) 0 1 := by
  have hplaces : (!opsMeet (slotInts x x.w.w2) (slotInts x x.w.w0) || (slotInts x x.w.w2).base == (slotInts x x.w.w0).base) = true := by
    rcases hapart with hapart | hsame
    · simp [hapart]
    · simp [slotInts, hsame]
  have hchecks : ¬ ((!slUsed x.w.w2 || !slUsed x.w.w0 || slN0 x.w.w2 != slN0 x.w.w0 || !intsOk s (slotInts x x.w.w2)
      || !intsOk s (slotInts x x.w.w0) || !(!opsMeet (slotInts x x.w.w2) (slotInts x x.w.w0)
        || (slotInts x x.w.w2).base == (slotInts x x.w.w0).base) || !prmClear x (slotInts x x.w.w0)) = true) := by
    simp only [husedA, husedC, hsize, hintsA, hintsC, hplaces, hprm]
    simp
  refine (if_neg hchecks).trans
    (congrArg (fun g => EngRes.fin (overList g (List.range (slN0 x.w.w2)) s) 0 1) (funext fun m => funext fun t => ?_))
  cases hr : memRead x.who false 1 ((slotInts x x.w.w2).base + 2 * m) 2 t with
  | mk t' l => simp only [raiseToValue, hr]

end RowWords

/-- The words that give one element per row of A, for core k of cluster c of Anvil a: row, opcode and result (R217). -/
def perRowOps (a : Fin 4) (c k : Fin 16) : List (Instr × Nat × (Desc → List Elem → ExNum)) :=
  [(.vrsum a c k, 0x10, rowSum), (.vrmaxf a c k, 0x11, fun _ => rowMaxF)]

theorem exec_perRowOps (a : Fin 4) (c k : Fin 16) (s : State) :
    ∀ p ∈ perRowOps a c k, exec p.1 s = live s (engineRun a c k 1 p.2.1 (perRow p.2.2) s) := by
  simp only [perRowOps, List.forall_mem_cons]
  exact ⟨rfl, rfl, fun _ => (absurd · List.not_mem_nil)⟩

/-- Settles O33: each word's operation ends as its rule above says, so the word has run. -/
theorem rowWordsWriteOneResultPerRow : Obligations.RowWordsWriteOneResultPerRow := by
  unfold Obligations.RowWordsWriteOneResultPerRow
  intro a c k w s da dc h s1 x
  refine ⟨fun i op f hmem hop ha hc hsrc hdst hfa hfc hsize hapart hprm => ?perRow, fun hop hc hdst hprm => ?fill,
    fun hop ha hused hsrc hfa hints hsize hapart hprm => ?bounds,
    fun hop husedA husedC hsize hintsA hintsC hapart hprm => ?values⟩
  case perRow =>
    exact exec_engineWord_ran h (exec_perRowOps a c k s _ hmem) hop (perRow_fin f ha hc hsrc hdst hfa hfc hsize hapart hprm)
  case fill => exact exec_engineWord_ran (act := vfill) h rfl hop (vfill_fin hc hdst hprm)
  case bounds => exact exec_engineWord_ran (act := vamax) h rfl hop (vamax_fin ha hused hsrc hfa hints hsize hapart hprm)
  case values => exact exec_engineWord_ran (act := vimax) h rfl hop (vimax_fin husedA husedC hsize hintsA hintsC hapart hprm)

end Sys2Proof.Proofs

namespace Sys2Proof.Proofs

open Sys2Proof Sys2Proof.Machine

/-! ### Waits and pushes at their limit -/

/-- The state at the limit of a wait that began at `since`: the timebase at least there (R226). -/
def atLimit (a c since : Nat) (s t : State) : State := { t with time := max t.time (since + 1000000 * waitMs s a c) }

section Limits

variable {a : Fin 4} {c : Fin 16} {s : State} (hr : running s = true) (hl : waitMs s a.val c.val ≠ 0)
include hr hl

/-- The head word of a core's engine whose wait does not hold ends at its limit with a fault (R226, R229). -/
theorem exec_engineWaitTimeout_core {k : Fin 16} {eng : Fin 4} {w : EngWord} (he : eng.val < 3)
    (hw : headWord s a.val c.val k.val eng.val = some w) (hwait : waitHolds (coreSt s (coreNo a.val c.val k.val)) w = false) :
    exec (.engineWaitTimeout a c k eng) s =
      .next (engineFault a.val c.val k.val eng.val 0x250 w 0 0 (atLimit a.val c.val w.since s s)) := by
  change execEngineWaitTimeout a c k eng s = _
  simp [execEngineWaitTimeout, live_of_running hr, hl, Nat.ne_of_lt he, hw, hwait, done, atLimit]

/-- So does the head word of the Bellows stream (R226, R229). -/
theorem exec_engineWaitTimeout_bellows {k : Fin 16} {eng : Fin 4} {w : EngWord} (he : eng.val = 3)
    (hw : bellowsHead s a.val c.val = some w) (ho : bellowsOpen s a.val c.val = true) (heng : ewEng w = 3)
    (hb : bellowsBad s a.val c.val w = false) (hwait : allWaits s a.val c.val w = false) :
    exec (.engineWaitTimeout a c k eng) s = .next (bellowsFault a.val c.val 0x250 w (atLimit a.val c.val w.since s s)) := by
  change execEngineWaitTimeout a c k eng s = _
  simp [execEngineWaitTimeout, live_of_running hr, hl, he, hw, ho, heng, hb, hwait, done, atLimit]

/-- A stalled push is dropped at its limit, with its tag, and stops the cluster (R226, R229, R235). -/
theorem exec_pushStallTimeout_stalled {p : Push} (hp : (cluster s (clusterNo a.val c.val)).push = some p) :
    let t := if p.tagged then (s, p.word.tag) else stampTag (clusterCode a.val c.val) s
    exec (.pushStallTimeout a c) s = .next (clusterFault a.val c.val (hxCluster a.val c.val) 3 0x250 t.2 0 0
      (atLimit a.val c.val p.word.since s (setCluster (clusterNo a.val c.val)
        { cluster t.1 (clusterNo a.val c.val) with push := none } t.1))) := by
  change execPushStallTimeout a c s = _
  simp only [execPushStallTimeout, live_of_running hr, hp, if_neg hl]
  rfl

end Limits

/-- Settles O37: an engine's wait, a Bellows word's and a stalled push at their limit, each by its rule above. -/
theorem engineWaitsTimeOut : Obligations.EngineWaitsTimeOut := by
  unfold Obligations.EngineWaitsTimeOut
  intro a c k eng w p s hr hl
  exact ⟨exec_engineWaitTimeout_core hr hl, exec_engineWaitTimeout_bellows hr hl, exec_pushStallTimeout_stalled hr hl⟩

end Sys2Proof.Proofs

namespace Sys2Proof.Proofs

open Sys2Proof Sys2Proof.Machine Sys2Proof.Laws

/-! ### Bellows: the word at the head of the stream -/

/-- The state once the head word of the stream has its tag (R237). -/
def stamped (a c : Nat) (w : EngWord) (s : State) : State := (issueTag a c w s).1

/-- That word with its tag (R237). -/
def stampedWord (a c : Nat) (w : EngWord) (s : State) : EngWord := (issueTag a c w s).2

section BellowsHead

variable {a : Fin 4} {c : Fin 16} {w : EngWord} {s : State} (h : BellowsReady a c w s)
include h

/-- A ready eng 3 word whose waits hold acts with its tag and leaves the stream (R225, R230). -/
theorem bellowsRun_acts {op : Nat} {act : EngWord → State → Option State} {t : State} (heng : ewEng w = 3)
    (hwait : allWaits s a.val c.val w = true) (hop : ewOp w = op)
    (hact : act (stampedWord a.val c.val w s) (stamped a.val c.val w s) = some t) :
    live s (bellowsRun a.val c.val op act s) = .next (bellowsPopped a c t) := by
  obtain ⟨hr, hhead, hopen, hbad⟩ := h
  have hact' : act (issueTag a.val c.val w s).2 (issueTag a.val c.val w s).1 = some t := hact
  simp [live_of_running hr, bellowsRun, hhead, hopen, hbad, heng, hop, hwait, hact', done, bellowsPopped]

/-- A word for an engine enters the queues of all its cores at once, where every one has room (R230). -/
theorem exec_bellowsRelease_ready (heng : ewEng w ≠ 3)
    (hroom : ∀ j ∈ maskCores w, queueRoom s (coreNo a.val c.val j) (ewEng w) ≠ 0) :
    let s1 := stamped a.val c.val w s
    let w1 := stampedWord a.val c.val w s
    let z := clusterNo a.val c.val
    exec (.bellowsRelease a c) s = .next (retryPush a.val c.val (overList (fun x t => enterQueue x (ewEng w1) w1 t)
      ((maskCores w).map (coreNo a.val c.val)) (setCluster z (popBellows s1.time (cluster s1 z)) s1))) := by
  obtain ⟨hr, hhead, hopen, hbad⟩ := h
  have hall : ((maskCores w).map (coreNo a.val c.val)).any (fun x => queueRoom s x (ewEng w) == 0) = false := by
    simpa using hroom
  change execBellowsRelease a c s = _
  simp [execBellowsRelease, live_of_running hr, hhead, hopen, hbad, heng, hall, done, stamped, stampedWord]

end BellowsHead

/-- A word that Bellows rejects stops the cluster, whichever of its rows was sent (R220, R229, R232). -/
theorem exec_of_bellowsBad {a : Fin 4} {c : Fin 16} {w : EngWord} {s : State} (hr : running s = true)
    (hhead : bellowsHead s a.val c.val = some w) (hopen : bellowsOpen s a.val c.val = true)
    (hbad : bellowsBad s a.val c.val w = true) {i : Instr} (hi : i ∈ ([.bar a c, .bellowsRelease a c] : List Instr)) :
    exec i s = .next (bellowsFault a.val c.val stDescriptor w s) := by
  simp only [List.mem_cons, List.not_mem_nil, or_false] at hi
  rcases hi with rfl | rfl
  · change execBar a c s = _
    simp [execBar, live_of_running hr, bellowsRun, hhead, hopen, hbad, done]
  · change execBellowsRelease a c s = _
    simp [execBellowsRelease, live_of_running hr, hhead, hopen, hbad, done]

/-- ENGINE_NOP of Bellows does its head word with nothing but its completion (R220). -/
theorem exec_engineNop_bellows {a : Fin 4} {c k : Fin 16} {eng : Fin 4} (he : eng.val = 3) (s : State) :
    exec (.engineNop a c k eng) s =
      live s (bellowsRun a.val c.val 0x00 (fun w t => some (bellowsDone a.val c.val w t)) s) := by
  change execEngineNop a c k eng s = _
  rw [execEngineNop, if_pos he]

/-- BAR and NOP complete as they are issued (R220, R232). -/
theorem exec_barOrNop {a : Fin 4} {c k : Fin 16} {eng : Fin 4} {w : EngWord} {s : State} (h : BellowsReady a c w s)
    (heng : ewEng w = 3) (hwait : allWaits s a.val c.val w = true) {i : Instr} {op : Nat}
    (hi : (i, op) ∈ ([(.bar a c, 0x33), (.engineNop a c k eng, 0x00)] : List (Instr × Nat))) (he : op = 0 → eng.val = 3)
    (hop : ewOp w = op) : exec i s = .next (bellowsPopped a c
      (bellowsDone a.val c.val (stampedWord a.val c.val w s) (stamped a.val c.val w s))) := by
  have hacts := bellowsRun_acts (act := fun w t => some (bellowsDone a.val c.val w t)) h heng hwait hop rfl
  simp only [List.mem_cons, Prod.mk.injEq, List.not_mem_nil, or_false] at hi
  rcases hi with ⟨rfl, rfl⟩ | ⟨rfl, rfl⟩
  · exact hacts
  · exact (exec_engineNop_bellows (he rfl) s).trans hacts

/-! ### Bellows: LOAD and STORE -/

/-- LOAD and STORE of a cluster, each with its opcode and whether it stores (R231). -/
def lsOps (a : Fin 4) (c : Fin 16) (es : List LinkErr) : List (Instr × Nat × Bool) :=
  [(.load a ⟨c, es⟩, 0x30, false), (.store a ⟨c, es⟩, 0x31, true)]

theorem exec_lsOps {a : Fin 4} {c : Fin 16} {es : List LinkErr} {i : Instr} {op : Nat} {store : Bool}
    (hi : (i, op, store) ∈ lsOps a c es) (s : State) :
    exec i s = live s (loadStore a.val c.val store es s) ∧ op = if store then 0x31 else 0x30 := by
  simp only [lsOps, List.mem_cons, Prod.mk.injEq, List.not_mem_nil, or_false] at hi
  rcases hi with ⟨rfl, rfl, rfl⟩ | ⟨rfl, rfl, rfl⟩
  · exact ⟨rfl, rfl⟩
  · exact ⟨rfl, rfl⟩

/-- The word joins those in progress with no piece moved (R230). -/
def joinMoving (a c : Nat) (w : EngWord) (s : State) : State :=
  let t := traceIf a c (hxCluster a c) w 1 0 0 s
  setCluster (clusterNo a c)
    { cluster t (clusterNo a c) with moving := (cluster t (clusterNo a c)).moving ++ [{ w with ran := false, prog := 0 }] } t

/-- What the head word of the stream comes to before pieces move: put in progress, where fewer than four are (R230). -/
def lsStart (a c : Nat) (store : Bool) (s : State) : Host.Outcome State Fault Refusal :=
  if 4 ≤ (cluster s (clusterNo a c)).moving.length then noEvent s
  else bellowsRun a c (if store then 0x31 else 0x30) (fun w t => if !lsOk t a store w then none else some (joinMoving a c w t)) s

theorem loadStore_of_start {a c : Nat} {store : Bool} {es : List LinkErr} {s t : State} (h : lsStart a c store s = .next t) :
    loadStore a c store es s = .next (movePiecesLs a c store es t) := by
  have hmoves (o : Host.Outcome State Fault Refusal) (ho : o = .next t) :
      (match o with | .next t => done (movePiecesLs a c store es t) | o => o) = .next (movePiecesLs a c store es t) := by
    rw [ho]
    rfl
  exact hmoves _ h

/-- A LOAD or STORE that passes its checks, with fewer than four in progress, is put in progress (R230, R231). -/
theorem lsStart_joins {a : Fin 4} {c : Fin 16} {w : EngWord} {s : State} (h : BellowsReady a c w s) {store : Bool}
    (heng : ewEng w = 3) (hwait : allWaits s a.val c.val w = true) (hop : ewOp w = if store then 0x31 else 0x30)
    (hroom : (cluster s (clusterNo a.val c.val)).moving.length < 4)
    (hok : lsOk (stamped a.val c.val w s) a.val store (stampedWord a.val c.val w s) = true) :
    lsStart a.val c.val store s =
      .next (bellowsPopped a c (joinMoving a.val c.val (stampedWord a.val c.val w s) (stamped a.val c.val w s))) := by
  have ⟨hr, _⟩ := h
  rw [lsStart, if_neg (Nat.not_le.mpr hroom), ← live_of_running hr (bellowsRun _ _ _ _ s)]
  exact bellowsRun_acts h heng hwait hop (if_neg (guard_passed hok))

/-- With four in progress, or no word at the head, none is (R230). -/
theorem lsStart_of_none {a c : Nat} {store : Bool} {s : State}
    (h : 4 ≤ (cluster s (clusterNo a c)).moving.length ∨ bellowsHead s a c = none) : lsStart a c store s = .next s := by
  rcases h with hfull | hhead
  · exact if_pos hfull
  · simp [lsStart, bellowsRun, hhead, noEvent]

/-- The next piece of the first LOAD or STORE in progress that has pieces left is ready: word v, piece x, with the words before it
and behind it (R230, R231). -/
structure NextPiece (a c : Nat) (store : Bool) (before : List EngWord) (v : EngWord) (rest : List EngWord) (x : LsPiece)
    (s : State) : Prop where
  notStopped : (cluster s (clusterNo a c)).stopped = false
  live : stoppedAt s (hxCluster a c) = false
  notHalted : (hearth s (hxCluster a c)).halted = false
  next : nextMove (cluster s (clusterNo a c)).moving = some (before, v, rest)
  kind : (ewOp v == 0x31) = store
  piece : (lsPieces v)[v.prog]? = some x
  ready : pieceReady s (bellowsSource a c) (lsSpace v) (lsRemote v x.core x.row) (lsBytes v) x.addr x.len store = true

/-- Such a piece is copied and counted, and the word has run with its last piece (R230, R231). -/
theorem movePiecesLs_one {a c : Nat} {store : Bool} {before rest : List EngWord} {v : EngWord} {x : LsPiece} {s : State}
    (h : NextPiece a c store before v rest x s) (er : LinkErr) :
    let t := lsCopy a c store v x er s
    movePiecesLs a c store [er] s = setCluster (clusterNo a c) { cluster t (clusterNo a c) with
      moving := before ++ { v with prog := v.prog + 1, ran := decide ((lsPieces v).length ≤ v.prog + 1) } :: rest } t := by
  have hkind : ¬ ((ewOp v == 0x31) != store) = true := by simp [h.kind]
  have hruns : ¬ ((cluster s (clusterNo a c)).stopped || stoppedAt s (hxCluster a c) || (hearth s (hxCluster a c)).halted) = true := by
    simp [h.notStopped, h.live, h.notHalted]
  simp only [movePiecesLs, if_neg hruns, h.next, if_neg hkind, h.piece, if_neg (guard_passed h.ready)]

/-! ### Bellows: RUN -/

/-- The words that a RUN fetched stand ahead of the rest of the stream, behind the RUN itself, which is still to leave it (R232). -/
def runFetched (a c : Nat) (w : EngWord) (s : State) : State :=
  let n := 32 * runCount w
  let r := memRead ⟨4, w.tag, false⟩ false (runSpace w) w.w2 n (whenSt (runSpace w == 4) (countRun w.w2 n) s)
  let t := bellowsDone a c w r.1
  setCluster (clusterNo a c) { cluster t (clusterNo a c) with
    bq := (cluster t (clusterNo a c)).bq.drop 1,
    fetched := ⟨0, 0, 0, 0, 0, 0, false, 0, 0⟩ :: fetchedWords t.time (ewMask w) (runCount w) r.2 } t

/-- RUN of words that its Bellows may read now, in its own die buffer or in stack memory, fetches them (R232). -/
theorem exec_run_ready {a : Fin 4} {c : Fin 16} {w : EngWord} {s : State} (h : BellowsReady a c w s) (heng : ewEng w = 3)
    (hwait : allWaits s a.val c.val w = true) (hop : ewOp w = 0x32)
    (hspace : runSpace (stampedWord a.val c.val w s) = 2 ∧ (stampedWord a.val c.val w s).w2 / 2 ^ 32 = a.val ∨
      runSpace (stampedWord a.val c.val w s) = 4)
    (haddr : addrOk (stamped a.val c.val w s) (runSpace (stampedWord a.val c.val w s)) (stampedWord a.val c.val w s).w2
      (32 * runCount (stampedWord a.val c.val w s)) = true)
    (hready : runSpace w = 4 → moverReady s (bellowsSource a.val c.val) 4 w.w2 (32 * runCount w) false = true) :
    exec (.run a c) s = .next (bellowsPopped a c (runFetched a.val c.val (stampedWord a.val c.val w s) (stamped a.val c.val w s))) := by
  have hmay : ¬ (bellowsOpen s a.val c.val && ewEng w == 3 && ewOp w == 0x32 && runSpace w == 4
      && addrOk s 4 w.w2 (32 * runCount w) && !moverReady s (bellowsSource a.val c.val) 4 w.w2 (32 * runCount w) false) = true := by
    by_cases hsm : runSpace w = 4
    · simp [hready hsm]
    · simp [hsm]
  have ⟨_, hhead, _, _⟩ := h
  change execRun a c s = _
  rw [execRun]
  simp only [hhead, if_neg hmay]
  refine bellowsRun_acts h heng hwait hop ((if_neg ?checks).trans rfl)
  case checks =>
    rcases hspace with ⟨hdb, hown⟩ | hsm
    · rw [hdb] at haddr
      simpa [hdb, haddr] using hown
    · rw [hsm] at haddr
      simp [hsm, haddr]

/-- Settles O38: the head word of the stream acts by its kind, a rejected one stops the cluster, and a ready piece is copied. -/
theorem bellowsRunsItsStream : Obligations.BellowsRunsItsStream := by
  unfold Obligations.BellowsRunsItsStream
  intro a c k eng es er w s z s1 w1 waits ls
  refine ⟨fun h => ⟨fun i op hi he ⟨heng, hwait⟩ hop => exec_barOrNop h heng hwait hi he hop, ?loadStore, ?run,
    exec_bellowsRelease_ready h⟩, fun hr hhead hopen hbad i hi => exec_of_bellowsBad hr hhead hopen hbad hi, ?piece⟩
  case loadStore =>
    intro i op store hi ⟨heng, hwait⟩ hop hroom hok
    have ⟨hr, _⟩ := h
    obtain ⟨hexec, hcode⟩ := exec_lsOps hi s
    rw [hexec, live_of_running hr]
    exact loadStore_of_start (lsStart_joins h heng hwait (hop.trans hcode) hroom hok)
  case run =>
    intro ⟨heng, hwait⟩ hop hspace haddr hready
    exact exec_run_ready h heng hwait hop hspace haddr (fun hsm => (hready hsm).2)
  case piece =>
    intro i op store before v rest x hi hr hnone hstop hlive hhalt hnext hkind hpiece hready
    rw [(exec_lsOps hi s).1, live_of_running hr, loadStore_of_start (lsStart_of_none hnone)]
    exact congrArg _ (movePiecesLs_one ⟨hstop, hlive, hhalt, hnext, hkind, hpiece, hready⟩ er)

end Sys2Proof.Proofs

namespace Sys2Proof.Proofs

open Sys2Proof Sys2Proof.Machine Sys2Proof.Laws

/-! ### A pending push that goes on -/

/-- A push pends at a cluster (R235). -/
def pushPends (z : Nat) (p : Push) (s : State) : State := setCluster z { cluster s z with push := some p } s

@[simp] theorem cluster_pushPends (z : Nat) (p : Push) (s : State) :
    cluster (pushPends z p s) z = { cluster s z with push := some p } :=
  tabGet_tabSet_ne_default _ _ _ (fun h => Option.some_ne_none p (congrArg Cluster.push h))

@[simp] theorem rf_pushPends (z : Nat) (p : Push) (s : State) (o hi lo : Nat) : rf (pushPends z p s) o hi lo = rf s o hi lo := rfl

/-- ANV_CL_CTL.halt of a cluster (R241). -/
def clusterHalted (a c : Nat) (s : State) : Prop := rf s (clReg a c 0) 1 1 = 1

/-- The masked cores whose queue has room for a push (R235). -/
def readyCores (a c : Nat) (p : Push) (s : State) : List Nat :=
  (List.range 16).filter (fun k => natBit p.mask k && decide (0 < queueRoom s (coreNo a c k) (ewEng p.word)))

/-- The cores of a push's mask that are left once those that are ready have taken it. -/
def maskLeft (a c : Nat) (p : Push) (s : State) : Nat := (readyCores a c p s).foldl (fun m k => m - 2 ^ k) p.mask

section RetryPush

variable {a c : Nat} {p : Push} {s : State} (hs : (cluster s (clusterNo a c)).stopped = false)
include hs

/-- While the cluster is halted a push pends (R241). -/
theorem retryPush_of_halted (hh : clusterHalted a c s) :
    retryPush a c (pushPends (clusterNo a c) p s) = pushPends (clusterNo a c) p s := by
  have hhalt : rf s (clReg a c 0) 1 1 = 1 := hh
  simp [retryPush, hs, hhalt]

/-- A Bellows push pends while the Bellows queue is full (R235). -/
theorem retryPush_bellows_full (hb : p.bellows = true) (hfull : 64 ≤ (cluster s (clusterNo a c)).bq.length) :
    retryPush a c (pushPends (clusterNo a c) p s) = pushPends (clusterNo a c) p s := by
  simp [retryPush, hs, hb, hfull]

/-- It enters the queue with the next tag where there is room (R235, R237). -/
theorem retryPush_bellows_room (hh : ¬ clusterHalted a c s) (hb : p.bellows = true) (ht : p.tagged = false)
    (hroom : (cluster s (clusterNo a c)).bq.length < 64) :
    let y := cluster s (clusterNo a c)
    let t := stampTag (clusterCode a c) (pushPends (clusterNo a c) p s)
    retryPush a c (pushPends (clusterNo a c) p s) = setCluster (clusterNo a c)
      { y with bq := y.bq ++ [{ p.word with tag := t.2, since := t.1.time }], push := none } t.1 := by
  have hhalt : ¬ rf s (clReg a c 0) 1 1 = 1 := hh
  simp [retryPush, hs, hhalt, hb, ht, hroom]

/-- A direct push pends while no masked queue has room (R235). -/
theorem retryPush_direct_full (hb : p.bellows = false) (hnone : readyCores a c p (pushPends (clusterNo a c) p s) = []) :
    retryPush a c (pushPends (clusterNo a c) p s) = pushPends (clusterNo a c) p s := by
  rw [readyCores] at hnone
  simp [retryPush, hs, hb, hnone]

/-- It enters the masked queues that have room, with the next tag, and pends for the others (R235, R237). -/
theorem retryPush_direct_room (hh : ¬ clusterHalted a c s) (hb : p.bellows = false) (ht : p.tagged = false)
    (hsome : readyCores a c p (pushPends (clusterNo a c) p s) ≠ []) :
    let u := pushPends (clusterNo a c) p s
    let t := stampTag (clusterCode a c) u
    let w := { p.word with tag := t.2 }
    retryPush a c u = setCluster (clusterNo a c)
      { cluster s (clusterNo a c) with
        push := if maskLeft a c p u = 0 then none else some ⟨w, maskLeft a c p u, false, true⟩ }
      (overList (fun k t => enterQueue (coreNo a c k) (ewEng p.word) w t) (readyCores a c p u) t.1) := by
  have hhalt : ¬ rf s (clReg a c 0) 1 1 = 1 := hh
  have htakes : (readyCores a c p (pushPends (clusterNo a c) p s)).isEmpty = false := by simpa using hsome
  rw [readyCores] at htakes
  simp only [retryPush, cluster_pushPends, rf_pushPends, hs, if_neg hhalt, hb, ht, htakes, Bool.false_eq_true, if_false, Bool.not_false]
  rfl

end RetryPush

/-! ### Pushes -/

/-- Word 3 as it was written with words 0 to 2 from the staging registers (R235). -/
def pushedWord (a c : Nat) (v : Word) (s : State) : EngWord :=
  let y := cluster s (clusterNo a c)
  ⟨y.w0, y.w1, y.w2, v.toNat, 0, s.time, false, 0, 0⟩

/-- A push of that word, its tag not yet taken. -/
def newPush (a c : Nat) (v : Word) (bellows : Bool) (s : State) : Push :=
  ⟨pushedWord a c v s, ewMask (pushedWord a c v s), bellows, false⟩

section PushWord

variable {a c : Nat} {v : Word} {s : State}

/-- A push to a stopped cluster takes its tag and is discarded (R229, R237). -/
theorem pushWord_of_stopped (b : Bool) (hs : (cluster s (clusterNo a c)).stopped = true) :
    pushWord a c b v.toNat s = (stampTag (clusterCode a c) s).1 := if_pos hs

/-- A direct push that names Bellows or no core takes its tag and stops the cluster (R220, R235). -/
theorem pushWord_direct_bad (hs : (cluster s (clusterNo a c)).stopped = false)
    (hbad : ewEng (pushedWord a c v s) = 3 ∨ ewMask (pushedWord a c v s) = 0) :
    pushWord a c false v.toNat s = clusterFault a c (hxCluster a c) (ewEng (pushedWord a c v s)) stDescriptor
      (stampTag (clusterCode a c) s).2 0 0 (stampTag (clusterCode a c) s).1 := by
  have hcheck : (!false && (ewEng (pushedWord a c v s) == 3 || ewMask (pushedWord a c v s) == 0)) = true := by simpa using hbad
  exact (if_neg (Bool.eq_false_iff.mp hs)).trans (if_pos hcheck)

/-- Any other push pends, and goes on as far as it can at once (R235). -/
theorem pushWord_pends {b : Bool} (hs : (cluster s (clusterNo a c)).stopped = false)
    (hok : b = true ∨ (ewEng (pushedWord a c v s) ≠ 3 ∧ ewMask (pushedWord a c v s) ≠ 0)) :
    pushWord a c b v.toNat s = retryPush a c (pushPends (clusterNo a c) (newPush a c v b s) s) := by
  have hcheck : ¬ (!b && (ewEng (pushedWord a c v s) == 3 || ewMask (pushedWord a c v s) == 0)) = true := by
    rcases hok with rfl | ⟨heng, hmask⟩
    · simp
    · simp [heng, hmask]
  exact (if_neg (Bool.eq_false_iff.mp hs)).trans (if_neg hcheck)

end PushWord

section ExecPush

variable {a : Fin 4} {c : Fin 16} {s : State} (hr : running s = true) (hm : mayPush s a.val c.val = true) (v : Word)
include hr hm

theorem exec_bellowsPush : exec (.bellowsPush a c v) s = .next (pushWord a.val c.val true v.toNat s) :=
  (live_of_running hr _).trans (if_pos hm)

theorem exec_directPush : exec (.directPush a c v) s = .next (pushWord a.val c.val false v.toNat s) :=
  (live_of_running hr _).trans (if_pos hm)

end ExecPush

/-- Settles O39: a push that pends goes on as retryPush's rules say; on a stopped cluster, or as a bad direct push, it does not pend. -/
theorem pushesEnterTheirQueues : Obligations.PushesEnterTheirQueues := by
  unfold Obligations.PushesEnterTheirQueues
  intro a c v s hr hm z y code w pends halted
  rw [exec_bellowsPush hr hm, exec_directPush hr hm]
  refine ⟨fun hs => ⟨congrArg _ (pushWord_of_stopped true hs), congrArg _ (pushWord_of_stopped false hs)⟩,
    fun hs => ⟨fun hwait => ?bellowsWaits, fun hh hroom => ?bellowsEnters, fun hbad => congrArg _ (pushWord_direct_bad hs hbad),
      fun heng hmask => ⟨fun hwait => ?directWaits, fun hh hready => ?directEnters⟩⟩⟩
  case bellowsWaits =>
    rw [pushWord_pends hs (.inl rfl)]
    exact congrArg _ (hwait.elim (retryPush_of_halted hs) (retryPush_bellows_full hs rfl))
  case bellowsEnters =>
    rw [pushWord_pends hs (.inl rfl)]
    exact congrArg _ (retryPush_bellows_room hs hh rfl rfl hroom)
  case directWaits =>
    rw [pushWord_pends hs (.inr ⟨heng, hmask⟩)]
    exact congrArg _ (hwait.elim (retryPush_of_halted hs) (retryPush_direct_full (p := newPush a c v false s) hs rfl))
  case directEnters =>
    rw [pushWord_pends hs (.inr ⟨heng, hmask⟩)]
    exact congrArg _ (retryPush_direct_room hs hh rfl rfl hready)

end Sys2Proof.Proofs

namespace Sys2Proof.Proofs

open Sys2Proof Sys2Proof.Machine Sys2Proof.Laws

/-! ### Cluster registers that act -/

/-- A read of ANV_CL_TAG answers the tag it stamps (R237). -/
theorem exec_clTagRead {a : Fin 4} {c : Fin 16} {s : State} (hr : running s = true) : exec (.clTagRead a c) s =
    .next (emit (.regData (stampTag (clusterCode a.val c.val) s).2) (stampTag (clusterCode a.val c.val) s).1) :=
  live_of_running hr _

section ClusterWrites

variable {a : Fin 4} {c : Fin 16} {s : State} (hr : running s = true) (hf : stageFailed s = false)
include hr hf

theorem exec_hammerRun (run : Bool) : exec (.hammerRun a c run) s = .next (hammerRun a.val c.val run s) :=
  liveWrite_of_running hr hf _

theorem exec_clusterHalt (h : Bool) : exec (.clusterHalt a c h) s =
    .next (retryPush a.val c.val (setRf (clReg a.val c.val 0) 1 1 (b2n h) s)) := liveWrite_of_running hr hf _

theorem exec_traceEnable (en : Bool) : exec (.traceEnable a en) s = .next (traceEnable a.val en s) := liveWrite_of_running hr hf _

end ClusterWrites

section HammerRun

variable {a c : Nat} {s : State}

/-- A held Hammer core is released at its boot address, in machine mode (R234). -/
theorem hammerRun_of_held (h : rf s (clReg a c 0) 0 0 = 0) :
    let t := setRf (clReg a c 0) 0 0 1 s
    hammerRun a c true s = { t with corePc := tabSet 0 s.corePc (clusterNo a c) (rg t (clReg a c 0x20)),
                                    umode := tabSet false s.umode (clusterNo a c) false } := by
  simp [hammerRun, h, b2n]

/-- Of a running one only the bit is set. -/
theorem hammerRun_of_running (h : rf s (clReg a c 0) 0 0 = 1) : hammerRun a c true s = setRf (clReg a c 0) 0 0 1 s := by
  simp [hammerRun, h, b2n]

/-- A core that is held keeps no cached lines and no reservation (R234). -/
theorem hammerRun_off : hammerRun a c false s = coreDown (clusterNo a c) (setRf (clReg a c 0) 0 0 0 s) := by
  simp [hammerRun, b2n]

end HammerRun

/-- The trace ring of an Anvil ends inside its die buffer (R241). -/
def traceRingFits (a : Nat) (s : State) : Prop := rf s (anvReg a 0x108) 26 12 * 4096 + traceBytes s a ≤ dbBytes

section TraceEnable

variable {a : Nat} {s : State}

theorem traceEnable_off : traceEnable a false s = setRf (anvReg a 0x100) 0 0 0 s := rfl

/-- Tracing is not enabled into a ring that does not fit (R241). -/
theorem traceEnable_refused (h : ¬ traceRingFits a s) : traceEnable a true s = s := if_pos (Nat.lt_of_not_le h)

/-- With tracing on only the drop count is cleared (R241). -/
theorem traceEnable_again (h : traceRingFits a s) (hon : rf s (anvReg a 0x100) 0 0 = 1) :
    traceEnable a true s = setRf (anvReg a 0x100) 47 32 0 s :=
  (if_neg (Nat.not_lt.mpr h)).trans (if_pos hon)

/-- With tracing off the bit is set, and the drop count and the write index are cleared (R241). -/
theorem traceEnable_on (h : traceRingFits a s) (hoff : rf s (anvReg a 0x100) 0 0 = 0) : traceEnable a true s =
    setRg (anvReg a 0x110) 0 (setRf (anvReg a 0x100) 47 32 0 (setRf (anvReg a 0x100) 0 0 1 s)) :=
  (if_neg (Nat.not_lt.mpr h)).trans (if_neg (by omega))

end TraceEnable

/-- Settles O40: each read and write by its rule above. -/
theorem clusterRegistersThatAct : Obligations.ClusterRegistersThatAct := by
  unfold Obligations.ClusterRegistersThatAct
  intro a c s hr core code r ctl n
  refine ⟨exec_clTagRead hr, fun hf => ⟨fun hheld => ?released, fun hon => ?running, ?held, exec_clusterHalt hr hf, ?traceOff,
    fun hfits => ?refused, fun hfits hon => ?again, fun hfits hoff => ?traceOn⟩⟩
  case released => exact (exec_hammerRun hr hf true).trans (congrArg _ (hammerRun_of_held hheld))
  case running => exact (exec_hammerRun hr hf true).trans (congrArg _ (hammerRun_of_running hon))
  case held => exact (exec_hammerRun hr hf false).trans (congrArg _ hammerRun_off)
  case traceOff => exact (exec_traceEnable hr hf false).trans (congrArg _ traceEnable_off)
  case refused => exact (exec_traceEnable hr hf true).trans (congrArg _ (traceEnable_refused hfits))
  case again => exact (exec_traceEnable hr hf true).trans (congrArg _ (traceEnable_again hfits hon))
  case traceOn => exact (exec_traceEnable hr hf true).trans (congrArg _ (traceEnable_on hfits hoff))

end Sys2Proof.Proofs

namespace Sys2Proof.Proofs

open Sys2Proof Sys2Proof.Machine

/-! ### The commit of a Tongs channel's command -/

/-- At the commit point no read-back is outstanding (R251). -/
theorem backs_of_commitReached {s : State} {x : Chan} (h : commitReached s x = true) : x.backs = [] := by
  simp only [commitReached, Bool.and_eq_true, List.isEmpty_iff] at h
  obtain ⟨⟨⟨⟨⟨_, _⟩, _⟩, hbacks⟩, _⟩, _⟩ := h
  exact hbacks

/-- The event of a command sets or adds to a flag (R253). -/
def flagEvent (x : Chan) : Prop := tgEvKind x.cmd = 3 ∨ tgEvKind x.cmd = 4

/-- The flag of the event of a channel's command can be accessed now (R109, R253). -/
def flagReady (e c : Nat) (s : State) : Bool := moverReady s (tongsSource e c) 4 (nth (chan s e c).cmd 20 0) 8 true

/-- A channel's command journaled DONE with all its units, and its event delivered with the pulse of the engine's hearth where
there is one (R251, R253). -/
def committed (e c : Nat) (s : State) : State :=
  let x := chan s e c
  let t := tongsEvent x (journal x.qid x.idx x.tag { state := 2, progress := tgTotal x.cmd, cmode := tgCmode x.cmd } s)
  if tgEvKind x.cmd = 0 then t else pulse (tongsHearth e) t

theorem whenSt_bne_zero (k : Nat) (f : State → State) (s : State) : whenSt (k != 0) f s = if k = 0 then s else f s := by
  by_cases h : k = 0 <;> simp [whenSt, h]

section Commit

variable {e : Fin 24} {c : Fin 64} {s : State} (hr : running s = true)
include hr

/-- Outstanding read-backs come before anything else of a commit (R251). -/
theorem exec_tongsCommit_readBacks (hb : (chan s e.val c.val).busy = true) (hc : (chan s e.val c.val).completing = true)
    (hw : (chan s e.val c.val).backs ≠ []) : exec (.tongsCommit e c) s = .next (readBacks e.val c.val s) :=
  (live_of_running hr _).trans (if_pos (by simp [hb, hc, hw]))

variable (h : commitReached s (chan s e.val c.val) = true)
include h

/-- At the commit point a command waits for the flag of its event (R109, R253). -/
theorem exec_tongsCommit_waits (hf : flagEvent (chan s e.val c.val)) (hm : flagReady e.val c.val s = false) :
    exec (.tongsCommit e c) s = .next (moverAsk 4 (nth (chan s e.val c.val).cmd 20 0) 8 true s) := by
  rw [flagEvent] at hf
  rw [flagReady] at hm
  have hwait : (tgEvKind (chan s e.val c.val).cmd == 3 || tgEvKind (chan s e.val c.val).cmd == 4) = true := by simpa using hf
  exact (live_of_running hr _).trans ((if_neg (by simp [backs_of_commitReached h])).trans
    ((if_neg (by simp [h])).trans (if_pos (by simp [hwait, hm]))))

/-- At the commit point a command whose event waits for no flag ends, and frees its channel (R251, R253). -/
theorem exec_tongsCommit_ends (hm : flagEvent (chan s e.val c.val) → flagReady e.val c.val s = true) : exec (.tongsCommit e c) s =
    .next (syncQueue (chan s e.val c.val).qid (freeChan e.val c.val (committed e.val c.val s))) := by
  have hgo : ¬ ((tgEvKind (chan s e.val c.val).cmd == 3 || tgEvKind (chan s e.val c.val).cmd == 4)
      && !flagReady e.val c.val s) = true := by
    rw [flagEvent] at hm
    simpa using hm
  rw [committed, ← whenSt_bne_zero]
  exact (live_of_running hr _).trans ((if_neg (by simp [backs_of_commitReached h])).trans ((if_neg (by simp [h])).trans (if_neg hgo)))

end Commit

/-! ### Aborts -/

section Abort

variable {e c tag : Nat} {s : State}

/-- An abort of the command that moves data ends it (R256). -/
theorem tongsAbort_of_running (hb : (chan s e c).busy = true) (ht : (chan s e c).tag = tag) :
    tongsAbort e c tag s = chanEnd e c stAborted (setChan e c { chan s e c with abort := none } s) := if_pos (by simp [hb, ht])

variable (hn : ¬ ((chan s e c).busy = true ∧ (chan s e c).tag = tag))
include hn

/-- An abort of the FLAG or WAIT that runs on the channel's queue ends that (R256). -/
theorem tongsAbort_of_queueCmd (hq : queueCmdTag s e c = some tag) :
    tongsAbort e c tag s = abortQueueCmd e c tag (setChan e c { chan s e c with abort := none } s) :=
  (if_neg (by simpa using hn)).trans (if_pos (by simp [hq]))

variable (hq : queueCmdTag s e c ≠ some tag)
include hq

/-- An abort of the command last committed comes late (R256). -/
theorem tongsAbort_of_last (hl : (chan s e c).last = some tag) :
    tongsAbort e c tag s = setRf (chanReg e c 0x08) 57 57 1 (setChan e c { chan s e c with abort := none } s) :=
  (if_neg (by simpa using hn)).trans ((if_neg (by simpa using hq)).trans (if_pos (by simp [hl])))

/-- Any other abort is kept for a command to come (R256). -/
theorem tongsAbort_of_unknown (hl : (chan s e c).last ≠ some tag) :
    tongsAbort e c tag s = setChan e c { chan s e c with abort := some tag } s :=
  (if_neg (by simpa using hn)).trans ((if_neg (by simpa using hq)).trans (if_neg (by simpa using hl)))

end Abort

/-! ### Errors of host accesses -/

section HostErrors

variable {e : Fin 24} {c : Fin 64} {s : State} (hr : running s = true) (hb : (chan s e.val c.val).busy = true)
include hr hb

/-- A failed host access ends the command; where the command reads host memory it is counted (R255, R395). -/
theorem exec_hostAccessError_reaching (hh : (chanHm (chan s e.val c.val)).1 = true) (addr : Nat) :
    exec (.hostAccessError e c addr) s = .next (chanFault e.val c.val 0x270 addr
      (if (chanHm (chan s e.val c.val)).2 then satRf (hstReg 0x08) 63 48 1 s else s)) :=
  (live_of_running hr _).trans (if_neg (by simp [hb, hh]))

/-- A completion timeout ends a command that reads host memory; it is counted, with its AER status (R395, R396). -/
theorem exec_hmCompletionTimeout_reading (hh : (chanHm (chan s e.val c.val)).2 = true) (addr : Nat) :
    exec (.hmCompletionTimeout e c addr) s = .next (chanFault e.val c.val 0x270 addr
      (satRf (hstReg 0x08) 15 0 1 { s with cfg := { s.cfg with aerTimeout := true } })) :=
  (live_of_running hr _).trans (if_neg (by simp [hb, hh]))

end HostErrors

/-! ### Binding and halt -/

/-- A write of TNG_CH_CTL that is refused: it changes the binding of a busy channel, or binds a queue that another has (R258). -/
def bindRefused (e c : Nat) (v : Word) (s : State) : Prop :=
  ((fieldOf v 63 63 ≠ rf s (chanReg e c 0) 63 63 ∨ fieldOf v 19 0 ≠ rf s (chanReg e c 0) 19 0) ∧ chanBusy s e c = true) ∨
    (fieldOf v 63 63 = 1 ∧ boundElsewhere s e c (fieldOf v 19 0) = true)

/-- The control fields of a channel written; one that is no longer enabled forgets the abort it kept (R245, R256). -/
def bindWritten (e c : Nat) (v : Word) (s : State) : State :=
  let r := chanReg e c 0
  let t := setRf r 63 63 (fieldOf v 63 63) (setRf r 55 52 (fieldOf v 55 52) (setRf r 51 48 (fieldOf v 51 48)
    (setRf r 19 0 (fieldOf v 19 0) s)))
  if fieldOf v 63 63 = 0 then setChan e c { chan s e c with abort := none } t else t

/-- The table entry of a queue brought up to date, where it is one of the Tongs engines (R258, R268). -/
def syncTongsQueue (q : Nat) (s : State) : State := if (queue s q).ckind = 3 then syncQueue q s else s

section Bind

variable {e c : Nat} {v : Word} {s : State}

theorem bindRefused_iff : (((fieldOf v 63 63 != rf s (chanReg e c 0) 63 63 || fieldOf v 19 0 != rf s (chanReg e c 0) 19 0)
    && chanBusy s e c) || (fieldOf v 63 63 == 1 && boundElsewhere s e c (fieldOf v 19 0))) = true ↔ bindRefused e c v s := by
  simp [bindRefused]

theorem channelBind_of_refused (h : bindRefused e c v s) : channelBind e c v s = s := if_pos (bindRefused_iff.mpr h)

/-- A bind that is not refused writes the channel, then the entries of the queue it binds and of the one it leaves (R258). -/
theorem channelBind_of_accepted (h : ¬ bindRefused e c v s) : channelBind e c v s =
    syncTongsQueue (rf s (chanReg e c 0) 19 0) (syncTongsQueue (fieldOf v 19 0) (bindWritten e c v s)) :=
  if_neg (fun hb => h (bindRefused_iff.mp hb))

end Bind

section ChannelWrites

variable {e : Fin 24} {c : Fin 64} {s : State} (hr : running s = true) (hf : stageFailed s = false)
include hr hf

theorem exec_tongsAbort (tag : BitVec 32) : exec (.tongsAbort e c tag) s = .next (tongsAbort e.val c.val tag.toNat s) :=
  liveWrite_of_running hr hf _

theorem exec_channelBind (v : Word) : exec (.channelBind e c v) s = .next (channelBind e.val c.val v s) :=
  liveWrite_of_running hr hf _

theorem exec_tongsHalt (h : Bool) : exec (.tongsHalt e h) s = .next (setRf (tngReg e.val 0) 0 0 (b2n h) s) :=
  liveWrite_of_running hr hf _

end ChannelWrites

/-- Settles O42: each command by its rule above. -/
theorem tongsChannelsEnd : Obligations.TongsChannelsEnd := by
  unfold Obligations.TongsChannelsEnd
  intro e c s hr x r src flag
  refine ⟨exec_tongsCommit_readBacks hr, fun hc => ⟨exec_tongsCommit_waits hr hc, exec_tongsCommit_ends hr hc⟩,
    fun tag hf => ⟨fun hb ht => ?running, fun hn => ⟨fun hq => ?queueCmd, fun hq hl => ?last, fun hq hl => ?kept⟩⟩,
    fun addr hb => ⟨fun hh => exec_hostAccessError_reaching hr hb hh addr, fun hh => exec_hmCompletionTimeout_reading hr hb hh addr⟩,
    fun v hf => ⟨fun hrefused => ?refused, fun haccepted => ?bound⟩, fun h hf => exec_tongsHalt hr hf h⟩
  case running => exact (exec_tongsAbort hr hf tag).trans (congrArg _ (tongsAbort_of_running hb ht))
  case queueCmd => exact (exec_tongsAbort hr hf tag).trans (congrArg _ (tongsAbort_of_queueCmd hn hq))
  case last => exact (exec_tongsAbort hr hf tag).trans (congrArg _ (tongsAbort_of_last hn hq hl))
  case kept => exact (exec_tongsAbort hr hf tag).trans (congrArg _ (tongsAbort_of_unknown hn hq hl))
  case refused => exact (exec_channelBind hr hf v).trans (congrArg _ (channelBind_of_refused hrefused))
  case bound => exact (exec_channelBind hr hf v).trans (congrArg _ (channelBind_of_accepted haccepted))

end Sys2Proof.Proofs

namespace Sys2Proof.Proofs

open Sys2Proof Sys2Proof.Machine Sys2Proof.Laws

/-- Settles O3: the canonical form of the reset state is Laws.reset_wf, and before startup no island runs. -/
theorem resetStateIsCanonical : Obligations.ResetStateIsCanonical :=
  ⟨reset_wf, rfl, by decide⟩

/-! ### Doorbells and index advances -/

section Doorbell

variable {q v : Nat} {s : State}

theorem doorbell_disabled (hk : (queue s q).ckind = 0) : doorbell q v s = satRf (qscReg 0x08) 15 0 1 s := if_pos hk

/-- A doorbell that is not ahead of prod changes nothing (R266). -/
theorem doorbell_notAhead (hk : (queue s q).ckind ≠ 0)
    (ha : diff32 v (queue s q).prod = 0 ∨ 2 ^ 31 ≤ diff32 v (queue s q).prod) : doorbell q v s = s := by
  refine (if_neg hk).trans ?_
  rcases ha with ha | ha
  · exact if_pos ha
  · exact (if_neg (by omega)).trans (if_pos ha)

variable (hk : (queue s q).ckind ≠ 0) (hpos : 0 < diff32 v (queue s q).prod) (hlt : diff32 v (queue s q).prod < 2 ^ 31)
include hk hpos hlt

/-- One that would put more than the ring's slots between done and prod leaves a fault record (R266). -/
theorem doorbell_beyond (hr : 2 ^ (queue s q).lg < diff32 v (queue s q).done) : doorbell q v s =
    faultRecord { code := 0x202, hearth := consumerHearth (queue s q), src := 0xE, d0 := (queue s q).prod * 2 ^ 32 + v, qid := q } s :=
  (if_neg hk).trans ((if_neg (Nat.ne_of_gt hpos)).trans ((if_neg (Nat.not_le.mpr hlt)).trans (if_pos hr)))

/-- Any other is the queue's new prod, which a Hammer consumer's event counter counts (R266, R268). -/
theorem doorbell_accepted (hr : diff32 v (queue s q).done ≤ 2 ^ (queue s q).lg) : doorbell q v s =
    if (queue s q).ckind = 4 then countUp (queue s q).ckey 0 (syncQueue q (setQueue q { queue s q with prod := v } s))
    else syncQueue q (setQueue q { queue s q with prod := v } s) :=
  (if_neg hk).trans ((if_neg (Nat.ne_of_gt hpos)).trans ((if_neg (Nat.not_le.mpr hlt)).trans (if_neg (Nat.not_lt.mpr hr))))

end Doorbell

section IndexAdvance

variable {core q : Nat} {v : Nat} {s : State}

theorem qadv_forbidden (which : Nat) (h : qadvAllowed s core q = false) : qadv core q which v s = s := if_pos (guard_stops h)

theorem qadv_taken (h : qadvAllowed s core q = true) (hv : diff32 v (queue s q).taken ≤ diff32 (queue s q).prod (queue s q).taken) :
    qadv core q 0 v s = advanceTaken q v s :=
  (if_neg (guard_passed h)).trans ((if_pos rfl).trans (if_pos hv))

theorem qadv_done (h : qadvAllowed s core q = true) (hv : diff32 v (queue s q).done ≤ diff32 (queue s q).prod (queue s q).done) :
    qadv core q 1 v s = advanceDone q v s :=
  (if_neg (guard_passed h)).trans ((if_neg Nat.one_ne_zero).trans (if_pos hv))

end IndexAdvance

section QueueRows

variable {s : State} (hr : running s = true)
include hr

theorem exec_doorbell (hf : stageFailed s = false) (q : BitVec 20) (v : BitVec 32) :
    exec (.doorbell q v) s = .next (doorbell q.toNat v.toNat s) := liveWrite_of_running hr hf _

theorem exec_qadvTaken (core : Fin 68) (q : BitVec 20) (v : BitVec 32) :
    exec (.qadvTaken core q v) s = .next (qadv core.val q.toNat 0 v.toNat s) := live_of_running hr _

theorem exec_qadvDone (core : Fin 68) (q : BitVec 20) (v : BitVec 32) :
    exec (.qadvDone core q v) s = .next (qadv core.val q.toNat 1 v.toNat s) := live_of_running hr _

theorem exec_queueTableWriteback {q : BitVec 20} (hk : (queue s q.toNat).ckind ≠ 0) :
    exec (.queueTableWriteback q) s = .next (writeBack q.toNat s) := (live_of_running hr _).trans (if_neg hk)

end QueueRows

/-- Settles O43: the doorbell by the cases of R266 above, the advances by those of R274. -/
theorem queuesAcceptDoorbells : Obligations.QueuesAcceptDoorbells := by
  unfold Obligations.QueuesAcceptDoorbells
  intro q v s hr k x ahead
  refine ⟨fun hf => ?doorbell, fun core => ⟨fun h hv => ?taken, fun h hv => ?done, fun h => ?forbidden⟩,
    exec_queueTableWriteback hr⟩
  case doorbell =>
    have hrow := exec_doorbell hr hf q v
    refine ⟨fun hk => ?_, fun hk ha => ?_, fun hk hpos hlt hring => ?_, fun hk hpos hlt hring => ?_, liveWrite_of_running hr hf _⟩
    · exact hrow.trans (congrArg _ (doorbell_disabled hk))
    · exact hrow.trans (congrArg _ (doorbell_notAhead hk ha))
    · exact hrow.trans (congrArg _ (doorbell_beyond hk hpos hlt hring))
    · exact hrow.trans (congrArg _ (doorbell_accepted hk hpos hlt hring))
  case taken => exact (exec_qadvTaken hr core q v).trans (congrArg _ (qadv_taken h hv))
  case done => exact (exec_qadvDone hr core q v).trans (congrArg _ (qadv_done h hv))
  case forbidden =>
    simp only [List.forall_mem_cons, List.not_mem_nil, false_imp_iff, implies_true, and_true]
    exact ⟨(exec_qadvTaken hr core q v).trans (congrArg _ (qadv_forbidden 0 h)),
      (exec_qadvDone hr core q v).trans (congrArg _ (qadv_forbidden 1 h))⟩

end Sys2Proof.Proofs

namespace Sys2Proof.Proofs

open Sys2Proof Sys2Proof.Machine Sys2Proof.Laws

/-! ### The command at the head of a queue -/

section Head

variable {q : Nat} {s p : State} {c : Taken} (act : Taken → State → State) (ht : takeCmd q s = (p, c))
include ht

theorem withHead_poison (hp : c.poison = true) : withHead q act s = poisonCmd q c p := by
  simp only [withHead, ht, hp, if_true]

variable (hp : c.poison = false) (ha : pendingAbort p (queue p q) ≠ some c.tag)
include hp ha

theorem withHead_rejected (h : ¬ (c.hdr.bad = false ∧ classAccepted (queue p q).ckind c.hdr.cls = true)) :
    withHead q act s = rejectCmd q c p := by
  have hbad : (c.hdr.bad || !classAccepted (queue p q).ckind c.hdr.cls) = true := by
    rw [← Bool.not_eq_true, Classical.not_and_iff_not_or_not] at h
    simpa using h
  simp only [withHead, ht, hp, if_neg ha, if_pos hbad, Bool.false_eq_true, if_false]

theorem withHead_acts (h : c.hdr.bad = false ∧ classAccepted (queue p q).ckind c.hdr.cls = true) :
    withHead q act s = act c p := by
  simp [withHead, ht, hp, ha, h.1, h.2]

end Head

/-- A head that can be taken, and is a NOP or must be rejected, is taken by QUEUE_NOP (R261). -/
theorem exec_queueNop {q : BitVec 20} {s : State} (hr : running s = true) (hn : needSlots s q.toNat = false)
    (ht : canTake s q.toNat = true) (hc : (headHdr s q.toNat).cls = 0 ∨ headRejected s q.toNat = true) : exec (.queueNop q) s =
      .next (withHead q.toNat (fun t s => journal q.toNat t.idx t.tag { state := 2 } s) s) := by
  refine (live_of_running hr _).trans ((if_neg (Bool.eq_false_iff.mp hn)).trans (if_neg ?_))
  rcases hc with hc | hc <;> simp [ht, hc]

/-! ### FLAG -/

/-- What R263 and R275 ask of a FLAG: a defined operation, and an aligned address that exists. -/
def FlagSound (t : Taken) (s : State) : Prop :=
  t.hdr.subop ≤ 1 ∧ nth t.hdr.words 1 0 % 8 = 0 ∧
    addrOk s (if flagIsPm (nth t.hdr.words 1 0) then 6 else 4) (nth t.hdr.words 1 0) 8 = true

theorem b2n_beq_one (b : Bool) : (b2n b == 1) = b := by cases b <;> rfl

section Flag

variable {q : Nat} {set : Bool} {t : Taken} {s : State}

/-- A FLAG whose turn it is, and whose flag the consumer may write now, is taken (R245, R275). -/
theorem flagHead_taken (hn : needSlots s q = false) (ht : canTake s q = true)
    (hf : ∀ b, headFlagAddr s q = some b → moverReady s (queueSource (queue s q)) 4 b 8 true = true) (hcls : (headHdr s q).cls = 3)
    (hbad : (headHdr s q).bad = false) (hsub : ((headHdr s q).subop == 1) = set) (hw : writesIssued s (queue s q) = true) :
    flagHead q (b2n set) s = withHead q (flagRun q set) s := by
  have hset : (b2n set == 1) = set := b2n_beq_one set
  rw [flagHead, hset]
  refine (if_neg (Bool.eq_false_iff.mp hn)).trans ((if_neg (by simp [ht, hcls, hbad, hsub, hw])).trans ?_)
  cases h : headFlagAddr s q with
  | none => rfl
  | some a => exact if_pos (hf a h)

theorem flagRun_rejected (h : ¬ FlagSound t s) : flagRun q set t s = rejectCmd q t s := by
  refine if_pos (Bool.not_eq_false _ ▸ fun hg => h ?_)
  simpa [FlagSound, and_assoc] using hg

theorem FlagSound.passes (h : FlagSound t s) : ¬ ((decide (1 < t.hdr.subop) || nth t.hdr.words 1 0 % 8 != 0 ||
    !addrOk s (if flagIsPm (nth t.hdr.words 1 0) then 6 else 4) (nth t.hdr.words 1 0) 8) = true) := by
  simpa [FlagSound, and_assoc] using h

/-- A flag of this module is changed at its PoC, and the command is done, or not started where the flag holds poison (R275). -/
theorem flagRun_local (h : FlagSound t s) (hpm : flagIsPm (nth t.hdr.words 1 0) = false) : flagRun q set t s =
    let f := flagAtPoc (schedWho t.tag) (nth t.hdr.words 1 0) (nth t.hdr.words 2 0) set s
    journal q t.idx t.tag (if f.2 then { state := 2, progress := 1 } else { state := 0, status := stPoison }) f.1 :=
  (if_neg h.passes).trans (if_neg (Bool.eq_false_iff.mp hpm))

/-- A flag of a partner's goes out in a frame, and its acknowledgement is awaited, unless the partner is gone (R275). -/
theorem flagRun_partner (h : FlagSound t s) (hpm : flagIsPm (nth t.hdr.words 1 0) = true) : flagRun q set t s =
    let a := nth t.hdr.words 1 0
    let pid := a / 2 ^ 48
    if pmState s pid = 2 then journal q t.idx t.tag { state := 0, status := stPartnerGone } s
    else sendSeq pid { ty := 0xB, op := b2n set, addr := a % 2 ^ 44, len := 8, tag := t.tag, data := leBytes 8 (nth t.hdr.words 2 0) }
      { s with pmWait := s.pmWait ++ [⟨pid, ((link s pid).sendPsn + (link s pid).queued.length) % 2 ^ 32, q, t.idx, t.tag⟩] } :=
  (if_neg h.passes).trans (if_pos hpm)

end Flag

/-! ### WAIT -/

/-- What R263 and R276 ask of a WAIT. -/
def WaitSound (t : Taken) (s : State) : Prop :=
  t.hdr.subop ≤ 1 ∧ nth t.hdr.words 1 0 % 8 = 0 ∧ addrOk s 4 (nth t.hdr.words 1 0) 8 = true

section Wait

variable {q : Nat} {eq : Bool} {t : Taken} {s : State}

/-- A WAIT whose turn it is, and whose flag the consumer may read now, is taken (R276). -/
theorem waitHead_taken (hn : needSlots s q = false) (ht : canTake s q = true)
    (hf : ∀ b, headFlagAddr s q = some b → moverReady s (queueSource (queue s q)) 4 b 8 false = true) (hcls : (headHdr s q).cls = 4)
    (hbad : (headHdr s q).bad = false) (hsub : ((headHdr s q).subop == 1) = eq) :
    waitHead q (b2n eq) s = withHead q (waitRun q) s := by
  have heq : (b2n eq == 1) = eq := b2n_beq_one eq
  rw [waitHead, heq]
  refine (if_neg (Bool.eq_false_iff.mp hn)).trans ((if_neg (by simp [ht, hcls, hbad, hsub])).trans ?_)
  cases h : headFlagAddr s q with
  | none => rfl
  | some a => exact if_pos (hf a h)

theorem waitRun_rejected (h : ¬ WaitSound t s) : waitRun q t s = rejectCmd q t s := by
  refine if_pos (Bool.not_eq_false _ ▸ fun hg => h ?_)
  simpa [WaitSound, and_assoc] using hg

/-- A sound WAIT is the queue's wait, with a watch where the table has room, and its flag is judged (R276, R277). -/
theorem waitRun_sound (h : WaitSound t s) : waitRun q t s =
    let a := nth t.hdr.words 1 0
    let room := decide (watchesAt s (smStack a) < 4096)
    syncQueue q (judgeWait q (syncQueue q (setWait q
      { on := true, idx := t.idx, addr := a, value := nth t.hdr.words 2 0, eq := t.hdr.subop == 1,
        tmo := natBits (nth t.hdr.words 3 0) 31 0, tcont := natBit (nth t.hdr.words 3 0) 32, start := s.time, watch := room }
      (if room then s else satRf (qscReg 0x08) 31 16 1 s)))) := by
  have hguard : ¬ ((decide (1 < t.hdr.subop) || nth t.hdr.words 1 0 % 8 != 0 || !addrOk s 4 (nth t.hdr.words 1 0) 8) = true) := by
    simpa [WaitSound, and_assoc] using h
  rw [waitRun, if_neg hguard]
  simp only [decide_eq_true_eq]

end Wait

section FlagAndWaitOps

variable {q : BitVec 20} {i : Instr} {b : Bool} {s : State} (hr : running s = true)
include hr

theorem exec_flagOps (hi : (i, b) ∈ [(.flagAdd q, false), (.flagSet q, true)]) :
    exec i s = .next (flagHead q.toNat (b2n b) s) := by
  simp only [List.mem_cons, Prod.mk.injEq, List.not_mem_nil, or_false] at hi
  obtain ⟨rfl, rfl⟩ | ⟨rfl, rfl⟩ := hi <;> exact live_of_running hr _

theorem exec_waitOps (hi : (i, b) ∈ [(.waitGe q, false), (.waitEq q, true)]) :
    exec i s = .next (waitHead q.toNat (b2n b) s) := by
  simp only [List.mem_cons, Prod.mk.injEq, List.not_mem_nil, or_false] at hi
  obtain ⟨rfl, rfl⟩ | ⟨rfl, rfl⟩ := hi <;> exact live_of_running hr _

end FlagAndWaitOps

section WaitRows

variable {q : BitVec 20} {s : State} (hr : running s = true) (hon : (waitOf s q.toNat).on = true)
include hr hon

theorem exec_waitSatisfied_bad (hb : (waitOf s q.toNat).bad = true) :
    exec (.waitSatisfied q) s = .next (endWait q.toNat { state := 0, status := stPoison } s) :=
  (live_of_running hr _).trans ((if_neg (guard_passed hon)).trans (if_pos hb))

theorem exec_waitSatisfied_hit (hb : (waitOf s q.toNat).bad = false) (hh : (waitOf s q.toNat).hit = true) :
    exec (.waitSatisfied q) s = .next (endWait q.toNat { state := 2, progress := 1 } s) :=
  (live_of_running hr _).trans ((if_neg (guard_passed hon)).trans ((if_neg (Bool.eq_false_iff.mp hb)).trans (if_pos hh)))

theorem exec_waitPoll_ready (hw : (waitOf s q.toNat).watch = false)
    (hm : moverReady s (queueSource (queue s q.toNat)) 4 (waitOf s q.toNat).addr 8 false = true) :
    exec (.waitPoll q) s = .next (judgeWait q.toNat s) :=
  (live_of_running hr _).trans ((if_neg (by simp [hon, hw])).trans (if_pos hm))

theorem exec_waitTimeoutExpiry_open (ht : (waitOf s q.toNat).tmo ≠ 0) (hh : (waitOf s q.toNat).hit = false)
    (hb : (waitOf s q.toNat).bad = false) : exec (.waitTimeoutExpiry q) s =
    .next (endWait q.toNat { state := if (waitOf s q.toNat).tcont then 2 else 0, status := stWaitTimeout }
      { s with time := max s.time ((waitOf s q.toNat).start + 1000 * (waitOf s q.toNat).tmo) }) := by
  refine (live_of_running hr _).trans ((if_neg (by simp [hon, ht, hh, hb])).trans ?_)
  cases (waitOf s q.toNat).tcont <;> rfl

end WaitRows

/-- Settles O44: the head of a queue is taken by withHead's rules, FLAG and WAIT act by flagRun's and waitRun's. -/
theorem nopsFlagsAndWaits : Obligations.NopsFlagsAndWaits := by
  unfold Obligations.NopsFlagsAndWaits
  intro q s hr k x h p c a v w3 turn free unaborted accepted ends judged
  have ht : takeCmd k s = (p, c) := rfl
  refine ⟨?nop, ?flag, ?wait, ?ends, live_of_running hr _⟩
  case nop =>
    intro hturn hcls
    have hrow := exec_queueNop hr hturn.1 hturn.2 hcls
    refine ⟨fun hu hacc => ?_, fun hu hacc => ?_, fun hp => ?_⟩
    · exact hrow.trans (congrArg _ (withHead_acts _ ht hu.1 hu.2 hacc))
    · exact hrow.trans (congrArg _ (withHead_rejected _ ht hu.1 hu.2 hacc))
    · exact hrow.trans (congrArg _ (withHead_poison _ ht hp))
  case flag =>
    intro i set hi hturn hfree hu hacc hcls hbad hsub hw
    have hrow : exec i s = .next (flagRun k set c p) := (exec_flagOps hr hi).trans (congrArg _
      ((flagHead_taken hturn.1 hturn.2 hfree hcls hbad hsub hw).trans (withHead_acts _ ht hu.1 hu.2 hacc)))
    refine ⟨fun hs ha hpm hok => ?here, fun hs ha hpm hok => ?partner, fun hbad => ?rejected⟩
    case here => exact hrow.trans (congrArg _ (flagRun_local ⟨hs, ha, by rwa [if_neg (Bool.eq_false_iff.mp hpm)]⟩ hpm))
    case partner => exact hrow.trans (congrArg _ (flagRun_partner ⟨hs, ha, by rwa [if_pos hpm]⟩ hpm))
    case rejected =>
      refine hrow.trans (congrArg _ (flagRun_rejected fun hsound => ?_))
      obtain ⟨hs, ha, hok⟩ := hsound
      rcases hbad with hbad | hbad | hbad
      · omega
      · exact hbad ha
      · exact Bool.false_ne_true (hbad.symm.trans hok)
  case wait =>
    intro i eq hi hturn hfree hu hacc hcls hbad hsub
    have hrow : exec i s = .next (waitRun k c p) := (exec_waitOps hr hi).trans (congrArg _
      ((waitHead_taken hturn.1 hturn.2 hfree hcls hbad hsub).trans (withHead_acts _ ht hu.1 hu.2 hacc)))
    refine ⟨fun hs ha hok => ?sound, fun hbad => ?rejected⟩
    case sound => exact hrow.trans (congrArg _ (waitRun_sound ⟨hs, ha, hok⟩))
    case rejected =>
      refine hrow.trans (congrArg _ (waitRun_rejected fun hsound => ?_))
      obtain ⟨hs, ha, hok⟩ := hsound
      rcases hbad with hbad | hbad | hbad
      · omega
      · exact hbad ha
      · exact Bool.false_ne_true (hbad.symm.trans hok)
  case ends =>
    intro w hon
    exact ⟨exec_waitSatisfied_bad hr hon, exec_waitSatisfied_hit hr hon, exec_waitPoll_ready hr hon, exec_waitTimeoutExpiry_open hr hon⟩

end Sys2Proof.Proofs

namespace Sys2Proof.Proofs

open Sys2Proof Sys2Proof.Machine Sys2Proof.Laws

/-! ### The mailboxes' handshake -/

/-- A write of the host's is made while the link is up and the BARs decode (R393, R397). -/
theorem hostBar_of_open {s : State} (hl : linkUp s = true) (hb : hostBars s = true) (o : Host.Outcome State Fault Refusal) :
    hostBar s o = o :=
  (if_neg (guard_passed hl)).trans (if_pos hb)

section MailboxDoorbell

variable {m : Nat} {v : Word} {s : State}

theorem mbDoorbell_notReady (h : rf s (smcReg 0) 31 31 = 0) : mbDoorbell m v s = setRf (mbReg m 8) 58 58 1 s := if_pos h

variable (h : rf s (smcReg 0) 31 31 = 1)
include h

theorem mbDoorbell_busy (hm : mbState s m = 1) : mbDoorbell m v s = setRf (mbReg m 8) 59 59 1 s :=
  (if_neg (by omega)).trans (if_pos hm)

theorem mbDoorbell_kept (hm : mbState s m ≠ 1) : mbDoorbell m v s = updPrefen (fun p => { p with arrivals := p.arrivals + 1 })
    (setMbox m { mbox s m with rung := true, rungSeq := fieldOf v 31 0, order := s.prefen.arrivals } s) :=
  (if_neg (by omega)).trans (if_neg hm)

end MailboxDoorbell

section HostIf

variable {v : Word} {s : State}

/-- Before Prefen is READY a write of SMC_HOST_IF is only stored (R351). -/
theorem hostIfWrite_stored (h : fwStage (setRf (smcReg 8) 63 48 (fieldOf v 63 48) s) ≠ 2) :
    hostIfWrite v s = setRf (smcReg 8) 63 48 (fieldOf v 63 48) s := if_pos (bne_iff_ne.mpr h)

/-- From then on it is answered match or mismatch (R351). -/
theorem hostIfWrite_answered (h : fwStage (setRf (smcReg 8) 63 48 (fieldOf v 63 48) s) = 2) :
    hostIfWrite v s = setRf (smcReg 0) 31 30 (if fieldOf v 63 56 = 4 then 2 else 1) (setRf (smcReg 8) 63 48 (fieldOf v 63 48) s) := by
  refine (if_neg (bne_passed h)).trans ?_
  split <;> rfl

end HostIf

section MailboxTake

variable {m : Fin 16} {s : State}

/-- The request that a mailbox holds, as Prefen reads it when it takes a doorbell (R346, R347). -/
def mbRequest (m : Nat) (s : State) : List Nat :=
  (List.range (min 128 (2 + (natBits (rg s (mbReg m 0x400)).toNat 47 32 + 7) / 8))).map (fun k => (rg s (mbReg m (0x400 + 8 * k))).toNat)

/-- A mailbox whose doorbell has been taken: BUSY with its sequence (R347). -/
def mbTaken (m : Nat) (s : State) : State :=
  setRf (mbReg m 8) 31 0 (mbox s m).rungSeq (setRf (mbReg m 8) 63 60 1
    (setMbox m { mbox s m with rung := false, taken := true, req := mbRequest m s } (prefenStart s)))

theorem exec_mailboxTake : exec (.mailboxTake m) s = execMailboxTake m s := rfl

/-- The first doorbell is taken, and answered where a common check fails (R347, R348, R355). -/
theorem mailboxTake_answers {t : State} (hr : running s = true) (hp : prefenReady s = true) (hf : firstRung s = some m.val)
    (ht : (if commonStatus (mbTaken m.val s) (mbRequest m.val s) = 0 then mbTaken m.val s
      else respond m.val (commonStatus (mbTaken m.val s) (mbRequest m.val s)) [] (mbTaken m.val s)) = t) :
    prefenAnswers (.mailboxTake m) s t := by
  have hguard : (!prefenReady s || firstRung s != some m.val) = false := by rw [hp, hf]; simp
  refine prefenRow_next _ _ _ _ exec_mailboxTake hr ?_
  exact (if_neg (Bool.eq_false_iff.mp hguard)).trans (congrArg _ ht)

end MailboxTake

/-- Settles O49: the doorbell, the interface write and the take by their rules above. -/
theorem mailboxHandshake : Obligations.MailboxHandshake := by
  unfold Obligations.MailboxHandshake
  intro m v s hr st x plen req
  refine ⟨fun hl hb hf => ?doorbell, fun hp hrung => ?take, fun hl hb => ?hostIf⟩
  case doorbell =>
    have hrow : exec (.mailboxDoorbell m v) s = .next (mbDoorbell m.val v s) :=
      (hostBar_of_open hl hb _).trans (liveWrite_of_running hr hf _)
    exact ⟨fun h => hrow.trans (congrArg _ (mbDoorbell_notReady h)), fun h hm => hrow.trans (congrArg _ (mbDoorbell_busy h hm)),
      fun h hm => hrow.trans (congrArg _ (mbDoorbell_kept h hm))⟩
  case take => exact ⟨fun hok => mailboxTake_answers hr hp hrung (if_pos hok), fun hbad => mailboxTake_answers hr hp hrung (if_neg hbad)⟩
  case hostIf =>
    have hrow : exec (.hostIfWrite v) s = .next (hostIfWrite v s) := (hostBar_of_open hl hb _).trans (if_pos hr)
    exact ⟨fun h => hrow.trans (congrArg _ (hostIfWrite_stored h)), fun h => hrow.trans (congrArg _ (hostIfWrite_answered h))⟩

end Sys2Proof.Proofs

namespace Sys2Proof.Proofs

open Sys2Proof Sys2Proof.Machine Sys2Proof.Laws

/-! ### What memory accesses leave alone -/

/-- A state without the addressed memories and without what their reads and writes note: registers, events met, reservations,
watches, the wear of lanes, corrected words and the host port's poison bit. -/
def besideMemory (s : State) : State :=
  { s with regs := [], mem := {}, found := [], resv := [], waits := [], lanes := [], laneDue := [], corrLog := [], cfg := {} }

section BesideMemory

variable (who : Who) (inBank : Bool) (space a off : Nat) (s : State)

@[simp] theorem besideMemory_setRg (o : Nat) (v : Word) : besideMemory (setRg o v s) = besideMemory s := rfl
@[simp] theorem besideMemory_setRf (o hi lo v : Nat) : besideMemory (setRf o hi lo v s) = besideMemory s := rfl
@[simp] theorem besideMemory_bumpRf (o hi lo k : Nat) : besideMemory (bumpRf o hi lo k s) = besideMemory s := rfl
@[simp] theorem besideMemory_satRf (o hi lo k : Nat) : besideMemory (satRf o hi lo k s) = besideMemory s := rfl
@[simp] theorem besideMemory_found (l : List Found) : besideMemory { s with found := l } = besideMemory s := rfl

@[simp] theorem besideMemory_latchEvent (kind : Nat) : besideMemory (latchEvent kind space a who s) = besideMemory s := by
  unfold latchEvent
  dsimp only
  split <;> simp

@[simp] theorem besideMemory_meetEvent (kind : Nat) : besideMemory (meetEvent kind space a who s) = besideMemory s := by
  unfold meetEvent
  split <;> simp

@[simp] theorem besideMemory_latchFound : besideMemory (latchFound who s) = besideMemory s := by
  unfold latchFound
  dsimp only
  split
  · simp
  · split <;> simp

@[simp] theorem besideMemory_setValid (pa : Nat) (b : Bool) : besideMemory (setValid space pa b s) = besideMemory s := rfl
@[simp] theorem besideMemory_wipeRun (key n : Nat) : besideMemory (wipeRun key n s) = besideMemory s := rfl
@[simp] theorem besideMemory_rawStore (pa : Nat) (data : List Byte) (chk : List Nat) :
    besideMemory (rawStore pa data chk s) = besideMemory s := rfl
@[simp] theorem besideMemory_setSramWord (w chk : Nat) (pois : BitVec 3) :
    besideMemory (setSramWord space a w chk pois s) = besideMemory s := rfl
@[simp] theorem besideMemory_hmWriteWord (bs : List PByte) : besideMemory (hmWriteWord a off bs s) = besideMemory s := rfl
@[simp] theorem besideMemory_countCorr : besideMemory (countCorr space a s) = besideMemory s := rfl
@[simp] theorem besideMemory_countPoisonRd : besideMemory (countPoisonRd space a s) = besideMemory s := rfl
@[simp] theorem besideMemory_countUncorr : besideMemory (countUncorr space a s) = besideMemory s := rfl
@[simp] theorem besideMemory_countRetries (n k : Nat) : besideMemory (countRetries n k s) = besideMemory s := rfl
@[simp] theorem besideMemory_wordCorr : besideMemory (wordCorr a s) = besideMemory s := rfl
@[simp] theorem besideMemory_rewritePoison (pa : Nat) (data : List Byte) :
    besideMemory (rewritePoison a pa data s) = besideMemory s := rfl

@[simp] theorem besideMemory_countSymbol (n ch byte diff : Nat) : besideMemory (countSymbol n ch byte diff s) = besideMemory s :=
  overList_keeps (p := fun t : State => besideMemory t = besideMemory s) (fun b t ht => by split <;> exact ht) _ rfl

@[simp] theorem besideMemory_fixValid (pa : Nat) : besideMemory (fixValid space a pa s) = besideMemory s := by
  unfold fixValid
  dsimp only
  split <;> simp

@[simp] theorem besideMemory_fillRow (pa : Nat) : besideMemory (fillRow space a pa s) = besideMemory s := by
  unfold fillRow
  dsimp only
  split <;> simp

@[simp] theorem besideMemory_afterWrite (data : List Byte) (poisoned : Bool) :
    besideMemory (afterWrite a data poisoned s) = besideMemory s := by
  unfold afterWrite
  dsimp only
  split
  · exact overList_keeps (p := fun t : State => besideMemory t = besideMemory s) (fun e t ht => by simpa using ht) _ rfl
  · rfl

@[simp] theorem besideMemory_smStore (data : List Byte) (poisoned : Bool) :
    besideMemory (smStore a data poisoned s) = besideMemory s := by simp [smStore]

@[simp] theorem besideMemory_sramStore (w : Nat) (poisoned : Bool) :
    besideMemory (sramStore space a w poisoned s) = besideMemory s := by simp [sramStore]

@[simp] theorem besideMemory_smReadWord : besideMemory (smReadWord who inBank a s).1 = besideMemory s := by
  unfold smReadWord
  dsimp only
  split
  · simp
  · simp
  · simp
  · split <;> simp
  · split <;> simp

@[simp] theorem besideMemory_smWriteWord (bs : List PByte) : besideMemory (smWriteWord who a off bs s) = besideMemory s := by
  unfold smWriteWord
  dsimp only
  split
  · simp
  · split <;> simp

@[simp] theorem besideMemory_sramReadWord : besideMemory (sramReadWord who space a s).1 = besideMemory s := by
  unfold sramReadWord
  dsimp only
  split <;> simp

@[simp] theorem besideMemory_sramWriteWord (bs : List PByte) : besideMemory (sramWriteWord who space a off bs s) = besideMemory s := by
  unfold sramWriteWord
  dsimp only
  split
  · simp
  · split <;> simp

@[simp] theorem besideMemory_readWord : besideMemory (readWord who inBank space a s).1 = besideMemory s := by
  unfold readWord
  split
  · simp
  · split
    · dsimp only
      split <;> rfl
    · simp

@[simp] theorem besideMemory_writeWord (bs : List PByte) : besideMemory (writeWord who space a off bs s) = besideMemory s := by
  unfold writeWord
  split
  · simp
  · split <;> simp

@[simp] theorem besideMemory_readWords (k : Nat) : besideMemory (readWords who inBank space a k s).1 = besideMemory s := by
  induction k generalizing a s with
  | zero => rfl
  | succ k ih => exact (ih _ _).trans (besideMemory_readWord who inBank space a s)

@[simp] theorem besideMemory_readPiece (k : Nat) : besideMemory (readPiece who inBank space a k s).1 = besideMemory s := by
  have hread : besideMemory (readWords { who with compute := true } inBank space a k { s with found := [] }).1 = besideMemory s :=
    besideMemory_readWords _ _ _ _ _ _
  have hcount (b : Bool) (t : State) : besideMemory (if b then countPoisonRd space a t else t) = besideMemory t := by
    split <;> rfl
  unfold readPiece
  dsimp only
  split
  · exact (hcount _ _).trans hread
  · exact (besideMemory_latchFound _ _).trans ((hcount _ _).trans hread)

@[simp] theorem besideMemory_readPieces (pw fuel i k : Nat) :
    besideMemory (readPieces who inBank space pw fuel i k s).1 = besideMemory s := by
  induction fuel generalizing i k s with
  | zero => rfl
  | succ fuel ih =>
    unfold readPieces
    split
    · rfl
    · exact (ih _ _ _).trans (besideMemory_readPiece _ _ _ _ _ _)

@[simp] theorem besideMemory_memRead (n : Nat) : besideMemory (memRead who inBank space a n s).1 = besideMemory s := by
  unfold memRead
  split
  · rfl
  · exact besideMemory_readPieces _ _ _ _ _ _ _ _

@[simp] theorem besideMemory_writeWords (fuel : Nat) (bs : List PByte) :
    besideMemory (writeWords who space fuel a bs s) = besideMemory s := by
  induction fuel generalizing a bs s with
  | zero => rfl
  | succ fuel ih =>
    unfold writeWords
    split
    · rfl
    · exact (ih _ _ _).trans (besideMemory_writeWord _ _ _ _ _ _)

@[simp] theorem besideMemory_memWrite (bs : List PByte) : besideMemory (memWrite who space a bs s) = besideMemory s :=
  besideMemory_writeWords _ _ _ _ _ _

end BesideMemory

/-- What a memory access leaves alone it leaves in every part of the state that besideMemory keeps. -/
theorem prefen_of_besideMemory {s t : State} (h : besideMemory t = besideMemory s) : t.prefen = s.prefen :=
  show (besideMemory t).prefen = (besideMemory s).prefen from congrArg State.prefen h
theorem links_of_besideMemory {s t : State} (h : besideMemory t = besideMemory s) : t.links = s.links :=
  show (besideMemory t).links = (besideMemory s).links from congrArg State.links h

section MemoryPrefen

variable (who : Who) (inBank : Bool) (space a : Nat) (s : State)

@[simp] theorem memRead_prefen (n : Nat) : (memRead who inBank space a n s).1.prefen = s.prefen :=
  prefen_of_besideMemory (besideMemory_memRead _ _ _ _ _ _)
@[simp] theorem memReadNat_prefen (k : Nat) : (memReadNat who space a k s).1.prefen = s.prefen := memRead_prefen _ _ _ _ _ _
@[simp] theorem memWrite_prefen (bs : List PByte) : (memWrite who space a bs s).prefen = s.prefen :=
  prefen_of_besideMemory (besideMemory_memWrite _ _ _ _ _)
@[simp] theorem memWrite_links (bs : List PByte) : (memWrite who space a bs s).links = s.links :=
  links_of_besideMemory (besideMemory_memWrite _ _ _ _ _)

end MemoryPrefen

end Sys2Proof.Proofs

namespace Sys2Proof.Proofs

open Sys2Proof Sys2Proof.Machine Sys2Proof.Laws

/-! ### What posted writes, journals and frames leave of Prefen's state -/

section PrefenKept

variable (s : State)

@[simp] theorem countNp_prefen (n k : Nat) : (countNp n k s).prefen = s.prefen := rfl
@[simp] theorem countMp_prefen (n k : Nat) : (countMp n k s).prefen = s.prefen := rfl
@[simp] theorem takeFree_prefen : (takeFree s).1.prefen = s.prefen := rfl
@[simp] theorem stampTag_prefen (code : Nat) : (stampTag code s).1.prefen = s.prefen := rfl
@[simp] theorem tagHearth_prefen (i tag : Nat) : (tagHearth i tag s).prefen = s.prefen := rfl
@[simp] theorem transmit_prefen (p : Nat) (f : Frame) : (transmit p f s).prefen = s.prefen := rfl

@[simp] theorem countRun_prefen (a len : Nat) : (countRun a len s).prefen = s.prefen := by
  unfold countRun
  split <;> rfl

@[simp] theorem whenSt_prefen (c : Bool) (f : State → State) (h : (f s).prefen = s.prefen) : (whenSt c f s).prefen = s.prefen :=
  whenSt_keeps (p := fun t : State => t.prefen = s.prefen) (fun _ => h) rfl

@[simp] theorem wakeStack_prefen (n : Nat) : (wakeStack n s).prefen = s.prefen := by
  unfold wakeStack
  split
  · simp
  · split <;> rfl

@[simp] theorem sendSnoop_prefen (line : Nat) (data : Bool) : (sendSnoop line data s).prefen = s.prefen := by
  unfold sendSnoop
  dsimp only
  split <;> rfl

@[simp] theorem recallRange_prefen (a len : Nat) (write : Bool) : (recallRange a len write s).prefen = s.prefen :=
  overList_keeps (p := fun t : State => t.prefen = s.prefen) (fun _ t ht => (sendSnoop_prefen t _ _).trans ht) _ rfl

@[simp] theorem rangeAsk_prefen (space a len : Nat) (write : Bool) : (rangeAsk space a len write s).prefen = s.prefen := by
  unfold rangeAsk
  split <;> simp

@[simp] theorem postWrite_prefen (who : Who) (source a : Nat) (bs : List PByte) (note : PostNote) :
    (postWrite who source a bs note s).1.prefen = s.prefen := by
  unfold postWrite
  split <;> simp

@[simp] theorem writeBack_prefen (q : Nat) : (writeBack q s).prefen = s.prefen := postWrite_prefen _ _ _ _ _ _

@[simp] theorem syncQueue_prefen (q : Nat) : (syncQueue q s).prefen = s.prefen := by
  unfold syncQueue
  dsimp only
  split <;> simp

@[simp] theorem entryLanded_prefen (q idx : Nat) : (entryLanded q idx s).prefen = s.prefen := syncQueue_prefen _ _

@[simp] theorem doneTag_prefen (x : Queue) (tag : Nat) : (doneTag x tag s).prefen = s.prefen := by
  unfold doneTag
  dsimp only
  split <;> rfl

@[simp] theorem journal_prefen (q idx tag : Nat) (j : JEntry) : (journal q idx tag j s).prefen = s.prefen := by
  have hq (x : Queue) (t : State) : (setQueue q x t).prefen = t.prefen := rfl
  simp only [journal, apply_ite State.prefen, entryLanded_prefen, syncQueue_prefen, postWrite_prefen, memWrite_prefen, doneTag_prefen, hq, ite_self]

@[simp] theorem readSlots_prefen (x : Queue) (who : Who) (k i : Nat) : (readSlots x who k i s).1.prefen = s.prefen := by
  induction k generalizing i s with
  | zero => rfl
  | succ k ih =>
    simp only [readSlots]
    rw [ih, memRead_prefen]

theorem setRg_memWrite_prefen (o : Nat) (v : Word) (who : Who) (sp at_ : Nat) (l : List PByte) :
    (setRg o v (memWrite who sp at_ l s)).prefen = s.prefen := memWrite_prefen _ _ _ _ _

@[simp] theorem traceRing_prefen (a : Nat) (who : Who) (r : TraceRec) : (traceRing a who r s).prefen = s.prefen := by
  unfold traceRing
  rw [apply_ite State.prefen]
  refine (if_congr Iff.rfl rfl ?_).trans (ite_self _)
  show (if _ then satRf _ _ _ _ _ else _ : State).prefen = _
  rw [apply_ite State.prefen]
  exact (if_congr Iff.rfl rfl (setRg_memWrite_prefen _ _ _ _ _ _ _)).trans (ite_self _)

@[simp] theorem traceTaken_prefen (x : Queue) (tag cls : Nat) (body : List PByte) : (traceTaken x tag cls body s).prefen = s.prefen := by
  unfold traceTaken
  split <;> simp

/-- Taking a command changes nothing of Prefen's own state (R264, R268). -/
@[simp] theorem takeCmd_prefen (q : Nat) : (takeCmd q s).1.prefen = s.prefen := by
  have hlast (b : Prop) [Decidable b] (l : List (Nat × Nat)) : (if b then { s with lastQ := l } else s).prefen = s.prefen := by
    split <;> rfl
  have hstamp (b : Bool) (t : State) (n : Nat) : (if b then stampTag 0x78 t else (t, n)).1.prefen = t.prefen := by split <;> rfl
  have hchan (b : Prop) [Decidable b] (t : State) (o : Nat) (v : Word) : (if b then setRg o v t else t).prefen = t.prefen := by
    split <;> rfl
  unfold takeCmd
  simp [hlast, hstamp, hchan]

@[simp] theorem pumpFrames_prefen (pid fuel : Nat) : (pumpFrames pid fuel s).prefen = s.prefen := by
  induction fuel generalizing s with
  | zero => rfl
  | succ fuel ih =>
    unfold pumpFrames
    dsimp only
    split
    · rfl
    · split
      · rfl
      · exact (ih _).trans rfl

@[simp] theorem sendSeq_prefen (pid : Nat) (f : Frame) : (sendSeq pid f s).prefen = s.prefen := pumpFrames_prefen _ _ _
@[simp] theorem sendMsg_prefen (pid : Nat) (m : List Nat) : (sendMsg pid m s).prefen = s.prefen := sendSeq_prefen _ _ _

@[simp] theorem tellMembers_prefen (m : List Nat) : (tellMembers m s).prefen = s.prefen :=
  overList_keeps (p := fun t : State => t.prefen = s.prefen) (fun _ t ht => (sendMsg_prefen t _ _).trans ht) _ rfl

@[simp] theorem msixRaise_prefen (v : Nat) : (msixRaise v s).prefen = s.prefen := by
  obtain ⟨_, _, h⟩ := msixRaise_frame v s
  rw [h]

@[simp] theorem prefenNeed_prefen (space a len : Nat) (write : Bool) : (prefenNeed space a len write s).prefen = s.prefen := by
  unfold prefenNeed
  split <;> rfl

@[simp] theorem hoodStamp_prefen : (hoodStamp s).1.prefen = s.prefen := rfl

@[simp] theorem hoodRead_prefen (space a n : Nat) : (hoodRead space a n s).1.prefen = s.prefen := by simp [hoodRead]
@[simp] theorem hoodWrite_prefen (space a : Nat) (l : List PByte) : (hoodWrite space a l s).prefen = s.prefen := by
  simp only [hoodWrite, memWrite_prefen]
  rw [whenSt_prefen _ _ _ (countRun_prefen _ _ _), prefenNeed_prefen, whenSt_prefen _ _ _ (satRf_prefen _ _ _ _ _)]
  rfl
@[simp] theorem smithLoad_prefen (a n : Nat) : (smithLoad a n s).1.prefen = s.prefen := by simp [smithLoad]
@[simp] theorem smithStore_prefen (a : Nat) (bs : List Byte) : (smithStore a bs s).prefen = s.prefen := by simp [smithStore]
@[simp] theorem crcRead_prefen (a n : Nat) : (crcRead a n s).1.prefen = s.prefen := by simp [crcRead]

@[simp] theorem ringWrite_prefen (r : Ring) (a : Nat) (l : List Byte) : (ringWrite r a l s).prefen = s.prefen := by simp [ringWrite]
@[simp] theorem ringPut_prefen (r : Ring) (body : List Byte) : (ringPut r body s).1.prefen = s.prefen := by simp [ringPut]

@[simp] theorem ringConsult_prefen (n : Nat) (r : Ring) : (ringConsult n r s).1.prefen = s.prefen := by
  unfold ringConsult
  split
  · rfl
  · dsimp only
    split <;> simp

@[simp] theorem vbGo_prefen (n : Nat) (v : Word) : (vbGo n v s).prefen = s.prefen := by
  unfold vbGo
  dsimp only
  split <;> rfl

@[simp] theorem nextClear_prefen (n : Nat) : (nextClear n s).prefen = s.prefen := by
  unfold nextClear
  split
  · split
    · rfl
    · exact vbGo_prefen _ _ _
  · rfl

end PrefenKept

end Sys2Proof.Proofs

namespace Sys2Proof.Proofs

open Sys2Proof Sys2Proof.Machine Sys2Proof.Laws

/-! ### What the serving rules turn on of Prefen's state -/

/-- A request without what its ring alone decides: the index of its final entry and the mark of a late cancel. -/
def bareRequest (r : Request) : Request := { r with finalAt := none, lateCancel := false }

/-- The step, the cancels, the sessions and the bare requests: what rings, mailboxes, events and adapters never change. -/
structure Serving where
  step : Step
  lastStep : Nat
  cancels : List Cancel
  holdSince : Option Nat
  sessions : List (Nat × Session)
  requests : List Request

def servingOf (p : Prefen) : Serving := ⟨p.step, p.lastStep, p.cancels, p.holdSince, p.sessions, p.requests.map bareRequest⟩

section ServingKept

variable (s : State)

theorem updPrefen_prefen (f : Prefen → Prefen) : (updPrefen f s).prefen = f s.prefen := rfl

@[simp] theorem setMbox_serving (m : Nat) (x : Mbox) : servingOf (setMbox m x s).prefen = servingOf s.prefen := rfl
@[simp] theorem setRing_serving (id : Nat) (r : Ring) : servingOf (setRing id r s).prefen = servingOf s.prefen := rfl
@[simp] theorem setRingOut_serving (f : Prefen → List RingOut) :
    servingOf (updPrefen (fun p => { p with ringOut := f p }) s).prefen = servingOf s.prefen := rfl

@[simp] theorem respond_serving (m st : Nat) (words : List Nat) : servingOf (respond m st words s).prefen = servingOf s.prefen := by
  obtain ⟨_, _, h⟩ := respond_frame m st words s
  rw [h]
  rfl

@[simp] theorem answer_serving (c : Caller) (st status progress : Nat) (late : Bool) :
    servingOf (answer c st status progress late s).prefen = servingOf s.prefen := by
  cases c with
  | mailbox m => exact respond_serving s m status _
  | queue q i t => exact congrArg servingOf (journal_prefen s q i t _)

/-- What a lookup of a ring makes of the answer `p`. -/
def ringLooked (id : Nat) (on : Bool) (s : State) (p : State × Ring) : State := if !on then s else let (t, r) := p; setRing id r t

theorem ringLook_eq (id n : Nat) : ringLook id n s = ringLooked id (ringAt s id).on s (ringConsult n (ringAt s id) s) := by
  delta ringLook ringLooked
  rfl

theorem ringLooked_serving (id : Nat) (on : Bool) (p : State × Ring) (h : p.1.prefen = s.prefen) :
    servingOf (ringLooked id on s p).prefen = servingOf s.prefen := by
  cases on with
  | true =>
    show servingOf (setRing id p.2 p.1).prefen = _
    rw [setRing_serving, h]
  | false => rfl

@[simp] theorem ringLook_serving (id n : Nat) : servingOf (ringLook id n s).prefen = servingOf s.prefen := by
  rw [ringLook_eq]
  exact ringLooked_serving s id _ _ (ringConsult_prefen s n _)

@[simp] theorem noteFinal_serving (o : RingOut) (i : Nat) : servingOf (noteFinal o i s).prefen = servingOf s.prefen := by
  have hbare (t : Nat) : bareRequest ∘ (fun q : Request => if q.tag = t && 8 ≤ q.state && q.finalAt.isNone then { q with finalAt := some i } else q) =
      bareRequest := by
    funext q
    simp only [Function.comp_apply]
    split <;> rfl
  unfold noteFinal
  split
  · rfl
  · simp only [updPrefen_prefen, servingOf, List.map_map, hbare]

@[simp] theorem resultFlushList_serving (busy : List Nat) (l : List RingOut) :
    servingOf (resultFlushList busy l s).prefen = servingOf s.prefen := by
  induction l generalizing busy s with
  | nil => rfl
  | cons o rest ih =>
    unfold resultFlushList
    dsimp only
    split
    · simp [ih]
    · rw [ih, apply_ite State.prefen]
      simp

@[simp] theorem resultFlush_serving : servingOf (resultFlush s).prefen = servingOf s.prefen := resultFlushList_serving _ _ _

@[simp] theorem smithStore_serving (a : Nat) (bs : List Byte) : servingOf (smithStore a bs s).prefen = servingOf s.prefen :=
  congrArg servingOf (smithStore_prefen s a bs)

@[simp] theorem writeIngot_serving (id : Nat) (held : Option Request) : servingOf (writeIngot id held s).prefen = servingOf s.prefen := by
  show servingOf (smithStore _ _ (smithStore _ _ s)).prefen = _
  simp

@[simp] theorem putResult_serving (r : Request) (step len : Nat) (toks : List Nat) (switched : Bool) :
    servingOf (putResult r step len toks switched s).prefen = servingOf s.prefen := rfl

@[simp] theorem retireVersions_serving : servingOf (retireVersions s).prefen = servingOf s.prefen := rfl

@[simp] theorem holdEvent_serving (e : Event) : servingOf (holdEvent e s).prefen = servingOf s.prefen := by
  unfold holdEvent
  dsimp only
  split <;> rfl

@[simp] theorem faultLanded_serving (f : FaultRec) (seq : Nat) : servingOf (faultLanded f seq s).prefen = servingOf s.prefen := by
  unfold faultLanded
  simp

@[simp] theorem faultRecord_serving (f : FaultRec) : servingOf (faultRecord f s).prefen = servingOf s.prefen := by
  unfold faultRecord
  dsimp only
  split
  · simp
  · split <;> simp

@[simp] theorem setSlotState_serving (slot st : Nat) : servingOf (setSlotState slot st s).prefen = servingOf s.prefen := by
  simp [setSlotState]

@[simp] theorem freeBillet_serving (pieces : Nat) (b : Billet) : servingOf (freeBillet pieces b s).prefen = servingOf s.prefen := by
  simp only [freeBillet, nextClear_prefen]
  rfl

@[simp] theorem unlist_prefen (x : Session) (rest : List Billet) (b : Billet) : (unlist x rest b s).prefen = s.prefen := by
  simp [unlist]

@[simp] theorem tellMembers_serving (m : List Nat) : servingOf (tellMembers m s).prefen = servingOf s.prefen :=
  congrArg servingOf (tellMembers_prefen s m)

end ServingKept

end Sys2Proof.Proofs

namespace Sys2Proof.Proofs

open Sys2Proof Sys2Proof.Machine Sys2Proof.Laws

/-! ### Requests looked up by tag -/

/-- State and last step of the request of a tag: what the end of a request sets and nothing afterwards changes (R292, R303). -/
def requestEnd (s : State) (tag : Nat) : Option (Nat × Nat) := (request s tag).map (fun r => (r.state, r.endStep))

section Requests

variable {s t : State} {r r' : Request} {tag : Nat}

theorem tag_of_request (h : request s tag = some r) : r.tag = tag := by
  simpa using List.find?_some h

theorem requestEnd_of_request (h : request s tag = some r) : requestEnd s tag = some (r.state, r.endStep) := by
  simp [requestEnd, h]

theorem request_bare (s : State) (tag : Nat) :
    (request s tag).map bareRequest = (servingOf s.prefen).requests.find? (fun r => r.tag == tag) := by
  simp only [request, servingOf, List.find?_map]
  rfl

/-- What keeps the serving state keeps every request's end. -/
theorem requestEnd_of_serving (h : servingOf t.prefen = servingOf s.prefen) (tag : Nat) : requestEnd t tag = requestEnd s tag := by
  have hbare (u : State) : requestEnd u tag = ((request u tag).map bareRequest).map (fun r => (r.state, r.endStep)) := by
    rw [Option.map_map]
    rfl
  rw [hbare, hbare, request_bare, request_bare, h]

theorem find?_tag_cons (x : Request) (l : List Request) (tag : Nat) :
    (x :: l).find? (fun y => y.tag == tag) = if x.tag = tag then some x else l.find? (fun y => y.tag == tag) := by
  by_cases h : x.tag = tag
  · rw [if_pos h, List.find?_cons_of_pos (by simp [h])]
  · rw [if_neg h, List.find?_cons_of_neg (p := fun y : Request => y.tag == tag) (by simp [h])]

theorem find?_replaced (l : List Request) (r : Request) (tag : Nat) :
    (l.map (fun x => if x.tag = r.tag then r else x)).find? (fun x => x.tag == tag) =
      if tag = r.tag then (l.find? (fun x => x.tag == tag)).map (fun _ => r) else l.find? (fun x => x.tag == tag) := by
  induction l with
  | nil => simp
  | cons x l ih =>
    rw [List.map_cons, find?_tag_cons, find?_tag_cons, ih]
    by_cases ht : tag = r.tag
    · subst ht
      by_cases hx : x.tag = r.tag <;> simp [hx]
    · by_cases hx : x.tag = r.tag
      · simp [hx, ht, Ne.symm ht]
      · simp [hx, ht]

theorem request_setRequest (r : Request) (s : State) (tag : Nat) :
    request (setRequest r s) tag = if tag = r.tag then (request s tag).map (fun _ => r) else request s tag :=
  find?_replaced _ _ _

theorem requestEnd_setRequest_same (h : request s r.tag = some r') : requestEnd (setRequest r s) r.tag = some (r.state, r.endStep) := by
  simp [requestEnd, request_setRequest, h]

theorem requestEnd_setRequest_other (h : tag ≠ r.tag) : requestEnd (setRequest r s) tag = requestEnd s tag := by
  simp [requestEnd, request_setRequest, h]

end Requests

/-! ### Ending and cancelling a request -/

section Ending

variable {s : State} {r r' : Request} {tag state outcome status step : Nat} {toks : List Nat} {switched : Bool}

/-- Of the serving state an end changes the request alone. -/
theorem endRequest_serving (s : State) (r : Request) (state outcome status step : Nat) (toks : List Nat) (switched : Bool) :
    servingOf (endRequest r state outcome status step toks switched s).prefen =
      servingOf (setRequest { r with state := state, outcome := outcome, status := status, endStep := step } s).prefen :=
  putResult_serving _ _ _ _ _ _

theorem cancelNow_serving (s : State) (r : Request) (c : Nat) (switched : Bool) :
    servingOf (cancelNow r c switched s).prefen =
      servingOf (setRequest { r with state := 9, outcome := 4, status := 0, endStep := c } s).prefen := by
  unfold cancelNow
  dsimp only
  split
  · rw [writeIngot_serving, endRequest_serving]
  · exact endRequest_serving _ _ _ _ _ _ _ _

theorem requestEnd_endRequest_same (h : request s r.tag = some r') :
    requestEnd (endRequest r state outcome status step toks switched s) r.tag = some (state, step) :=
  (requestEnd_of_serving (endRequest_serving s r state outcome status step toks switched) _).trans
    (requestEnd_setRequest_same (r := { r with state := state, outcome := outcome, status := status, endStep := step }) h)

theorem requestEnd_endRequest_other (h : tag ≠ r.tag) :
    requestEnd (endRequest r state outcome status step toks switched s) tag = requestEnd s tag :=
  (requestEnd_of_serving (endRequest_serving s r state outcome status step toks switched) _).trans (requestEnd_setRequest_other h)

theorem requestEnd_cancelNow_same (h : request s r.tag = some r') : requestEnd (cancelNow r step switched s) r.tag = some (9, step) :=
  (requestEnd_of_serving (cancelNow_serving s r step switched) _).trans
    (requestEnd_setRequest_same (r := { r with state := 9, outcome := 4, status := 0, endStep := step }) h)

theorem requestEnd_cancelNow_other (h : tag ≠ r.tag) : requestEnd (cancelNow r step switched s) tag = requestEnd s tag :=
  (requestEnd_of_serving (cancelNow_serving s r step switched) _).trans (requestEnd_setRequest_other h)

/-- The mark of a late cancel is no part of a request's end. -/
theorem requestEnd_markLate (h : request s r.tag = some r) (tag : Nat) : requestEnd (markLate r s) tag = requestEnd s tag := by
  unfold markLate
  split
  · rfl
  · show requestEnd (setRequest { r with lateCancel := true } s) tag = _
    by_cases ht : tag = r.tag
    · subst ht
      rw [requestEnd_of_request h]
      exact requestEnd_setRequest_same (r := { r with lateCancel := true }) h
    · exact requestEnd_setRequest_other ht

theorem markLate_cancels (r : Request) (s : State) : (markLate r s).prefen.cancels = s.prefen.cancels := by
  unfold markLate
  split <;> rfl

theorem markLate_step (r : Request) (s : State) : (markLate r s).prefen.step = s.prefen.step := by
  unfold markLate
  split <;> rfl

theorem cancelNow_cancels (r : Request) (c : Nat) (switched : Bool) (s : State) :
    (cancelNow r c switched s).prefen.cancels = s.prefen.cancels := congrArg Serving.cancels (cancelNow_serving s r c switched)

theorem cancelNow_step (r : Request) (c : Nat) (switched : Bool) (s : State) :
    (cancelNow r c switched s).prefen.step = s.prefen.step := congrArg Serving.step (cancelNow_serving s r c switched)

end Ending

end Sys2Proof.Proofs

namespace Sys2Proof.Proofs

open Sys2Proof Sys2Proof.Machine Sys2Proof.Laws

/-! ### Rows at the commit point -/

section CommitRow

variable {s : State} {row : StepRow} {q : Request} {num tag : Nat}

theorem commitRow_terminal (hq : request s row.req = some q) (ht : terminal q = true) : commitRow num row s = s := by
  simp [commitRow, hq, ht]

theorem commitRow_cancelled (hq : request s row.req = some q) (ht : terminal q = false)
    (hc : s.prefen.cancels.any (fun c => c.target == q.tag && c.c == num) = true) :
    commitRow num row s = cancelNow q num row.switched s := by
  simp [commitRow, hq, ht, hc]

theorem commitRow_invalid (hq : request s row.req = some q) (ht : terminal q = false)
    (hc : s.prefen.cancels.any (fun c => c.target == q.tag && c.c == num) = false) (hv : row.invalid = true) :
    commitRow num row s = endRequest q 0xA 5 0x290 num [] row.switched s := by
  simp [commitRow, hq, ht, hc, hv]

/-- The tokens that a row brings its request (R325). -/
def rowTokens (row : StepRow) (q : Request) : List Nat :=
  if row.samples then truncated q (row.len + row.chunk) (acceptedOf row) else []

/-- The session of a row with its new length (R297). -/
def rowSession (num : Nat) (row : StepRow) (q : Request) (s : State) : Session :=
  { sessionD s q.session with len := row.len + row.chunk + (rowTokens row q).length, step := num, build := s.prefen.step.build }

/-- The request of a row with what it has generated and read (R292). -/
def rowRequest (row : StepRow) (q : Request) : Request :=
  { q with generated := q.generated + (rowTokens row q).length, promptLeft := q.promptLeft - row.chunk,
           promptAt := if row.chunk = 0 then q.promptAt else q.promptAt + 4 * row.chunk,
           state := if row.samples then 3 else q.state }

/-- The result of a row handed out: a final entry, an entry, or none (R303, R307). -/
def rowReported (num : Nat) (row : StepRow) (q : Request) (s : State) : State :=
  let len := row.len + row.chunk + (rowTokens row q).length
  let o := outcomeOf (rowRequest row q) (rowTokens row q) (rowRequest row q).generated len
  if o != 0 then endRequest (rowRequest row q) 8 o 0 num (rowTokens row q) row.switched s
  else if (rowTokens row q).isEmpty then s
  else putResult (rowRequest row q) num len (rowTokens row q) row.switched s

theorem commitRow_advances (hq : request s row.req = some q) (ht : terminal q = false)
    (hc : s.prefen.cancels.any (fun c => c.target == q.tag && c.c == num) = false) (hv : row.invalid = false) :
    commitRow num row s = rowReported num row q (setRequest (rowRequest row q) (setSession (rowSession num row q s) s)) := by
  unfold commitRow
  simp only [hq, ht, hc, hv, Bool.false_eq_true, if_false]
  rfl

theorem rowReported_requestEnd (h : tag ≠ q.tag) : requestEnd (rowReported num row q s) tag = requestEnd s tag := by
  unfold rowReported
  dsimp only
  split
  · exact requestEnd_endRequest_other h
  · split <;> rfl

theorem rowReported_cancels : (rowReported num row q s).prefen.cancels = s.prefen.cancels := by
  unfold rowReported
  dsimp only
  split
  · rfl
  · split <;> rfl

theorem rowReported_sessions : (rowReported num row q s).prefen.sessions = s.prefen.sessions := by
  unfold rowReported
  dsimp only
  split
  · rfl
  · split <;> rfl

/-- A row says what becomes of its own request alone. -/
theorem commitRow_requestEnd_other (h : tag ≠ row.req) : requestEnd (commitRow num row s) tag = requestEnd s tag := by
  cases hq : request s row.req with
  | none => simp [commitRow, hq]
  | some q =>
    have hne : tag ≠ q.tag := by rwa [tag_of_request hq]
    cases ht : terminal q with
    | true => rw [commitRow_terminal hq ht]
    | false =>
      cases hc : s.prefen.cancels.any (fun c => c.target == q.tag && c.c == num) with
      | true => rw [commitRow_cancelled hq ht hc, requestEnd_cancelNow_other hne]
      | false =>
        cases hv : row.invalid with
        | true => rw [commitRow_invalid hq ht hc hv, requestEnd_endRequest_other hne]
        | false =>
          rw [commitRow_advances hq ht hc hv, rowReported_requestEnd hne,
            requestEnd_setRequest_other (r := rowRequest row q) hne]
          rfl

theorem commitRow_cancels : (commitRow num row s).prefen.cancels = s.prefen.cancels := by
  cases hq : request s row.req with
  | none => simp [commitRow, hq]
  | some q =>
    cases ht : terminal q with
    | true => rw [commitRow_terminal hq ht]
    | false =>
      cases hc : s.prefen.cancels.any (fun c => c.target == q.tag && c.c == num) with
      | true => rw [commitRow_cancelled hq ht hc, cancelNow_cancels]
      | false =>
        cases hv : row.invalid with
        | true =>
          rw [commitRow_invalid hq ht hc hv]
          rfl
        | false =>
          rw [commitRow_advances hq ht hc hv, rowReported_cancels]
          rfl

end CommitRow

/-! ### A stamped cancel decides its request's end -/

/-- The request of a tag is not terminal, or is CANCELLED under a step's number. -/
def Doomed (num tag : Nat) (s : State) : Prop := ∃ e, requestEnd s tag = some e ∧ (e.1 < 8 ∨ e = (9, num))

/-- A cancel stamped with the step waits for the request of a tag. -/
def Stamped (num tag : Nat) (s : State) : Prop := Doomed num tag s ∧ ∃ c ∈ s.prefen.cancels, c.target = tag ∧ c.c = num

section Stamped

variable {s t : State} {num tag : Nat}

theorem doomed_of_requestEnd (h : requestEnd t tag = requestEnd s tag) (hs : Doomed num tag s) : Doomed num tag t := by
  obtain ⟨e, he, hd⟩ := hs
  exact ⟨e, h.trans he, hd⟩

theorem commitRow_stamped (row : StepRow) (h : Stamped num tag s) : Stamped num tag (commitRow num row s) := by
  obtain ⟨hd, hc⟩ := h
  refine ⟨?_, by rwa [commitRow_cancels]⟩
  by_cases hrow : tag = row.req
  · subst hrow
    obtain ⟨e, he, -⟩ := id hd
    obtain ⟨q, hq, -⟩ := Option.map_eq_some_iff.mp he
    cases ht : terminal q with
    | true => rwa [commitRow_terminal hq ht]
    | false =>
      obtain ⟨c, hcs, hct, hcn⟩ := hc
      have htag := tag_of_request hq
      rw [commitRow_cancelled hq ht (List.any_eq_true.mpr ⟨c, hcs, by simp [hct, hcn, htag]⟩)]
      have hend : requestEnd (cancelNow q num row.switched s) q.tag = some (9, num) :=
        requestEnd_cancelNow_same (r' := q) (by rw [htag, hq])
      exact ⟨(9, num), by rwa [htag] at hend, Or.inr rfl⟩
  · exact doomed_of_requestEnd (commitRow_requestEnd_other hrow) hd

/-- What one cancel's turn does: its request is gone, is terminal otherwise, was cancelled in this step, or is cancelled now (R303, R304). -/
inductive Resolved (num : Nat) (c : Cancel) (s : State) : State → Prop
  | gone (h : request s c.target = none) : Resolved num c s (answer c.caller 2 0 0 true s)
  | late (r : Request) (h : request s c.target = some r) (ht : terminal r = true) : Resolved num c s (answer c.caller 2 0 0 true (markLate r s))
  | counted (r : Request) (h : request s c.target = some r) (ht : terminal r = true) (hs : r.state = 9) (hn : r.endStep = num) :
      Resolved num c s (answer c.caller 2 0 1 false s)
  | cancelled (r : Request) (h : request s c.target = some r) (ht : terminal r = false) :
      Resolved num c s (answer c.caller 2 0 1 false (cancelNow r num false s))

theorem resolveCancels_cons (num : Nat) (told : List Nat) (c : Cancel) (l : List Cancel) (s : State) :
    ∃ told' s', resolveCancels num told (c :: l) s = resolveCancels num told' l s' ∧ Resolved num c s s' := by
  cases hr : request s c.target with
  | none => exact ⟨told, _, by simp only [resolveCancels, hr], .gone hr⟩
  | some r =>
    cases ht : terminal r with
    | false => exact ⟨r.tag :: told, _, by simp [resolveCancels, hr, ht], .cancelled r hr ht⟩
    | true =>
      by_cases hg : (r.state != 9 || r.endStep != num || told.contains r.tag) = true
      · exact ⟨told, _, by simp only [resolveCancels, hr, ht, hg, Bool.and_self, if_true], .late r hr ht⟩
      · have h9 : r.state = 9 ∧ r.endStep = num := by simp_all
        exact ⟨r.tag :: told, _, by simp only [resolveCancels, hr, ht, hg, Bool.and_false, Bool.false_eq_true, if_false, if_true],
          .counted r hr ht h9.1 h9.2⟩

variable {c : Cancel}

theorem answer_requestEnd (c : Caller) (st status progress : Nat) (late : Bool) (s : State) (tag : Nat) :
    requestEnd (answer c st status progress late s) tag = requestEnd s tag :=
  requestEnd_of_serving (answer_serving s c st status progress late) tag

theorem answer_cancels (c : Caller) (st status progress : Nat) (late : Bool) (s : State) :
    (answer c st status progress late s).prefen.cancels = s.prefen.cancels :=
  congrArg Serving.cancels (answer_serving s c st status progress late)

theorem answer_step (c : Caller) (st status progress : Nat) (late : Bool) (s : State) :
    (answer c st status progress late s).prefen.step = s.prefen.step :=
  congrArg Serving.step (answer_serving s c st status progress late)

theorem resolved_cancels (h : Resolved num c s t) : t.prefen.cancels = s.prefen.cancels := by
  cases h with
  | gone h => exact answer_cancels _ _ _ _ _ _
  | late r h ht => exact (answer_cancels _ _ _ _ _ _).trans (markLate_cancels r s)
  | counted r h ht hs hn => exact answer_cancels _ _ _ _ _ _
  | cancelled r h ht => exact (answer_cancels _ _ _ _ _ _).trans (cancelNow_cancels r num false s)

theorem resolved_step (h : Resolved num c s t) : t.prefen.step = s.prefen.step := by
  cases h with
  | gone h => exact answer_step _ _ _ _ _ _
  | late r h ht => exact (answer_step _ _ _ _ _ _).trans (markLate_step r s)
  | counted r h ht hs hn => exact answer_step _ _ _ _ _ _
  | cancelled r h ht => exact (answer_step _ _ _ _ _ _).trans (cancelNow_step r num false s)

/-- A cancel's turn leaves every request's end as it was, or cancels its own request. -/
theorem resolved_requestEnd (h : Resolved num c s t) (tag : Nat) :
    requestEnd t tag = requestEnd s tag ∨ requestEnd t tag = some (9, num) := by
  cases h with
  | gone h => exact Or.inl (answer_requestEnd _ _ _ _ _ _ _)
  | late r h ht => exact Or.inl ((answer_requestEnd _ _ _ _ _ _ _).trans (requestEnd_markLate (by rw [tag_of_request h, h]) tag))
  | counted r h ht hs hn => exact Or.inl (answer_requestEnd _ _ _ _ _ _ _)
  | cancelled r h ht =>
    by_cases htag : tag = r.tag
    · subst htag
      exact Or.inr ((answer_requestEnd _ _ _ _ _ _ _).trans (requestEnd_cancelNow_same (r' := r) (by rw [tag_of_request h, h])))
    · exact Or.inl ((answer_requestEnd _ _ _ _ _ _ _).trans (requestEnd_cancelNow_other htag))

/-- After its cancel's turn a doomed request is CANCELLED under the step's number. -/
theorem resolved_ended (h : Resolved num c s t) (hd : Doomed num c.target s) :
    requestEnd t c.target = some (9, num) := by
  obtain ⟨e, he, hlive⟩ := hd
  cases h with
  | gone h => simp [requestEnd, h] at he
  | late r h ht =>
    rw [answer_requestEnd, requestEnd_markLate (by rw [tag_of_request h, h]), he]
    rw [requestEnd_of_request h, Option.some.injEq] at he
    subst he
    rcases hlive with h8 | h9
    · simp [terminal] at ht
      omega
    · rw [h9]
  | counted r h ht hs hn => rw [answer_requestEnd, requestEnd_of_request h, hs, hn]
  | cancelled r h ht =>
    rw [answer_requestEnd, ← tag_of_request h]
    exact requestEnd_cancelNow_same (r' := r) (by rw [tag_of_request h, h])

end Stamped

end Sys2Proof.Proofs

namespace Sys2Proof.Proofs

open Sys2Proof Sys2Proof.Machine Sys2Proof.Laws

/-! ### What sealing and freeing billets leave alone -/

/-- The serving state without its sessions. -/
def besideSessions (p : Prefen) : Serving := { servingOf p with sessions := [] }

section BesideSessions

variable (s : State)

theorem besideSessions_of_serving {p p' : Prefen} (h : servingOf p = servingOf p') : besideSessions p = besideSessions p' := by
  simp only [besideSessions, h]

theorem setSession_besideSessions (x : Session) : besideSessions (setSession x s).prefen = besideSessions s.prefen := rfl

theorem billetRead_prefen (base n : Nat) : (billetRead crcRead base n s).1.prefen = s.prefen :=
  collect_keeps (p := fun t : State => t.prefen = s.prefen) (fun _ t ht => (crcRead_prefen t _ _).trans ht) _ rfl

theorem billetCrc_prefen (base d : Nat) : (billetCrc base d s).1.prefen = s.prefen := by
  have hkept := billetRead_prefen s base (64 + 1024 * d)
  unfold billetCrc
  generalize billetRead crcRead base (64 + 1024 * d) s = p at hkept ⊢
  obtain ⟨t, l⟩ := p
  dsimp only
  split <;> exact hkept

theorem sealBillet_besideSessions (id : Nat) (b : Billet) : besideSessions (sealBillet id b s).prefen = besideSessions s.prefen := by
  have hkept := billetCrc_prefen s b.base s.prefen.build.d
  unfold sealBillet
  dsimp only
  generalize billetCrc b.base s.prefen.build.d s = p at hkept ⊢
  obtain ⟨t, crc⟩ := p
  cases crc with
  | none => exact congrArg besideSessions hkept
  | some c =>
    rw [setSession_besideSessions, smithStore_prefen, smithStore_prefen, hkept]

theorem sealDue_besideSessions (id : Nat) : besideSessions (sealDue id s).prefen = besideSessions s.prefen :=
  overList_keeps (p := fun t : State => besideSessions t.prefen = besideSessions s.prefen)
    (fun b t ht => (sealBillet_besideSessions t id b).trans ht) _ rfl

theorem freeBillets_besideSessions (id : Nat) (p : Billet → Bool) :
    besideSessions (freeBillets id p s).prefen = besideSessions s.prefen := by
  refine overList_keeps (p := fun t : State => besideSessions t.prefen = besideSessions s.prefen) (fun b t ht => ?_) _
    (setSession_besideSessions s _)
  rw [besideSessions_of_serving (freeBillet_serving _ _ b), unlist_prefen, ht]

theorem settleSessions_besideSessions (ends : List (Nat × Nat × Bool)) :
    besideSessions (settleSessions ends s).prefen = besideSessions s.prefen := by
  refine overList_keeps (p := fun t : State => besideSessions t.prefen = besideSessions s.prefen) (fun e t ht => ?_) _ rfl
  dsimp only
  split
  · rw [freeBillets_besideSessions, sealDue_besideSessions, ht]
  · rw [sealDue_besideSessions, ht]

end BesideSessions

end Sys2Proof.Proofs

namespace Sys2Proof.Proofs

open Sys2Proof Sys2Proof.Machine Sys2Proof.Laws

/-! ### The commit of a step -/

section Commit

variable {s t : State} {num tag : Nat}

theorem requestEnd_of_besideSessions (h : besideSessions t.prefen = besideSessions s.prefen) (tag : Nat) :
    requestEnd t tag = requestEnd s tag := by
  have hreq : (servingOf t.prefen).requests = (servingOf s.prefen).requests := by
    show (besideSessions t.prefen).requests = (besideSessions s.prefen).requests
    rw [h]
  have hbare (u : State) : requestEnd u tag = ((request u tag).map bareRequest).map (fun r => (r.state, r.endStep)) := by
    rw [Option.map_map]
    rfl
  rw [hbare, hbare, request_bare, request_bare, hreq]

theorem resolveCancels_cancels (told : List Nat) (l : List Cancel) (s : State) :
    (resolveCancels num told l s).prefen.cancels = s.prefen.cancels := by
  induction l generalizing told s with
  | nil => rfl
  | cons c l ih =>
    obtain ⟨told', u, he, hu⟩ := resolveCancels_cons num told c l s
    rw [he, ih, resolved_cancels hu]

theorem resolveCancels_step (told : List Nat) (l : List Cancel) (s : State) :
    (resolveCancels num told l s).prefen.step = s.prefen.step := by
  induction l generalizing told s with
  | nil => rfl
  | cons c l ih =>
    obtain ⟨told', u, he, hu⟩ := resolveCancels_cons num told c l s
    rw [he, ih, resolved_step hu]

theorem resolveCancels_cancelled (told : List Nat) (l : List Cancel) (h : requestEnd s tag = some (9, num)) :
    requestEnd (resolveCancels num told l s) tag = some (9, num) := by
  induction l generalizing told s with
  | nil => exact h
  | cons c l ih =>
    obtain ⟨told', u, he, hu⟩ := resolveCancels_cons num told c l s
    rw [he]
    exact ih told' ((resolved_requestEnd hu tag).elim (fun hk => hk.trans h) id)

/-- The cancels of a step leave a doomed request CANCELLED under the step's number (R302, R303). -/
theorem resolveCancels_ends (told : List Nat) (l : List Cancel) (h : Doomed num tag s) (hc : ∃ c ∈ l, c.target = tag) :
    requestEnd (resolveCancels num told l s) tag = some (9, num) := by
  induction l generalizing told s with
  | nil => simp at hc
  | cons d l ih =>
    obtain ⟨told', u, he, hu⟩ := resolveCancels_cons num told d l s
    rw [he]
    by_cases hd : d.target = tag
    · subst hd
      exact resolveCancels_cancelled told' l (resolved_ended hu h)
    · have hl : ∃ c ∈ l, c.target = tag := by simpa [hd] using hc
      rcases resolved_requestEnd hu tag with hk | hk
      · exact ih told' (doomed_of_requestEnd hk h) hl
      · exact resolveCancels_cancelled told' l hk

/-- The rows of the step in the order in which their requests were admitted. -/
def rowsInOrder (s : State) : List StepRow :=
  s.prefen.requests.filterMap (fun q => s.prefen.step.rows.find? (fun r => r.req == q.tag))

/-- The state once every row of the step in flight has had its effect. -/
def rowsCommitted (s : State) : State := overList (commitRow s.prefen.step.num) (rowsInOrder s) s

theorem rowsCommitted_cancels (s : State) : (rowsCommitted s).prefen.cancels = s.prefen.cancels :=
  overList_keeps (p := fun t : State => t.prefen.cancels = s.prefen.cancels) (fun _ _ ht => commitRow_cancels.trans ht) _ rfl

theorem rowsCommitted_stamped (h : Stamped s.prefen.step.num tag s) : Stamped s.prefen.step.num tag (rowsCommitted s) :=
  overList_keeps (p := Stamped s.prefen.step.num tag) (fun row _ ht => commitRow_stamped row ht) _ h

/-- The state in which no step is in flight any more, nor a cancel of the step. -/
def stepClosed (num : Nat) (s : State) : State :=
  updPrefen (fun p => { p with step := {}, anchors := [], cancels := p.cancels.filter (fun c => c.c != num) }) s

/-- The commit of a step closes it and settles sessions and cancels: which sessions, and what members are told, is left open here. -/
theorem commitStep_settles (s : State) : ∃ m ends, commitStep s =
    retireVersions (resultFlush (resolveCancels s.prefen.step.num []
      ((rowsCommitted s).prefen.cancels.filter (fun c => c.c == s.prefen.step.num))
      (resultFlush (settleSessions ends (tellMembers m (stepClosed s.prefen.step.num (rowsCommitted s))))))) ∧
    ends.map (fun e => e.1) = (s.prefen.step.rows.map (·.session)).eraseDups := by
  refine ⟨_, _, rfl, ?_⟩
  simp only [List.map_map]
  exact List.map_id _

theorem settled_besideSessions (m : List Nat) (ends : List (Nat × Nat × Bool)) (s : State) :
    besideSessions (resultFlush (settleSessions ends (tellMembers m s))).prefen = besideSessions s.prefen := by
  rw [besideSessions_of_serving (resultFlush_serving _), settleSessions_besideSessions, tellMembers_prefen]

theorem commitStep_step (s : State) : (commitStep s).prefen.step = {} := by
  obtain ⟨m, ends, he, -⟩ := commitStep_settles s
  rw [he]
  have hlast (u : State) : (retireVersions (resultFlush u)).prefen.step = u.prefen.step :=
    (congrArg Serving.step (retireVersions_serving _)).trans (congrArg Serving.step (resultFlush_serving u))
  rw [hlast, resolveCancels_step]
  exact congrArg Serving.step (settled_besideSessions m ends _)

theorem commitStep_cancels (s : State) :
    (commitStep s).prefen.cancels = s.prefen.cancels.filter (fun c => c.c != s.prefen.step.num) := by
  obtain ⟨m, ends, he, -⟩ := commitStep_settles s
  rw [he]
  have hlast (u : State) : (retireVersions (resultFlush u)).prefen.cancels = u.prefen.cancels :=
    (congrArg Serving.cancels (retireVersions_serving _)).trans (congrArg Serving.cancels (resultFlush_serving u))
  rw [hlast, resolveCancels_cancels, ← rowsCommitted_cancels s]
  exact congrArg Serving.cancels (settled_besideSessions m ends _)

/-- The request of a cancel that is stamped with the step ends CANCELLED under the step's number (R302, R303). -/
theorem commitStep_cancelled (h : Stamped s.prefen.step.num tag s) : requestEnd (commitStep s) tag = some (9, s.prefen.step.num) := by
  obtain ⟨m, ends, he, -⟩ := commitStep_settles s
  obtain ⟨hd, c, hc, ht, hn⟩ := rowsCommitted_stamped h
  have hlast (u : State) : requestEnd (retireVersions (resultFlush u)) tag = requestEnd u tag :=
    requestEnd_of_serving ((retireVersions_serving _).trans (resultFlush_serving u)) tag
  rw [he, hlast]
  refine resolveCancels_ends _ _ (doomed_of_requestEnd ?_ hd) ⟨c, List.mem_filter.mpr ⟨hc, by simp [hn]⟩, ht⟩
  exact requestEnd_of_besideSessions (settled_besideSessions m ends (stepClosed _ (rowsCommitted s))) tag

end Commit

/-! ### Cancels (O45) -/

theorem exec_cancel (q : BitVec 20) (s : State) : exec (.cancel q) s = execCancel q s := rfl
theorem exec_stepCommit (s : State) : exec .stepCommit s = execStepCommit s := rfl

section Cancel

variable {q : BitVec 20} {s : State} {r : Request}

theorem cmdStart_queue_prefen (q : BitVec 20) (s : State) : (cmdStart (.queue q) s).prefen = s.prefen :=
  takeCmd_prefen (prefenStart s) q.toNat

theorem cmdStart_queue_request (q : BitVec 20) (s : State) (tag : Nat) : request (cmdStart (.queue q) s) tag = request s tag := by
  simp only [request, cmdStart_queue_prefen]

/-- The CANCEL at the head of a queue whose target is known acts on it. -/
theorem cancel_acts (h : CmdReady (.queue q) 0x11 1 s)
    (hr : request (cmdStart (.queue q) s) (natBits (nth (queueWords q s) 1 0) 31 0) = some r) :
    prefenAnswers (.cancel q) s (cancelReq (cmdCaller (.queue q) s) r (cmdStart (.queue q) s)) := by
  have ha := queue_answers (.cancel q) _ h (by decide) ((exec_cancel q s).trans rfl)
  rwa [hr] at ha

theorem cancelReq_inFlight {c : Caller} (ht : terminal r = false) (hon : s.prefen.step.on = true) :
    cancelReq c r s = updPrefen (fun p => { p with cancels := p.cancels ++ [⟨c, r.tag, s.prefen.step.num⟩] }) s := by
  simp only [cancelReq, ht, hon, Bool.false_eq_true, if_false, if_true]
  rfl

theorem cancelReq_atOnce {c : Caller} (ht : terminal r = false) (hon : s.prefen.step.on = false) :
    cancelReq c r s = resultFlush (answer c 2 0 1 false (cancelNow r ((s.prefen.lastStep + 1) % 2 ^ 64) false s)) := by
  simp only [cancelReq, ht, hon, Bool.false_eq_true, if_false]

theorem lastStep_of_serving {t : State} (h : servingOf t.prefen = servingOf s.prefen) : t.prefen.lastStep = s.prefen.lastStep :=
  congrArg Serving.lastStep h

theorem cancelNow_lastStep (r : Request) (c : Nat) (switched : Bool) (s : State) :
    (cancelNow r c switched s).prefen.lastStep = s.prefen.lastStep := congrArg Serving.lastStep (cancelNow_serving s r c switched)

/-- What a cancel with no step in flight leaves of the serving state. -/
theorem cancelled_serving (c : Caller) (r : Request) (num : Nat) (s : State) :
    servingOf (resultFlush (answer c 2 0 1 false (cancelNow r num false s))).prefen = servingOf (cancelNow r num false s).prefen :=
  (resultFlush_serving _).trans (answer_serving _ _ _ _ _ _)

end Cancel

theorem stepCommit_answers {s : State} (hr : running s = true) (h1 : stepReady s = true) (h2 : prefenReady s = true)
    (h3 : serialFree s = true) (h4 : isLead s = true) (h5 : groupFree s = true) (h6 : groupWhole s = true)
    (h7 : ∀ g ∈ memberPositions s, g ∈ s.prefen.step.acked) : prefenAnswers .stepCommit s (commitStep (prefenStart s)) := by
  refine prefenRow_next _ _ _ _ (exec_stepCommit s) hr ?_
  have e1 : stepReady (prefenStart s) = true := h1
  have e2 : prefenReady (prefenStart s) = true := h2
  have e3 : serialFree (prefenStart s) = true := h3
  have e4 : isLead (prefenStart s) = true := h4
  have e5 : groupFree (prefenStart s) = true := h5
  have e6 : groupWhole (prefenStart s) = true := h6
  have e7 : (memberPositions (prefenStart s)).all (fun g => (prefenStart s).prefen.step.acked.contains g) = true :=
    List.all_eq_true.mpr (fun g hg => List.contains_iff_mem.mpr (h7 g hg))
  refine (if_neg ?_).trans ((if_neg ?_).trans (if_neg ?_))
  · rw [e1, e2, e3]
    decide
  · rw [e4]
    decide
  · rw [e5, e6, e7]
    decide

/-- Settles O45: a cancel is stamped with the step in flight, or ends its request under the next number at once; at the commit the rows and the
cancels of the step end the request under the step's number. -/
theorem cancelsAreStampedWithAStep : Obligations.CancelsAreStampedWithAStep := by
  unfold Obligations.CancelsAreStampedWithAStep
  intro s
  refine ⟨?taken, ?committed⟩
  case taken =>
    intro q r hcmd s1 c hr ht
    have hp : s1.prefen = s.prefen := cmdStart_queue_prefen q s
    have hr1 : request s1 (natBits (nth (queueWords q s) 1 0) 31 0) = some r := (cmdStart_queue_request q s _).trans hr
    refine ⟨hp, fun hon => ?_, fun hon => ?_⟩
    · have ha := cancel_acts hcmd hr1
      rwa [cancelReq_inFlight ht (by rw [cmdStart_queue_prefen, hon]), cmdStart_queue_prefen] at ha
    · intro num t
      refine ⟨?_, ?_, ?_⟩
      · have ha := cancel_acts hcmd hr1
        rwa [cancelReq_atOnce ht (by rw [cmdStart_queue_prefen, hon]), cmdStart_queue_prefen] at ha
      · exact (requestEnd_of_serving (cancelled_serving c r num s1) _).trans
          (requestEnd_cancelNow_same (r' := r) (by rw [tag_of_request hr1, hr1]))
      · rw [show t.prefen.lastStep = _ from lastStep_of_serving (cancelled_serving c r num s1), cancelNow_lastStep, hp]
  case committed =>
    intro c r hrun h1 h2 h3 h4 h5 h6 h7 hc hn hr ht t
    refine ⟨stepCommit_answers hrun h1 h2 h3 h4 h5 h6 h7, ?_, ?_⟩
    · refine commitStep_cancelled (s := prefenStart s) ⟨⟨_, requestEnd_of_request (s := prefenStart s) hr, Or.inl ?_⟩, c, hc, rfl, hn⟩
      simpa [terminal] using ht
    · intro d hd
      rw [show t.prefen.cancels = _ from commitStep_cancels (prefenStart s), List.mem_filter] at hd
      exact bne_iff_ne.mp hd.2

end Sys2Proof.Proofs

namespace Sys2Proof.Proofs

open Sys2Proof Sys2Proof.Machine Sys2Proof.Laws

/-! ### Admission -/

theorem exec_generate (q : BitVec 20) (s : State) : exec (.generate q) s = execGenerate q s := rfl
theorem exec_stepStamp (cmds : List (Nat × Nat × Nat)) (tables : List Nat) (s : State) :
    exec (.stepStamp cmds tables) s = execStepStamp cmds tables s := rfl
theorem exec_requestRetire (tag : BitVec 32) (s : State) : exec (.requestRetire tag) s = execRequestRetire tag s := rfl

section Generate

variable {q tag : Nat} {c : Caller} {w : List Nat} {s u v : State} {block prompt : Option (List PByte)} {l : List PByte}

theorem generate_refused (hb : fetchIn (natBits (nth w 7 0) 63 60) (nth w 6 0) 64 s = (u, block))
    (hst : generateStatus u tag w block ≠ 0) : generate q c tag w s = refuse c (generateStatus u tag w block) u := by
  unfold generate
  rw [hb]
  exact if_pos (bne_iff_ne.mpr hst)

theorem generate_unread (hb : fetchIn (natBits (nth w 7 0) 63 60) (nth w 6 0) 64 s = (u, block))
    (hst : generateStatus u tag w block = 0)
    (hp : fetchIn (natBits (nth w 3 0) 63 60) (nth w 2 0) (4 * natBits (nth w 3 0) 31 0) u = (v, none)) :
    generate q c tag w s = refuse c stBadParam v := by
  unfold generate
  rw [hb]
  refine (if_neg (bne_passed hst)).trans ?_
  rw [hp]

/-- The state in which an admitted request stands: its session open, its prompt stored. -/
def admissionPlace (w : List Nat) (l : List PByte) (s : State) : State × Nat :=
  let n := natBits (nth w 3 0) 31 0
  let o := if natBit (nth w 1 0) 32 then openSession (natBits (nth w 1 0) 31 0) (nth w 8 0) (nth w 9 0) s else s
  let p := if n = 0 then (o, 0) else placeSm (4 * n) 64 o
  (if n = 0 then p.1 else hoodWrite 4 p.2 l p.1, p.2)

/-- An admitted request added, its session's adapter noted, and the command journaled. -/
def admitted (q : Nat) (c : Caller) (tag : Nat) (w : List Nat) (block : List Byte) (p : State × Nat) : State :=
  let r := newRequest p.1 q tag w block p.2
  answer c 2 0 (natBits (nth w 3 0) 31 0) false (updPrefen (fun p => { p with requests := p.requests ++ [r] })
    (setSession { sessionD p.1 (natBits (nth w 1 0) 31 0) with aslot := r.aslot, aver := r.aver } p.1))

theorem generate_prompt (hb : fetchIn (natBits (nth w 7 0) 63 60) (nth w 6 0) 64 s = (u, block))
    (hst : generateStatus u tag w block = 0)
    (hp : fetchIn (natBits (nth w 3 0) 63 60) (nth w 2 0) (4 * natBits (nth w 3 0) 31 0) u = (v, some l)) :
    generate q c tag w s = if (tokensOf (l.map (·.1))).any (fun t => decide (v.prefen.build.vocab ≤ t)) then refuse c stBadParam v
      else admitted q c tag w ((block.getD []).map (·.1)) (admissionPlace w l v) := by
  unfold generate
  rw [hb]
  refine (if_neg (bne_passed hst)).trans ?_
  rw [hp]
  rfl

end Generate

/-- A GENERATE at the head of its queue acts while there is room for its request. -/
theorem generate_answers {q : BitVec 20} {s t : State} (h : CmdReady (.queue q) 0x10 2 s) (hroom : s.prefen.requests.length < 65536)
    (ht : generate q.toNat (cmdCaller (.queue q) s) (queueTaken q s).2.tag (queueWords q s) (cmdStart (.queue q) s) = t) :
    prefenAnswers (.generate q) s t :=
  prefenRow_next _ _ _ _ (exec_generate q s) h.1
    ((if_neg (Nat.not_le.mpr hroom)).trans ((queueCmd_ready h (by decide) _).trans (congrArg Host.Outcome.next ht)))

end Sys2Proof.Proofs

namespace Sys2Proof.Proofs

open Sys2Proof Sys2Proof.Machine Sys2Proof.Laws

/-! ### Stamps -/

section Stamp

variable {s u : State} {rows : List StepRow} {cmds : List (Nat × Nat × Nat)} {tables : List Nat}

theorem stampNew_idle (h : selectRows s = (u, [])) : stampNew cmds tables s = s := by
  unfold stampNew
  rw [h]
  exact if_pos rfl

theorem stampNew_works (h : selectRows s = (u, rows)) (hne : rows ≠ []) : stampNew cmds tables s =
    writeTables ((u.prefen.lastStep + 1) % 2 ^ 64) rows tables (tellMembers [msgStep, (u.prefen.lastStep + 1) % 2 ^ 64]
      (overList (enterStep ((u.prefen.lastStep + 1) % 2 ^ 64)) rows (updPrefen (fun p => { p with
        step := { on := true, num := (u.prefen.lastStep + 1) % 2 ^ 64, build := u.prefen.build.id, rows := rows, cmds := cmds },
        lastStep := (u.prefen.lastStep + 1) % 2 ^ 64, anchors := [] }) u))) := by
  unfold stampNew
  rw [h]
  exact if_neg (by simpa using hne)

theorem stamp_new_answers (hr : running s = true) (hm : mayStamp s = true) (hon : s.prefen.step.on = false) :
    prefenAnswers (.stepStamp cmds tables) s (stampNew cmds tables (prefenStart s)) := by
  refine prefenRow_next _ _ _ _ (exec_stepStamp cmds tables s) hr ?_
  have hm' : mayStamp (prefenStart s) = true := hm
  have hon' : (prefenStart s).prefen.step.on = false := hon
  exact (if_neg (guard_passed hm')).trans (if_pos (guard_stops hon'))

theorem stamp_again_answers (hr : running s = true) (hm : mayStamp s = true) (hon : s.prefen.step.on = true)
    (ha : s.prefen.step.again = true) (hx : s.hearths.any (fun e => e.2.reset) = false) :
    prefenAnswers (.stepStamp cmds tables) s (stampAgain cmds tables (prefenStart s)) := by
  refine prefenRow_next _ _ _ _ (exec_stepStamp cmds tables s) hr ?_
  have hm' : mayStamp (prefenStart s) = true := hm
  have hon' : (prefenStart s).prefen.step.on = true := hon
  have hg : ((prefenStart s).prefen.step.again && !(prefenStart s).hearths.any (fun e => e.2.reset)) = true :=
    Bool.and_eq_true_iff.mpr ⟨ha, guard_stops hx⟩
  exact (if_neg (guard_passed hm')).trans ((if_neg (guard_passed hon')).trans (if_pos hg))

end Stamp

/-! ### The length of a session at the commit -/

/-- The sessions are in canonical form, and the one of a number is filed under it and has a length. -/
def SessionLen (id len : Nat) (l : List (Nat × Session)) : Prop :=
  tabWf (fun _ => blankSession) l = true ∧ (tabGet blankSession l id).id = id ∧ (tabGet blankSession l id).len = len

section SessionLen

variable {s : State} {id len : Nat} {x : Session}

theorem sessionD_eq (s : State) (id : Nat) : sessionD s id = tabGet blankSession s.prefen.sessions id := by
  unfold sessionD session
  induction s.prefen.sessions with
  | nil => rfl
  | cons e l ih =>
    by_cases h : e.1 = id
    · simp [tabGet, h]
    · rw [List.find?_cons_of_neg (p := fun e : Nat × Session => e.1 == id) (by simp [h]), ih, tabGet, if_neg (Ne.symm h)]

/-- A session set under its own number has the length it is given. -/
theorem sessionLen_setSession (hw : tabWf (fun _ => blankSession) s.prefen.sessions = true) (x : Session) :
    SessionLen x.id x.len (setSession x s).prefen.sessions := by
  have hset : tabGet blankSession (setSession x s).prefen.sessions x.id = x := tabGet_tabSet_same x.id x hw
  exact ⟨tabWf_tabSet_const _ _ hw, by rw [hset], by rw [hset]⟩

theorem sessionLen_sealBillet (b : Billet) (h : SessionLen id len s.prefen.sessions) :
    SessionLen id len (sealBillet id b s).prefen.sessions := by
  have hkept := billetCrc_prefen s b.base s.prefen.build.d
  unfold sealBillet
  dsimp only
  generalize billetCrc b.base s.prefen.build.d s = p at hkept ⊢
  obtain ⟨t, crc⟩ := p
  dsimp only at hkept
  cases crc with
  | none =>
    show SessionLen id len t.prefen.sessions
    rwa [hkept]
  | some c =>
    dsimp only
    set u := smithStore (b.base + 16) (leBytes 1 1) (smithStore (b.base + 24) (leBytes 8 c) t) with hu
    have hup : u.prefen.sessions = s.prefen.sessions := by rw [hu, smithStore_prefen, smithStore_prefen, hkept]
    obtain ⟨hw, hid, hlen⟩ := h
    rw [← hup] at hw hid hlen
    rw [← sessionD_eq] at hid hlen
    have := sessionLen_setSession (s := u) hw { sessionD u id with
      billets := (sessionD u id).billets.map (fun y => if y = b then { y with isSealed := true } else y),
      sealedCrc := (sessionD u id).sealedCrc ^^^ contribution b.layer (globalHead u b.head) s.prefen.build.fmt b.index s.prefen.build.d c }
    rwa [show ({ sessionD u id with billets := _, sealedCrc := _ } : Session).id = id from hid,
      show ({ sessionD u id with billets := _, sealedCrc := _ } : Session).len = len from hlen] at this

theorem sessionLen_sealDue (h : SessionLen id len s.prefen.sessions) : SessionLen id len (sealDue id s).prefen.sessions :=
  overList_keeps (p := fun t : State => SessionLen id len t.prefen.sessions) (fun b _ ht => sessionLen_sealBillet b ht) _ h

theorem sessionLen_freeBillets (p : Billet → Bool) (h : SessionLen id len s.prefen.sessions) :
    SessionLen id len (freeBillets id p s).prefen.sessions := by
  refine overList_keeps (p := fun t : State => SessionLen id len t.prefen.sessions) (fun b t ht => ?_) _ ?_
  · rwa [show (freeBillet _ b (unlist _ _ b t)).prefen.sessions = _ from congrArg Serving.sessions (freeBillet_serving _ _ b), unlist_prefen]
  · obtain ⟨hw, hid, hlen⟩ := h
    rw [← sessionD_eq] at hid hlen
    have := sessionLen_setSession hw { sessionD s id with billets := (sessionD s id).billets.filter (fun b => !p b) }
    rwa [show ({ sessionD s id with billets := _ } : Session).id = id from hid,
      show ({ sessionD s id with billets := _ } : Session).len = len from hlen] at this

theorem sessionLen_settleSessions (ends : List (Nat × Nat × Bool)) (he : ∀ e ∈ ends, e.1 = id) (h : SessionLen id len s.prefen.sessions) :
    SessionLen id len (settleSessions ends s).prefen.sessions := by
  unfold settleSessions
  induction ends generalizing s with
  | nil => exact h
  | cons e l ih =>
    refine ih (fun e' he' => he e' (List.mem_cons_of_mem _ he')) ?_
    dsimp only
    rw [he e List.mem_cons_self]
    split
    · exact sessionLen_freeBillets _ (sessionLen_sealDue h)
    · exact sessionLen_sealDue h

end SessionLen

section OneRow

variable {s : State} {row : StepRow} {r : Request}

theorem rowsCommitted_one (hrows : s.prefen.step.rows = [row]) (hreqs : s.prefen.requests = [r]) (hreq : row.req = r.tag) :
    rowsCommitted s = commitRow s.prefen.step.num row s := by
  have hone : rowsInOrder s = [row] := by
    rw [rowsInOrder, hreqs, hrows]
    simp [hreq]
  rw [rowsCommitted, hone]
  rfl

/-- The one row of a step makes its session's length the row's end and the tokens accepted (R297). -/
theorem commitStep_len (hrows : s.prefen.step.rows = [row]) (hreqs : s.prefen.requests = [r]) (hreq : row.req = r.tag)
    (hsess : row.session = r.session) (ht : terminal r = false) (hcs : s.prefen.cancels = []) (hv : row.invalid = false)
    (hid : (sessionD s r.session).id = r.session) (hw : tabWf (fun _ => blankSession) s.prefen.sessions = true) :
    (sessionD (commitStep s) r.session).len = row.len + row.chunk + (rowTokens row r).length := by
  obtain ⟨m, ends, he, hids⟩ := commitStep_settles s
  have hq : request s row.req = some r := by simp [request, hreqs, hreq]
  have hrow : rowsCommitted s = rowReported s.prefen.step.num row r
      (setRequest (rowRequest row r) (setSession (rowSession s.prefen.step.num row r s) s)) :=
    (rowsCommitted_one hrows hreqs hreq).trans (commitRow_advances hq ht (by simp [hcs]) hv)
  have hlen : SessionLen r.session (row.len + row.chunk + (rowTokens row r).length) (rowsCommitted s).prefen.sessions := by
    rw [hrow, rowReported_sessions]
    have := sessionLen_setSession hw (rowSession s.prefen.step.num row r s)
    rwa [show (rowSession s.prefen.step.num row r s).id = r.session from hid] at this
  have hends : ∀ e ∈ ends, e.1 = r.session := by
    intro e hmem
    have := List.mem_map_of_mem (f := fun e : Nat × Nat × Bool => e.1) hmem
    rw [hids, hrows] at this
    simpa [hsess] using this
  have hnone : (rowsCommitted s).prefen.cancels.filter (fun c => c.c == s.prefen.step.num) = [] := by
    rw [rowsCommitted_cancels, hcs]
    rfl
  have hfl (u : State) : (resultFlush u).prefen.sessions = u.prefen.sessions := congrArg Serving.sessions (resultFlush_serving u)
  have hrv (u : State) : (retireVersions u).prefen.sessions = u.prefen.sessions := rfl
  have hsettled : SessionLen r.session (row.len + row.chunk + (rowTokens row r).length)
      (settleSessions ends (tellMembers m (stepClosed s.prefen.step.num (rowsCommitted s)))).prefen.sessions := by
    refine sessionLen_settleSessions ends hends ?_
    rwa [tellMembers_prefen]
  obtain ⟨-, -, hl⟩ := hsettled
  rw [sessionD_eq, he, hnone, resolveCancels, hrv, hfl, hfl, hl]

end OneRow

end Sys2Proof.Proofs

namespace Sys2Proof.Proofs

open Sys2Proof Sys2Proof.Machine Sys2Proof.Laws

/-! ### Retirement -/

/-- What the retirement of a request makes of the state in which its ring has been looked up (R293). -/
def retired (r : Request) (u : State) : State :=
  match r.finalAt with
  | none => u
  | some i =>
    let ahead := diff32 (ringAt u r.ring).cons i
    if !terminal r || ahead = 0 || 2 ^ 31 ≤ ahead then u
    else
      let v := updPrefen (fun p => { p with requests := p.requests.filter (fun x => x.tag != r.tag) }) u
      let x := sessionD v r.session
      let close := r.close || r.lostBillets || x.closeDue
      if (session v r.session).isNone || !close then v
      else if (requestsOf v r.session).any (fun q => !terminal q) then setSession { x with closeDue := true } v
      else closeSession r.session v

section Retire

variable {tag : BitVec 32} {s u : State} {r : Request} {i : Nat}

theorem retire_answers (hr : running s = true) (hq : request s tag.toNat = some r) :
    prefenAnswers (.requestRetire tag) s (retired r (ringLook r.ring (2 ^ 32) (prefenStart s))) := by
  refine prefenRow_next _ _ _ _ (exec_requestRetire tag s) hr ?_
  have hq' : request (prefenStart s) tag.toNat = some r := hq
  simp only [hq', retired]
  cases r.finalAt with
  | none => rfl
  | some i => exact (apply_ite Host.Outcome.next _ _ _).symm

theorem retired_unwritten (h : r.finalAt = none) : retired r u = u := by
  simp only [retired, h]

theorem retired_waits (h : r.finalAt = some i)
    (hw : terminal r = false ∨ diff32 (ringAt u r.ring).cons i = 0 ∨ 2 ^ 31 ≤ diff32 (ringAt u r.ring).cons i) : retired r u = u := by
  simp only [retired, h]
  exact if_pos (by simpa [or_assoc] using hw)

/-- The state without the request that retires. -/
def requestGone (r : Request) (u : State) : State :=
  updPrefen (fun p => { p with requests := p.requests.filter (fun x => x.tag != r.tag) }) u

theorem retired_passed (h : r.finalAt = some i) (ht : terminal r = true) (h0 : 0 < diff32 (ringAt u r.ring).cons i)
    (h31 : diff32 (ringAt u r.ring).cons i < 2 ^ 31) :
    retired r u = if (session (requestGone r u) r.session).isNone ||
        !(r.close || r.lostBillets || (sessionD (requestGone r u) r.session).closeDue) then requestGone r u
      else if (requestsOf (requestGone r u) r.session).any (fun q => !terminal q) then
        setSession { sessionD (requestGone r u) r.session with closeDue := true } (requestGone r u)
      else closeSession r.session (requestGone r u) := by
  have hpass : ¬ ((!terminal r || decide (diff32 (ringAt u r.ring).cons i = 0) || decide (2 ^ 31 ≤ diff32 (ringAt u r.ring).cons i)) = true) := by
    simp only [ht, Bool.not_true, Bool.false_or, Bool.or_eq_true, decide_eq_true_eq]
    omega
  simp only [retired, h]
  exact if_neg hpass

theorem stays_open {close : Bool} {x : Option Session} (h : (x.isSome && close) = false) : (x.isNone || !close) = true := by
  cases x <;> simp_all

theorem is_to_close {close : Bool} {x : Option Session} (h : (x.isSome && close) = true) : ¬ ((x.isNone || !close) = true) := by
  cases x <;> simp_all

end Retire

/-! ### Commits on a member, and cancels of what is gone (O46) -/

theorem memberCommit_answers {s : State} (hr : running s = true) (h1 : stepReady s = true) (h2 : prefenReady s = true)
    (h3 : serialFree s = true) (h4 : isLead s = false) : prefenAnswers .stepCommit s (sendMsg s.group.lead [msgAck, s.prefen.step.num]
      (updPrefen (fun p => { p with step := {}, anchors := [] }) (prefenStart s))) := by
  refine prefenRow_next _ _ _ _ (exec_stepCommit s) hr ?_
  have e1 : stepReady (prefenStart s) = true := h1
  have e2 : prefenReady (prefenStart s) = true := h2
  have e3 : serialFree (prefenStart s) = true := h3
  have e4 : isLead (prefenStart s) = false := h4
  refine (if_neg ?_).trans (if_pos ?_)
  · rw [e1, e2, e3]
    decide
  · rw [e4]
    decide

theorem cancel_unknown {q : BitVec 20} {s : State} (h : CmdReady (.queue q) 0x11 1 s)
    (hr : request (cmdStart (.queue q) s) (natBits (nth (queueWords q s) 1 0) 31 0) = none) :
    prefenAnswers (.cancel q) s (answer (cmdCaller (.queue q) s) 2 stUnknownRequest 0 false (cmdStart (.queue q) s)) := by
  have ha := queue_answers (.cancel q) _ h (by decide) ((exec_cancel q s).trans rfl)
  rwa [hr] at ha

theorem cancelReq_late {c : Caller} {r : Request} {s : State} (ht : terminal r = true) :
    cancelReq c r s = answer c 2 0 0 true (markLate r s) := by
  simp only [cancelReq, ht, if_true]

/-- Settles O46: each row of admission, cancel, stamp, commit and retirement acts as its lemma above says. -/
theorem prefenAdmitsAndCommits : Obligations.PrefenAdmitsAndCommits := by
  unfold Obligations.PrefenAdmitsAndCommits
  intro q s s0 s1 c w
  refine ⟨?admission, ?cancel, ?stamp, ?commit, ?retirement⟩
  case admission =>
    intro hcmd hroom tag b n st pr
    have hb : fetchIn (natBits (nth w 7 0) 63 60) (nth w 6 0) 64 s1 = (b.1, b.2) := (Prod.mk.eta (p := b)).symm
    have hp : fetchIn (natBits (nth w 3 0) 63 60) (nth w 2 0) (4 * n) b.1 = (pr.1, pr.2) := (Prod.mk.eta (p := pr)).symm
    refine ⟨fun hst => ?_, fun hst hnone => ?_, fun l hst hl => ⟨fun hbad => ?_, fun hgood => ?_⟩⟩
    · exact generate_answers hcmd hroom (generate_refused hb hst)
    · exact generate_answers hcmd hroom (generate_unread hb hst (hnone ▸ hp))
    · exact generate_answers hcmd hroom ((generate_prompt hb hst (hl ▸ hp)).trans (if_pos hbad))
    · exact generate_answers hcmd hroom ((generate_prompt hb hst (hl ▸ hp)).trans (if_neg (by simp [hgood])))
  case cancel =>
    intro hcmd tg
    refine ⟨fun hnone => cancel_unknown hcmd hnone, fun r hr ht => ?_⟩
    have ha := cancel_acts hcmd hr
    rwa [cancelReq_late ht] at ha
  case stamp =>
    intro cmds tables hr hm
    refine ⟨fun hon => ?_, fun hon hagain hx => stamp_again_answers hr hm hon hagain hx⟩
    intro x num st
    have hx : selectRows s0 = (x.1, x.2) := (Prod.mk.eta (p := x)).symm
    have ha := stamp_new_answers (cmds := cmds) (tables := tables) hr hm hon
    refine ⟨fun hnone => ?_, fun hsome => ?_⟩
    · rwa [stampNew_idle (hnone ▸ hx)] at ha
    · rwa [stampNew_works hx hsome] at ha
  case commit =>
    intro hr h1 h2 h3
    refine ⟨fun h4 h5 h6 h7 => ?_, fun h4 => memberCommit_answers hr h1 h2 h3 h4⟩
    refine ⟨stepCommit_answers hr h1 h2 h3 h4 h5 h6 h7, commitStep_step s0, fun d hd => ?_, ?_⟩
    · rw [commitStep_cancels, List.mem_filter] at hd
      exact bne_iff_ne.mp hd.2
    · intro row r hrows hreqs hreq hsess ht hcs hv hid hw
      rw [commitStep_len (s := s0) hrows hreqs hreq hsess ht hcs hv hid hw, rowTokens]
      cases row.samples <;> rfl
  case retirement =>
    intro tag r hr hq u
    have ha := retire_answers hr hq
    refine ⟨fun hnone => ?_, fun i hi => ⟨fun hw => ?_, fun ht h0 h31 => ?_⟩⟩
    · rwa [retired_unwritten hnone] at ha
    · rwa [retired_waits hi hw] at ha
    · rw [retired_passed hi ht h0 h31] at ha
      intro v x closes others
      refine ⟨fun hc => ?_, fun hc ho => ?_, fun hc ho => ?_⟩
      · rwa [show requestGone r u = v from rfl, if_pos (stays_open hc)] at ha
      · rwa [show requestGone r u = v from rfl, if_neg (is_to_close hc), if_pos ho] at ha
      · rwa [show requestGone r u = v from rfl, if_neg (is_to_close hc), if_neg (ne_true_of_eq_false ho)] at ha

end Sys2Proof.Proofs

namespace Sys2Proof.Proofs

open Sys2Proof Sys2Proof.Machine Sys2Proof.Laws

/-! ### Sessions closed and requests failed -/

section Closing

variable {s t : State}

theorem terminal_bareRequest (r : Request) : terminal (bareRequest r) = terminal r := rfl

theorem filter_of_session_none {id : Nat} (h : session s id = none) :
    s.prefen.sessions.filter (fun e => e.1 != id) = s.prefen.sessions := by
  rw [session, Option.map_eq_none_iff, List.find?_eq_none] at h
  exact List.filter_eq_self.mpr (fun e he => by simpa using h e he)

/-- A closed session's entry is gone; the rest of the serving state stays (R286). -/
theorem closeSession_serving (id : Nat) (s : State) : servingOf (closeSession id s).prefen =
    { servingOf s.prefen with sessions := s.prefen.sessions.filter (fun e => e.1 != id) } := by
  unfold closeSession
  split
  next h =>
    rw [filter_of_session_none h]
    rfl
  next x h =>
    refine overList_keeps (p := fun t : State => servingOf t.prefen = _) (fun b t ht => (freeBillet_serving t _ b).trans ht) _ ?_
    show servingOf (dropSession id (setSlotState x.slot 0 s)).prefen = _
    rw [dropSession, updPrefen_prefen, setSlotState, smithStore_prefen]
    rfl

theorem closeSession_besideSessions (id : Nat) (s : State) : besideSessions (closeSession id s).prefen = besideSessions s.prefen := by
  simp only [besideSessions, closeSession_serving]

theorem closeSession_sessions (id : Nat) (s : State) :
    (closeSession id s).prefen.sessions = s.prefen.sessions.filter (fun e => e.1 != id) :=
  congrArg Serving.sessions (closeSession_serving id s)

theorem closeAll_besideSessions (s : State) : besideSessions (closeAll s).prefen = besideSessions s.prefen :=
  overList_keeps (p := fun t : State => besideSessions t.prefen = besideSessions s.prefen)
    (fun id t ht => (closeSession_besideSessions id t).trans ht) _ rfl

theorem closeSessions_sessions (ids : List Nat) (s : State) :
    (overList closeSession ids s).prefen.sessions = s.prefen.sessions.filter (fun e => !ids.contains e.1) := by
  induction ids generalizing s with
  | nil => exact (List.filter_eq_self.mpr (fun _ _ => rfl)).symm
  | cons id ids ih =>
    refine (ih (closeSession id s)).trans ?_
    rw [closeSession_sessions, List.filter_filter]
    exact List.filter_congr (fun e _ => by by_cases h : e.1 = id <;> simp [h])

theorem closeAll_sessions (s : State) : (closeAll s).prefen.sessions = [] := by
  refine (closeSessions_sessions _ s).trans (List.filter_eq_nil_iff.mpr (fun e he => ?_))
  simpa using ⟨e.2, he⟩

/-- Every request has ended. -/
def AllEnded (s : State) : Prop := ∀ r ∈ s.prefen.requests, terminal r = true

theorem allEnded_of_besideSessions (h : besideSessions t.prefen = besideSessions s.prefen) (hs : AllEnded s) : AllEnded t := by
  intro r hr
  have hmap : t.prefen.requests.map bareRequest = s.prefen.requests.map bareRequest := congrArg Serving.requests h
  obtain ⟨x, hx, hbare⟩ := List.mem_map.mp (hmap ▸ List.mem_map_of_mem hr)
  rw [← terminal_bareRequest, ← hbare, terminal_bareRequest]
  exact hs x hx

theorem failRequest_requests (st : Nat) (r : Request) (s : State) : terminal r = false →
    (failRequest st r s).prefen.requests = s.prefen.requests.map (fun x => if x.tag = r.tag then
      { r with state := 0xA, outcome := 5, status := st, endStep := s.prefen.lastStep } else x) := by
  intro ht
  rw [failRequest, if_neg (by simp [ht])]
  rfl

/-- After the requests of a list have been failed, one that still runs is not of the list. -/
theorem failRequests_ended (st : Nat) (l : List Request) (s : State)
    (h : ∀ x ∈ s.prefen.requests, terminal x = true ∨ x ∈ l) : AllEnded (overList (failRequest st) l s) := by
  induction l generalizing s with
  | nil => exact fun x hx => (h x hx).resolve_right List.not_mem_nil
  | cons r l ih =>
    refine ih (failRequest st r s) (fun x hx => ?_)
    cases ht : terminal r with
    | true =>
      rw [failRequest, if_pos ht] at hx
      rcases h x hx with hxt | hxl
      · exact Or.inl hxt
      · rcases List.mem_cons.mp hxl with rfl | hxl
        · exact Or.inl ht
        · exact Or.inr hxl
    | false =>
      rw [failRequest_requests st r s ht] at hx
      obtain ⟨y, hy, rfl⟩ := List.mem_map.mp hx
      split
      · exact Or.inl rfl
      next hne =>
        refine (h y hy).imp id (fun hyl => ?_)
        rcases List.mem_cons.mp hyl with rfl | hyl
        · exact absurd rfl hne
        · exact hyl

theorem failRequests_allEnded (st : Nat) (s : State) : AllEnded (failRequests st s) :=
  allEnded_of_besideSessions (besideSessions_of_serving (resultFlush_serving _))
    (failRequests_ended st s.prefen.requests s (fun _ hx => Or.inr hx))

end Closing

/-! ### How a group ends -/

/-- The lead's hold ends without the partner: no hold, no step, no session, and every request ended (R444). -/
theorem failGroup_ends (s : State) : (failGroup s).prefen.holdSince = none ∧ (failGroup s).prefen.step = {} ∧
    (failGroup s).prefen.sessions = [] ∧ AllEnded (failGroup s) := by
  set ids := s.prefen.sessions.map (·.1)
  set u := overList (fun id s => tellMembers [msgForward, 0x15, id] s) ids
    (overList (fun _ s => faultRecord { code := 0x291, hearth := prefenHearth s, src := 0x12 } s) ids (failRequests 0x260 s))
  have hu : servingOf u.prefen = servingOf (failRequests 0x260 s).prefen :=
    overList_keeps (p := fun t : State => servingOf t.prefen = _) (fun id t ht => (tellMembers_serving t _).trans ht) _
      (overList_keeps (p := fun t : State => servingOf t.prefen = _) (fun _ t ht => (faultRecord_serving t _).trans ht) _ rfl)
  have hclosed := closeAll_besideSessions (dropStep u)
  have hended : AllEnded u := allEnded_of_besideSessions (besideSessions_of_serving hu) (failRequests_allEnded 0x260 s)
  refine ⟨rfl, congrArg Serving.step hclosed, closeAll_sessions (dropStep u), ?_⟩
  have hall : AllEnded (closeAll (dropStep u)) := allEnded_of_besideSessions hclosed hended
  exact hall

/-- A member that leaves its group: no hold, no step, no session, every request ended, and a group of one (R379, R445). -/
theorem leaveGroup_ends (s : State) : (leaveGroup s).prefen.holdSince = none ∧ (leaveGroup s).prefen.step = {} ∧
    (leaveGroup s).prefen.sessions = [] ∧ AllEnded (leaveGroup s) := by
  set u := failRequests 0x260 (dropStep s)
  have hstep : u.prefen.step = {} := by
    refine (congrArg Serving.step (resultFlush_serving _)).trans ?_
    refine overList_keeps (p := fun t : State => t.prefen.step = {}) (fun r t ht => ?_) _ rfl
    rw [failRequest]
    split
    · exact ht
    · exact ht
  have hclosed := closeAll_besideSessions u
  refine ⟨rfl, (congrArg Serving.step hclosed).trans hstep, closeAll_sessions u, ?_⟩
  have hall : AllEnded (closeAll u) := allEnded_of_besideSessions hclosed (failRequests_allEnded 0x260 (dropStep s))
  exact hall

end Sys2Proof.Proofs

namespace Sys2Proof.Proofs

open Sys2Proof Sys2Proof.Machine Sys2Proof.Laws

/-! ### Rows of the group commands -/

theorem exec_groupForm (m : Fin 16) (s : State) : exec (.groupForm m) s = execGroupForm m s := rfl
theorem exec_groupDissolve (m : Fin 16) (s : State) : exec (.groupDissolve m) s = execGroupDissolve m s := rfl
theorem exec_groupPrepare (pid : Fin 255) (members : List Nat) (s : State) :
    exec (.groupPrepare pid members) s = execGroupPrepare pid members s := rfl
theorem exec_groupCommit (pid : Fin 255) (ggen : Nat) (s : State) : exec (.groupCommit pid ggen) s = execGroupCommit pid ggen s := rfl
theorem exec_groupAbandon (pid : Fin 255) (s : State) : exec (.groupAbandon pid) s = execGroupAbandon pid s := rfl
theorem exec_groupLeave (pid : Fin 255) (s : State) : exec (.groupLeave pid) s = execGroupLeave pid s := rfl
theorem exec_partnerLossHoldExpiry (s : State) : exec .partnerLossHoldExpiry s = execPartnerLossHoldExpiry s := rfl
theorem exec_leadLossExpiry (s : State) : exec .leadLossExpiry s = execLeadLossExpiry s := rfl

/-- A MSG in its turn answers with what its row makes of the state in which it has been taken. -/
theorem msg_answers {pid : Nat} {s t : State} {i : Instr} {act : State → State} (h : MsgReady pid s)
    (hi : exec i s = prefenRow s (msgIn pid act)) (ht : act (msgBegun pid (prefenStart s)) = t) :
    prefenAnswers i s (msgEnded pid t) := by
  obtain ⟨hr, hp, ha⟩ := h
  have hready : MsgReady pid (prefenStart s) := ⟨hr, hp, ha⟩
  exact prefenRow_next i s _ _ hi hr ((msgIn_ready hready act).trans (congrArg (fun t => Host.Outcome.next (msgEnded pid t)) ht))

section Form

variable {m : Fin 16} {s t : State} {w : List Nat}

/-- What GROUP_FORM does with its payload once it has been taken (R363, R377). -/
def groupForm (m : Nat) (w : List Nat) (s : State) : State :=
  let n := natBits (nth w 0 0) 7 0
  if n < 2 || 64 < n then refuse (.mailbox m) stBadParam s
  else if inGroup s || s.group.phase != 0 || s.group.gen % 2 == 1 then refuse (.mailbox m) stGroupBusy s
  else if s.prefen.build.state != 0 || s.prefen.loading || !s.prefen.sessions.isEmpty then refuse (.mailbox m) stModelInUse s
  else
    let u := acceptOp (.mailbox m) 0x70 w [] s
    let st := formStatus u (formIds w n) (formRest w n)
    if st != 0 then
      match opByTag u (lastOpTag u) with
      | some o => endOp o st 0 false u
      | none => u
    else startGroup true (formIds w n) (selfId u :: formIds w n) u

/-- What GROUP_DISSOLVE does once it has been taken (R363, R379, R444). -/
def groupDissolve (m : Nat) (w : List Nat) (s : State) : State :=
  if !inGroup s then refuse (.mailbox m) stNotLead s
  else if s.group.phase != 0 then refuse (.mailbox m) stGroupBusy s
  else if s.prefen.holdSince.isNone && !s.prefen.sessions.isEmpty then refuse (.mailbox m) stModelInUse s
  else
    let u := acceptOp (.mailbox m) 0x71 w [] (if s.prefen.holdSince.isSome then failGroup s else s)
    let want := (otherMembers u).filter (fun pid => ptState u pid == 1)
    if want.isEmpty then groupFinish (updGroup (fun g => { g with opTag := lastOpTag u, forming := false }) u)
    else startGroup false want [] u

theorem form_answers (ht : groupForm m.val (cmdWords (.mailbox m) s) (cmdStart (.mailbox m) s) = t)
    (h : CmdReady (.mailbox m) 0x70 1 s) : prefenAnswers (.groupForm m) s t :=
  mb_answers_eq (act := groupForm m.val) (exec_groupForm m s) ht h

theorem dissolve_answers (ht : groupDissolve m.val (cmdWords (.mailbox m) s) (cmdStart (.mailbox m) s) = t)
    (h : CmdReady (.mailbox m) 0x71 1 s) : prefenAnswers (.groupDissolve m) s t :=
  mb_answers_eq (act := groupDissolve m.val) (exec_groupDissolve m s) ht h

theorem groupForm_badSize (h : natBits (nth w 0 0) 7 0 < 2 ∨ 64 < natBits (nth w 0 0) 7 0) (m : Nat) (s : State) :
    groupForm m w s = refuse (.mailbox m) stBadParam s := if_pos (by simpa using h)

theorem sizePasses {n : Nat} (h2 : 2 ≤ n) (h64 : n ≤ 64) : ¬ ((decide (n < 2) || decide (64 < n)) = true) := by
  simp only [Bool.or_eq_true, decide_eq_true_eq]
  omega

theorem groupForm_busy (h2 : 2 ≤ natBits (nth w 0 0) 7 0) (h64 : natBits (nth w 0 0) 7 0 ≤ 64)
    (hb : (inGroup s || s.group.phase != 0 || s.group.gen % 2 == 1) = true) (m : Nat) :
    groupForm m w s = refuse (.mailbox m) stGroupBusy s := (if_neg (sizePasses h2 h64)).trans (if_pos hb)

theorem groupForm_used (h2 : 2 ≤ natBits (nth w 0 0) 7 0) (h64 : natBits (nth w 0 0) 7 0 ≤ 64)
    (hb : (inGroup s || s.group.phase != 0 || s.group.gen % 2 == 1) = false)
    (hu : (s.prefen.build.state != 0 || s.prefen.loading || !s.prefen.sessions.isEmpty) = true) (m : Nat) :
    groupForm m w s = refuse (.mailbox m) stModelInUse s :=
  (if_neg (sizePasses h2 h64)).trans ((if_neg (ne_true_of_eq_false hb)).trans (if_pos hu))

theorem groupForm_starts {m : Nat} (h2 : 2 ≤ natBits (nth w 0 0) 7 0) (h64 : natBits (nth w 0 0) 7 0 ≤ 64)
    (hb : (inGroup s || s.group.phase != 0 || s.group.gen % 2 == 1) = false)
    (hu : (s.prefen.build.state != 0 || s.prefen.loading || !s.prefen.sessions.isEmpty) = false)
    (hst : formStatus (acceptOp (.mailbox m) 0x70 w [] s) (formIds w (natBits (nth w 0 0) 7 0)) (formRest w (natBits (nth w 0 0) 7 0)) = 0) :
    groupForm m w s = startGroup true (formIds w (natBits (nth w 0 0) 7 0))
      (selfId (acceptOp (.mailbox m) 0x70 w [] s) :: formIds w (natBits (nth w 0 0) 7 0)) (acceptOp (.mailbox m) 0x70 w [] s) :=
  (if_neg (sizePasses h2 h64)).trans ((if_neg (ne_true_of_eq_false hb)).trans
    ((if_neg (ne_true_of_eq_false hu)).trans (if_neg (bne_passed hst))))

theorem groupForm_fails {m : Nat} {o : AsyncOp} (h2 : 2 ≤ natBits (nth w 0 0) 7 0) (h64 : natBits (nth w 0 0) 7 0 ≤ 64)
    (hb : (inGroup s || s.group.phase != 0 || s.group.gen % 2 == 1) = false)
    (hu : (s.prefen.build.state != 0 || s.prefen.loading || !s.prefen.sessions.isEmpty) = false)
    (hst : formStatus (acceptOp (.mailbox m) 0x70 w [] s) (formIds w (natBits (nth w 0 0) 7 0)) (formRest w (natBits (nth w 0 0) 7 0)) ≠ 0)
    (ho : opByTag (acceptOp (.mailbox m) 0x70 w [] s) (lastOpTag (acceptOp (.mailbox m) 0x70 w [] s)) = some o) :
    groupForm m w s = endOp o (formStatus (acceptOp (.mailbox m) 0x70 w [] s) (formIds w (natBits (nth w 0 0) 7 0))
      (formRest w (natBits (nth w 0 0) 7 0))) 0 false (acceptOp (.mailbox m) 0x70 w [] s) := by
  unfold groupForm
  refine (if_neg (sizePasses h2 h64)).trans ((if_neg (ne_true_of_eq_false hb)).trans
    ((if_neg (ne_true_of_eq_false hu)).trans ((if_pos (bne_iff_ne.mpr hst)).trans ?_)))
  rw [ho]

theorem dissolve_open (hg : inGroup s = true) (hp : s.group.phase = 0) (hh : s.prefen.holdSince.isSome = true ∨ s.prefen.sessions = []) :
    groupDissolve m.val w s =
      (let u := acceptOp (.mailbox m.val) 0x71 w [] (if s.prefen.holdSince.isSome then failGroup s else s)
       let want := (otherMembers u).filter (fun pid => ptState u pid == 1)
       if want.isEmpty then groupFinish (updGroup (fun g => { g with opTag := lastOpTag u, forming := false }) u)
       else startGroup false want [] u) := by
  refine (if_neg (guard_passed hg)).trans ((if_neg (bne_passed hp)).trans (if_neg ?_))
  rcases hh with hh | hh
  · cases h : s.prefen.holdSince <;> simp_all
  · simp [hh]

end Form

/-! ### Messages of the group -/

section Messages

variable {pid : Fin 255} {s b t : State} {members : List Nat}

/-- What a PREPARE does on a member (R377 step 2). -/
def groupPrepare (pid : Nat) (members : List Nat) (s : State) : State :=
  let no (s : State) : State := sendMsg pid [msgAck, msgGroup, stGroupBusy] s
  if s.group.gen % 2 == 1 || s.group.phase != 0 then no s
  else if members.isEmpty then
    (if inGroup s && s.group.lead == pid && !isLead s then sendMsg pid [msgAck, msgGroup, 0] (writeEntries [] 0 0xFF 0 s) else no s)
  else
    match (List.range members.length).find? (fun k => nth members k 0xFF == selfId s) with
    | none => no s
    | some k =>
      if inGroup s || s.prefen.build.state != 0 || !s.prefen.sessions.isEmpty then no s
      else if (members.filter (fun p => p != selfId s)).any (fun p => ptState s p != 1) then
        sendMsg pid [msgAck, msgGroup, stPartnerAbsent] s
      else sendMsg pid [msgAck, msgGroup, 0] (writeEntries members k pid 0 s)

theorem prepare_answers (h : MsgReady pid.val s) (ht : groupPrepare pid.val members (msgBegun pid.val (prefenStart s)) = t) :
    prefenAnswers (.groupPrepare pid members) s (msgEnded pid.val t) :=
  msg_answers (act := groupPrepare pid.val members) h (exec_groupPrepare pid members s) ht

theorem groupPrepare_busy {pid : Nat} (h : s.group.gen % 2 = 1 ∨ s.group.phase ≠ 0) :
    groupPrepare pid members s = sendMsg pid [msgAck, msgGroup, stGroupBusy] s := if_pos (by simpa using h)

theorem evenAndIdle (he : s.group.gen % 2 = 0) (hp : s.group.phase = 0) : ¬ ((s.group.gen % 2 == 1 || s.group.phase != 0) = true) := by
  simp [he, hp]

theorem groupPrepare_dissolves {pid : Nat} (he : s.group.gen % 2 = 0) (hp : s.group.phase = 0) :
    groupPrepare pid [] s = if inGroup s && s.group.lead == pid && !isLead s then
      sendMsg pid [msgAck, msgGroup, 0] (writeEntries [] 0 0xFF 0 s) else sendMsg pid [msgAck, msgGroup, stGroupBusy] s :=
  (if_neg (evenAndIdle he hp)).trans (if_pos rfl)

theorem groupPrepare_forms {pid : Nat} (he : s.group.gen % 2 = 0) (hp : s.group.phase = 0) (hm : members ≠ []) :
    groupPrepare pid members s = match (List.range members.length).find? (fun k => nth members k 0xFF == selfId s) with
      | none => sendMsg pid [msgAck, msgGroup, stGroupBusy] s
      | some k =>
        if inGroup s || s.prefen.build.state != 0 || !s.prefen.sessions.isEmpty then sendMsg pid [msgAck, msgGroup, stGroupBusy] s
        else if (members.filter (fun p => p != selfId s)).any (fun p => ptState s p != 1) then
          sendMsg pid [msgAck, msgGroup, stPartnerAbsent] s
        else sendMsg pid [msgAck, msgGroup, 0] (writeEntries members k pid 0 s) :=
  (if_neg (evenAndIdle he hp)).trans (if_neg (by simpa using hm))

end Messages

end Sys2Proof.Proofs

namespace Sys2Proof.Proofs

open Sys2Proof Sys2Proof.Machine Sys2Proof.Laws

/-! ### Groups form and dissolve (O52) -/

section LeadRows

variable (m : Fin 16) (s : State)

theorem groupForm_rows :
    let c : Caller := .mailbox m.val
    let s1 := cmdStart (.mailbox m) s
    let w := cmdWords (.mailbox m) s
    let n := natBits (nth w 0 0) 7 0
    let busy := inGroup s1 || s1.group.phase != 0 || s1.group.gen % 2 == 1
    let used := s1.prefen.build.state != 0 || s1.prefen.loading || !s1.prefen.sessions.isEmpty
    let forms (t : State) : Prop := CmdReady (.mailbox m) 0x70 1 s → prefenAnswers (.groupForm m) s t
    (n < 2 ∨ 64 < n → forms (refuse c stBadParam s1)) ∧
    (2 ≤ n → n ≤ 64 → busy = true → forms (refuse c stGroupBusy s1)) ∧
    (2 ≤ n → n ≤ 64 → busy = false → used = true → forms (refuse c stModelInUse s1)) ∧
    (2 ≤ n → n ≤ 64 → busy = false → used = false →
      let u := acceptOp c 0x70 w [] s1
      let st := formStatus u (formIds w n) (formRest w n)
      (st = 0 → forms (startGroup true (formIds w n) (selfId u :: formIds w n) u)) ∧
      (∀ o, st ≠ 0 → opByTag u (lastOpTag u) = some o → forms (endOp o st 0 false u))) := by
  intro c s1 w n busy used forms
  refine ⟨fun h => form_answers (groupForm_badSize h _ _), fun h2 h64 hb => form_answers (groupForm_busy h2 h64 hb _),
    fun h2 h64 hb hu => form_answers (groupForm_used h2 h64 hb hu _), fun h2 h64 hb hu => ⟨fun hst => ?_, fun o hst ho => ?_⟩⟩
  · exact form_answers (groupForm_starts h2 h64 hb hu hst)
  · exact form_answers (groupForm_fails h2 h64 hb hu hst ho)

theorem groupDissolve_rows :
    let c : Caller := .mailbox m.val
    let s1 := cmdStart (.mailbox m) s
    let w := cmdWords (.mailbox m) s
    let dissolves (t : State) : Prop := CmdReady (.mailbox m) 0x71 1 s → prefenAnswers (.groupDissolve m) s t
    (inGroup s1 = false → dissolves (refuse c stNotLead s1)) ∧
    (inGroup s1 = true → s1.group.phase ≠ 0 → dissolves (refuse c stGroupBusy s1)) ∧
    (inGroup s1 = true → s1.group.phase = 0 → s1.prefen.holdSince = none → s1.prefen.sessions ≠ [] → dissolves (refuse c stModelInUse s1)) ∧
    (inGroup s1 = true → s1.group.phase = 0 → s1.prefen.holdSince.isSome = true ∨ s1.prefen.sessions = [] →
      let u := acceptOp c 0x71 w [] (if s1.prefen.holdSince.isSome then failGroup s1 else s1)
      let want := (otherMembers u).filter (fun pid => ptState u pid == 1)
      (want = [] → dissolves (groupFinish (updGroup (fun g => { g with opTag := lastOpTag u, forming := false }) u))) ∧
      (want ≠ [] → dissolves (startGroup false want [] u))) := by
  intro c s1 w dissolves
  refine ⟨fun hg => dissolve_answers (if_pos (guard_stops hg)),
    fun hg hp => dissolve_answers ((if_neg (guard_passed hg)).trans (if_pos (bne_iff_ne.mpr hp))), fun hg hp hh hs => ?_, fun hg hp hh => ?_⟩
  · have hused : (s1.prefen.holdSince.isNone && !s1.prefen.sessions.isEmpty) = true := by simp [hh, hs]
    exact dissolve_answers ((if_neg (guard_passed hg)).trans ((if_neg (bne_passed hp)).trans (if_pos hused)))
  · intro u want
    have hopen := dissolve_open (m := m) (w := w) hg hp hh
    refine ⟨fun hw => dissolve_answers (hopen.trans (if_pos ?_)), fun hw => dissolve_answers (hopen.trans (if_neg ?_))⟩
    · exact List.isEmpty_iff.mpr hw
    · exact fun he => hw (List.isEmpty_iff.mp he)

end LeadRows

section MemberRows

variable {pid : Fin 255} {s : State}

theorem commit_answers {ggen : Nat} {t : State} (h : MsgReady pid.val s)
    (ht : (if (msgBegun pid.val (prefenStart s)).group.gen % 2 == 0 then msgBegun pid.val (prefenStart s)
      else
        let u := updGroup (fun g => { g with ggen := if 2 ≤ g.modules then ggen else 0 }) (settleEntries (msgBegun pid.val (prefenStart s)))
        sendMsg pid.val [msgAck, msgGroup, 0] (if inGroup u then u else closeAll (failRequests 0x260 u))) = t) :
    prefenAnswers (.groupCommit pid ggen) s (msgEnded pid.val t) :=
  msg_answers h (exec_groupCommit pid ggen s) ht

theorem prepare_rows (h : MsgReady pid.val s) (members : List Nat) (hm : members ≠ []) :
    let b := msgBegun pid.val (prefenStart s)
    b.group.gen % 2 = 0 → b.group.phase = 0 →
    let takes (i : Instr) (t : State) : Prop := prefenAnswers i s (msgEnded pid.val t)
    let no (st : Nat) : State := sendMsg pid.val [msgAck, msgGroup, st] b
    let self := (List.range members.length).find? (fun k => nth members k 0xFF == selfId b)
    let used := inGroup b || b.prefen.build.state != 0 || !b.prefen.sessions.isEmpty
    let absent := (members.filter (fun p => p != selfId b)).any (fun p => ptState b p != 1)
    (self = none ∨ used = true → takes (.groupPrepare pid members) (no stGroupBusy)) ∧
    (self ≠ none → used = false → absent = true → takes (.groupPrepare pid members) (no stPartnerAbsent)) ∧
    (∀ k, self = some k → used = false → absent = false → takes (.groupPrepare pid members)
      (sendMsg pid.val [msgAck, msgGroup, 0] (writeEntries members k pid.val 0 b))) := by
  intro b he hp takes no self used absent
  have hforms := groupPrepare_forms (pid := pid.val) he hp hm
  refine ⟨fun hno => ?_, fun hself hu ha => ?_, fun k hk hu ha => ?_⟩
  · refine prepare_answers h (hforms.trans ?_)
    cases hs : self with
    | none => rw [show (List.range members.length).find? (fun k => nth members k 0xFF == selfId b) = none from hs]
    | some k =>
      rw [show (List.range members.length).find? (fun k => nth members k 0xFF == selfId b) = some k from hs]
      exact if_pos (hno.resolve_left (by simp [hs]))
  · obtain ⟨k, hk⟩ := Option.ne_none_iff_exists'.mp hself
    refine prepare_answers h (hforms.trans ?_)
    rw [show (List.range members.length).find? (fun k => nth members k 0xFF == selfId b) = some k from hk]
    exact (if_neg (ne_true_of_eq_false hu)).trans (if_pos ha)
  · refine prepare_answers h (hforms.trans ?_)
    rw [show (List.range members.length).find? (fun k => nth members k 0xFF == selfId b) = some k from hk]
    exact (if_neg (ne_true_of_eq_false hu)).trans (if_neg (ne_true_of_eq_false ha))

theorem abandon_answers (h : MsgReady pid.val s) :
    let b := msgBegun pid.val (prefenStart s)
    prefenAnswers (.groupAbandon pid) s (msgEnded pid.val (if !b.group.prepared then b else if b.group.gen % 2 = 1 then restoreEntries b
      else restoreEntries (updGroup (fun g => { g with gen := g.gen + 1 }) b))) :=
  msg_answers h (exec_groupAbandon pid s) (if_congr Iff.rfl rfl (if_congr beq_iff_eq rfl rfl))

theorem leave_answers (h : MsgReady pid.val s) :
    let b := msgBegun pid.val (prefenStart s)
    prefenAnswers (.groupLeave pid) s
      (msgEnded pid.val (if inGroup b && !isLead b && b.group.lead == pid.val then leaveGroup b else b)) :=
  msg_answers h (exec_groupLeave pid s) rfl

end MemberRows

section GroupEnds

variable {s : State}

theorem holdExpiry_answers (hr : running s = true) (hg : inGroup s = true) (hl : isLead s = true)
    (hh : s.prefen.holdSince.isSome = true) : prefenAnswers .partnerLossHoldExpiry s (failGroup (prefenStart s)) := by
  refine prefenRow_next _ _ _ _ (exec_partnerLossHoldExpiry s) hr (if_neg ?_)
  have hg' : inGroup (prefenStart s) = true := hg
  have hl' : isLead (prefenStart s) = true := hl
  have hh' : (prefenStart s).prefen.holdSince.isNone = false := by
    rw [Option.isNone_eq_false_iff]
    exact hh
  rw [hg', hl', hh']
  decide

theorem leadLoss_answers (hr : running s = true) (hg : inGroup s = true) (hl : s.group.leadLost = true) :
    prefenAnswers .leadLossExpiry s (leaveGroup (prefenStart s)) := by
  refine prefenRow_next _ _ _ _ (exec_leadLossExpiry s) hr (if_neg ?_)
  have hg' : inGroup (prefenStart s) = true := hg
  have hl' : (prefenStart s).group.leadLost = true := hl
  rw [hg', hl']
  decide

end GroupEnds

/-- Settles O52: the rows of the lead and of a member, and that a group which ends leaves no step, no session and no running request. -/
theorem groupsFormAndDissolve : Obligations.GroupsFormAndDissolve := by
  unfold Obligations.GroupsFormAndDissolve
  intro s s0
  refine ⟨?lead, ?member, ?ends⟩
  case lead =>
    intro m c s1 w n busy used forms dissolves
    obtain ⟨f1, f2, f3, f4⟩ := groupForm_rows m s
    obtain ⟨d1, d2, d3, d4⟩ := groupDissolve_rows m s
    exact ⟨f1, f2, f3, f4, d1, d2, d3, d4⟩
  case member =>
    intro pid h b takes no
    refine ⟨fun members hb => prepare_answers h (groupPrepare_busy hb), fun he hp => ⟨?_, fun members hm => ?_⟩, fun ggen => ?_, ?_, ?_⟩
    · exact prepare_answers h (groupPrepare_dissolves he hp)
    · exact prepare_rows h members hm he hp
    · intro u
      refine ⟨fun he => commit_answers h (if_pos (beq_iff_eq.mpr he)), fun ho => commit_answers h (if_neg ?_)⟩
      rw [beq_iff_eq, show (msgBegun pid.val (prefenStart s)).group.gen % 2 = 1 from ho]
      decide
    · exact abandon_answers h
    · exact leave_answers h
  case ends =>
    intro hr hg ended
    exact ⟨fun hl hh => ⟨holdExpiry_answers hr hg hl hh, failGroup_ends s0⟩,
      fun hl => ⟨leadLoss_answers hr hg hl, leaveGroup_ends s0, rfl⟩⟩

end Sys2Proof.Proofs

namespace Sys2Proof.Proofs

open Sys2Proof Sys2Proof.Machine Sys2Proof.Laws

/-! ### A module reset of a module whose stage was never written (O53) -/

/-- The module as it boots, with its hearths released and a MODULE_RESET waiting: SMC_FW_STAT was never written and has no entry in
the register file. -/
def resetWaits : State := { State.reset with up := true, board := { State.reset.board with boot := 2, waiting := [3] } }

/-- A module reset maps the registers that were written, so a status register never written keeps its reset value, stage 0. -/
theorem fwStage_resetWaits : fwStage (serveWaiting resetWaits) = 0 := by decide

/-- Refutes O53: the module reset of `resetWaits` leaves stage 0 (R350) in SMC_FW_STAT, where the statement says stage 4, because
`mapRegs` passes over a register that reads its reset value. -/
theorem not_maintenanceCommands : ¬ Obligations.MaintenanceCommands := by
  unfold Obligations.MaintenanceCommands
  intro h
  obtain ⟨-, -, -, -, -, hreset, -⟩ := h 0 resetWaits (by decide)
  obtain ⟨-, hbegun⟩ := hreset (by decide)
  obtain ⟨-, hstage, -⟩ := hbegun rfl (by decide) rfl (by decide) (by decide)
  exact absurd (fwStage_resetWaits.symm.trans hstage) (by decide)

end Sys2Proof.Proofs

namespace Sys2Proof.Proofs

open Sys2Proof Sys2Proof.Machine Sys2Proof.Laws

/-! ### Frames that a port receives -/

section Received

variable {p : Fin 12} {f : Frame} {s : State}

theorem received_foreign (hr : running s = true) (hu : portUp s p.val = true) (hf : frameForUs s f = false) (act : State → State) :
    received p.val f act s = .next (satRf (portReg p.val 0x20) 15 0 1 s) := by
  rw [received, live_of_running hr, if_neg (guard_passed hu), if_pos (guard_stops hf)]
  rfl

theorem received_ours (hr : running s = true) (hu : portUp s p.val = true) (hf : frameForUs s f = true) (act : State → State) :
    received p.val f act s = .next (act (bumpRf (portReg p.val 0x18) 63 0 1 s)) := by
  rw [received, live_of_running hr, if_neg (guard_passed hu), if_neg (guard_passed hf)]
  rfl

/-- The sequenced frames, each with its type code (R373). -/
def sequencedRows (p : Fin 12) (f : Frame) : List (Instr × Nat) := [(.write p f, 8), (.readReq p f, 9), (.readRsp p f, 0xA), (.flag p f, 0xB)]

theorem exec_sequenced {i : Instr} {k : Nat} (h : (i, k) ∈ sequencedRows p f) : exec i s = sequenced p.val k f s := by
  simp only [sequencedRows, List.mem_cons, List.not_mem_nil, or_false, Prod.mk.injEq] at h
  rcases h with ⟨rfl, rfl⟩ | ⟨rfl, rfl⟩ | ⟨rfl, rfl⟩ | ⟨rfl, rfl⟩ <;> rfl

end Received

/-! ### Frames of a connection that do not stand in the stream -/

section Connection

variable {p : Fin 12} {f : Frame} {s got : State}

/-- What an ATTACH for this module does (R371). -/
def attachDo (p : Nat) (f : Frame) (s : State) : State :=
  let shut := decide (255 ≤ f.src) || ptState s f.src == 3 || ptState s f.src == 4
  let t := attach f.src f.conn (depart f.src true s)
  if shut || ((link s f.src).asking && decide (selfId s < f.src)) then s
  else transmit p { ty := 2, src := selfId t, dst := f.src, conn := f.conn } t

/-- What an ATTACH_ACK for this module does (R371). -/
def attachAckDo (f : Frame) (s : State) : State :=
  let shut := decide (255 ≤ f.src) || ptState s f.src == 3 || ptState s f.src == 4
  if shut || !(link s f.src).asking || (link s f.src).askConn != f.conn then s
  else groupLook f.src (attach f.src f.conn (depart f.src true s))

/-- What a NAK for this module does (R374, R375). -/
def nakDo (f : Frame) (s : State) : State :=
  let t := takeAck f.src f (if f.status = 1 then addressNak f.src f.addr s else s)
  if !ofConnection s f then s else if f.status = 1 then t
  else match (link t f.src).unacked.find? (fun x => x.psn == f.addr) with
    | some x => resend f.src x t
    | none => t

theorem exec_attach : exec (.attach p f) s = received p.val f (attachDo p.val f) s := by
  rw [show exec (.attach p f) s = execAttach p f s from rfl, execAttach]
  rfl

theorem exec_attachAck : exec (.attachAck p f) s = received p.val f (attachAckDo f) s := by
  rw [show exec (.attachAck p f) s = execAttachAck p f s from rfl, execAttachAck]
  refine congrArg (fun act => received p.val f act s) (funext fun u => if_congr ?_ rfl rfl)
  simp only [Bool.or_eq_true, decide_eq_true_eq, beq_iff_eq, bne_iff_ne, Bool.not_eq_true']
  tauto

theorem exec_nak : exec (.nak p f) s = received p.val f (nakDo f) s := by
  refine congrArg (fun act => received p.val f act s) (funext fun u => if_congr Iff.rfl rfl ?_)
  by_cases h : f.status = 1
  · simp only [h, if_true]
  · simp only [h, if_false] <;> rfl

/-- Every row of a frame is one received frame and what it does. -/
theorem frameRow_received {i : Instr} (h : i ∈ [Instr.attach p f, .attachAck p f, .bye p f, .ack p f, .nak p f] ++ (sequencedRows p f).map (·.1)) :
    ∃ act, exec i s = received p.val f act s := by
  rcases List.mem_append.mp h with h | h
  · simp only [List.mem_cons, List.not_mem_nil, or_false] at h
    rcases h with rfl | rfl | rfl | rfl | rfl
    · exact ⟨_, exec_attach⟩
    · exact ⟨_, exec_attachAck⟩
    · exact ⟨_, rfl⟩
    · exact ⟨_, rfl⟩
    · exact ⟨_, exec_nak⟩
  · obtain ⟨⟨j, k⟩, hj, rfl⟩ := List.mem_map.mp h
    exact ⟨_, exec_sequenced hj⟩

end Connection

/-! ### HELLO, departure, conflict and timers -/

section Rows

variable {p : Fin 12} {f : Frame} {pid : Fin 255} {v : Word} {s : State}

theorem exec_helloSend (hr : running s = true) (h : selfId s ≠ 0xFF) :
    exec .helloSend s = .next (overList (fun k t =>
      if portUp t k && portLoop t k == 0 then
        transmit k { ty := 0, src := selfId t, dst := 0xFF, len := 64, data := helloBytes t k } t
      else t) (List.range 12) (tellLead s)) := (live_of_running hr _).trans (if_neg h)

/-- The state in which a HELLO has been noted at its port (R369). -/
def helloNoted (p : Nat) (f : Frame) (s : State) : State :=
  let d (k n : Nat) : Nat := leNat ((f.data.drop k).take n)
  bumpRf (portReg p 0x18) 63 0 1 (setRf (portReg p 8) 51 48 (d 9 1) (setRf (portReg p 8) 59 52 (d 8 1) s))

/-- What a HELLO does once its port has noted it (R369 to R371). -/
def helloDo (p : Nat) (f : Frame) (t : State) : State :=
  let d (k n : Nat) : Nat := leNat ((f.data.drop k).take n)
  let u := setLink (d 8 1) { link t (d 8 1) with rival := d 0 8, rivalAt := t.time } t
  if d 8 1 = selfId t then
    (if d 0 8 = Config.serial.toNat then t
     else if ptState u (d 8 1) = 3 then u else conflictRecord (d 8 1) (setPtState (d 8 1) 3 u))
  else helloFrom p (d 8 1) (d 0 8) d t

theorem exec_helloReceive (hr : running s = true) (hu : portUp s p.val = true) (hl : portLoop s p.val = 0)
    (hp : leNat ((f.data.drop 8).take 1) ≠ 0xFF) : exec (.helloReceive p f) s = .next (helloDo p.val f (helloNoted p.val f s)) := by
  refine (live_of_running hr _).trans ((if_neg ?_).trans ?_)
  · simp [hu, hl, hp]
  · unfold helloDo
    by_cases hself : leNat ((f.data.drop 8).take 1) = selfId (helloNoted p.val f s)
    · rw [if_pos hself]
      refine (if_pos hself).trans ?_
      exact (apply_ite Host.Outcome.next _ _ _).symm
    · rw [if_neg hself]
      exact if_neg hself

theorem exec_partnerDeparture (hr : running s = true) : exec (.partnerDeparture pid) s = .next (depart pid.val false s) :=
  live_of_running hr _

theorem depart_absent {pid : Nat} {keep : Bool} (h : ptState s pid ≠ 1) : depart pid keep s = s := if_pos (bne_iff_ne.mpr h)

theorem depart_present {pid : Nat} (h : ptState s pid = 1) : depart pid false s =
    (let u := endTraffic pid (setRf (ptStat pid) 43 32 0 (setPtState pid 2 (satRf (ptCnt pid) 31 16 1 s)))
     groupLoss pid (partnerEvent pid false (setLink pid (bareLink (link u pid)) u))) := if_neg (bne_passed h)

theorem exec_conflictExpiry (hr : running s = true) (h : ptState s pid.val = 3) :
    exec (.conflictExpiry pid) s = .next
      (if pid.val = selfId s then setPtState pid.val 4 (setLink pid.val {} s)
       else setPtState pid.val 0 (setLink pid.val {} (setRg (ptSerial pid.val) 0 s))) :=
  (live_of_running hr _).trans ((if_neg (bne_passed h)).trans (apply_ite Host.Outcome.next _ _ _).symm)

theorem exec_retransmitTimeout {x : Frame} (hr : running s = true) (h : pmState s pid.val = 1)
    (hx : (link s pid.val).unacked.find? (fun f => (link s pid.val).unacked.all (fun g => decide (f.sent ≤ g.sent))) = some x) :
    exec (.retransmitTimeout pid) s = .next (resend pid.val x s) := by
  refine (live_of_running hr _).trans ?_
  rw [hx]
  exact if_pos h

theorem exec_ackTimer (hr : running s = true) (h : pmState s pid.val = 1) :
    exec (.ackTimer pid) s = .next (if (link (drainPartner pid.val s) pid.val).sinceAck = 0 then drainPartner pid.val s
      else sendAck pid.val (drainPartner pid.val s)) := (live_of_running hr _).trans (if_neg (bne_passed h))

theorem exec_nakTimer (hr : running s = true) (h : pmState s pid.val = 1) :
    exec (.nakTimer pid) s = .next
      (let t := drainPartner pid.val s
       let y := link t pid.val
       if y.ahead.isEmpty || y.ahead.any (fun f => f.psn == y.recvNext) then t
       else sendNak pid.val y.recvNext 0 (setLink pid.val { y with gapSince := t.time } t)) :=
  (live_of_running hr _).trans (if_neg (bne_passed h))

theorem exec_portLinkChange {k : Fin 4} (hr : running s = true) (h : rf s (portReg p.val 0) 0 0 = 1) :
    exec (.portLinkChange p k) s = .next
      (let t := setRf (portReg p.val 8) 63 60 k.val s
       if k.val = 2 then t else forgetPort p.val t) :=
  (live_of_running hr _).trans (if_neg (by omega))

theorem exec_portEnableWrite (hr : running s = true) (hf : stageFailed s = false) :
    exec (.portEnableWrite p v) s = .next (portWrite p.val v s) := liveWrite_of_running hr hf _

theorem exec_tuyCtlWrite (hr : running s = true) (hf : stageFailed s = false) :
    exec (.tuyCtlWrite v) s = .next (tuyCtlWrite v s) := liveWrite_of_running hr hf _

/-- TUY_CTL is open while every port is off and the module is in no group (R380). -/
def tuyShut (s : State) : Bool := inGroup s || (List.range 12).any (fun k => rf s (portReg k 0) 0 0 == 1)

/-- The fields of a write of TUY_CTL stored (R380). -/
def tuyStored (v : Word) (s : State) : State := setRf (tuyReg 0) 55 43 (fieldOf v 55 43) (setRf (tuyReg 0) 39 28 (fieldOf v 39 28) s)

theorem tuyCtlWrite_shut (h : tuyShut s = true) : tuyCtlWrite v s = s := if_pos h

theorem tuyCtlWrite_same (h : tuyShut s = false) (hid : selfId s = fieldOf v 55 48) : tuyCtlWrite v s = tuyStored v s :=
  (if_neg (ne_true_of_eq_false h)).trans (if_pos hid)

theorem tuyCtlWrite_renamed (h : tuyShut s = false) (hid : selfId s ≠ fieldOf v 55 48) : tuyCtlWrite v s =
    (let u := if selfId s = 0xFF then tuyStored v s else setLink (selfId s) {} (setRg (ptStat (selfId s)) 0 (tuyStored v s))
     let new := fieldOf v 55 48
     if new = 0xFF then u else setLink new {} (setPtState new 4 (setRg (ptSerial new) 0 (setRg (ptStat new) 0 u)))) :=
  (if_neg (ne_true_of_eq_false h)).trans (if_neg hid)

end Rows

end Sys2Proof.Proofs

namespace Sys2Proof.Proofs

open Sys2Proof Sys2Proof.Machine Sys2Proof.Laws

/-! ### Where the bytes of one SM word lie -/

section OneWord

variable {s t : State} {a j : Nat}

/-- Two addresses inside one SM word agree in every field but the offset in the word. -/
theorem natBits_inWord {hi lo : Nat} (ha : a % 32 = 0) (hj : j < 32) (hlo : 5 ≤ lo) : natBits (a + j) hi lo = natBits a hi lo := by
  have hdiv : (a + j) / 2 ^ lo = a / 2 ^ lo := by
    obtain ⟨k, rfl⟩ := Nat.exists_eq_add_of_le hlo
    rw [pow_add, ← Nat.div_div_eq_div_mul, ← Nat.div_div_eq_div_mul]
    congr 1
    omega
  simp only [natBits, Nat.shiftRight_eq_div_pow, hdiv]

theorem smStack_inWord (ha : a % 32 = 0) (hj : j < 32) : smStack (a + j) = smStack a := by
  unfold smStack
  omega

theorem rmapHits_inWord (ent : Nat) (ha : a % 32 = 0) (hj : j < 32) : rmapHits ent (a + j) = rmapHits ent a := by
  simp only [rmapHits, smLayer, smGroup, smBank, smRow, natBits_inWord ha hj (by decide : 5 ≤ 16), natBits_inWord ha hj (by decide : 5 ≤ 20),
    natBits_inWord ha hj (by decide : 5 ≤ 22), natBits_inWord ha hj (by decide : 5 ≤ 24)]

theorem smRow_le (a : Nat) : smRow a * 2 ^ 24 ≤ a := by
  unfold smRow natBits
  omega

theorem physBy_inWord (ent : Nat → Nat) (ha : a % 32 = 0) (hj : j < 32) : physBy ent (a + j) = physBy ent a + j := by
  have hrow : smRow (a + j) = smRow a := natBits_inWord ha hj (by decide)
  have hle := smRow_le a
  unfold physBy
  simp only [rmapHits_inWord _ ha hj, hrow]
  split <;> omega

theorem physBy_aligned (ent : Nat → Nat) (ha : a % 32 = 0) : physBy ent a % 32 = 0 := by
  have hle := smRow_le a
  unfold physBy
  split <;> omega

theorem smPhys_inWord (s : State) (ha : a % 32 = 0) (hj : j < 32) : smPhys s (a + j) = smPhys s a + j := by
  unfold smPhys smChannel
  rw [smStack_inWord ha hj, natBits_inWord ha hj (by decide), physBy_inWord _ ha hj]

theorem smPhys_aligned (s : State) (ha : a % 32 = 0) : smPhys s a % 32 = 0 := physBy_aligned _ ha

theorem isValid_inWord (s : State) {pa : Nat} (ha : pa % 32 = 0) (hj : j < 32) : isValid s 4 (pa + j) = isValid s 4 pa := by
  have hkey : validKey 4 (pa + j) = validKey 4 pa := by
    simp only [validKey, validSpan, if_true]
    congr 2
    omega
  simp only [isValid, hkey]

/-- A run of values is read back where it was written. -/
theorem tabGet_tabSetRun {α : Type} [DecidableEq α] {d : α} {l : List (Nat × α)} (hl : tabWf (fun _ => d) l = true) (k : Nat) (vs : List α) (e : α) :
    ∀ i < vs.length, tabGet d (tabSetRun d l k vs) (k + i) = vs.getD i e := by
  induction vs generalizing l k with
  | nil => intro i hi; simp at hi
  | cons v t ih =>
    intro i hi
    cases i with
    | zero =>
      show tabGet d (tabSetRun d (tabSet d l k v) (k + 1) t) k = v
      rw [tabGet_tabSetRun_other _ _ (Or.inl (Nat.lt_succ_self k)), tabGet_tabSet_same k v hl]
    | succ i =>
      have := ih (tabWf_tabSet_const k v hl) (k + 1) i (by simpa using hi)
      rwa [Nat.add_assoc, Nat.add_comm 1 i] at this

end OneWord

/-! ### A whole clean word stored -/

section Store

variable {s : State} {a pa : Nat} {data : List Byte}

theorem isValid_fillRow (h : s.wf = true) (sp b : Nat) : isValid (fillRow sp b pa s) sp pa = true := by
  have hset (t : State) (ht : t.wf = true) : isValid (setValid sp pa true t) sp pa = true := by
    obtain ⟨-, -, -, hv⟩ := (mem_wf_iff _).1 (wf_mem ht)
    have : tabGet 0 (tabSet 0 t.mem.valid (validKey sp pa) (copies true)) (validKey sp pa) = copies true :=
      tabGet_tabSet_same _ _ hv
    show majority (tabGet 0 (tabSet 0 t.mem.valid (validKey sp pa) (copies true)) (validKey sp pa)) = true
    rw [this]
    decide
  unfold fillRow
  dsimp only
  split
  · assumption
  · exact hset _ (wf_wipeRun _ _ (wf_fixValid _ _ _ h))

theorem smPhys_of_regs {t : State} (h : t.regs = s.regs) (b : Nat) : smPhys t b = smPhys s b :=
  congrArg (physBy · b) (funext fun e => by simp only [rmapEntry, rg, h])

theorem smPhys_countCorr (a : Nat) (s : State) : smPhys (countCorr 4 a s) a = smPhys s a :=
  smPhys_setRf s 31 0 _ rfl (by decide : 0x208 < 0x400)

theorem smPhys_fixValid (a pa : Nat) (s : State) : smPhys (fixValid 4 a pa s) a = smPhys s a := by
  unfold fixValid
  dsimp only
  split
  · rfl
  · rw [smPhys_countCorr]
    exact smPhys_of_regs rfl a

theorem smPhys_fillRow (a pa : Nat) (s : State) : smPhys (fillRow 4 a pa s) a = smPhys s a := by
  unfold fillRow
  dsimp only
  split
  · exact smPhys_fixValid a pa s
  · exact (smPhys_of_regs rfl a).trans (smPhys_fixValid a pa s)

/-- What a clean whole word is stored as reads back (R145, R150). -/
theorem peekByte_smStore (h : s.wf = true) (ha : a % 32 = 0) (hd : data.length = 32) :
    ∀ j < 32, peekByte (smStore a data false s) 4 (a + j) = nth data j 0 := by
  intro j hj
  set pa := smPhys s a with hpa
  set u := fillRow 4 a pa s with hu
  have huw : u.wf = true := wf_fillRow _ _ _ h
  have hplace : smPhys (smStore a data false s) (a + j) = pa + j := by
    rw [smPhys_inWord _ ha hj]
    congr 1
    exact (smPhys_of_regs (s := u) rfl a).trans (smPhys_fillRow a pa s)
  have hvalid : isValid (smStore a data false s) 4 (pa + j) = true := by
    rw [isValid_inWord _ (smPhys_aligned s ha) hj]
    exact isValid_fillRow (pa := pa) h 4 a
  obtain ⟨hcells, -, -, -⟩ := (mem_wf_iff _).1 (wf_mem huw)
  unfold peekByte
  simp only [if_true, hplace, hvalid, or_true]
  have hread := tabGet_tabSetRun hcells (cellKey 4 pa) data 0 j (by rw [hd]; exact hj)
  rwa [show cellKey 4 pa + j = cellKey 4 (pa + j) from Nat.add_assoc _ _ _] at hread

/-- A whole aligned word of clean bytes is stored as it is (R98, R145). -/
theorem memWrite_word (who : Who) (ha : a % 32 = 0) (hd : data.length = 32) :
    memWrite who 4 a (cleanBytes data) s = smStore a data false (fixValid 4 a (smPhys s a) s) := by
  have hlen : (cleanBytes data).length = 32 := by simp [cleanBytes, hd]
  have hne : (cleanBytes data).isEmpty = false := by
    cases hc : cleanBytes data
    · simp [hc] at hlen
    · rfl
  have hnew : (cleanBytes data).map (·.1) = data := by simp [cleanBytes, Function.comp_def]
  have hbad : (cleanBytes data).any (·.2) = false := by simp [cleanBytes]
  have hrest (k : Nat) (b : Nat) (t : State) : writeWords who 4 k b [] t = t := by cases k <;> rfl
  rw [memWrite, hlen, writeWords, hne]
  simp only [Bool.false_eq_true, if_false, wordBytes, if_true, ha, Nat.sub_zero, List.take_of_length_le (Nat.le_of_eq hlen),
    List.drop_of_length_le (Nat.le_of_eq hlen), hrest, writeWord, smWriteWord, hlen, hnew, hbad]

theorem peekByte_memWrite_word (who : Who) (h : s.wf = true) (ha : a % 32 = 0) (hd : data.length = 32) :
    ∀ j < 32, peekByte (memWrite who 4 a (cleanBytes data) s) 4 (a + j) = nth data j 0 := by
  rw [memWrite_word who ha hd]
  exact peekByte_smStore (wf_fixValid _ _ _ h) ha hd

end Store

end Sys2Proof.Proofs

namespace Sys2Proof.Proofs

open Sys2Proof Sys2Proof.Machine Sys2Proof.Laws

/-! ### Streams -/

section Stream

variable {s t : State} {pid : Nat} {l : Link}

theorem link_setLink (h : tabWf (fun _ => ({} : Link)) s.links = true) (pid : Nat) (l : Link) : link (setLink pid l s) pid = l :=
  tabGet_tabSet_same pid l h

theorem links_setLink_wf (h : tabWf (fun _ => ({} : Link)) s.links = true) (pid : Nat) (l : Link) :
    tabWf (fun _ => ({} : Link)) (setLink pid l s).links = true := tabWf_tabSet_const pid l h

/-- A frame sent on a partner's stream changes of its link the port used. -/
theorem link_sendPlain (h : tabWf (fun _ => ({} : Link)) s.links = true) (pid : Nat) (f : Frame) :
    ∃ p, link (sendPlain pid f s) pid = { link s pid with port := p } :=
  ⟨nextPort (sendPorts s pid) (link s pid).port, link_setLink h pid _⟩

theorem link_sendAck (h : tabWf (fun _ => ({} : Link)) s.links = true) (pid : Nat) :
    ∃ p, link (sendAck pid s) pid = { link s pid with sinceAck := 0, port := p } := by
  obtain ⟨p, hp⟩ := link_sendPlain (links_setLink_wf h pid { link s pid with sinceAck := 0 }) pid
    { ty := 4, conn := rf s (ptStat pid) 31 0, ackOk := true, ack := (link s pid).recvNext }
  rw [link_setLink h] at hp
  exact ⟨p, hp⟩

theorem link_countAck (h : tabWf (fun _ => ({} : Link)) s.links = true) (pid : Nat) :
    ∃ n p, link (countAck pid s) pid = { link s pid with sinceAck := n, port := p } := by
  have hset := link_setLink h pid { link s pid with sinceAck := (link s pid).sinceAck + 1 }
  unfold countAck
  dsimp only
  split
  · obtain ⟨p, hp⟩ := link_sendAck (links_setLink_wf h pid { link s pid with sinceAck := (link s pid).sinceAck + 1 }) pid
    exact ⟨0, p, by rw [hp, hset]⟩
  · exact ⟨(link s pid).sinceAck + 1, (link s pid).port, by rw [hset]⟩

theorem countAck_mem (pid : Nat) (s : State) : (countAck pid s).mem = s.mem := by
  unfold countAck
  dsimp only
  split <;> simp [sendAck, sendPlain, transmit]

/-- Nothing is delivered from a stream that holds no frame. -/
theorem drainFrames_idle (h : (link s pid).ahead = []) (fuel : Nat) : drainFrames pid fuel s = s := by
  cases fuel with
  | zero => rfl
  | succ fuel => simp [drainFrames, h]

/-- A frame behind its place leaves its link as it is but for the acknowledgement that is owed, and no memory (R374). -/
theorem takeSequenced_behind {f : Frame} (hw : tabWf (fun _ => ({} : Link)) s.links = true) (ha : (link s pid).ahead = [])
    (hb : 2 ^ 31 ≤ diff32 f.psn (link s pid).recvNext) :
    (takeSequenced pid f s).mem = s.mem ∧ (link (takeSequenced pid f s) pid).recvNext = (link s pid).recvNext := by
  obtain ⟨n, p, hl⟩ := link_countAck hw pid
  have hidle : (link (countAck pid s) pid).ahead = [] := by rw [hl, ha]
  have htaken : takeSequenced pid f s = countAck pid s :=
    (if_pos (Bool.or_eq_true_iff.mpr (Or.inl (decide_eq_true hb)))).trans (drainFrames_idle hidle _)
  rw [htaken, hl]
  exact ⟨countAck_mem pid s, rfl⟩

/-- The state in which a frame stands alone in its stream. -/
def frameAlone (pid : Nat) (f : Frame) (s : State) : State :=
  setLink pid { link s pid with ahead := [f], gapSince := s.time } s

/-- A frame in its place is delivered at once, and its stream moves on (R374). -/
theorem takeSequenced_next {f : Frame} (hw : tabWf (fun _ => ({} : Link)) s.links = true) (ha : (link s pid).ahead = [])
    (hp : f.psn = (link s pid).recvNext) (h32 : f.psn < 2 ^ 32)
    (hkept : (deliver pid f (frameAlone pid f s)).links = (frameAlone pid f s).links) :
    ∃ x, takeSequenced pid f s = countAck pid (setLink pid x (deliver pid f (frameAlone pid f s))) := by
  have hd : diff32 f.psn (link s pid).recvNext = 0 := by
    rw [← hp, diff32, Nat.mod_eq_of_lt h32]
    omega
  have hlink : link (frameAlone pid f s) pid = { link s pid with ahead := [f], gapSince := s.time } := link_setLink hw _ _
  have hlinkD : link (deliver pid f (frameAlone pid f s)) pid = { link s pid with ahead := [f], gapSince := s.time } := by
    rw [← hlink, link, hkept, link]
  have hwD : tabWf (fun _ => ({} : Link)) (deliver pid f (frameAlone pid f s)).links = true := by
    rw [hkept]
    exact links_setLink_wf hw _ _
  refine ⟨{ link s pid with ahead := [], gapSince := s.time, recvNext := ((link s pid).recvNext + 1) % 2 ^ 32 }, ?_⟩
  have hpass : ¬ ((decide (2 ^ 31 ≤ diff32 f.psn (link s pid).recvNext) || (link s pid).ahead.any (fun x => x.psn == f.psn)) = true) := by
    rw [hd, ha]
    simp
  refine (if_neg hpass).trans (congrArg (countAck pid) ?_)
  have hstands : setLink pid { link s pid with
      ahead := (link s pid).ahead ++ [f], gapSince := (if (link s pid).ahead.isEmpty then s.time else (link s pid).gapSince) } s = frameAlone pid f s := by
    rw [ha]
    rfl
  refine (congrArg (drainPartner pid) hstands).trans ?_
  have hlen : (link (frameAlone pid f s) pid).ahead.length = 1 := by rw [hlink]; rfl
  have hfind : (link (frameAlone pid f s) pid).ahead.find? (fun x => x.psn == (link (frameAlone pid f s) pid).recvNext) = some f := by
    rw [hlink]
    simp [hp]
  rw [drainPartner, hlen, drainFrames]
  simp only [hfind, hlinkD]
  rw [drainFrames_idle]
  · simp
  · rw [link_setLink hwD]
    simp

end Stream

/-! ### A WRITE in its place -/

section Write

variable {s : State} {f : Frame} {pid : Nat}

/-- What nothing holds at the point of coherence is performed there. -/
theorem serve_of_free {a : Access} (h : pocFree s a) : serve a s = perform a s := by
  obtain ⟨hm, hb, hr, hc, he⟩ := h
  have hrecall : ¬ ((!accessByHost a && !(recallLines s (accessAddr a) (accessLen a) (accessWrites a)).isEmpty) = true) := by
    rcases hc with hc | hc <;> simp [hc]
  unfold serve
  refine (if_neg (ne_true_of_eq_false hm)).trans ((if_neg (ne_true_of_eq_false hb)).trans
    ((if_neg (ne_true_of_eq_false hr)).trans ((if_neg hrecall).trans ?_)))
  rw [he]

/-- A delivered WRITE of one clean word is that word's write (R375). -/
theorem doWrite_word (hl : f.len = 32) (hd : f.data.length = 32) (hp : f.pmap = []) (hc : f.crcBad = []) :
    doWrite f s = memWrite (portWho f) 4 f.addr (cleanBytes f.data) (countRun f.addr 32 s) := by
  have hbytes : (List.range f.len).map (fun k => (nth f.data k 0, nth f.pmap ((f.addr + k) / 32 - f.addr / 32) false
      || f.crcBad.contains ((f.addr + k) / 32 - f.addr / 32))) = cleanBytes f.data := by
    rw [hl, hp, hc]
    refine List.ext_getElem (by simp [cleanBytes, hd]) (fun i h1 h2 => ?_)
    have hi : i < f.data.length := by simpa [cleanBytes] using h2
    simp [cleanBytes, nth, hi]
  have hnone : (f.crcBad.filter (fun i => i ≤ (f.addr + (f.len - 1)) / 32 - f.addr / 32)).eraseDups = [] := by
    rw [hc]
    rfl
  unfold doWrite
  dsimp only
  rw [hbytes, hnone, hl]
  rfl

theorem wf_countRun (a len : Nat) (h : s.wf = true) : (countRun a len s).wf = true := by
  unfold countRun
  split
  · exact h
  · exact wf_bumpRf _ _ _ _ (wf_bumpRf _ _ _ _ h)

theorem countRun_links (a len : Nat) (s : State) : (countRun a len s).links = s.links := by
  unfold countRun
  split <;> rfl

/-- Where an address is held depends on the eight remap entries of its channel alone (R157). -/
theorem physBy_congr {ent ent' : Nat → Nat} {a : Nat} (h : ∀ e < 8, ent e = ent' e) : physBy ent a = physBy ent' a := by
  have hfind : (List.range 8).find? (fun e => rmapHits (ent e) a) = (List.range 8).find? (fun e => rmapHits (ent' e) a) :=
    List.find?_congr (fun e he => by rw [h e (List.mem_range.mp he)])
  unfold physBy
  rw [hfind]
  split
  · next e he => rw [h e (List.mem_range.mp (List.mem_of_find?_eq_some he))]
  · rfl

theorem rmapReg_ne_portReg {n ch e p off : Nat} (hn : n < 20) (hch : ch < 32) (he : e < 8) : rmapReg n ch e ≠ portReg p off := by
  unfold rmapReg stkReg portReg tuyReg
  omega

/-- A frame put on the wire moves no byte of SM. -/
theorem peekByte_transmit {a : Nat} (ha : smStack a < 20) (p : Nat) (f : Frame) (s : State) :
    peekByte (transmit p f s) 4 a = peekByte s 4 a := by
  have hplace : smPhys (transmit p f s) a = smPhys s a := physBy_congr (fun e he => by
    have hch : smChannel a < 32 := natBits_lt a 15 11
    have hne := rmapReg_ne_portReg (p := p) (off := 0x10) ha hch he
    show rmapOf (rg (bumpRf (portReg p 0x10) 63 0 1 s) _) e = _
    rw [bumpRf, rg_setRf_other _ _ _ _ hne, rmapEntry])
  unfold peekByte
  simp only [hplace]
  rfl

theorem peekByte_countAck {a : Nat} (ha : smStack a < 20) (pid : Nat) (s : State) : peekByte (countAck pid s) 4 a = peekByte s 4 a := by
  unfold countAck
  dsimp only
  split
  · exact peekByte_transmit ha _ _ _
  · rfl

end Write

end Sys2Proof.Proofs

namespace Sys2Proof.Proofs

open Sys2Proof Sys2Proof.Machine Sys2Proof.Laws

section WriteInPlace

variable {s : State} {f : Frame} {pid : Nat}

theorem takeAck_none (h : f.ackOk = false) : takeAck pid f s = s := if_pos (guard_stops h)

/-- What R92 and R373 ask of a WRITE's address and data. -/
theorem frameAddrOk_write (hty : f.ty = 8) (h : frameAddrOk s f = true) : smStack f.addr < 20 ∧ f.data.length = f.len := by
  simp only [frameAddrOk, addrOk, rangeOk, hty, Bool.and_eq_true, Bool.or_eq_true, decide_eq_true_eq, beq_iff_eq] at h
  obtain ⟨⟨⟨-, ⟨⟨hstack, -⟩, -⟩⟩, -⟩, hdata⟩ := h
  exact ⟨hstack, hdata.resolve_left (by decide)⟩

theorem frameAddrOk_alone (pid : Nat) (g f : Frame) (s : State) : frameAddrOk (frameAlone pid g s) f = frameAddrOk s f := rfl

theorem pocFree_alone {a : Access} (g : Frame) (h : pocFree s a) : pocFree (frameAlone pid g s) a := h

/-- A clean WRITE in its place that nothing holds is performed as its word is written (R375). -/
theorem deliver_write (hty : f.ty = 8) (hok : frameAddrOk s f = true) (hfree : pocFree s (.frame pid f)) (hl : f.len = 32)
    (hp : f.pmap = []) (hc : f.crcBad = []) :
    deliver pid f s = memWrite (portWho f) 4 f.addr (cleanBytes f.data) (countRun f.addr 32 s) := by
  obtain ⟨-, hdata⟩ := frameAddrOk_write hty hok
  have hserve : deliver pid f s = serve (.frame pid f) s := by
    unfold deliver
    rw [if_neg (by rw [hty]; decide), if_neg (by rw [hty]; decide), if_neg (guard_passed hok), if_neg (by rw [hty]; simp)]
  rw [hserve, serve_of_free hfree]
  exact (if_pos hty).trans (doWrite_word hl (hdata.trans hl) hp hc)

theorem peekByte_setLink (x : Link) (sp a : Nat) (s : State) : peekByte (setLink pid x s) sp a = peekByte s sp a := by
  have hplace : smPhys (setLink pid x s) a = smPhys s a := smPhys_of_regs rfl a
  unfold peekByte
  simp only [hplace]
  rfl

theorem wf_frameAlone (pid : Nat) (f : Frame) (h : s.wf = true) : (frameAlone pid f s).wf = true := wf_congr (s := s) rfl rfl h

/-- The bytes of a clean WRITE of one word in its place are read back where it wrote them. -/
theorem peekByte_takeSequenced (hwf : s.wf = true) (hw : tabWf (fun _ => ({} : Link)) s.links = true) (hahead : (link s pid).ahead = [])
    (hpsn : f.psn = (link s pid).recvNext) (h32 : f.psn < 2 ^ 32) (hty : f.ty = 8) (hok : frameAddrOk s f = true)
    (hfree : pocFree s (.frame pid f)) (ha : f.addr % 32 = 0) (hl : f.len = 32) (hp : f.pmap = []) (hc : f.crcBad = []) :
    ∀ j < 32, peekByte (takeSequenced pid f s) 4 (f.addr + j) = nth f.data j 0 := by
  obtain ⟨hstack, hdata⟩ := frameAddrOk_write hty hok
  have hwritten := deliver_write (s := frameAlone pid f s) hty ((frameAddrOk_alone pid f f s).trans hok) (pocFree_alone f hfree) hl hp hc
  have hkept : (deliver pid f (frameAlone pid f s)).links = (frameAlone pid f s).links := by
    rw [hwritten, memWrite_links, countRun_links]
  obtain ⟨x, hx⟩ := takeSequenced_next hw hahead hpsn h32 hkept
  intro j hj
  have hstackj : smStack (f.addr + j) < 20 := by rwa [smStack_inWord ha hj]
  rw [hx, peekByte_countAck hstackj, peekByte_setLink, hwritten]
  exact peekByte_memWrite_word _ (wf_countRun _ _ (wf_frameAlone pid f hwf)) ha (hdata.trans hl) j hj

end WriteInPlace

section SequencedRow

variable {p : Fin 12} {f : Frame} {s : State} {i : Instr} {k : Nat}

/-- What a sequenced frame for this module does (R374, R375). -/
def sequencedDo (k : Nat) (f : Frame) (s : State) : State :=
  if ofConnection s f then takeSequenced f.src { f with ty := k } (takeAck f.src f s) else s

theorem exec_sequenced_ours (hr : running s = true) (hu : portUp s p.val = true) (hf : frameForUs s f = true) (h : (i, k) ∈ sequencedRows p f) :
    exec i s = .next (sequencedDo k f (bumpRf (portReg p.val 0x18) 63 0 1 s)) :=
  (exec_sequenced h).trans (received_ours hr hu hf (sequencedDo k f))

theorem sequencedDo_own (hown : ofConnection s f = true) (hack : f.ackOk = false) :
    sequencedDo k f s = takeSequenced f.src { f with ty := k } s := by
  rw [sequencedDo, if_pos hown, takeAck_none hack]

end SequencedRow

/-! ### Partners and frames (O54) -/

section Frames

variable (p : Fin 12) (f : Frame) {s : State}

/-- The rows of the frames for this module (R371 to R375). -/
theorem frame_rows (hr : running s = true) (hu : portUp s p.val = true) (hf : frameForUs s f = true) :
    let r := portReg p.val
    let got := bumpRf (r 0x18) 63 0 1 s
    let l := link got f.src
    let own := ofConnection got f
    (let shut := decide (255 ≤ f.src) || ptState got f.src == 3 || ptState got f.src == 4
     let t := attach f.src f.conn (depart f.src true got)
     let first := l.asking && decide (selfId got < f.src)
     (exec (.attach p f) s = .next (if shut || first then got
       else transmit p.val { ty := 2, src := selfId t, dst := f.src, conn := f.conn } t)) ∧
     (exec (.attachAck p f) s = .next (if shut || !l.asking || l.askConn != f.conn then got else groupLook f.src t))) ∧
    exec (.bye p f) s = .next (if own && ptState got f.src == 1 then depart f.src false got else got) ∧
    exec (.ack p f) s = .next (if own then drainPartner f.src (takeAck f.src f got) else got) ∧
    (let t := takeAck f.src f (if f.status = 1 then addressNak f.src f.addr got else got)
     exec (.nak p f) s = .next (if !own then got else if f.status = 1 then t
       else match (link t f.src).unacked.find? (fun x => x.psn == f.addr) with | some x => resend f.src x t | none => t)) := by
  intro r got l own
  refine ⟨⟨?_, ?_⟩, received_ours hr hu hf _, received_ours hr hu hf _, ?_⟩
  · exact exec_attach.trans (received_ours hr hu hf _)
  · exact exec_attachAck.trans (received_ours hr hu hf _)
  · exact exec_nak.trans (received_ours hr hu hf _)

/-- The sequenced frames of the connection (R374, R375). -/
theorem sequenced_rows (hr : running s = true) (hu : portUp s p.val = true) (hf : frameForUs s f = true) {i : Instr} {k : Nat}
    (hi : (i, k) ∈ sequencedRows p f) :
    let got := bumpRf (portReg p.val 0x18) 63 0 1 s
    let l := link got f.src
    let own := ofConnection got f
    let t := if own then takeSequenced f.src { f with ty := k } (takeAck f.src f got) else got
    exec i s = .next t ∧
    (s.wf = true → tabWf (fun _ => ({} : Link)) s.links = true → own = true → f.ackOk = false → l.ahead = [] →
      (2 ^ 31 ≤ diff32 f.psn l.recvNext → t.mem = s.mem ∧ (link t f.src).recvNext = l.recvNext) ∧
      (k = 8 → f.psn = l.recvNext → f.psn < 2 ^ 32 → frameAddrOk s { f with ty := 8 } = true → f.addr % 32 = 0 → f.len = 32 →
        f.pmap = [] → f.crcBad = [] → pocFree got (.frame f.src { f with ty := 8 }) →
        ∀ j < 32, peekByte t 4 (f.addr + j) = nth f.data j 0)) := by
  intro got l own t
  refine ⟨exec_sequenced_ours hr hu hf hi, fun hwf hw hown hack hahead => ?_⟩
  have ht : t = takeSequenced f.src { f with ty := k } got := sequencedDo_own hown hack
  have hgot : got.wf = true := wf_bumpRf _ _ _ _ hwf
  refine ⟨fun hb => ?_, fun hk hpsn h32 hok ha hl hp hc hfree => ?_⟩
  · rw [ht]
    exact takeSequenced_behind hw hahead hb
  · subst hk
    rw [ht]
    exact peekByte_takeSequenced (f := { f with ty := 8 }) hgot hw hahead hpsn h32 rfl hok hfree ha hl hp hc

end Frames

/-- Settles O54: each row by its equation; a WRITE in its place is one word stored, and what follows moves no byte of SM. -/
theorem fabricPartnersAndFrames : Obligations.FabricPartnersAndFrames := by
  unfold Obligations.FabricPartnersAndFrames
  intro p f pid v s hr up r got l own d seqd rows
  refine ⟨fun hu hf i hi => ?foreign, fun hu => ?discarded, fun hu hf => ?ours, fun hs => exec_helloSend hr hs,
    fun hu hl hp => ?hello, fun h => ?absent, fun h => ?present, fun h => exec_conflictExpiry hr h, fun h => ?timers,
    fun k h => exec_portLinkChange hr h, fun hf => exec_portEnableWrite hr hf, fun hf => ?control⟩
  case foreign =>
    obtain ⟨act, hact⟩ := frameRow_received (s := s) hi
    rw [hact, received_foreign hr hu hf]
  case discarded =>
    have hrow (k : Fin 3) : exec (.foreignFrame p k) s = (match k.val with
        | 0 => done (satRf (r 0x20) 63 32 1 s) | 1 => done (satRf (r 0x20) 31 16 1 s) | _ => done (satRf (r 0x20) 15 0 1 s)) :=
      (live_of_running hr _).trans (if_neg (guard_passed hu))
    exact ⟨hrow 0, hrow 1, hrow 2⟩
  case ours =>
    obtain ⟨hattach, hbye, hack, hnak⟩ := frame_rows p f hr hu hf
    exact ⟨hattach, hbye, hack, hnak, fun i k hi => sequenced_rows p f hr hu hf hi⟩
  case hello =>
    intro t u
    have hrow := exec_helloReceive hr hu hl hp
    refine ⟨fun hid hser => ?_, fun hid hser => ?_, fun hid => ?_⟩
    · exact hrow.trans (congrArg Host.Outcome.next ((if_pos hid).trans (if_pos hser)))
    · exact hrow.trans (congrArg Host.Outcome.next ((if_pos hid).trans (if_neg hser)))
    · exact hrow.trans (congrArg Host.Outcome.next (if_neg hid))
  case absent => rw [exec_partnerDeparture hr, depart_absent h]
  case present => exact (exec_partnerDeparture hr).trans (congrArg Host.Outcome.next (depart_present h))
  case timers =>
    intro un t y
    exact ⟨fun x hx => exec_retransmitTimeout hr h hx, exec_ackTimer hr h, exec_nakTimer hr h⟩
  case control =>
    intro shut new t u
    have hrow := exec_tuyCtlWrite (v := v) hr hf
    refine ⟨fun hsh => ?_, fun hsh hid => ?_, fun hsh hid => ?_⟩
    · rw [hrow, tuyCtlWrite_shut hsh]
    · rw [hrow, tuyCtlWrite_same hsh hid]
      rfl
    · exact hrow.trans (congrArg Host.Outcome.next (tuyCtlWrite_renamed hsh hid))

end Sys2Proof.Proofs

namespace Sys2Proof.Proofs

open Sys2Proof Sys2Proof.Machine Sys2Proof.Laws

/-! ### What keeps the host tracker through a module reset -/

section TrackerKept

variable (s : State)

theorem tracker_of_besideMemory {s t : State} (h : besideMemory t = besideMemory s) : t.tracker = s.tracker :=
  show (besideMemory t).tracker = (besideMemory s).tracker from congrArg State.tracker h

@[simp] theorem memWrite_tracker (who : Who) (space a : Nat) (bs : List PByte) : (memWrite who space a bs s).tracker = s.tracker :=
  tracker_of_besideMemory (besideMemory_memWrite _ _ _ _ _)

@[simp] theorem countNp_tracker (n k : Nat) : (countNp n k s).tracker = s.tracker := rfl

@[simp] theorem wakeStack_tracker (n : Nat) : (wakeStack n s).tracker = s.tracker := by
  unfold wakeStack
  split
  · simp
  · split <;> rfl

@[simp] theorem sendSnoop_tracker (line : Nat) (data : Bool) : (sendSnoop line data s).tracker = s.tracker := by
  unfold sendSnoop
  dsimp only
  split
  · rfl
  · simp

@[simp] theorem recallRange_tracker (a len : Nat) (write : Bool) : (recallRange a len write s).tracker = s.tracker :=
  overList_keeps (p := fun t : State => t.tracker = s.tracker) (fun _ t ht => (sendSnoop_tracker t _ _).trans ht) _ rfl

@[simp] theorem rangeAsk_tracker (space a len : Nat) (write : Bool) : (rangeAsk space a len write s).tracker = s.tracker := by
  unfold rangeAsk
  split <;> simp

@[simp] theorem postWrite_tracker (who : Who) (source a : Nat) (bs : List PByte) (note : PostNote) :
    (postWrite who source a bs note s).1.tracker = s.tracker := by
  unfold postWrite
  split <;> simp

@[simp] theorem writeBack_tracker (q : Nat) : (writeBack q s).tracker = s.tracker := postWrite_tracker _ _ _ _ _ _

@[simp] theorem syncQueue_tracker (q : Nat) : (syncQueue q s).tracker = s.tracker := by
  unfold syncQueue
  dsimp only
  split <;> simp

@[simp] theorem entryLanded_tracker (q idx : Nat) : (entryLanded q idx s).tracker = s.tracker := syncQueue_tracker _ _

@[simp] theorem doneTag_tracker (x : Queue) (tag : Nat) : (doneTag x tag s).tracker = s.tracker := by
  unfold doneTag
  dsimp only
  split <;> rfl

@[simp] theorem journal_tracker (q idx tag : Nat) (j : JEntry) : (journal q idx tag j s).tracker = s.tracker := by
  have hq (x : Queue) (t : State) : (setQueue q x t).tracker = t.tracker := rfl
  simp only [journal, apply_ite State.tracker, entryLanded_tracker, syncQueue_tracker, postWrite_tracker, memWrite_tracker,
    doneTag_tracker, hq, ite_self]

@[simp] theorem resetEntry_tracker (q : Nat) (c : QCmd) : (resetEntry q c s).1.tracker = s.tracker := by
  unfold resetEntry
  split
  · rfl
  · rfl
  · split <;> rfl

@[simp] theorem resetQueue_tracker (q : Nat) : (resetQueue q s).tracker = s.tracker := by
  refine overList_keeps (p := fun t : State => t.tracker = s.tracker) (fun c t ht => ?_) _ rfl
  have hentry := (resetEntry_tracker t q c).trans ht
  generalize resetEntry q c t = e at hentry ⊢
  obtain ⟨u, j⟩ := e
  dsimp only at hentry ⊢
  split
  · exact hentry
  · rw [journal_tracker, hentry]

@[simp] theorem disableQueue_tracker (q : Nat) : (disableQueue q s).tracker = s.tracker := writeBack_tracker _ _

@[simp] theorem resetQueues_tracker : (resetQueues s).tracker = s.tracker :=
  overList_keeps (p := fun t : State => t.tracker = s.tracker) (fun q t ht => (disableQueue_tracker t q).trans ht) _
    (overList_keeps (p := fun t : State => t.tracker = s.tracker) (fun q t ht => (resetQueue_tracker t q).trans ht) _ rfl)

@[simp] theorem byePartner_tracker (pid : Nat) : (byePartner pid s).tracker = s.tracker := by
  refine overList_keeps (p := fun t : State => t.tracker = s.tracker) (fun p t ht => ?_) _ rfl
  split <;> exact ht

@[simp] theorem byeAll_tracker : (byeAll s).tracker = s.tracker :=
  overList_keeps (p := fun t : State => t.tracker = s.tracker) (fun pid t ht => (byePartner_tracker t pid).trans ht) _ rfl

@[simp] theorem restoreEntries_tracker : (restoreEntries s).tracker = s.tracker := by
  unfold restoreEntries
  dsimp only
  split <;> rfl

@[simp] theorem prefenNeed_tracker (space a len : Nat) (write : Bool) : (prefenNeed space a len write s).tracker = s.tracker := by
  unfold prefenNeed
  split <;> rfl

@[simp] theorem smithStore_tracker (a : Nat) (bs : List Byte) : (smithStore a bs s).tracker = s.tracker := by simp [smithStore]

@[simp] theorem vbGo_tracker (n : Nat) (v : Word) : (vbGo n v s).tracker = s.tracker := by
  unfold vbGo
  dsimp only
  split <;> rfl

@[simp] theorem nextClear_tracker (n : Nat) : (nextClear n s).tracker = s.tracker := by
  unfold nextClear
  split
  · split
    · rfl
    · exact vbGo_tracker _ _ _
  · rfl

@[simp] theorem freeBillet_tracker (pieces : Nat) (b : Billet) : (freeBillet pieces b s).tracker = s.tracker := nextClear_tracker _ _

@[simp] theorem closeSession_tracker (id : Nat) : (closeSession id s).tracker = s.tracker := by
  unfold closeSession
  split
  · rfl
  · exact overList_keeps (p := fun t : State => t.tracker = s.tracker) (fun b t ht => (freeBillet_tracker t _ b).trans ht) _
      (smithStore_tracker s _ _)

@[simp] theorem undoOp_tracker (o : AsyncOp) : (undoOp o s).tracker = s.tracker := by
  have hload (b : Prop) [Decidable b] : (if b then updPrefen (fun p => { p with loading := false }) s else s).tracker = s.tracker := by
    split <;> rfl
  unfold undoOp
  dsimp only
  split
  · exact (closeSession_tracker _ _).trans (hload _)
  · exact hload _

@[simp] theorem resetPrefen_tracker : (resetPrefen s).tracker = s.tracker :=
  overList_keeps (p := fun t : State => t.tracker = s.tracker) (fun o t ht => (undoOp_tracker t o).trans ht) _ rfl

@[simp] theorem resetBlocks_tracker : (resetBlocks s).tracker = s.tracker := by
  unfold resetBlocks
  dsimp only
  split <;> rfl

/-- The host tracker goes through a module reset as it is (R447). -/
@[simp] theorem moduleReset_tracker : (moduleReset s).tracker = s.tracker := by simp [moduleReset]

@[simp] theorem flrConfig_tracker : (flrConfig s).tracker = s.tracker :=
  overList_keeps (p := fun t : State => t.tracker = s.tracker) (f := fun e t => setRf e 32 32 1 t) (fun _ _ ht => ht) _ rfl

theorem flrConfig_up : (flrConfig s).up = s.up :=
  overList_keeps (p := fun t : State => t.up = s.up) (f := fun e t => setRf e 32 32 1 t) (fun _ _ ht => ht) _ rfl

theorem moduleReset_up : (moduleReset s).up = false := rfl

end TrackerKept

end Sys2Proof.Proofs

namespace Sys2Proof.Proofs

open Sys2Proof Sys2Proof.Machine Sys2Proof.Laws

/-! ### Configuration events -/

section Config

variable {s : State}

theorem exec_busMasterDisable (h : linkUp s = true) : exec .busMasterDisable s = .next { s with cfg := { s.cfg with bme := false } } :=
  if_neg (guard_passed h)
theorem exec_d3hotEntry (h : linkUp s = true) : exec .d3hotEntry s = .next { s with cfg := { s.cfg with d3hot := true } } :=
  if_neg (guard_passed h)
theorem exec_busMasterEnable (h : linkUp s = true) : exec .busMasterEnable s = .next (hostAgain { s with cfg := { s.cfg with bme := true } }) :=
  if_neg (guard_passed h)
theorem exec_d3hotExit (h : linkUp s = true) : exec .d3hotExit s = .next (msixFlush { s with cfg := { s.cfg with d3hot := false } }) :=
  if_neg (guard_passed h)
theorem exec_msixUnmask_function (h : linkUp s = true) :
    exec (.msixUnmask none) s = .next (msixFlush { s with cfg := { s.cfg with msixMask := false } }) := if_neg (guard_passed h)
theorem exec_msixUnmask_vector (v : Fin 2048) (hl : linkUp s = true) (hb : hostBars s = true) (hr : running s = true)
    (hf : stageFailed s = false) : exec (.msixUnmask (some v)) s = .next (msixFlush (setRf (msixDataReg v.val) 32 32 0 s)) :=
  (hostBar_of_open hl hb _).trans (liveWrite_of_running hr hf _)

theorem exec_memorySpaceDisable (h : linkUp s = true) (hh : hostHeld s = false) :
    exec .memorySpaceDisable s = .next { s with cfg := { s.cfg with mse := false, flrMem := false } } :=
  if_neg (by rw [h, hh]; decide)

theorem exec_hdmDecoderCommit (base size bar4 : Word) (db bi : Bool) (h : linkUp s = true) :
    let good := size.toNat == 960 * 2 ^ 30 && base == bar4 && db && bi
    exec (.hdmDecoderCommit base size bar4 db bi) s = .next (setRf (hstReg 0) 49 49 (b2n bi) (setRf (hstReg 0) 48 48 (b2n good)
      { s with cfg := { s.cfg with hdmBase := base.toNat, hdmSize := size.toNat, biEn := bi, hdmOn := good, hdmErr := !good } })) :=
  if_neg (guard_passed h)

end Config

/-! ### Resets that the host asks for -/

section HostResets

variable {s : State} {kind : Nat}

/-- A reset of the function that waits with its kind, or that runs now (R394, R395, R464, R486). -/
def resetAsked (kind : Nat) (t : State) : State :=
  let u := { t with board := { t.board with waiting := t.board.waiting ++ [kind] } }
  let v := { t with board := { t.board with waiting := [] } }
  if frozen u || moduleResetWaits u then u else flrConfig (if v.up then moduleReset v else v)

theorem askFlr_eq (hk : kind ≠ 3) (t : State) : askFlr kind t = resetAsked kind t := by
  have hsome : (t.board.waiting ++ [kind]).isEmpty = false := by simp
  have hall : (t.board.waiting ++ [kind]).all (· == 3) = false := by simp [hk]
  unfold askFlr serveWaiting resetAsked
  dsimp only
  rw [hsome, hall, Bool.false_or]
  rfl

theorem exec_flr (h : linkUp s = true) : exec .flr s = .next (resetAsked 0 s) :=
  (if_neg (guard_passed h)).trans (congrArg Host.Outcome.next (askFlr_eq (by decide) s))

theorem exec_hotReset (down : Bool) (h : linkState s = 2 ∨ linkState s = 3) :
    exec (.hotReset down) s = .next (resetAsked (if down then 2 else 1) (linkDown (if down then 0 else 1) s)) := by
  refine (if_neg ?_).trans (congrArg Host.Outcome.next (askFlr_eq ?_ _))
  · rcases h with h | h <;> rw [h] <;> decide
  · cases down <;> decide

theorem resetAsked_runs (hf : frozen s = false) (hw : moduleResetWaits s = false) (hu : s.up = true) :
    resetAsked kind s = flrConfig (moduleReset { s with board := { s.board with waiting := [] } }) := by
  have hf' : frozen { s with board := { s.board with waiting := s.board.waiting ++ [kind] } } = false := hf
  have hw' : moduleResetWaits { s with board := { s.board with waiting := s.board.waiting ++ [kind] } } = false := hw
  refine (if_neg (by rw [hf', hw']; decide)).trans (congrArg flrConfig (if_pos hu))

/-- A running module that the function's reset meets is down, its hearths in RESET, its tracker as it was (R394, R447). -/
theorem resetAsked_down (hf : frozen s = false) (hw : moduleResetWaits s = false) (hu : s.up = true) :
    (resetAsked kind s).up = false ∧ (resetAsked kind s).tracker = s.tracker ∧ ∀ k, (hearth (resetAsked kind s) k).reset = true := by
  have hup : (resetAsked kind s).up = false := by rw [resetAsked_runs hf hw hu, flrConfig_up, moduleReset_up]
  refine ⟨hup, ?_, fun k => ?_⟩
  · rw [resetAsked_runs hf hw hu, flrConfig_tracker, moduleReset_tracker]
  · simp [hearth, hup]

end HostResets

/-! ### Link events -/

section Link

variable {s : State}

theorem exec_linkRecovery (h : linkState s = 2 ∨ linkState s = 3) :
    let u := { s with free := s.free + 1, cfg := { s.cfg with
      aerCorr := s.cfg.aerCorr || Config.linkCorrected s.free, aerFatal := s.cfg.aerFatal || Config.linkFatal s.free } }
    exec .linkRecovery s =
      .next (satRf (hstReg 0) 15 0 1 (setRf (hstReg 0) 31 16 (rf u (hstReg 0) 31 16 ||| (Config.linkLanes s.free).toNat) u)) :=
  if_neg (by rcases h with h | h <;> rw [h] <;> decide)

theorem exec_hostLinkUp (rate : Fin 7) (width : Fin 32) (flit cache mem : Bool) (hl : linkState s ≤ 1) (hm : mayTrain s = true)
    (hr : rate.val ≠ 0) (hw : width.val ∈ [1, 2, 4, 8, 16]) :
    let cxl := rate.val == 6 && flit && (width.val == 16 || width.val == 8) && (cache || mem)
    exec (.hostLinkUp rate width flit cache mem) s = .next (hostAgain (setRf (hstReg 0) 63 60 (if cxl then 3 else 2)
      (setRf (hstReg 0) 59 56 rate.val (setRf (hstReg 0) 55 51 width.val (setRf (hstReg 0) 50 50 (b2n flit)
        { s with cfg := { s.cfg with cacheEn := cxl && cache, memEn := cxl && mem, loopback := false } }))))) := by
  have hl' : decide (1 < linkState s) = false := decide_eq_false (Nat.not_lt.mpr hl)
  have hr' : (rate.val == 0) = false := beq_false_of_ne hr
  have hw' : [1, 2, 4, 8, 16].contains width.val = true := List.contains_iff_mem.mpr hw
  exact if_neg (by rw [hl', hm, hr', hw']; decide)

theorem exec_pcieLoopback (h : linkState s ≠ 0) (e : Bool) :
    exec (.pcieLoopback e) s = .next { s with cfg := { s.cfg with loopback := e } } := if_neg h

end Link

/-! ### PERST_N -/

section Perst

variable {s : State}

theorem byeAll_flash (s : State) : (byeAll s).flash = s.flash := by
  refine overList_keeps (p := fun t : State => t.flash = s.flash) (fun pid t ht => ?_) _ rfl
  refine overList_keeps (p := fun u : State => u.flash = s.flash) (fun p u hu => ?_) _ ht
  split <;> exact hu

/-- The module after a warm reset by PERST_N (R453, R454). -/
def perstReset (s : State) : State :=
  let t := warmReset (byeAll s)
  setPstate 1 { t with board := { t.board with perst := true } }

/-- No row of SM is valid after a warm reset, so every byte reads as zero (R447). -/
theorem perstReset_peekByte (s : State) (a : Nat) : peekByte (perstReset s) 4 a = 0 := by
  refine peekByte_of_not_valid ?_
  have hvalid : (perstReset s).mem.valid = [] := rfl
  rw [isValid, hvalid, tabGet]
  decide

theorem perstReset_flash (s : State) : (perstReset s).flash = s.flash := byeAll_flash s

/-- Is an asserted PERST_N only noted (R454)? -/
def perstNoted (s : State) : Bool :=
  s.board.perst || decide (s.board.boot < 2) || (decide (s.board.boot < 6) && !s.board.warm && !stageFailed s)

theorem exec_perstAssert_noted (h : perstNoted s = true) : exec .perstAssert s = .next { s with board := { s.board with perst := true } } :=
  if_pos h

theorem exec_perstAssert_resets (h : perstNoted s = false) : exec .perstAssert s = .next (perstReset s) := if_neg (ne_true_of_eq_false h)

end Perst

/-! ### The host loop-back -/

section Loop

variable {s : State} {v : Word}

theorem exec_hostLoopStart (hr : running s = true) (hf : stageFailed s = false) : exec (.hostLoopStart v) s = .next (hostLoopStart v s) :=
  liveWrite_of_running hr hf _

theorem exec_hostLoopStop (errs : BitVec 32) (lanes : BitVec 16) (hr : running s = true) (hf : stageFailed s = false) :
    exec (.hostLoopStop v errs lanes) s = .next (hostLoopEnd errs.toNat lanes.toNat (loopFields v s)) := liveWrite_of_running hr hf _

/-- The state in which a write of HST_LOOP has stored its fields and cleared the error count (R457). -/
def loopCleared (v : Word) (s : State) : State := setRf loopReg 63 32 0 (loopFields v s)

theorem hostLoopStart_runs (hh : rf (loopCleared v s) (qchReg 0x40) 0 0 = 1) (hm : fieldOf v 7 6 = 1 ∨ fieldOf v 7 6 = 2) :
    hostLoopStart v s = setRf loopReg 3 2 1 (loopCleared v s) :=
  if_pos (Bool.and_eq_true_iff.mpr ⟨decide_eq_true hh, by simpa using hm⟩)

theorem hostLoopStart_refused (h : rf (loopCleared v s) (qchReg 0x40) 0 0 ≠ 1 ∨ (fieldOf v 7 6 ≠ 1 ∧ fieldOf v 7 6 ≠ 2)) :
    hostLoopStart v s = setRf loopReg 3 3 1 (loopCleared v s) := by
  refine if_neg (fun hc => ?_)
  obtain ⟨hh, hm⟩ := Bool.and_eq_true_iff.mp hc
  rcases h with h | ⟨h1, h2⟩
  · exact h (of_decide_eq_true hh)
  · simp [h1, h2] at hm

end Loop

/-- Settles O55: each event by its equation; a reset asked for either waits or leaves the module down, and a warm reset leaves no valid row. -/
theorem hostPortEvents : Obligations.HostPortEvents := by
  unfold Obligations.HostPortEvents
  intro s lk lp cfg again resets
  refine ⟨fun hl => ?config, fun v hl hb hr hf => exec_msixUnmask_vector v hl hb hr hf, fun h => ⟨exec_linkRecovery h, fun down => exec_hotReset down h⟩,
    fun h e => exec_pcieLoopback h e, fun rate width flit cache mem hl hm hr hw => exec_hostLinkUp rate width flit cache mem hl hm hr hw,
    ?perst, ?deassert, fun v hr hf => ?loop⟩
  case config =>
    exact ⟨exec_busMasterDisable hl, exec_d3hotEntry hl, exec_busMasterEnable hl, exec_d3hotExit hl, exec_msixUnmask_function hl,
      exec_memorySpaceDisable hl, fun base size bar4 db bi => exec_hdmDecoderCommit base size bar4 db bi hl, exec_flr hl, resetAsked_down⟩
  case perst =>
    intro noted t u
    exact ⟨exec_perstAssert_noted, exec_perstAssert_resets, rfl, rfl, rfl, perstReset_flash s, perstReset_peekByte s⟩
  case deassert => rfl
  case loop =>
    intro t held
    refine ⟨fun hh hm => ?_, fun hh => ?_, fun errs lanes => ?_⟩
    · exact (exec_hostLoopStart hr hf).trans (congrArg Host.Outcome.next (hostLoopStart_runs hh hm))
    · exact (exec_hostLoopStart hr hf).trans (congrArg Host.Outcome.next (hostLoopStart_refused hh))
    · intro u
      exact ⟨fun h => (exec_hostLoopStop errs lanes hr hf).trans (congrArg Host.Outcome.next (if_pos h)),
        fun h => (exec_hostLoopStop errs lanes hr hf).trans (congrArg Host.Outcome.next (if_neg h))⟩

end Sys2Proof.Proofs

namespace Sys2Proof.Proofs

open Sys2Proof Sys2Proof.Machine Sys2Proof.Laws

/-! ### Changes of registers alone -/

/-- `t` is `s` with registers written, all of them in `P`, in canonical form where `s` is. -/
structure WritesOnly (P : Nat → Prop) (s t : State) : Prop where
  onlyRegs : t = { s with regs := t.regs }
  wf : s.wf = true → t.wf = true
  rg_eq : ∀ o, ¬ P o → rg t o = rg s o

namespace WritesOnly

variable {P Q : Nat → Prop} {s t u : State}

theorem refl (P : Nat → Prop) (s : State) : WritesOnly P s s := ⟨rfl, id, fun _ _ => rfl⟩

theorem trans (h : WritesOnly P s t) (h' : WritesOnly P t u) : WritesOnly P s u where
  onlyRegs := h'.onlyRegs.trans (congrArg (fun x : State => { x with regs := u.regs }) h.onlyRegs)
  wf hs := h'.wf (h.wf hs)
  rg_eq o ho := (h'.rg_eq o ho).trans (h.rg_eq o ho)

theorem mono (h : WritesOnly P s t) (hPQ : ∀ o, P o → Q o) : WritesOnly Q s t :=
  ⟨h.onlyRegs, h.wf, fun o ho => h.rg_eq o fun hp => ho (hPQ o hp)⟩

theorem rf_eq (h : WritesOnly P s t) {o : Nat} (ho : ¬ P o) (hi lo : Nat) : rf t o hi lo = rf s o hi lo :=
  congrArg (fieldOf · hi lo) (h.rg_eq o ho)

theorem overList {f : Nat → State → State} {l : List Nat} (hf : ∀ k ∈ l, ∀ s, WritesOnly P s (f k s)) (s : State) :
    WritesOnly P s (Machine.overList f l s) := by
  induction l generalizing s with
  | nil => exact refl P s
  | cons k l ih =>
    exact (hf k List.mem_cons_self s).trans (ih (fun j hj => hf j (List.mem_cons_of_mem _ hj)) _)

end WritesOnly

theorem writesOnly_setRf {P : Nat → Prop} {o : Nat} (ho : P o) (hi lo v : Nat) (s : State) : WritesOnly P s (setRf o hi lo v s) where
  onlyRegs := rfl
  wf := wf_setRf o hi lo v
  rg_eq _ h := rg_setRf_other s hi lo v fun e => h (e ▸ ho)

/-! ### The registers of a Bell -/

/-- BEL_TGT_STAT of a target of Bell `b` (R407). -/
def IsTarget (b o : Nat) : Prop := ∃ t < 16, o = tgtStat b t

/-- BEL_SRC of a source among those that `p` names, or BEL_TGT_STAT. -/
def IsSource (b : Nat) (p : Nat → Prop) (o : Nat) : Prop := (∃ k < 1024, p k ∧ o = srcReg b k) ∨ IsTarget b o

theorem srcReg_injective {b j k : Nat} (h : srcReg b j = srcReg b k) : j = k := by
  simp only [srcReg, belReg] at h
  omega

theorem srcReg_not_target {b k : Nat} (hk : k < 1024) : ¬ IsTarget b (srcReg b k) := by
  rintro ⟨t, -, h⟩
  simp only [srcReg, tgtStat, belReg] at h
  omega

theorem srcReg_not_source {b k : Nat} {p : Nat → Prop} (hk : k < 1024) (hp : ¬ p k) : ¬ IsSource b p (srcReg b k) := by
  rintro (⟨j, -, hj, h⟩ | h)
  · exact hp (srcReg_injective h ▸ hj)
  · exact srcReg_not_target hk h

theorem isSource_self {b k : Nat} {p : Nat → Prop} (hk : k < 1024) (hp : p k) : IsSource b p (srcReg b k) := .inl ⟨k, hk, hp, rfl⟩

theorem IsSource.mono {b o : Nat} {p q : Nat → Prop} (h : IsSource b p o) (hpq : ∀ k, p k → q k) : IsSource b q o :=
  h.imp_left fun ⟨k, hk, hp, e⟩ => ⟨k, hk, hpq k hp, e⟩

theorem bellTargets_le (b : Nat) : bellTargets b ≤ 16 := by unfold bellTargets; split <;> decide

theorem deliverable_target {s : State} {b k t : Nat} (h : deliverable s b k t = true) : t < 16 := by
  simp only [deliverable, Bool.and_eq_true, decide_eq_true_eq] at h
  exact h.2.trans_le (bellTargets_le b)


/-! ### What each operation of a Bell writes -/

section Writes

variable {b k t : Nat} {s : State}

theorem arrive_writes (ht : t < 16) : WritesOnly (IsTarget b) s (arrive b t s) := by
  have hw (hi lo v : Nat) (s : State) := writesOnly_setRf (P := IsTarget b) ⟨t, ht, rfl⟩ hi lo v s
  unfold arrive
  dsimp only
  split
  · exact (hw _ _ _ _).trans (hw _ _ _ _)
  · exact (hw _ _ _ _).trans (hw _ _ _ _)
  · exact .refl _ _

theorem assertLine_writes (ht : t < 16) : WritesOnly (IsTarget b) s (assertLine b t s) :=
  writesOnly_setRf (P := IsTarget b) ⟨t, ht, rfl⟩ _ _ _ _

theorem settleTarget_writes (ht : t < 16) : WritesOnly (IsTarget b) s (settleTarget b t s) := by
  have hw (hi lo v : Nat) (s : State) := writesOnly_setRf (P := IsTarget b) ⟨t, ht, rfl⟩ hi lo v s
  unfold settleTarget
  split
  · exact .refl _ _
  · exact (hw _ _ _ _).trans (hw _ _ _ _)

theorem settleBell_writes (b : Nat) (s : State) : WritesOnly (IsTarget b) s (settleBell b s) :=
  .overList (fun _ ht _ => settleTarget_writes ((List.mem_range.mp ht).trans_le (bellTargets_le b))) s

/-- A source moved to a state: beside that state only a target changes. -/
theorem moveSource_writes (b k st : Nat) (s : State) :
    WritesOnly (IsTarget b) (setRf (srcReg b k) 61 60 st s) (moveSource b k st s) := by
  unfold moveSource
  dsimp only
  split
  · exact .refl _ _
  · next h =>
    have ht : deliverable (setRf (srcReg b k) 61 60 st s) b k (rf (setRf (srcReg b k) 61 60 st s) (srcReg b k) 3 0) = true := by
      simp only [Bool.or_eq_true, Bool.not_eq_true', not_or, Bool.not_eq_false] at h
      exact h.2
    split
    · exact arrive_writes (deliverable_target ht)
    · exact assertLine_writes (deliverable_target ht)

/-- The state that a source takes when it is set (R402): INACTIVE is PENDING, ACTIVE is ACTIVE_AND_PENDING. -/
def risen (st : Nat) : Nat := if st = 0 then 1 else if st = 2 then 3 else st

/-- The state with a source's state set as by a rising level, before any target hears of it. -/
def raised (b k : Nat) (s : State) : State :=
  let st := rf s (srcReg b k) 61 60
  if st = 0 ∨ st = 2 then setRf (srcReg b k) 61 60 (risen st) s else s

theorem riseSource_writes (b k : Nat) (s : State) : WritesOnly (IsTarget b) (raised b k s) (riseSource b k s) := by
  unfold riseSource raised
  split
  · next h => rw [if_pos (.inl h), h]; exact moveSource_writes b k 1 s
  · next h => rw [if_pos (.inr h), h]; exact moveSource_writes b k 3 s
  · next h0 h2 => rw [if_neg (not_or.mpr ⟨h0, h2⟩)]; exact .refl _ _

theorem writesOnly_own (hk : k < 1024) (hi lo v : Nat) (s : State) : WritesOnly (IsSource b (· = k)) s (setRf (srcReg b k) hi lo v s) :=
  writesOnly_setRf (isSource_self (p := (· = k)) hk rfl) hi lo v s

theorem WritesOnly.ofTarget {p : Nat → Prop} {s t : State} (h : WritesOnly (IsTarget b) s t) : WritesOnly (IsSource b p) s t :=
  h.mono fun _ => .inr

theorem raised_writes (hk : k < 1024) (s : State) : WritesOnly (IsSource b (· = k)) s (raised b k s) := by
  unfold raised
  dsimp only
  split
  · exact writesOnly_own hk _ _ _ _
  · exact .refl _ _

theorem riseSource_writes_own (hk : k < 1024) (s : State) : WritesOnly (IsSource b (· = k)) s (riseSource b k s) :=
  (raised_writes hk s).trans (riseSource_writes b k s).ofTarget

theorem fallSource_writes (hk : k < 1024) (s : State) : WritesOnly (IsSource b (· = k)) s (fallSource b k s) := by
  unfold fallSource
  dsimp only
  split
  · exact writesOnly_own hk _ _ _ _
  · exact .refl _ _

theorem sampleLevel_writes (hk : k < 1024) (s : State) : WritesOnly (IsSource b (· = k)) s (sampleLevel b k s) := by
  unfold sampleLevel
  dsimp only
  split
  · exact .refl _ _
  · refine (writesOnly_own hk 63 63 (b2n (sourceLevel s b k)) s).trans ?_
    split
    · exact riseSource_writes_own hk _
    · exact fallSource_writes hk _

theorem setLatch_writes (hk : k < 1024) (s : State) : WritesOnly (IsSource b (· = k)) s (setLatch b k s) := by
  unfold setLatch
  dsimp only
  split
  · exact .refl _ _
  · exact (writesOnly_own hk _ _ _ _).trans (riseSource_writes_own hk _)

/-- The step of BEL_CLRP on one source (R404): its level taken over, its latch cleared. -/
def clearLatch (b k : Nat) (s : State) : State := fallSource b k (setRf (srcReg b k) 62 62 0 (sampleLevel b k s))

theorem clearLatch_writes (hk : k < 1024) (s : State) : WritesOnly (IsSource b (· = k)) s (clearLatch b k s) :=
  ((sampleLevel_writes hk s).trans (writesOnly_own hk _ _ _ _)).trans (fallSource_writes hk _)

theorem completeSource_writes (hk : k < 1024) (s : State) : WritesOnly (IsSource b (· = k)) s (completeSource b k s) :=
  (sampleLevel_writes hk s).trans <| (writesOnly_own hk _ _ _ _).trans <| (moveSource_writes b k _ _).ofTarget.trans <|
    (writesOnly_own hk _ _ _ _).trans (fallSource_writes hk _)

end Writes

/-! ### What each operation makes of its own source -/

section Own

variable {b k : Nat} {s : State}

theorem rf_of_target_writes {s t : State} (h : WritesOnly (IsTarget b) s t) (hk : k < 1024) (hi lo : Nat) :
    rf t (srcReg b k) hi lo = rf s (srcReg b k) hi lo := h.rf_eq (srcReg_not_target hk) hi lo

theorem source_state_lt (s : State) (o : Nat) : rf s o 61 60 < 4 := natBits_lt _ 61 60

theorem rf_riseSource_state (hk : k < 1024) (hs : s.wf = true) :
    rf (riseSource b k s) (srcReg b k) 61 60 = risen (rf s (srcReg b k) 61 60) := by
  rw [rf_of_target_writes (riseSource_writes b k s) hk]
  unfold raised risen
  dsimp only
  split
  · next h =>
    rw [rf_setRf_same (wf_regs hs) (by decide) (by decide)]
    obtain h | h := h <;> rw [h] <;> decide
  · next h => rw [if_neg (not_or.mp h).1, if_neg (not_or.mp h).2]

theorem rf_riseSource_above (hk : k < 1024) (hs : s.wf = true) {hi lo : Nat} (h : 61 < lo) :
    rf (riseSource b k s) (srcReg b k) hi lo = rf s (srcReg b k) hi lo := by
  rw [rf_of_target_writes (riseSource_writes b k s) hk]
  unfold raised
  dsimp only
  split
  · exact rf_setRf_above _ (wf_regs hs) (by decide) (by decide) h
  · rfl

theorem rf_fallSource_above (hs : s.wf = true) {hi lo : Nat} (h : 61 < lo) :
    rf (fallSource b k s) (srcReg b k) hi lo = rf s (srcReg b k) hi lo := by
  unfold fallSource
  dsimp only
  split
  · exact rf_setRf_above _ (wf_regs hs) (by decide) (by decide) h
  · rfl

theorem rf_fallSource_below (hs : s.wf = true) {hi lo : Nat} (h : hi < 60) (h' : lo ≤ hi) :
    rf (fallSource b k s) (srcReg b k) hi lo = rf s (srcReg b k) hi lo := by
  unfold fallSource
  dsimp only
  split
  · exact rf_setRf_below _ (wf_regs hs) (by decide) (by decide) h h'
  · rfl

theorem fallSource_of_not_pending (h : rf s (srcReg b k) 61 60 ≠ 1) : fallSource b k s = s := by
  unfold fallSource
  exact if_neg (by simp [h])

theorem fallSource_of_high (h : rf s (srcReg b k) 63 62 ≠ 0) : fallSource b k s = s := by
  unfold fallSource
  exact if_neg (by simp [h])

theorem rf_fallSource_low (hs : s.wf = true) (hp : rf s (srcReg b k) 61 60 = 1) (h : rf s (srcReg b k) 63 62 = 0) :
    rf (fallSource b k s) (srcReg b k) 61 60 = 0 := by
  have e : fallSource b k s = setRf (srcReg b k) 61 60 0 s := if_pos (by simp [hp, h])
  rw [e, rf_setRf_same (wf_regs hs) (by decide) (by decide) (by decide)]

/-- Level and latch of BEL_SRC read together. -/
theorem rf_level_latch (s : State) (o : Nat) : rf s o 63 62 = 2 * rf s o 63 63 + rf s o 62 62 := by
  simp only [rf, fieldOf, natBits]
  omega

theorem b2n_lt (x : Bool) : b2n x < 2 := by cases x <;> decide

/-- After a sample the level bit is the source's level (R402). -/
theorem rf_sampleLevel_level (hk : k < 1024) (hs : s.wf = true) :
    rf (sampleLevel b k s) (srcReg b k) 63 63 = b2n (sourceLevel s b k) := by
  have hset : rf (setRf (srcReg b k) 63 63 (b2n (sourceLevel s b k)) s) (srcReg b k) 63 63 = b2n (sourceLevel s b k) :=
    rf_setRf_same (wf_regs hs) (by decide) (by decide) (b2n_lt _)
  unfold sampleLevel
  dsimp only
  split
  · next h => exact h
  · split
    · rw [rf_riseSource_above hk (wf_setRf _ _ _ _ hs) (by decide), hset]
    · rw [rf_fallSource_above (wf_setRf _ _ _ _ hs) (by decide), hset]

theorem sampleLevel_of_same (h : rf s (srcReg b k) 63 63 = b2n (sourceLevel s b k)) : sampleLevel b k s = s := if_pos h

theorem sampleLevel_of_rise (h : rf s (srcReg b k) 63 63 ≠ 1) (hl : sourceLevel s b k = true) :
    sampleLevel b k s = riseSource b k (setRf (srcReg b k) 63 63 1 s) := by
  unfold sampleLevel
  rw [hl]
  exact if_neg h

theorem sampleLevel_of_fall (h : rf s (srcReg b k) 63 63 ≠ 0) (hl : sourceLevel s b k = false) :
    sampleLevel b k s = fallSource b k (setRf (srcReg b k) 63 63 0 s) := by
  unfold sampleLevel
  rw [hl]
  exact if_neg h

theorem rf_setLevel_below (hs : s.wf = true) (v : Nat) {hi lo : Nat} (h : hi < 63) (h' : lo ≤ hi) :
    rf (setRf (srcReg b k) 63 63 v s) (srcReg b k) hi lo = rf s (srcReg b k) hi lo :=
  rf_setRf_below v (wf_regs hs) (by decide) (by decide) h h'

/-- A state beyond INACTIVE is as after a rise that found it so. -/
theorem rf_sampleLevel_of_high (hk : k < 1024) (hs : s.wf = true) (hl : sourceLevel s b k = true) :
    rf (sampleLevel b k s) (srcReg b k) 61 60 = rf s (srcReg b k) 61 60 ∨
      rf (sampleLevel b k s) (srcReg b k) 61 60 = risen (rf s (srcReg b k) 61 60) := by
  by_cases h : rf s (srcReg b k) 63 63 = 1
  · rw [sampleLevel_of_same (by rw [h, hl]; rfl)]
    exact .inl rfl
  · rw [sampleLevel_of_rise h hl, rf_riseSource_state hk (wf_setRf _ _ _ _ hs), rf_setLevel_below hs _ (by decide) (by decide)]
    exact .inr rfl

/-- A falling level leaves every state but PENDING. -/
theorem rf_sampleLevel_of_low (hs : s.wf = true) (hl : sourceLevel s b k = false) (hp : rf s (srcReg b k) 61 60 ≠ 1) :
    rf (sampleLevel b k s) (srcReg b k) 61 60 = rf s (srcReg b k) 61 60 := by
  have hkeep := rf_setLevel_below (b := b) (k := k) hs 0 (hi := 61) (lo := 60) (by decide) (by decide)
  by_cases h : rf s (srcReg b k) 63 63 = 0
  · rw [sampleLevel_of_same (by rw [h, hl]; rfl)]
  · rw [sampleLevel_of_fall h hl, fallSource_of_not_pending (by rwa [hkeep]), hkeep]

end Own

/-! ### A Bell's registers do not move the level of a source -/

section Level

variable {s t : State} {b : Nat} {p : Nat → Prop}

theorem not_source_of_outside {o : Nat} (ho : o < 0x00180000 + b * 0x10000 ∨ 0x00183208 + b * 0x10000 ≤ o) : ¬ IsSource b p o := by
  rintro (⟨k, hk, -, rfl⟩ | ⟨t, ht, rfl⟩) <;> simp only [srcReg, tgtStat, belReg] at ho <;> omega

theorem sourceLevel_of_writes (hb : b < 5) (h : WritesOnly (IsSource b p) s t) (k : Nat) : sourceLevel t b k = sourceLevel s b k := by
  have hcount : counterLevel t b k = counterLevel s b k := by
    have hr : ¬ IsSource b p (belReg b (0x4000 + 8 * k)) := not_source_of_outside (by simp only [belReg]; omega)
    simp only [counterLevel, h.rf_eq hr]
  have hlatch (n : Nat) : rg t (latchInfoReg n) = rg s (latchInfoReg n) := by
    refine h.rg_eq _ (not_source_of_outside (.inr ?_))
    unfold latchInfoReg latchAddrReg
    split <;> simp only [stkReg, anvReg] <;> omega
  have hqsc (off hi lo : Nat) : rf t (qscReg off) hi lo = rf s (qscReg off) hi lo :=
    h.rf_eq (not_source_of_outside (.inr (by simp only [qscReg]; omega))) hi lo
  have hemb : rg t (embReg 0x20) = rg s (embReg 0x20) := h.rg_eq _ (not_source_of_outside (.inr (by simp only [embReg]; omega)))
  have hpend : anyPending t = anyPending s := by rw [h.onlyRegs]; rfl
  have hmb (m : Nat) : mbox t m = mbox s m := by rw [h.onlyRegs]; rfl
  have hhearth (i : Nat) : hearth t i = hearth s i := by rw [h.onlyRegs]; rfl
  simp only [sourceLevel, hcount, hlatch, hqsc, hemb, hpend, hmb, hhearth]

end Level

/-! ### An operation over a set of sources -/

section Sources

variable {b : Nat} {f : Nat → State → State} {l : List Nat}

theorem overList_sources (hf : ∀ k < 1024, ∀ s, WritesOnly (IsSource b (· = k)) s (f k s)) (hl : ∀ k ∈ l, k < 1024) (s : State) :
    WritesOnly (IsSource b (· ∈ l)) s (overList f l s) :=
  .overList (fun k hk s => (hf k (hl k hk) s).mono fun _ ho => ho.mono fun _ e => e ▸ hk) s

/-- A source of the list meets a state in which it is as it was, and what it becomes there stays. -/
theorem overList_source_mem (hf : ∀ k < 1024, ∀ s, WritesOnly (IsSource b (· = k)) s (f k s)) (hl : ∀ k ∈ l, k < 1024)
    (hnd : l.Nodup) {j : Nat} (hj : j ∈ l) (s : State) :
    ∃ u, WritesOnly (IsSource b (· ≠ j)) s u ∧ rg (overList f l s) (srcReg b j) = rg (f j u) (srcReg b j) := by
  induction l generalizing s with
  | nil => cases hj
  | cons k l ih =>
    obtain ⟨hk, hnd⟩ := List.nodup_cons.mp hnd
    have hl' : ∀ k ∈ l, k < 1024 := fun k hk => hl k (List.mem_cons_of_mem _ hk)
    by_cases e : j = k
    · subst e
      exact ⟨s, .refl _ _, (overList_sources hf hl' _).rg_eq _ (srcReg_not_source (hl j hj) hk)⟩
    · obtain ⟨u, hu, hr⟩ := ih hl' hnd ((List.mem_cons.mp hj).resolve_left e) (f k s)
      exact ⟨u, ((hf k (hl k List.mem_cons_self) s).mono fun _ ho => ho.mono fun _ e' => e' ▸ Ne.symm e).trans hu, hr⟩

theorem mem_upFrom {x a n : Nat} : x ∈ upFrom a n ↔ a ≤ x ∧ x < a + n := by
  unfold upFrom
  induction n generalizing a with
  | zero => exact iff_of_false List.not_mem_nil (by omega)
  | succ n ih => rw [strideList, List.mem_cons, ih]; omega

theorem nodup_upFrom (a n : Nat) : (upFrom a n).Nodup := by
  induction n generalizing a with
  | zero => exact List.nodup_nil
  | succ n ih => exact List.nodup_cons.mpr ⟨fun h => absurd (mem_upFrom.mp h).1 (by omega), ih (a + 1)⟩

theorem mem_maskSources {w x : Nat} {mask : Word} : x ∈ maskSources w mask ↔ x / 64 = w ∧ bitOf mask (x % 64) = true := by
  rw [maskSources, List.mem_filter, mem_upFrom]
  refine and_congr_left' ?_
  omega

theorem maskSources_lt {w : Nat} (hw : w < 16) (mask : Word) : ∀ k ∈ maskSources w mask, k < 1024 := by
  intro k hk
  have := (mem_maskSources.mp hk).1
  omega

theorem nodup_maskSources (w : Nat) (mask : Word) : (maskSources w mask).Nodup := (nodup_upFrom _ _).filter _

end Sources

end Sys2Proof.Proofs

namespace Sys2Proof.Proofs

open Sys2Proof Sys2Proof.Machine Sys2Proof.Laws

/-! ### Software latches (R404) -/

section Latch

variable {b k : Nat} {s : State}

theorem setLatch_of_clear (h : rf s (srcReg b k) 62 62 = 0) : setLatch b k s = riseSource b k (setRf (srcReg b k) 62 62 1 s) :=
  if_neg (by rw [h]; decide)

theorem rf_setLatch_latch (hk : k < 1024) (hs : s.wf = true) : rf (setLatch b k s) (srcReg b k) 62 62 = 1 := by
  by_cases h : rf s (srcReg b k) 62 62 = 1
  · rw [show setLatch b k s = s from if_pos h, h]
  · have hlt : rf s (srcReg b k) 62 62 < 2 := natBits_lt _ 62 62
    rw [setLatch_of_clear (by omega), rf_riseSource_above hk (wf_setRf _ _ _ _ hs) (by decide),
      rf_setRf_same (wf_regs hs) (by decide) (by decide) (by decide)]

theorem rf_setLatch_state (hk : k < 1024) (hs : s.wf = true) (h : rf s (srcReg b k) 62 62 = 0) :
    rf (setLatch b k s) (srcReg b k) 61 60 = risen (rf s (srcReg b k) 61 60) := by
  rw [setLatch_of_clear h, rf_riseSource_state hk (wf_setRf _ _ _ _ hs),
    rf_setRf_below _ (wf_regs hs) (by decide) (by decide) (by decide) (by decide)]

theorem risen_by_state {n m : Nat} (h : m = risen n) : (n = 0 → m = 1) ∧ (n = 1 → m = 1) ∧ (n = 2 → m = 3) ∧ (n = 3 → m = 3) :=
  ⟨fun e => by rw [h, e]; rfl, fun e => by rw [h, e]; rfl, fun e => by rw [h, e]; rfl, fun e => by rw [h, e]; rfl⟩

theorem rf_sampleLevel_pending_low (hs : s.wf = true) (hl : sourceLevel s b k = false) (hp : rf s (srcReg b k) 61 60 = 1) :
    rf (sampleLevel b k s) (srcReg b k) 61 60 = 1 ∨ rf (sampleLevel b k s) (srcReg b k) 61 60 = 0 := by
  by_cases h : rf s (srcReg b k) 63 63 = 0
  · exact .inl (by rw [sampleLevel_of_same (by rw [h, hl]; rfl), hp])
  · have hu := wf_setRf (srcReg b k) 63 63 0 hs
    have hp' := (rf_setLevel_below (b := b) (k := k) hs 0 (hi := 61) (lo := 60) (by decide) (by decide)).trans hp
    rw [sampleLevel_of_fall h hl]
    by_cases h0 : rf (setRf (srcReg b k) 63 63 0 s) (srcReg b k) 63 62 = 0
    · exact .inr (rf_fallSource_low hu hp' h0)
    · exact .inl (by rw [fallSource_of_high h0, hp'])

/-- The latch cleared, a PENDING source stays so exactly while its level is 1 (R404). -/
theorem rf_clearLatch_latch (hk : k < 1024) (hs : s.wf = true) : rf (clearLatch b k s) (srcReg b k) 62 62 = 0 := by
  have hw := (sampleLevel_writes (b := b) hk s).wf hs
  rw [clearLatch, rf_fallSource_above (wf_setRf _ _ _ _ hw) (by decide), rf_setRf_same (wf_regs hw) (by decide) (by decide) (by decide)]

theorem rf_clearLatch_state (hk : k < 1024) (hs : s.wf = true) (hp : rf s (srcReg b k) 61 60 = 1) :
    rf (clearLatch b k s) (srcReg b k) 61 60 = b2n (sourceLevel s b k) := by
  have hw := (sampleLevel_writes (b := b) hk s).wf hs
  have hu := wf_setRf (srcReg b k) 62 62 0 hw
  have hlevel := rf_sampleLevel_level (b := b) hk hs
  have hstate : rf (setRf (srcReg b k) 62 62 0 (sampleLevel b k s)) (srcReg b k) 61 60 = rf (sampleLevel b k s) (srcReg b k) 61 60 :=
    rf_setRf_below _ (wf_regs hw) (by decide) (by decide) (by decide) (by decide)
  have hhigh : rf (setRf (srcReg b k) 62 62 0 (sampleLevel b k s)) (srcReg b k) 63 62 = 2 * b2n (sourceLevel s b k) := by
    rw [rf_level_latch, rf_setRf_same (wf_regs hw) (by decide) (by decide) (by decide),
      rf_setRf_above _ (wf_regs hw) (by decide) (by decide) (by decide), hlevel, Nat.add_zero]
  unfold clearLatch
  cases hl : sourceLevel s b k with
  | true =>
    rw [fallSource_of_high (by rw [hhigh, hl]; decide), hstate]
    obtain e | e := rf_sampleLevel_of_high hk hs hl <;> rw [e, hp] <;> rfl
  | false =>
    by_cases e : rf (sampleLevel b k s) (srcReg b k) 61 60 = 1
    · rw [rf_fallSource_low hu (by rw [hstate, e]) (by rw [hhigh, hl]; rfl)]
      rfl
    · rw [fallSource_of_not_pending (by rw [hstate]; exact e), hstate]
      exact (rf_sampleLevel_pending_low hs hl hp).resolve_left e

end Latch

/-! ### Claims (R403) -/

section Claim

variable {b t k : Nat} {s : State}

/-- The state after target `t` claimed source `k`. -/
def claimed (b t k : Nat) (s : State) : State :=
  settleTarget b t (setRf (srcReg b k) 59 56 t (setRf (srcReg b k) 62 62 0 (setRf (srcReg b k) 61 60 2 s)))

/-- Source `k` is the one that target `t` claims: of the highest priority, and of the lowest number there (R403). -/
structure Claims (s : State) (b t k : Nat) : Prop where
  mem : k ∈ claimable s b t
  best : ∀ j ∈ claimable s b t,
    rf s (srcReg b j) 10 8 < rf s (srcReg b k) 10 8 ∨ (rf s (srcReg b j) 10 8 = rf s (srcReg b k) 10 8 ∧ k ≤ j)

theorem le_foldl_max (f : Nat → Nat) (l : List Nat) (a : Nat) :
    a ≤ l.foldl (fun p x => max p (f x)) a ∧ ∀ x ∈ l, f x ≤ l.foldl (fun p x => max p (f x)) a := by
  induction l generalizing a with
  | nil => exact ⟨le_rfl, fun _ h => nomatch h⟩
  | cons y l ih =>
    obtain ⟨ha, hl⟩ := ih (max a (f y))
    refine ⟨(le_max_left _ _).trans ha, fun x hx => ?_⟩
    obtain rfl | hx := List.mem_cons.mp hx
    · exact (le_max_right _ _).trans ha
    · exact hl x hx

theorem foldl_max_reached (f : Nat → Nat) (l : List Nat) (a : Nat) :
    l.foldl (fun p x => max p (f x)) a = a ∨ ∃ x ∈ l, f x = l.foldl (fun p x => max p (f x)) a := by
  induction l generalizing a with
  | nil => exact .inl rfl
  | cons y l ih =>
    obtain h | ⟨x, hx, h⟩ := ih (max a (f y))
    · obtain e | e := max_choice a (f y)
      · exact .inl (h.trans e)
      · exact .inr ⟨y, List.mem_cons_self, (h.trans e).symm⟩
    · exact .inr ⟨x, List.mem_cons_of_mem _ hx, h⟩

theorem claimable_sorted (s : State) (b t : Nat) : (claimable s b t).Pairwise (· < ·) := List.pairwise_lt_range.filter _

theorem claimable_lt (h : k ∈ claimable s b t) : k < 1024 := List.mem_range.mp (List.mem_filter.mp h).1

theorem bellClaim_none (h : claimable s b t = []) : bellClaim b t s = (s, none) := by
  unfold bellClaim
  rw [h]
  rfl

theorem bellClaim_some (h : claimable s b t ≠ []) : ∃ k, Claims s b t k ∧ bellClaim b t s = (claimed b t k s, some k) := by
  let prio (k : Nat) : Nat := rf s (srcReg b k) 10 8
  let top : Nat := (claimable s b t).foldl (fun p x => max p (prio x)) 0
  have hle : ∀ x ∈ claimable s b t, prio x ≤ top := (le_foldl_max prio _ 0).2
  have hreach : ∃ x ∈ claimable s b t, prio x = top := by
    obtain h0 | hx := foldl_max_reached prio (claimable s b t) 0
    · obtain ⟨x, hx⟩ := List.exists_mem_of_ne_nil _ h
      exact ⟨x, hx, Nat.le_antisymm (hle x hx) (h0.le.trans (Nat.zero_le _))⟩
    · exact hx
  cases hf : (claimable s b t).find? (fun x => prio x == top) with
  | none =>
    obtain ⟨x, hx, e⟩ := hreach
    exact absurd (beq_iff_eq.mpr e) (List.find?_eq_none.mp hf x hx)
  | some k =>
    obtain ⟨hk, before, after, hl, hno⟩ := List.find?_eq_some_iff_append.mp hf
    have hk : prio k = top := beq_iff_eq.mp hk
    refine ⟨k, ⟨by rw [hl]; simp, fun j hj => ?_⟩, ?_⟩
    · have hj' := hle j hj
      rw [hl] at hj
      have hsorted := hl ▸ claimable_sorted s b t
      obtain hj | hj := List.mem_append.mp hj
      · have hne : prio j ≠ top := by simpa using hno j hj
        exact .inl (lt_of_lt_of_eq (lt_of_le_of_ne hj' hne) hk.symm)
      · have hkj : k ≤ j := by
          obtain rfl | hj := List.mem_cons.mp hj
          · exact le_rfl
          · exact ((List.pairwise_cons.mp (List.pairwise_append.mp hsorted).2.1).1 j hj).le
        obtain hlt | e := hj'.lt_or_eq
        · exact .inl (hlt.trans_eq hk.symm)
        · exact .inr ⟨e.trans hk.symm, hkj⟩
    · unfold bellClaim
      dsimp only
      rw [hf]
      rfl

theorem claimed_writes (hk : k < 1024) (ht : t < 16) (s : State) : WritesOnly (IsSource b (· = k)) s (claimed b t k s) :=
  (writesOnly_own hk _ _ _ _).trans <| (writesOnly_own hk _ _ _ _).trans <| (writesOnly_own hk _ _ _ _).trans
    (settleTarget_writes ht).ofTarget

theorem rf_claimed (hk : k < 1024) (ht : t < 16) (hs : s.wf = true) :
    rf (claimed b t k s) (srcReg b k) 61 60 = 2 ∧ rf (claimed b t k s) (srcReg b k) 62 62 = 0 := by
  have h1 := wf_setRf (srcReg b k) 61 60 2 hs
  have h2 := wf_setRf (srcReg b k) 62 62 0 h1
  have hkeep (hi lo : Nat) := rf_of_target_writes (settleTarget_writes (b := b) (s := setRf (srcReg b k) 59 56 t
    (setRf (srcReg b k) 62 62 0 (setRf (srcReg b k) 61 60 2 s))) ht) hk hi lo
  constructor
  · rw [claimed, hkeep, rf_setRf_above _ (wf_regs h2) (by decide) (by decide) (by decide),
      rf_setRf_below _ (wf_regs h1) (by decide) (by decide) (by decide) (by decide),
      rf_setRf_same (wf_regs hs) (by decide) (by decide) (by decide)]
  · rw [claimed, hkeep, rf_setRf_above _ (wf_regs h2) (by decide) (by decide) (by decide),
      rf_setRf_same (wf_regs h1) (by decide) (by decide) (by decide)]

end Claim

/-! ### The Bell CSRs of a core (R406) -/

section Csr

variable {core : Nat} {s : State} {act : State → State}

theorem bellCsr_machine (hr : coreRuns s core = true) (hw : coreWaits s core = false) (hu : tabGet false s.umode core = false) :
    bellCsr core act s = .next (act s) := by
  unfold bellCsr
  rw [hr, hw, hu]
  rfl

theorem bellCsr_user (hr : coreRuns s core = true) (hw : coreWaits s core = false) (hu : tabGet false s.umode core = true) :
    bellCsr core act s = .next (coreTrap core 2 (Config.trapValue (takeFree s).2) (takeFree s).1) := by
  unfold bellCsr
  rw [hr, hw, hu]
  rfl

theorem bellOf_lt {core : Nat} (h : core < 68) : bellOf core < 5 := by
  unfold bellOf isSmith
  split <;> rename_i hc <;> simp only [decide_eq_true_eq] at hc <;> omega

theorem targetOf_lt {core : Nat} (h : core < 68) : targetOf core < 16 := by
  unfold targetOf isSmith
  split <;> omega

/-- What register `rd` of a core reads from belclaim (R403): the source with bit 63, or zero. -/
def claimValue (r : Option Nat) : Word := match r with | none => 0 | some k => BitVec.ofNat 64 (2 ^ 63 + k)

theorem exec_bellClaim {c : Fin 68} (rd : Fin 32) (hrun : running s = true) (hr : coreRuns s c.val = true)
    (hw : coreWaits s c.val = false) (hu : tabGet false s.umode c.val = false) :
    exec (.bellClaim c rd) s = .next (setXreg c.val rd.val (claimValue (bellClaim (bellOf c.val) (targetOf c.val) s).2)
      (bellClaim (bellOf c.val) (targetOf c.val) s).1) := by
  refine (live_of_running hrun _).trans ((bellCsr_machine hr hw hu).trans (congrArg Host.Outcome.next ?_))
  generalize bellClaim (bellOf c.val) (targetOf c.val) s = p
  obtain ⟨t, k | k⟩ := p <;> rfl

@[simp] theorem rg_setXreg (o core r : Nat) (v : Word) (s : State) : rg (setXreg core r v s) o = rg s o := by
  unfold setXreg
  split <;> rfl

end Csr

/-! ### Software latches act as levels -/

section LatchWrites

variable {b w src : Nat} {mask : Word} {s : State}

/-- BEL_SETP: what one source of the word becomes. -/
theorem setPending_source (hw : w < 16) (hs : s.wf = true) (hsrc : src < 1024) (hword : src / 64 = w) :
    let t := overList (setLatch b) (maskSources w mask) s
    let r := srcReg b src
    t = { s with regs := t.regs } ∧
    (bitOf mask (src % 64) = true → rf s r 62 62 = 0 → rf t r 62 62 = 1 ∧ rf t r 61 60 = risen (rf s r 61 60)) ∧
    (bitOf mask (src % 64) = false → rg t r = rg s r) := by
  intro t r
  have hf : ∀ k < 1024, ∀ s, WritesOnly (IsSource b (· = k)) s (setLatch b k s) := fun k hk s => setLatch_writes hk s
  have hall := overList_sources hf (maskSources_lt hw mask) s
  refine ⟨hall.onlyRegs, fun hm h0 => ?_, fun hm => hall.rg_eq _ (srcReg_not_source hsrc fun h => ?_)⟩
  · obtain ⟨u, hu, e⟩ := overList_source_mem hf (maskSources_lt hw mask) (nodup_maskSources w mask)
      (mem_maskSources.mpr ⟨hword, hm⟩) s
    have hrf (hi lo : Nat) : rf t r hi lo = rf (setLatch b src u) r hi lo := congrArg (fieldOf · hi lo) e
    have hsame (hi lo : Nat) : rf u r hi lo = rf s r hi lo := hu.rf_eq (srcReg_not_source hsrc fun h => h rfl) hi lo
    exact ⟨(hrf _ _).trans (rf_setLatch_latch hsrc (hu.wf hs)),
      (hrf _ _).trans ((rf_setLatch_state hsrc (hu.wf hs) ((hsame _ _).trans h0)).trans (congrArg risen (hsame _ _)))⟩
  · exact ne_true_of_eq_false hm (mem_maskSources.mp h).2

/-- BEL_CLRP: what one source of the word becomes. -/
theorem clearPending_source (hb : b < 5) (hw : w < 16) (hs : s.wf = true) (hsrc : src < 1024) (hword : src / 64 = w) :
    let t := settleBell b (overList (clearLatch b) (maskSources w mask) s)
    let r := srcReg b src
    t = { s with regs := t.regs } ∧
    (bitOf mask (src % 64) = true → rf t r 62 62 = 0 ∧ (rf s r 61 60 = 1 → rf t r 61 60 = b2n (sourceLevel s b src))) ∧
    (bitOf mask (src % 64) = false → rg t r = rg s r) := by
  intro t r
  have hf : ∀ k < 1024, ∀ s, WritesOnly (IsSource b (· = k)) s (clearLatch b k s) := fun k hk s => clearLatch_writes hk s
  have hall := (overList_sources hf (maskSources_lt hw mask) s).trans (settleBell_writes b _).ofTarget
  refine ⟨hall.onlyRegs, fun hm => ?_, fun hm => hall.rg_eq _ (srcReg_not_source hsrc fun h => ?_)⟩
  · obtain ⟨u, hu, e⟩ := overList_source_mem hf (maskSources_lt hw mask) (nodup_maskSources w mask)
      (mem_maskSources.mpr ⟨hword, hm⟩) s
    have hrf (hi lo : Nat) : rf t r hi lo = rf (clearLatch b src u) r hi lo :=
      (rf_of_target_writes (settleBell_writes b _) hsrc hi lo).trans (congrArg (fieldOf · hi lo) e)
    have hsame (hi lo : Nat) : rf u r hi lo = rf s r hi lo := hu.rf_eq (srcReg_not_source hsrc fun h => h rfl) hi lo
    refine ⟨(hrf _ _).trans (rf_clearLatch_latch hsrc (hu.wf hs)), fun hp => ?_⟩
    exact (hrf _ _).trans ((rf_clearLatch_state hsrc (hu.wf hs) ((hsame _ _).trans hp)).trans
      (congrArg b2n (sourceLevel_of_writes hb hu src)))
  · exact ne_true_of_eq_false hm (mem_maskSources.mp h).2

theorem exec_clearPending (b : Fin 5) (w : Fin 16) (mask : Word) (h : running s = true) :
    exec (.clearPending b w mask) s = .next (settleBell b.val (overList (clearLatch b.val) (maskSources w.val mask) s)) :=
  live_of_running h _

/-- A claim leaves each source but the one that it makes ACTIVE, and that one without its latch. -/
theorem bellClaim_source {t : Nat} (hs : s.wf = true) (ht : t < 16) {k : Nat} (hk : k < 1024) :
    let u := (bellClaim b t s).1
    (rf s (srcReg b k) 61 60 = 1 → rf u (srcReg b k) 61 60 = 2 → rf u (srcReg b k) 62 62 = 0) ∧
    (rf u (srcReg b k) 61 60 ≠ 2 → rg u (srcReg b k) = rg s (srcReg b k)) := by
  by_cases h : claimable s b t = []
  · rw [bellClaim_none h]
    exact ⟨fun h1 h2 => absurd (h1.symm.trans h2) (by decide), fun _ => rfl⟩
  · obtain ⟨j, hj, e⟩ := bellClaim_some h
    have hjlt := claimable_lt hj.mem
    rw [e]
    by_cases hjk : k = j
    · subst hjk
      obtain ⟨hst, hla⟩ := rf_claimed (b := b) hk ht hs
      exact ⟨fun _ _ => hla, fun hne => absurd hst hne⟩
    · have hkeep : rg (claimed b t j s) (srcReg b k) = rg s (srcReg b k) :=
        (claimed_writes hjlt ht s).rg_eq _ (srcReg_not_source hk hjk)
      refine ⟨fun h1 h2 => ?_, fun _ => hkeep⟩
      have h12 : rf (claimed b t j s) (srcReg b k) 61 60 = rf s (srcReg b k) 61 60 := congrArg (fieldOf · 61 60) hkeep
      exact absurd (h1.symm.trans (h12.symm.trans h2)) (by decide)

end LatchWrites

/-- Settles O56, source by source: an operation on a Bell writes BEL_SRC of its own sources and BEL_TGT_STAT alone
(`WritesOnly`), so each source of a mask is decided by the one step that names it. -/
theorem softwareLatchesActAsLevels : Obligations.SoftwareLatchesActAsLevels := by
  intro b w mask src s hrun hs hword r mine
  refine ⟨?_, fun core hr hw hu => ?_, fun core rd hr hw hu => ?_, ?_⟩
  · obtain ⟨honly, hmine, hother⟩ := setPending_source (b := b.val) (mask := mask) w.isLt hs src.isLt hword
    refine ⟨fun hf => liveWrite_of_running hrun hf _, honly, fun hm h0 => ?_, hother⟩
    obtain ⟨hlatch, hstate⟩ := hmine hm h0
    exact ⟨hlatch, risen_by_state hstate⟩
  · refine ⟨(live_of_running hrun _).trans (bellCsr_machine hr hw hu), (setLatch_writes src.isLt s).onlyRegs,
      rf_setLatch_latch src.isLt hs, fun h0 => risen_by_state (rf_setLatch_state src.isLt hs h0)⟩
  · refine ⟨(exec_bellClaim rd hrun hr hw hu).trans ?_, fun k hk => ?_⟩
    · generalize bellClaim (bellOf core.val) (targetOf core.val) s = c
      obtain ⟨u, _ | k⟩ := c <;> rfl
    · simp only [rf, rg_setXreg]
      exact bellClaim_source hs (targetOf_lt core.isLt) hk
  · obtain ⟨honly, hmine, hother⟩ := clearPending_source (mask := mask) b.isLt w.isLt hs src.isLt hword
    refine ⟨exec_clearPending b w mask hrun, honly, fun hm => ?_, hother⟩
    obtain ⟨hlatch, hstate⟩ := hmine hm
    exact ⟨hlatch, fun hl hp => (hstate hp).trans (congrArg b2n hl), fun hl hp => (hstate hp).trans (congrArg b2n hl)⟩

end Sys2Proof.Proofs

namespace Sys2Proof.Proofs

open Sys2Proof Sys2Proof.Machine Sys2Proof.Laws

/-! ### Completions and samples of one source (R402, R403) -/

section Completion

variable {b k : Nat} {s : State}

/-- The state that a completed source takes: PENDING while it is pending or its level is 1 (R402). -/
def afterDone (b k : Nat) (s : State) : Nat := if rf s (srcReg b k) 61 60 = 3 || rf s (srcReg b k) 63 63 = 1 then 1 else 0

/-- The source handed back, before a fallen one becomes INACTIVE. -/
def handedBack (b k : Nat) (s : State) : State := setRf (srcReg b k) 59 56 0 (moveSource b k (afterDone b k s) s)

theorem completeSource_eq (b k : Nat) (s : State) : completeSource b k s = fallSource b k (handedBack b k (sampleLevel b k s)) := rfl

theorem afterDone_le (b k : Nat) (s : State) : afterDone b k s < 4 := by unfold afterDone; split <;> decide

theorem rf_handedBack (hk : k < 1024) (hs : s.wf = true) :
    rf (handedBack b k s) (srcReg b k) 59 56 = 0 ∧ rf (handedBack b k s) (srcReg b k) 61 60 = afterDone b k s ∧
      rf (handedBack b k s) (srcReg b k) 63 63 = rf s (srcReg b k) 63 63 := by
  have hset := wf_setRf (srcReg b k) 61 60 (afterDone b k s) hs
  have hmove := moveSource_writes b k (afterDone b k s) s
  have hw := wf_regs (hmove.wf hset)
  refine ⟨rf_setRf_same hw (by decide) (by decide) (by decide), ?_, ?_⟩
  · rw [handedBack, rf_setRf_above _ hw (by decide) (by decide) (by decide), rf_of_target_writes hmove hk,
      rf_setRf_same (wf_regs hs) (by decide) (by decide) (afterDone_le b k s)]
  · rw [handedBack, rf_setRf_above _ hw (by decide) (by decide) (by decide), rf_of_target_writes hmove hk,
      rf_setRf_above _ (wf_regs hs) (by decide) (by decide) (by decide)]

theorem rf_completeSource_high (hk : k < 1024) (hs : s.wf = true) (hl : sourceLevel s b k = true) :
    rf (completeSource b k s) (srcReg b k) 61 60 = 1 ∧ rf (completeSource b k s) (srcReg b k) 59 56 = 0 := by
  have hlevel : rf (sampleLevel b k s) (srcReg b k) 63 63 = 1 := by rw [rf_sampleLevel_level hk hs, hl]; rfl
  obtain ⟨howner, hstate, hhigh⟩ := rf_handedBack (b := b) hk ((sampleLevel_writes hk s).wf hs)
  have hnext : afterDone b k (sampleLevel b k s) = 1 := by rw [afterDone, hlevel]; exact if_pos (Bool.or_true _)
  have hne : rf (handedBack b k (sampleLevel b k s)) (srcReg b k) 63 62 ≠ 0 := by rw [rf_level_latch, hhigh, hlevel]; omega
  rw [completeSource_eq, fallSource_of_high hne]
  exact ⟨hstate.trans hnext, howner⟩

theorem rf_completeSource_low (hk : k < 1024) (hs : s.wf = true) (hl : sourceLevel s b k = false)
    (h2 : rf s (srcReg b k) 61 60 = 2) : rf (completeSource b k s) (srcReg b k) 61 60 = 0 := by
  have hlevel : rf (sampleLevel b k s) (srcReg b k) 63 63 = 0 := by rw [rf_sampleLevel_level hk hs, hl]; rfl
  have hactive : rf (sampleLevel b k s) (srcReg b k) 61 60 = 2 := (rf_sampleLevel_of_low hs hl (by rw [h2]; decide)).trans h2
  obtain ⟨-, hstate, -⟩ := rf_handedBack (b := b) hk ((sampleLevel_writes hk s).wf hs)
  have hnext : afterDone b k (sampleLevel b k s) = 0 := by rw [afterDone, hlevel, hactive]; rfl
  rw [completeSource_eq, fallSource_of_not_pending (by rw [hstate, hnext]; decide), hstate, hnext]

/-- An INACTIVE source whose level has risen is PENDING once the level is sampled (R402). -/
theorem rf_sampleLevel_rise (hk : k < 1024) (hs : s.wf = true) (h63 : rf s (srcReg b k) 63 63 = 0)
    (hl : sourceLevel s b k = true) (h0 : rf s (srcReg b k) 61 60 = 0) :
    rf (sampleLevel b k s) (srcReg b k) 63 63 = 1 ∧ rf (sampleLevel b k s) (srcReg b k) 61 60 = 1 := by
  refine ⟨by rw [rf_sampleLevel_level hk hs, hl]; rfl, ?_⟩
  rw [sampleLevel_of_rise (by rw [h63]; decide) hl, rf_riseSource_state hk (wf_setRf _ _ _ _ hs),
    rf_setLevel_below hs _ (by decide) (by decide), h0]
  rfl

theorem bellComplete_foreign {t : Nat} (h : rf s (srcReg b k) 61 60 < 2 ∨ rf s (srcReg b k) 59 56 ≠ t) :
    bellComplete b t k s = satRf (tgtStat b t) 47 32 1 s := if_pos (by simpa using h)

theorem bellComplete_owned {t : Nat} (h2 : 2 ≤ rf s (srcReg b k) 61 60) (ho : rf s (srcReg b k) 59 56 = t) :
    bellComplete b t k s = settleBell b (completeSource b k s) := if_neg (by simp [ho, Nat.not_lt.mpr h2])

end Completion

/-! ### The commands of the Bells -/

section BellCommands

variable {s : State} {core : Fin 68} (hrun : running s = true)
include hrun

section Core

variable (hr : coreRuns s core.val = true) (hw : coreWaits s core.val = false)
include hr hw

theorem exec_bellClaim_empty (rd : Fin 32) (hu : tabGet false s.umode core.val = false)
    (h : claimable s (bellOf core.val) (targetOf core.val) = []) : exec (.bellClaim core rd) s = .next (setXreg core.val rd.val 0 s) := by
  rw [exec_bellClaim rd hrun hr hw hu, bellClaim_none h]
  rfl

theorem exec_bellClaim_best (rd : Fin 32) (hu : tabGet false s.umode core.val = false)
    (h : claimable s (bellOf core.val) (targetOf core.val) ≠ []) : ∃ k, Claims s (bellOf core.val) (targetOf core.val) k ∧
      exec (.bellClaim core rd) s = .next (setXreg core.val rd.val (BitVec.ofNat 64 (2 ^ 63 + k))
        (claimed (bellOf core.val) (targetOf core.val) k s)) := by
  obtain ⟨k, hk, e⟩ := bellClaim_some h
  refine ⟨k, hk, ?_⟩
  rw [exec_bellClaim rd hrun hr hw hu, e]
  rfl

theorem exec_bellComplete (d : Fin 1024) (hu : tabGet false s.umode core.val = false) :
    exec (.bellComplete core d) s = .next (bellComplete (bellOf core.val) (targetOf core.val) d.val s) :=
  (live_of_running hrun _).trans (bellCsr_machine hr hw hu)

theorem exec_belcnt (v : BitVec 32) (hu : tabGet false s.umode core.val = false) :
    exec (.counterSubtract (.belcnt core) v) s = .next (countDown (csrHearth core.val) (tabGet 0 s.belsel core.val) v.toNat s) :=
  (live_of_running hrun _).trans (bellCsr_machine hr hw hu)

/-- Each Bell CSR traps from user mode (R406). -/
theorem exec_bellCsr_user (hu : tabGet false s.umode core.val = true) (rd : Fin 32) (d : Fin 1024) (v : BitVec 32) {i : Instr}
    (hi : i ∈ [Instr.bellClaim core rd, .bellComplete core d, .counterSubtract (.belcnt core) v, .setPending (.belsetp core d)]) :
    exec i s = .next (coreTrap core.val 2 (Config.trapValue (takeFree s).2) (takeFree s).1) := by
  have htrap (act : State → State) : live s (bellCsr core.val act s) =
      .next (coreTrap core.val 2 (Config.trapValue (takeFree s).2) (takeFree s).1) :=
    (live_of_running hrun _).trans (bellCsr_user hr hw hu)
  simp only [List.mem_cons, List.not_mem_nil, or_false] at hi
  obtain rfl | rfl | rfl | rfl := hi
  · exact htrap _
  · exact htrap _
  · exact htrap _
  · exact htrap _

end Core

theorem exec_evsub {b : Fin 5} {src : Fin 1024} (h : counterSource b.val src.val = true) (v : BitVec 32) :
    let e := belReg b.val (0x4000 + 8 * src.val)
    exec (.counterSubtract (.evsub b src) v) s = .next (setRf e 31 0 (rf s e 31 0 - v.toNat) s) :=
  (live_of_running hrun _).trans (if_neg (guard_passed h))

theorem exec_coalesceTimeout {b : Fin 5} {t : Fin 16} (h : rf s (tgtStat b.val t.val) 63 62 = 1) :
    exec (.coalesceTimeout b t) s = .next (setRf (tgtStat b.val t.val) 63 62 2 s) :=
  (live_of_running hrun _).trans (if_neg (by simp [h]))

end BellCommands

/-- Settles O57: a claim by the best source of its target, a completion by what it hands back, the other rows by their equations. -/
theorem bellsClaimAndComplete : Obligations.BellsClaimAndComplete := by
  intro core b src s hrun cb ct r prio
  refine ⟨fun hr hw => ⟨fun hu => ⟨fun rd => ⟨exec_bellClaim_empty hrun hr hw rd hu, fun hne => ?_⟩, fun d => ⟨fun hno => ?_,
    fun h2 ho => ⟨?_, fun hs => ⟨fun hl => ?_, fun hact hl => ?_⟩⟩⟩, fun v => exec_belcnt hrun hr hw v hu⟩,
    fun hu rd d v i hi => exec_bellCsr_user hrun hr hw hu rd d v hi⟩, fun v => exec_evsub hrun (v := v), live_of_running hrun _,
    fun hs h63 hl h0 => ?_, fun v => live_of_running hrun _, fun tg => exec_coalesceTimeout hrun⟩
  case refine_1 =>
    obtain ⟨k, hk, e⟩ := exec_bellClaim_best hrun hr hw rd hu hne
    exact ⟨k, hk.mem, hk.best, e⟩
  case refine_2 => exact (exec_bellComplete hrun hr hw d hu).trans (congrArg _ (bellComplete_foreign hno))
  case refine_3 => exact (exec_bellComplete hrun hr hw d hu).trans (congrArg _ (bellComplete_owned h2 ho))
  case refine_4 =>
    obtain ⟨hstate, howner⟩ := rf_completeSource_high d.isLt hs hl
    exact ⟨(rf_of_target_writes (settleBell_writes _ _) d.isLt _ _).trans hstate,
      (rf_of_target_writes (settleBell_writes _ _) d.isLt _ _).trans howner⟩
  case refine_5 =>
    exact (rf_of_target_writes (settleBell_writes _ _) d.isLt _ _).trans (rf_completeSource_low d.isLt hs hl hact)
  case refine_6 =>
    obtain ⟨hlevel, hstate⟩ := rf_sampleLevel_rise src.isLt hs h63 hl h0
    exact ⟨(rf_of_target_writes (settleBell_writes _ _) src.isLt _ _).trans hlevel,
      (rf_of_target_writes (settleBell_writes _ _) src.isLt _ _).trans hstate⟩

end Sys2Proof.Proofs

namespace Sys2Proof.Proofs

open Sys2Proof Sys2Proof.Machine Sys2Proof.Laws

/-! ### Channels of Ember (R421, R422) -/

section Channels

variable {j k : Nat} {c c' : EmbCh} {f : Bool} {s : State}

/-- The channel table of Ember in canonical form. -/
def ChansWf (s : State) : Prop := tabWf (fun _ => ({} : EmbCh)) s.ember.chans = true

/-- In a canonical state channel `k` holds `c`, and its flag is `f`. -/
structure ChannelIs (k : Nat) (c : EmbCh) (f : Bool) (s : State) : Prop where
  wf : s.wf = true
  chans : ChansWf s
  ch : embCh s k = c
  flag : flagged s k = f

theorem flagged_eq (s : State) (k : Nat) : flagged s k = (rf s (flagReg k) (k % 64) (k % 64) == 1) := rfl

theorem embCh_setEmbCh_same (h : ChansWf s) (k : Nat) (c : EmbCh) : embCh (setEmbCh k c s) k = c := tabGet_tabSet_same k c h

theorem embCh_setEmbCh_other (h : j ≠ k) (c : EmbCh) (s : State) : embCh (setEmbCh k c s) j = embCh s j :=
  tabGet_tabSet_other s.ember.chans c h

theorem chansWf_setEmbCh (h : ChansWf s) (k : Nat) (c : EmbCh) : ChansWf (setEmbCh k c s) := tabWf_tabSet_const k c h

namespace ChannelIs

theorem setEmbCh_same (h : ChannelIs k c f s) (c' : EmbCh) : ChannelIs k c' f (setEmbCh k c' s) :=
  ⟨h.wf, chansWf_setEmbCh h.chans k c', embCh_setEmbCh_same h.chans k c', h.flag⟩

theorem setEmbCh_other (h : ChannelIs k c f s) (hj : j ≠ k) (c' : EmbCh) : ChannelIs k c f (setEmbCh j c' s) :=
  ⟨h.wf, chansWf_setEmbCh h.chans j c', (embCh_setEmbCh_other hj.symm c' s).trans h.ch, h.flag⟩

theorem setRg (h : ChannelIs k c f s) {o : Nat} (ho : o ≠ flagReg k) (v : Word) : ChannelIs k c f (setRg o v s) :=
  ⟨wf_setRg o v h.wf, h.chans, h.ch, (congrArg (bitOf · (k % 64)) (rg_setRg_other s v ho.symm)).trans h.flag⟩

theorem setRf (h : ChannelIs k c f s) {o : Nat} (ho : o ≠ flagReg k) (hi lo v : Nat) : ChannelIs k c f (setRf o hi lo v s) :=
  h.setRg ho _

theorem showCh (h : ChannelIs k c f s) (hk : k < 256) (j : Nat) : ChannelIs k c f (showCh j s) :=
  h.setRg (by simp only [flagReg, embReg]; omega) _

theorem emberNote (h : ChannelIs k c f s) (n : Nat) : ChannelIs k c f (emberNote n s) :=
  h.setRf (by simp only [flagReg, embReg]; omega) _ _ _

theorem setFlag_same (h : ChannelIs k c f s) : ChannelIs k c true (Machine.setRf (flagReg k) (k % 64) (k % 64) 1 s) := by
  refine ⟨wf_setRf _ _ _ _ h.wf, h.chans, h.ch, ?_⟩
  rw [flagged_eq, rf_setRf_same (wf_regs h.wf) le_rfl (by omega) (by rw [show k % 64 + 1 - k % 64 = 1 by omega]; decide)]
  rfl

theorem setFlag_other (h : ChannelIs k c f s) (hj : j ≠ k) : ChannelIs k c f (Machine.setRf (flagReg j) (j % 64) (j % 64) 1 s) := by
  by_cases ho : flagReg j = flagReg k
  · have hword : j / 64 = k / 64 := by simp only [flagReg, embReg] at ho; omega
    refine ⟨wf_setRf _ _ _ _ h.wf, h.chans, h.ch, ?_⟩
    have hbit : rf (Machine.setRf (flagReg j) (j % 64) (j % 64) 1 s) (flagReg k) (k % 64) (k % 64) = rf s (flagReg k) (k % 64) (k % 64) := by
      rw [← ho]
      obtain hlt | hlt : j % 64 < k % 64 ∨ k % 64 < j % 64 := by omega
      · exact rf_setRf_above _ (wf_regs h.wf) le_rfl (by omega) hlt
      · exact rf_setRf_below _ (wf_regs h.wf) le_rfl (by omega) hlt le_rfl
    rw [flagged_eq, hbit]
    exact h.flag
  · exact h.setRf ho _ _ _

/-- The sample of another channel leaves this one. -/
theorem sampleCh_other (h : ChannelIs k c f s) (hk : k < 256) (hj : j ≠ k) (raws : List Int) : ChannelIs k c f (sampleCh raws j s) := by
  unfold sampleCh
  dsimp only
  split
  · exact h
  · split
    · exact (h.setEmbCh_other hj _).showCh hk j
    · have hflag (d : EmbCh) := (((h.setEmbCh_other hj d).setFlag_other hj).emberNote 1).showCh hk j
      have hkeep (d : EmbCh) := (h.setEmbCh_other hj d).showCh hk j
      split <;> split
      · exact hflag _
      · exact hkeep _
      · exact hflag _
      · exact hkeep _

theorem sampleCh_others (h : ChannelIs k c f s) (hk : k < 256) (raws : List Int) {l : List Nat} (hl : k ∉ l) :
    ChannelIs k c f (overList (sampleCh raws) l s) := by
  induction l generalizing s with
  | nil => exact h
  | cons j l ih => exact ih (h.sampleCh_other hk (fun e => hl (e ▸ List.mem_cons_self)) raws) fun hm => hl (List.mem_cons_of_mem _ hm)

end ChannelIs

theorem overList_append {σ α : Type} (g : α → σ → σ) (l l' : List α) (s : σ) : overList g (l ++ l') s = overList g l' (overList g l s) := by
  induction l generalizing s with
  | nil => rfl
  | cons x l ih => exact ih (g x s)

theorem overList_congr_mem {σ α : Type} {g g' : α → σ → σ} {l : List α} (h : ∀ x ∈ l, ∀ s, g x s = g' x s) (s : σ) :
    overList g l s = overList g' l s := by
  induction l generalizing s with
  | nil => rfl
  | cons x l ih =>
    rw [overList, overList, h x List.mem_cons_self]
    exact ih (fun y hy => h y (List.mem_cons_of_mem _ hy)) _

theorem chanKind_thermal (hk : k < 138) : chanKind k = 0 := if_pos hk

/-- A channel that has no sample yet has held its code once. -/
theorem holdCode_new (hc : c.on = false) (raw : Int) : (holdCode s k raw c).on = false ∧ (holdCode s k raw c).same = 1 := by
  unfold holdCode
  dsimp only
  rw [if_neg (by rw [hc]; exact Bool.false_ne_true)]
  split <;> exact ⟨hc, rfl⟩

/-- Only a sample beyond the range flags a thermal channel that has none yet (R422). -/
theorem flagsNow_new (hk : k < 138) (hon : c.on = false) (hsame : c.same = 1) (raw : Int) :
    flagsNow k raw c = (decide (raw < -2560) || decide (9600 < raw)) := by
  unfold flagsNow
  rw [chanKind_thermal hk, hon, hsame]
  simp

theorem filterCh_new (hon : c.on = false) (raw : Int) :
    (filterCh raw c).y = raw ∧ (filterCh raw c).samples = List.replicate 4 raw := by
  unfold filterCh
  rw [hon]
  exact ⟨rfl, rfl⟩

/-- The first sample of a thermal channel: it becomes the filter state and its four samples, or flags the channel. -/
theorem sampleCh_first (h : ChannelIs k c false s) (hk : k < 138) (hon : c.on = false) (raws : List Int) :
    (-2560 ≤ nth raws k 0 → nth raws k 0 ≤ 9600 → ∃ c', ChannelIs k c' false (sampleCh raws k s) ∧ c'.y = nth raws k 0 ∧
      c'.samples = List.replicate 4 (nth raws k 0)) ∧
    (9600 < nth raws k 0 ∨ nth raws k 0 < -2560 → ∃ c', ChannelIs k c' true (sampleCh raws k s)) := by
  have hk' : k < 256 := by omega
  obtain ⟨hon', hsame⟩ := holdCode_new (s := s) (k := k) (c := embCh s k) (by rw [h.ch, hon]) (nth raws k 0)
  have hflags := flagsNow_new hk hon' hsame (nth raws k 0)
  unfold sampleCh
  dsimp only
  rw [chanKind_thermal hk, h.flag, if_neg (by decide), if_neg (by decide), if_pos rfl]
  refine ⟨fun hlo hhi => ?_, fun hout => ?_⟩
  · have hno : flagsNow k (nth raws k 0) (holdCode s k (nth raws k 0) (embCh s k)) = false := by
      rw [hflags]
      simp [hlo, hhi]
    obtain ⟨hy, hsamples⟩ := filterCh_new hon' (nth raws k 0)
    rw [hno, if_neg Bool.false_ne_true]
    exact ⟨_, (h.setEmbCh_same _).showCh hk' k, hy, hsamples⟩
  · have hyes : flagsNow k (nth raws k 0) (holdCode s k (nth raws k 0) (embCh s k)) = true := by
      rw [hflags]
      simpa [or_comm] using hout
    rw [hyes, if_pos rfl]
    exact ⟨_, ((h.setEmbCh_same _).setFlag_same.emberNote 1).showCh hk' k⟩

/-- A round samples each thermal channel once. -/
theorem round_samples (hs : s.wf = true) (hc : ChansWf s) (hk : k < 138) (hf : flagged s k = false) (hon : (embCh s k).on = false)
    (raws : List Int) :
    let a := overList (sampleCh raws) (List.range 256) (countRound s)
    (-2560 ≤ nth raws k 0 → nth raws k 0 ≤ 9600 → (embCh a k).y = nth raws k 0 ∧
      (embCh a k).samples = List.replicate 4 (nth raws k 0) ∧ flagged a k = false) ∧
    (9600 < nth raws k 0 ∨ nth raws k 0 < -2560 → flagged a k = true) := by
  intro a
  have hk' : k < 256 := by omega
  obtain ⟨before, after, hl⟩ := List.append_of_mem (List.mem_range.mpr hk')
  have hnd : (before ++ k :: after).Nodup := hl ▸ List.nodup_range
  obtain ⟨-, hnd', hdisj⟩ := List.nodup_append.mp hnd
  have hbefore : k ∉ before := fun hm => hdisj k hm k List.mem_cons_self rfl
  have hafter : k ∉ after := (List.nodup_cons.mp hnd').1
  have h0 : ChannelIs k (embCh s k) false (countRound s) :=
    ChannelIs.setRf ⟨hs, hc, rfl, hf⟩ (by simp only [flagReg, embReg]; omega) _ _ _
  have ha : a = overList (sampleCh raws) after (sampleCh raws k (overList (sampleCh raws) before (countRound s))) := by
    show overList (sampleCh raws) (List.range 256) (countRound s) = _
    rw [hl, overList_append]
    rfl
  obtain ⟨hin, hout⟩ := sampleCh_first (h0.sampleCh_others hk' raws hbefore) hk hon raws
  refine ⟨fun hlo hhi => ?_, fun h => ?_⟩
  · obtain ⟨c', hc', hy, hsamples⟩ := hin hlo hhi
    have hend : ChannelIs k c' false a := ha ▸ hc'.sampleCh_others hk' raws hafter
    exact ⟨by rw [hend.ch, hy], by rw [hend.ch, hsamples], hend.flag⟩
  · obtain ⟨c', hc'⟩ := hout h
    exact (ha ▸ hc'.sampleCh_others hk' raws hafter : ChannelIs k c' true a).flag

/-- A flag cleared by a Smith core: the channel starts anew (R422). -/
theorem flagged_clearFlag (hs : s.wf = true) (k : Nat) :
    flagged (setEmbCh k {} (setRf (flagReg k) (k % 64) (k % 64) 0 s)) k = false := by
  have h : rf (setRf (flagReg k) (k % 64) (k % 64) 0 s) (flagReg k) (k % 64) (k % 64) = 0 :=
    rf_setRf_same (wf_regs hs) le_rfl (by omega) (Nat.two_pow_pos _)
  exact congrArg (· == 1) h

end Channels

/-! ### Ember's rows -/

section EmberRuns

variable {s : State} (h : emberRuns s = true)
include h

theorem emberLive_of_runs (o : Host.Outcome State Fault Refusal) : emberLive s o = o := if_pos h

theorem exec_throttleApply (hc : convertersOn s = true) (hd : s.ember.decided ≠ []) :
    let t := overList switchClock (List.range 64) (overList throttleStack (List.range 20)
      (updEmber (fun x => { x with applied := x.decided }) s))
    exec .throttleApply s = .next (overList (fun i t =>
      if 2 ≤ i && hearthThrottle t i != hearthThrottle s i then thermalEvent i (hearthThrottle t i) t else t) (List.range 90) t) := by
  have hd' : s.ember.decided.isEmpty = false := by simpa using hd
  refine (emberLive_of_runs h _).trans ((if_neg (by rw [hc, hd']; decide)).trans (congrArg Host.Outcome.next ?_))
  refine overList_congr_mem (fun i hi t => ?_) _
  have hold : nth ((List.range 90).map (hearthThrottle s)) i 0 = hearthThrottle s i := by
    simp [nth, List.mem_range.mp hi]
  rw [hold]

theorem exec_railRampDone (q : Fin 16) (hc : convertersOn s = true) (hq : quadClock s q.val ≠ 0 ∨ pstate s = 5) :
    exec (.railRampDone q) s = .next (overList (fun x t => if t.ember.applied = t.ember.decided then switchClock x t else t)
      (upFrom (4 * q.val) 4) (setQuad q.val (quadTarget s q.val) s)) := by
  refine (emberLive_of_runs h _).trans (if_neg ?_)
  rw [hc]
  obtain hq | hq := hq <;> simp [hq]

theorem exec_fastPowerLimit (hc : convertersOn s = true) :
    let t := updEmber (fun x => { x with limited := true }) (emberNote 2 (setRf (embReg 0) 52 48 27 s))
    exec .fastPowerLimit s = .next (overList switchClock (List.range 64) (if t.ember.decided.isEmpty then t else roundClocks t)) := by
  intro t
  refine (emberLive_of_runs h _).trans ((if_neg (guard_passed hc)).trans ?_)
  show Host.Outcome.next (overList switchClock (List.range 64) (whenSt (!t.ember.decided.isEmpty) roundClocks t)) = _
  cases t.ember.decided.isEmpty <;> rfl

theorem exec_convertersRestart (hp : pstate s = 0) (hl : s.ember.latch = false) (ho : s.ember.open_ = false) :
    exec .convertersRestart s = .next (if 16 ≤ s.ember.good then bringUp (setPstate 1 s) else setPstate 1 s) :=
  (emberLive_of_runs h _).trans (if_neg (by rw [hp, hl, ho]; decide))

theorem exec_mainConvertersOn (ok : Bool) (hb : s.board.boot = 1) (hp : pstate s = 1) (hg : 16 ≤ s.ember.good)
    (hl : s.ember.latch = false) (ho : s.ember.open_ = false) :
    exec (.mainConvertersOn ok) s = .next (if ok then bringUp s else shutdown 6 (bringUp s)) :=
  (emberLive_of_runs h _).trans (if_neg (by rw [hb, hp, hl, ho, decide_eq_false (Nat.not_lt.mpr hg)]; decide))

end EmberRuns

end Sys2Proof.Proofs

namespace Sys2Proof.Proofs

open Sys2Proof Sys2Proof.Machine Sys2Proof.Laws

/-! ### Clocks switched (R414) -/

section Clocks

variable {s : State}

@[simp] theorem switchClock_ember (x : Nat) (s : State) : (switchClock x s).ember = s.ember := by
  unfold switchClock
  dsimp only
  split <;> rfl

theorem rg_switchClock (x : Nat) (s : State) {o : Nat} (h : o ≠ clkReg x) : rg (switchClock x s) o = rg s o := by
  unfold switchClock
  dsimp only
  split
  · exact (rg_setRf_other _ _ _ _ h).trans (rg_setRf_other _ _ _ _ h)
  · exact rg_setRf_other _ _ _ _ h

theorem rg_switchClocks (l : List Nat) (s : State) {o : Nat} (h : o < embReg 0x200) : rg (overList switchClock l s) o = rg s o :=
  rg_overList o switchClock l (fun x _ s => rg_switchClock x s (by simp only [clkReg, embReg] at h ⊢; omega)) s

/-- A quadrant rail that ramped has its target, and the other rails keep theirs (R414). -/
theorem quadClock_ramped (hw : tabWf (fun _ => 0) s.ember.rails = true) (q v : Nat) (l : List Nat) :
    let t := overList (fun x t => if t.ember.applied = t.ember.decided then switchClock x t else t) l (setQuad q v s)
    quadClock t q = v ∧ ∀ j, j ≠ q → quadClock t j = quadClock s j := by
  intro t
  have ht : t.ember = (setQuad q v s).ember :=
    overList_keeps (p := fun u : State => u.ember = (setQuad q v s).ember)
      (fun x u hu => by split <;> simp [hu]) l rfl
  have hq (j : Nat) : quadClock t j = quadClock (setQuad q v s) j := congrArg (fun e : Ember => tabGet 0 e.rails j) ht
  exact ⟨(hq q).trans (tabGet_tabSet_same q v hw), fun j hj => (hq j).trans (tabGet_tabSet_other s.ember.rails v hj)⟩

theorem rg_updEmber (f : Ember → Ember) (s : State) (o : Nat) : rg (updEmber f s) o = rg s o := rfl

/-- The fast limit sets the power steps to 27 and its note (R418). -/
theorem rf_fastLimit (hs : s.wf = true) :
    let t := updEmber (fun x => { x with limited := true }) (emberNote 2 (setRf (embReg 0) 52 48 27 s))
    let u := overList switchClock (List.range 64) (if t.ember.decided.isEmpty then t else roundClocks t)
    powerSteps u = 27 ∧ rf u (embReg 0x20) 2 2 = 1 := by
  intro t u
  have hsteps := wf_setRf (embReg 0) 52 48 27 hs
  have hrf {o : Nat} (ho : o < embReg 0x200) (hi lo : Nat) : rf u o hi lo = rf (emberNote 2 (setRf (embReg 0) 52 48 27 s)) o hi lo := by
    refine congrArg (fieldOf · hi lo) ((rg_switchClocks _ _ ho).trans ?_)
    cases t.ember.decided.isEmpty
    · exact (rg_updEmber _ t o).trans (rg_updEmber _ _ o)
    · exact rg_updEmber _ _ o
  constructor
  · rw [powerSteps, hrf (by decide), emberNote, rf_setRf_other _ _ _ _ _ _ (by decide),
      rf_setRf_same (wf_regs hs) (by decide) (by decide) (by decide)]
  · rw [hrf (by decide), emberNote, rf_setRf_same (wf_regs hsteps) (by decide) (by decide) (by decide)]

end Clocks

/-! ### Rounds -/

section Round

variable {s : State}

/-- What a round does once every channel is sampled, up to the rails (R413 to R427). -/
def roundDecided (b : State) : State :=
  let c := roundInput (roundClocks (roundPower (roundHolds (roundBlind (roundSkew (roundFlow b))))))
  updEmber (fun x => { x with warnTemp := x.warnTemp || (List.range 24).any (fun r => regionState c r != 0) }) c

/-- The end of a round (R415, R428): `d` with the causes `ov` and `rail` that are due. -/
def roundEnd (d : State) (ov : List Nat) (rail : Bool) : State :=
  if d.ember.latch then d else match roundCause d ov rail with
    | some k => shutdown k d
    | none => if inputBad d && (convertersOn d || pstate d == 1) then convertersOff 0 d else d

theorem exec_emberRound (h : emberRuns s = true) (raws : List Int) (prot : Bool) {b : State × List Nat} {d : State × Bool}
    (hb : roundOver (roundStates (overList (sampleCh raws) (List.range 256) (countRound s))) = b)
    (hd : roundRails (roundDecided b.1) = d) :
    exec (.emberRound raws prot) s = .next (roundEnd d.1 b.2 (d.2 || prot)) := by
  have e : exec (.emberRound raws prot) s = execEmberRound raws prot s := rfl
  obtain ⟨u, ov⟩ := b
  obtain ⟨v, rail⟩ := d
  rw [e, execEmberRound, emberLive_of_runs h]
  extract_lets sampled states
  rw [show roundOver states = (u, ov) from hb]
  dsimp -zeta only
  extract_lets held input decided
  rw [show roundRails decided = (v, rail) from hd]
  dsimp only [roundEnd]
  split
  · rfl
  · cases roundCause v ov (rail || prot) <;> rfl

end Round

/-! ### Shutdowns, the supply and the interlock -/

section Stops

variable {s : State}

theorem shutdown_state (k : Nat) (s : State) :
    (shutdown k s).ember.latch = true ∧ (shutdown k s).board.boot = 1 ∧ (shutdown k s).up = false ∧ (shutdown k s).queues = [] ∧
      (shutdown k s).ember.log.map (·.cause) = s.ember.log.map (·.cause) ++ [k] :=
  ⟨rfl, rfl, rfl, rfl, List.map_append⟩

/-- A shutdown leaves no row of SM valid, so every byte reads as zero. -/
theorem shutdown_peekByte (k : Nat) (s : State) (a : Nat) : peekByte (shutdown k s) 4 a = 0 := by
  refine peekByte_of_not_valid ?_
  have hvalid : (shutdown k s).mem.valid = [] := rfl
  rw [isValid, hvalid, tabGet]
  decide

theorem exec_interlockOpen (s : State) :
    let t := updEmber (fun x => { x with open_ := true }) s
    exec .interlockOpen s = .next (if s.ember.on && !s.ember.latch then convertersOff 0 t else t) := by
  intro t
  show (if !s.ember.on || s.ember.latch then Host.Outcome.next t else .next (convertersOff 0 t)) = _
  cases s.ember.on <;> cases s.ember.latch <;> rfl

theorem exec_emberBoot_on (h : s.ember.on = true) (strap : Fin 8) : exec (.emberBoot strap) s = .next s := if_pos h

theorem exec_sensorFlagClear (h : running s = true) (k : Fin 256) : exec (.sensorFlagClear k) s = .next (clearFlag k.val s) :=
  live_of_running h _

theorem clearFlag_unflagged {k : Nat} (h : flagged s k = false) : clearFlag k s = s := if_pos (by rw [h]; rfl)

theorem clearFlag_flagged {k : Nat} (h : flagged s k = true) :
    clearFlag k s = setEmbCh k {} (setRf (flagReg k) (k % 64) (k % 64) 0 s) := if_neg (by rw [h]; decide)

end Stops

/-! ### The PMBus (R419) -/

section Pmbus

variable {s : State}

/-- The read commands with their codes and values. -/
def pmReads (s : State) : List (Instr × Nat × Nat) :=
  [(.statusWord, 0x79, pmStatusWord s), (.statusInput, 0x7C, statusInput s), (.statusTemperature, 0x7D, statusTemperature s),
    (.readEin, 0x86, s.ember.energy / 10 ^ 12 % 2 ^ 15 + s.ember.energy / 10 ^ 12 / 2 ^ 15 % 256 * 2 ^ 16 +
      rf s (embReg 0) 31 0 % 2 ^ 24 * 2 ^ 24),
    (.readVin, 0x88, Config.pmbusCode 0x88 (embCh s 138).y), (.readIin, 0x89, Config.pmbusCode 0x89 (embCh s 202).y),
    (.readPin, 0x97, Config.pmbusCode 0x97 (s.ember.power.headD 0)),
    (.readTemperature1, 0x8D, Config.pmbusCode 0x8D (hottest s (List.range 20))),
    (.readTemperature2, 0x8E, Config.pmbusCode 0x8E (hottest s (upFrom 20 4))),
    (.readTemperature3, 0x8F, Config.pmbusCode 0x8F (embCh s 137).y), (.pmbusRevision, 0x98, 0x33)]

/-- Each read command answers its value, when Ember runs. -/
theorem exec_pmRead {i : Instr} {cmd v : Nat} (hi : (i, cmd, v) ∈ pmReads s) : exec i s = pmAnswer cmd v s := by
  simp only [pmReads, List.mem_cons, Prod.mk.injEq, List.not_mem_nil, or_false] at hi
  obtain ⟨rfl, rfl, rfl⟩ | ⟨rfl, rfl, rfl⟩ | ⟨rfl, rfl, rfl⟩ | ⟨rfl, rfl, rfl⟩ | ⟨rfl, rfl, rfl⟩ | ⟨rfl, rfl, rfl⟩ |
    ⟨rfl, rfl, rfl⟩ | ⟨rfl, rfl, rfl⟩ | ⟨rfl, rfl, rfl⟩ | ⟨rfl, rfl, rfl⟩ | ⟨rfl, rfl, rfl⟩ := hi
  all_goals rfl

theorem pmAnswer_runs (h : emberRuns s = true) (cmd v : Nat) : pmAnswer cmd v s = .next { s with out := s.out ++ [.pmbus cmd v] } :=
  emberLive_of_runs h _

theorem emberLive_of_stopped (h : emberRuns s = false) (o : Host.Outcome State Fault Refusal) : emberLive s o = .next s :=
  if_neg (ne_true_of_eq_false h)

theorem exec_throttleApply_stopped (h : emberRuns s = false) : exec .throttleApply s = .next s := by
  have e : exec .throttleApply s = execThrottleApply s := rfl
  rw [e, execThrottleApply, emberLive_of_stopped h]

theorem exec_emberRound_stopped (h : emberRuns s = false) (raws : List Int) (prot : Bool) :
    exec (.emberRound raws prot) s = .next s := by
  have e : exec (.emberRound raws prot) s = execEmberRound raws prot s := rfl
  rw [e, execEmberRound, emberLive_of_stopped h]

end Pmbus

/-- Settles O58, event by event. -/
theorem emberActsAndAnswers : Obligations.EmberActsAndAnswers := by
  intro s e0 chansWf railsWf e reads
  refine ⟨fun h => ⟨fun raws prot => ⟨exec_emberRound h raws prot rfl rfl, fun hs hc k hk hf hon => round_samples hs hc hk hf hon raws⟩,
    exec_throttleApply h, fun q hc hq => ⟨exec_railRampDone h q hc hq, fun hw => quadClock_ramped hw _ _ _⟩,
    fun hc => ⟨exec_fastPowerLimit h hc, rf_fastLimit⟩, exec_convertersRestart h,
    fun hb hp hg hl ho => ⟨exec_mainConvertersOn h true hb hp hg hl ho, exec_mainConvertersOn h false hb hp hg hl ho⟩,
    emberLive_of_runs h _, fun c => pmAnswer_runs h _ _, fun i cmd v hi => (exec_pmRead hi).trans (pmAnswer_runs h _ _)⟩,
    fun h => ⟨fun x hx => (exec_pmRead hx).trans (emberLive_of_stopped h _), exec_throttleApply_stopped h, emberLive_of_stopped h _,
      exec_emberRound_stopped h⟩, fun a n => rfl, fun hl => ⟨if_neg (ne_true_of_eq_false hl), ?_⟩, fun hl => if_pos hl,
    ⟨rfl, rfl, rfl, rfl, rfl, rfl, rfl⟩, exec_interlockOpen s, rfl,
    fun hrun k => ⟨fun hf => ?_, fun hf => ⟨?_, fun hs => flagged_clearFlag hs k.val, fun hc => embCh_setEmbCh_same hc _ _⟩⟩,
    exec_emberBoot_on, fun hon strap => ?_⟩
  case refine_1 =>
    obtain ⟨hlatch, hboot, hup, hqueues, hlog⟩ := shutdown_state 7 s
    exact ⟨hlatch, hboot, hup, hqueues, shutdown_peekByte 7 s, hlog⟩
  case refine_2 => rw [exec_sensorFlagClear hrun, clearFlag_unflagged hf]
  case refine_3 => rw [exec_sensorFlagClear hrun, clearFlag_flagged hf]
  case refine_4 => exact if_neg (ne_true_of_eq_false hon)

end Sys2Proof.Proofs

namespace Sys2Proof.Proofs

open Sys2Proof Sys2Proof.Machine Sys2Proof.Laws

/-! ### Freeze and release (R462 to R465) -/

section Freeze

variable {s : State}

/-- What Quench holds of a state as a freeze stops it (R463). -/
def frozenBoard (s : State) : State :=
  updBoard (fun x => { x with
    snapshot := ((List.range 11354).map (fun i => (i, statusWord s i))).filter (fun e => e.2 != 0),
    chainAt := (takeFree s).2, quiet := (List.range 20).filter (fun n => srState s n != 2) }) (takeFree s).1

/-- A state stopped by a freeze (R463). -/
def stopped (s : State) : State := bumpRf (qchReg 8) 15 0 1 (setRf (qchReg 8) 63 63 1 (frozenBoard s))

/-- May a freeze stop the module now (R454, R462)? -/
def mayFreeze (s : State) : Bool := freezeAsked s && !frozen s && pastStep2 s

theorem mayFreeze_iff : mayFreeze s = true ↔ freezeAsked s = true ∧ frozen s = false ∧ pastStep2 s = true := by
  simp [mayFreeze, and_assoc]

theorem execQuenchFreeze_eq (s : State) : execQuenchFreeze s = if !mayFreeze s then noEvent s else done (stopped s) := by
  unfold execQuenchFreeze mayFreeze
  cases freezeAsked s <;> cases frozen s <;> cases pastStep2 s <;> rfl

theorem frozenBoard_wf (hs : s.wf = true) : (frozenBoard s).wf = true := hs

theorem frozen_stopped (hs : s.wf = true) : frozen (stopped s) = true := by
  have hw := wf_setRf (qchReg 8) 63 63 1 (frozenBoard_wf hs)
  rw [frozen, stopped, bumpRf, rf_setRf_above _ (wf_regs hw) (by decide) (by decide) (by decide),
    rf_setRf_same (wf_regs (frozenBoard_wf hs)) (by decide) (by decide) (by decide)]
  rfl

theorem running_of_frozen (h : frozen s = true) : running s = false := by rw [running, h, Bool.not_true, Bool.and_false]

/-- A released state, before what was held is served (R465). -/
def thawed (v : Word) (s : State) : State :=
  setRg (qchReg 0x10) v (setRf (qchReg 8) 63 63 0 (updBoard (fun x => { x with snapshot := [], quiet := [] }) s))

/-- May a release let the module run now (R465)? -/
def mayRelease (s : State) : Bool := frozen s && !freezeAsked s && rf s (qchReg 0x38) 63 63 != 1

theorem mayRelease_iff : mayRelease s = true ↔ frozen s = true ∧ freezeAsked s = false ∧ rf s (qchReg 0x38) 63 63 = 0 := by
  have hlt : rf s (qchReg 0x38) 63 63 < 2 := natBits_lt _ 63 63
  have hbit : rf s (qchReg 0x38) 63 63 ≠ 1 ↔ rf s (qchReg 0x38) 63 63 = 0 := by omega
  simp [mayRelease, and_assoc, hbit]

theorem execQuenchRelease_eq (v : Word) (s : State) : execQuenchRelease v s =
    if !mayRelease s then noEvent s else done (serveWaiting (hostAgain (serveHeld (thawed v s)))) := by
  have hguard : (!frozen s || freezeAsked s || rf s (qchReg 0x38) 63 63 == 1) = !mayRelease s := by
    rw [mayRelease, bne]
    cases frozen s <;> cases freezeAsked s <;> cases rf s (qchReg 0x38) 63 63 == 1 <;> rfl
  unfold execQuenchRelease
  rw [hguard]
  rfl

theorem frozen_thawed (hs : s.wf = true) (v : Word) : frozen (thawed v s) = false := by
  have h : rf (thawed v s) (qchReg 8) 63 63 = 0 :=
    (congrArg (fieldOf · 63 63) (rg_setRg_other _ v (by decide))).trans (rf_setRf_same (wf_regs hs) (by decide) (by decide) (by decide))
  rw [frozen, h]
  rfl

theorem rg_thawed (hs : s.wf = true) (v : Word) : rg (thawed v s) (qchReg 0x10) = v :=
  rg_setRg_same _ v (wf_regs (wf_setRf (qchReg 8) 63 63 0 (s := updBoard (fun x => { x with snapshot := [], quiet := [] }) s) hs))

end Freeze

/-! ### The read-out (R467, R468) -/

section Readout

variable {s : State}

theorem qchWrite_of_on (h : 2 ≤ s.board.boot) (o : Host.Outcome State Fault Refusal) : qchWrite s o = o := if_pos h

theorem qchWrite_of_off (h : s.board.boot < 2) (o : Host.Outcome State Fault Refusal) : qchWrite s o = .next s :=
  if_neg (Nat.not_le.mpr h)

/-- Is a go refused in the state that has its RW fields (R467, R468)? -/
def goRefused (v : Word) (t : State) : Bool := !frozen t || rf t roStat 63 63 == 1 || (fieldOf v 3 3 == 0 && !hmOpen t 1)

theorem readoutGo_refused {v : Word} (h : goRefused v (roFields v s) = true) : readoutGo v s = setRf roStat 61 61 1 (roFields v s) :=
  if_pos h

theorem readoutGo_starts {v : Word} (h : goRefused v (roFields v s) = false) :
    let t := roFields v s
    readoutGo v s = shiftImage (setRg roStat (BitVec.ofNat 64 (2 ^ 63)) (updBoard (fun x => { x with
      roStop := none, shift := [], roTag := (x.roTag + 1) % 2 ^ 24,
      roGo := [(rg t roCtl).toNat, (rg t (qchReg 0x28)).toNat, (rg t (qchReg 0x30)).toNat] }) t)) :=
  if_neg (ne_true_of_eq_false h)

theorem exec_readoutStop_ignored (hb : 2 ≤ s.board.boot) (sec : Nat) (h : rf s roStat 63 63 = 0 ∨ s.board.roStop.isSome = true) :
    exec (.readoutStop sec) s = .next s := (qchWrite_of_on hb _).trans (if_pos (by simpa using h))

theorem exec_readoutStop (hb : 2 ≤ s.board.boot) (sec : Nat) (h : rf s roStat 63 63 ≠ 0) (hn : s.board.roStop = none) :
    exec (.readoutStop sec) s = .next (shiftImage (updBoard (fun x => { x with roStop := some sec }) s)) :=
  (qchWrite_of_on hb _).trans (if_neg (by simp [h, hn]))

theorem exec_readoutDone (hb : 2 ≤ s.board.boot) (h : rf s roStat 63 63 ≠ 0) (hs : roBit s 3 = false ∨ s.board.shift = []) :
    let t := if roBit s 3 then s else memWrite (roWho s) 5 (roAddr s) (cleanBytes (roImage s)) s
    exec .readoutDone s = .next (setRf roStat 63 62 1 (updBoard (fun x => { x with roStop := none })
      (setRf roStat 60 60 (b2n (roFull s)) (setRf roStat 47 0 (roImage s).length t)))) := by
  refine (qchWrite_of_on hb _).trans (if_neg ?_)
  obtain hs | hs := hs <;> simp [h, hs]

end Readout

/-! ### Register writes (R387, R391, R452, R464) -/

section RegisterWrites

variable {s : State} {who : RegAgent} {off : BitVec 22} {half : Option Bool} {v : Word}

/-- The register that an offset of BAR0 lies in. -/
def barReg (off : BitVec 22) : Nat := off.toNat / 8 * 8

/-- May the agent reach the register now (R234, R387, R463)? -/
structure Reaches (s : State) (who : RegAgent) (o : Nat) : Prop where
  runs : agentRuns s who o = true
  host : who = .host → linkUp s = true ∧ hostBars s = true
  core : ((∃ k, who = .smith k) ∨ ∃ x, who = .hammer x) → running s = true

/-- The register write that an agent which reaches the register makes. -/
def barDone (who : RegAgent) (off : BitVec 22) (half : Option Bool) (v : Word) (s : State) : State :=
  if off.toNat % 8 ≠ 0 then badWrite (barReg off) s
  else match half with | none => barWrite who (barReg off) v s | some h => halfWrite who (barReg off) h v s

theorem exec_barWrite (h : Reaches s who (barReg off)) (ha : who = .host ∨ off.toNat % 8 = 0) :
    exec (.registerWrite who (.bar off half) v) s = .next (barDone who off half v s) := by
  have hguard : (!agentRuns s who (barReg off) || (who != .host && decide (off.toNat % 8 ≠ 0))) = false := by
    rw [h.runs]
    obtain ha | ha := ha <;> simp [ha]
  refine (if_neg (ne_true_of_eq_false hguard)).trans ?_
  cases who with
  | host =>
    obtain ⟨hl, hb⟩ := h.host rfl
    exact hostBar_of_open hl hb _
  | smith k => exact live_of_running (h.core (.inl ⟨k, rfl⟩)) _
  | hammer x => exact live_of_running (h.core (.inr ⟨x, rfl⟩)) _
  | jtag => rfl

theorem exec_barWrite_unaligned (hw : who ≠ .host) (ho : off.toNat % 8 ≠ 0) :
    exec (.registerWrite who (.bar off half) v) s = .next s := by
  refine if_pos ?_
  rw [bne_iff_ne.mpr hw, decide_eq_true ho, Bool.and_true, Bool.or_true]

theorem barDone_unaligned (ho : off.toNat % 8 ≠ 0) : barDone who off half v s = badWrite (barReg off) s := if_pos ho

theorem barDone_whole (ho : off.toNat % 8 = 0) : barDone who off none v s = barWrite who (barReg off) v s := if_neg (not_not.mpr ho)

theorem barDone_half (ho : off.toNat % 8 = 0) (high : Bool) (h : takesHalf (barReg off) = true) :
    barDone who off (some high) v s = barWrite who (barReg off) (if high then withField (rg s (barReg off)) 63 32 (fieldOf v 31 0)
      else withField (rg s (barReg off)) 31 0 (fieldOf v 31 0)) s :=
  (if_neg (not_not.mpr ho)).trans (if_neg (guard_passed h))

theorem barDone_noHalf (ho : off.toNat % 8 = 0) (high : Bool) (h : takesHalf (barReg off) = false) :
    barDone who off (some high) v s = badWrite (barReg off) s := (if_neg (not_not.mpr ho)).trans (if_pos (guard_stops h))

theorem not_dropped {o : Nat} (hf : frozen s = false ∨ inQuench o = true) : ¬ (frozen s && !inQuench o) = true := by
  obtain hf | hf := hf <;> simp [hf]

theorem not_lost {o : Nat} (hd : stageFailed s = false ∨ failedDecodes o = true) : ¬ (stageFailed s && !failedDecodes o) = true := by
  obtain hd | hd := hd <;> simp [hd]

section On

variable {o : Nat} (hb : 2 ≤ s.board.boot)
include hb

theorem barWrite_frozen (hf : frozen s = true) (hq : inQuench o = false) :
    barWrite who o v s = satRf (qchReg 8) 31 16 1 s ∧ badWrite o s = satRf (qchReg 8) 31 16 1 s := by
  have hdrop : (frozen s && !inQuench o) = true := by rw [hf, hq]; rfl
  exact ⟨(if_neg (Nat.not_lt.mpr hb)).trans (if_pos hdrop), (if_neg (Nat.not_lt.mpr hb)).trans (if_pos hdrop)⟩

variable (hf : frozen s = false ∨ inQuench o = true)
include hf

theorem barWrite_failed (hst : stageFailed s = true) (hd : failedDecodes o = false) : barWrite who o v s = s ∧ badWrite o s = s := by
  have hlost : (stageFailed s && !failedDecodes o) = true := by rw [hst, hd]; rfl
  exact ⟨(if_neg (Nat.not_lt.mpr hb)).trans ((if_neg (not_dropped hf)).trans (if_pos hlost)),
    (if_neg (Nat.not_lt.mpr hb)).trans ((if_neg (not_dropped hf)).trans (if_pos hlost))⟩

variable (hd : stageFailed s = false ∨ failedDecodes o = true)
include hd

theorem badWrite_counts : badWrite o s = satRf (hstReg 8) 47 32 1 s :=
  (if_neg (Nat.not_lt.mpr hb)).trans ((if_neg (not_dropped hf)).trans (if_neg (not_lost hd)))

theorem barWrite_put : barWrite who o v s = barPut who o v s :=
  (if_neg (Nat.not_lt.mpr hb)).trans ((if_neg (not_dropped hf)).trans (if_neg (not_lost hd)))

end On

/-- The read-out address is taken whole (R467). -/
theorem barPut_roAddr (who : RegAgent) (v : Word) (s : State) : barPut who (qchReg 0x28) v s = setRg (qchReg 0x28) v s := rfl

theorem exec_belsel {core : Fin 68} (hrun : running s = true) (hr : coreRuns s core.val = true) (hw : coreWaits s core.val = false) :
    (tabGet false s.umode core.val = false →
      exec (.registerWrite who (.belsel core) v) s = .next { s with belsel := tabSet 0 s.belsel core.val (fieldOf v 3 0) }) ∧
    (tabGet false s.umode core.val = true → exec (.registerWrite who (.belsel core) v) s =
      .next (coreTrap core.val 2 (Config.trapValue (takeFree s).2) (takeFree s).1)) :=
  ⟨fun hu => (live_of_running hrun _).trans (bellCsr_machine hr hw hu), fun hu => (live_of_running hrun _).trans (bellCsr_user hr hw hu)⟩

theorem exec_memorySpace (h : linkUp s = true) : exec (.registerWrite who .memorySpace v) s =
    .next { s with cfg := { s.cfg with mse := s.cfg.mse || bitOf v 0 } } := if_neg (guard_passed h)

theorem exec_msixControl (h : linkUp s = true) : exec (.registerWrite who .msixControl v) s =
    .next (msixFlush { s with cfg := { s.cfg with msixEn := bitOf v 0, msixMask := bitOf v 1 } }) := if_neg (guard_passed h)

end RegisterWrites

/-- Settles O60: freeze and release by their guards, read-out and register writes by the paths that let them through. -/
theorem quenchAndRegisterWrites : Obligations.QuenchAndRegisterWrites := by
  intro v s st b
  refine ⟨fun p => rfl, fun hb => qchWrite_of_on hb _, fun hb i hi => ?_, ⟨fun h => ?_, fun h => ?_, fun hs => ?_, rfl, rfl⟩,
    ⟨fun h => ?_, fun _ h => ?_, fun hs => ⟨frozen_thawed hs v, rg_thawed hs v⟩⟩,
    fun hb => ⟨⟨fun h => ?_, fun h => ?_⟩, fun sec => ⟨exec_readoutStop_ignored hb sec, exec_readoutStop hb sec⟩, exec_readoutDone hb⟩,
    fun off half who => ⟨?_, ?_, exec_barWrite_unaligned, fun hb => ⟨barWrite_frozen hb, fun hf => ⟨barWrite_failed hb hf, fun hd =>
      ⟨badWrite_counts hb hf hd, fun ho => ?_⟩⟩⟩⟩,
    fun core hrun hr hw who => exec_belsel hrun hr hw, fun hl who => ⟨exec_memorySpace hl, exec_msixControl hl⟩⟩
  case refine_1 =>
    simp only [List.mem_cons, List.not_mem_nil, or_false] at hi
    obtain rfl | rfl | rfl := hi
    · exact qchWrite_of_off hb _
    · exact qchWrite_of_off hb _
    · exact qchWrite_of_off hb _
  case refine_2 => exact (execQuenchFreeze_eq s).trans (if_neg (guard_passed (mayFreeze_iff.mpr h)))
  case refine_3 =>
    exact (execQuenchFreeze_eq s).trans (if_pos (guard_stops (Bool.eq_false_iff.mpr fun hm => h (mayFreeze_iff.mp hm))))
  case refine_4 => exact ⟨frozen_stopped hs, running_of_frozen (frozen_stopped hs)⟩
  case refine_5 => exact (execQuenchRelease_eq v s).trans (if_neg (guard_passed (mayRelease_iff.mpr h)))
  case refine_6 =>
    refine (execQuenchRelease_eq v s).trans (if_pos (guard_stops (Bool.eq_false_iff.mpr fun hm => ?_)))
    obtain ⟨hfrozen, hasked, -⟩ := mayRelease_iff.mp hm
    obtain h | h := h
    · exact ne_true_of_eq_false h hfrozen
    · exact ne_true_of_eq_false hasked h
  case refine_7 => exact (qchWrite_of_on hb _).trans (congrArg Host.Outcome.next (readoutGo_refused h))
  case refine_8 => exact (qchWrite_of_on hb _).trans (congrArg Host.Outcome.next (readoutGo_starts h))
  case refine_9 =>
    rintro ⟨hruns, hhost, hcore⟩ ho
    have hwrite (half : Option Bool) := exec_barWrite (half := half) (v := v) (.mk hruns hhost hcore) (.inr ho)
    exact ⟨(hwrite none).trans (congrArg _ (barDone_whole ho)), fun high h => (hwrite _).trans (congrArg _ (barDone_half ho high h)),
      fun high h => (hwrite _).trans (congrArg _ (barDone_noHalf ho high h))⟩
  case refine_10 =>
    rintro ⟨hruns, hhost, hcore⟩ hw ho
    exact (exec_barWrite (.mk hruns hhost hcore) (.inl hw)).trans (congrArg _ (barDone_unaligned ho))
  case refine_11 => exact (barWrite_put hb hf hd).trans (ho ▸ barPut_roAddr who v s)

end Sys2Proof.Proofs

namespace Sys2Proof.Proofs

open Sys2Proof Sys2Proof.Machine Sys2Proof.Laws

/-! ### Outcomes that lead to a next state -/

/-- The outcome is a next state: no fault and no refusal. -/
def Answers (o : Host.Outcome State Fault Refusal) : Prop := ∃ t, o = .next t

section Combinators

variable {o o' : Host.Outcome State Fault Refusal} {s : State}

theorem answers_next {t : State} : Answers (.next t) := ⟨t, rfl⟩

theorem answers_ite {c : Prop} [Decidable c] (h : Answers o) (h' : Answers o') : Answers (if c then o else o') := by
  split
  · exact h
  · exact h'

theorem answers_branch {c : Prop} [Decidable c] {t u : State} : Answers (if c then .next t else .next u) :=
  answers_ite answers_next answers_next

theorem answers_live (h : Answers o) : Answers (live s o) := answers_ite h answers_next

theorem answers_liveWrite (h : Answers o) : Answers (liveWrite s o) :=
  answers_ite (answers_ite answers_next h) answers_branch

theorem answers_hostBar (h : Answers o) : Answers (hostBar s o) := answers_ite answers_next (answers_ite h answers_next)

theorem answers_emberLive (h : Answers o) : Answers (emberLive s o) := answers_ite h answers_next

theorem answers_pmAnswer {cmd value : Nat} : Answers (pmAnswer cmd value s) := answers_emberLive answers_next

theorem answers_qchWrite (h : Answers o) : Answers (qchWrite s o) := answers_ite h answers_next

/-- A row of Prefen's answers when what it does answers: what its accesses wait for is set going, or the row is done. -/
theorem answers_prefenRow {act : State → Host.Outcome State Fault Refusal} (h : ∀ t, Answers (act t)) :
    Answers (prefenRow s act) := by
  refine answers_live ?_
  obtain ⟨t, e⟩ := h { s with blocked := [] }
  rw [e]
  exact answers_branch

theorem answers_mbCmd {m op : Nat} {act : List Nat → State → State} : Answers (mbCmd m op act s) := answers_branch

theorem answers_queueCmd {q cls slots : Nat} {act : Caller → List Nat → State → State} :
    Answers (queueCmd q cls slots act s) :=
  answers_ite answers_next answers_branch

theorem answers_eitherCmd {src : CmdSrc} {cls : Nat} {act : Caller → List Nat → State → State} :
    Answers (eitherCmd src cls act s) := by
  cases src with
  | mailbox m => exact answers_mbCmd (act := act (.mailbox m.val))
  | queue q => exact answers_queueCmd (q := q.toNat) (cls := cls) (slots := 1) (act := fun c w => act c (w.drop 1))

theorem answers_hearthRow {m : Nat} {leave : Bool} {act : Nat → State → State} : Answers (hearthRow m leave act s) :=
  answers_ite answers_next answers_mbCmd

theorem answers_eccTest {m : Nat} {ops : List Nat} {last : Nat → Nat}
    {act : (b space a : Nat) → (pos val : Nat) → State → State × List Nat} : Answers (eccTest m ops last act s) :=
  answers_ite answers_next answers_mbCmd

theorem answers_msgIn {pid : Nat} {act : State → State} : Answers (msgIn pid act s) := answers_branch

theorem answers_received {p : Nat} {f : Frame} {act : State → State} : Answers (received p f act s) :=
  answers_live (answers_ite answers_next answers_branch)

theorem answers_bar4 {o : Nat} {mk : Nat → Access} {act : Nat → State → State} : Answers (bar4 o mk act s) :=
  answers_ite answers_next (answers_ite answers_next answers_branch)

theorem answers_bellCsr {core : Nat} {act : State → State} : Answers (bellCsr core act s) := answers_ite answers_next answers_branch

theorem answers_coreStep {core : Nat} {act : State → State} : Answers (coreStep core act s) := answers_live answers_branch

theorem answers_coreStepRel {core : Nat} {rel : Bool} {act : State → State} :
    Answers (coreStepRel core rel act s) := answers_live answers_branch

/-- One instruction of a Swage unit, whatever it does. -/
theorem answers_unitStep {n u op : Nat} {act : Nat → SwgUnit → State → UnitRes} : Answers (unitStep n u op act s) := by
  refine answers_ite answers_next (answers_ite answers_next ?_)
  split
  · exact answers_next
  · refine answers_ite answers_next (answers_ite answers_next ?_)
    split
    · exact answers_next
    · exact answers_next

/-- One word of an engine, whatever it does. -/
theorem answers_engineRun {a c k eng op : Nat} {act : EngCtx → State → EngRes} :
    Answers (engineRun a c k eng op act s) := by
  unfold engineRun
  dsimp only
  split
  · exact answers_next
  · refine answers_ite answers_next (answers_ite answers_next (answers_ite answers_next ?_))
    split
    · exact answers_next
    · exact answers_next
    · exact answers_next

/-- One word of a Bellows stream, whatever it does. -/
theorem answers_bellowsRun {a c op : Nat} {act : EngWord → State → Option State} : Answers (bellowsRun a c op act s) := by
  unfold bellowsRun
  split
  · exact answers_next
  · refine answers_ite answers_next (answers_ite answers_next (answers_ite answers_next ?_))
    dsimp only
    split
    · exact answers_next
    · exact answers_next

theorem answers_loadStore {a c : Nat} {store : Bool} {es : List LinkErr} : Answers (loadStore a c store es s) := by
  unfold loadStore
  extract_lets full
  generalize hrow : (if full then noEvent s else _) = o
  obtain ⟨t, rfl⟩ : Answers o := hrow ▸ answers_ite answers_next answers_bellowsRun
  exact answers_next

theorem answers_tongsRow {e c mode : Nat} {es : List (LinkErr × LinkErr)} : Answers (tongsRow e c mode es s) := by
  refine answers_ite answers_branch ?_
  split
  · exact answers_next
  · exact answers_ite answers_next answers_branch

end Combinators

end Sys2Proof.Proofs

namespace Sys2Proof.Proofs

open Sys2Proof Sys2Proof.Machine Sys2Proof.Laws

/-! ### Commands whose meaning branches on what they find -/

section Rows

variable {s : State}

theorem answers_fenceI (core : Fin 68) : Answers (execFenceI core s) := by
  unfold execFenceI
  exact answers_coreStep

theorem answers_fenceFull (f : FenceWord) : Answers (execFenceFull f s) := by
  unfold execFenceFull
  split
  · exact answers_ite answers_coreStep (answers_ite answers_coreStepRel (answers_ite answers_coreStepRel answers_coreStep))
  · exact answers_coreStepRel

theorem answers_hostSmRead (o : OnWire (BitVec 40)) (want : Fin 3) : Answers (execHostSmRead o want s) := by
  unfold execHostSmRead
  exact answers_bar4

theorem answers_hostSmWrite (o : BitVec 40) (data : List Byte) (poisoned : Bool) (e : LinkErr) :
    Answers (execHostSmWrite o data poisoned e s) := by
  unfold execHostSmWrite
  exact answers_bar4

theorem answers_backInvalidateResponse (line : BitVec 44) (data : Option (List Byte)) (keep : Bool) :
    Answers (execBackInvalidateResponse line data keep s) := by
  unfold execBackInvalidateResponse
  refine answers_live ?_
  extract_lets
  split
  · exact answers_next
  · exact answers_branch

theorem answers_hostCoherenceTimeout (line : BitVec 44) : Answers (execHostCoherenceTimeout line s) := by
  unfold execHostCoherenceTimeout
  refine answers_live ?_
  extract_lets
  split
  · exact answers_next
  · exact answers_next

theorem answers_swageCommandTake (n : Fin 20) : Answers (execSwageCommandTake n s) := by
  unfold execSwageCommandTake
  refine answers_live ?_
  split
  · exact answers_next
  · exact answers_branch

theorem answers_swagePrologue (n : Fin 20) : Answers (execSwagePrologue n s) := by
  unfold execSwagePrologue
  refine answers_live (answers_ite answers_next (answers_ite answers_next (answers_ite answers_next ?_)))
  extract_lets
  split
  exact answers_ite answers_next answers_branch

theorem answers_attentionMerge (n : Fin 20) : Answers (execAttentionMerge n s) := by
  unfold execAttentionMerge
  refine answers_live (answers_ite answers_next (answers_ite answers_next ?_))
  split
  · exact answers_next
  · exact answers_next

theorem answers_run (a : Fin 4) (c : Fin 16) : Answers (execRun a c s) := by
  unfold execRun
  refine answers_live (answers_ite ?_ answers_bellowsRun)
  split
  · exact answers_next
  · exact answers_next

theorem answers_bellowsRelease (a : Fin 4) (c : Fin 16) : Answers (execBellowsRelease a c s) := by
  unfold execBellowsRelease
  refine answers_live ?_
  split
  · exact answers_next
  · refine answers_ite answers_next (answers_ite answers_next (answers_ite answers_next ?_))
    split
    exact answers_next

theorem answers_wordComplete (a : Fin 4) (c k : Fin 16) (eng : Fin 4) : Answers (execWordComplete a c k eng s) := by
  unfold execWordComplete
  refine answers_live (answers_ite ?_ ?_)
  · split
    · exact answers_next
    · exact answers_branch
  · split
    · exact answers_next
    · exact answers_branch

theorem answers_engineWaitTimeout (a : Fin 4) (c k : Fin 16) (eng : Fin 4) : Answers (execEngineWaitTimeout a c k eng s) := by
  unfold execEngineWaitTimeout
  refine answers_live (answers_ite answers_next (answers_ite ?_ ?_))
  · split
    · exact answers_next
    · exact answers_branch
  · split
    · exact answers_next
    · exact answers_branch

theorem answers_pushStallTimeout (a : Fin 4) (c : Fin 16) : Answers (execPushStallTimeout a c s) := by
  unfold execPushStallTimeout
  refine answers_live ?_
  extract_lets
  split
  · exact answers_next
  · refine answers_ite answers_next ?_
    split
    exact answers_next

theorem answers_clTagRead (a : Fin 4) (c : Fin 16) : Answers (execClTagRead a c s) := by
  unfold execClTagRead
  refine answers_live ?_
  split
  exact answers_next

theorem answers_generate (q : BitVec 20) : Answers (execGenerate q s) := by
  unfold execGenerate
  exact answers_prefenRow fun _ => answers_ite answers_next answers_queueCmd

theorem answers_requestRetire (tag : BitVec 32) : Answers (execRequestRetire tag s) := by
  unfold execRequestRetire
  refine answers_prefenRow fun _ => ?_
  split
  · exact answers_next
  · extract_lets
    split
    · exact answers_next
    · exact answers_branch

theorem answers_sparkSample (a u : Fin 4) (row : Nat) (j : Fin 8) (space : Fin 16) (addr : Nat) (fmt : Fin 16) (dest : Nat) :
    Answers (execSparkSample a u row j space addr fmt dest s) := by
  unfold execSparkSample
  refine answers_live ?_
  split
  · exact answers_next
  · refine answers_ite answers_next (answers_ite answers_next (answers_ite answers_next ?_))
    dsimp only
    split
    · exact answers_branch
    · exact answers_next

theorem answers_anchorExchange (src : AnchorSource) (key : Nat) (anchor : BitVec 16) :
    Answers (execAnchorExchange src key anchor s) := by
  unfold execAnchorExchange
  refine answers_live ?_
  split
  · exact answers_msgIn
  · exact answers_branch

theorem answers_parkAccept (sid : BitVec 32) : Answers (execParkAccept sid s) := by
  unfold execParkAccept
  refine answers_prefenRow fun _ => ?_
  split
  · exact answers_next
  · refine answers_ite answers_next ?_
    split
    · exact answers_next
    · exact answers_branch

theorem answers_exportCommit (tag : BitVec 32) : Answers (execExportCommit tag s) := by
  unfold execExportCommit
  refine answers_prefenRow fun _ => ?_
  split
  · exact answers_next
  · refine answers_ite answers_next (answers_ite answers_next ?_)
    split
    · exact answers_next
    · extract_lets
      split
      exact answers_next

theorem answers_importCommit (tag : BitVec 32) : Answers (execImportCommit tag s) := by
  unfold execImportCommit
  refine answers_prefenRow fun _ => ?_
  split
  · exact answers_next
  · exact answers_ite answers_next (answers_ite answers_next (answers_ite answers_next answers_branch))

theorem answers_billetCrcDone (n : Fin 20) : Answers (execBilletCrcDone n s) := by
  unfold execBilletCrcDone
  refine answers_prefenRow fun _ => answers_ite answers_next (answers_ite answers_next ?_)
  split
  exact answers_next

theorem answers_mailboxTake (m : Fin 16) : Answers (execMailboxTake m s) := by
  unfold execMailboxTake
  exact answers_prefenRow fun _ => answers_branch

theorem answers_hearthTable (m : Fin 16) : Answers (execHearthTable m s) := by
  unfold execHearthTable
  exact answers_prefenRow fun _ => answers_ite answers_next answers_mbCmd

theorem answers_modelLoadCommit (tag : BitVec 32) (mp : List (Fin 20 × Fin 256 × Word)) :
    Answers (execModelLoadCommit tag mp s) := by
  unfold execModelLoadCommit
  refine answers_prefenRow fun _ => ?_
  split
  · exact answers_next
  · refine answers_ite answers_next ?_
    split
    · exact answers_next
    · refine answers_ite answers_next ?_
      split
      · exact answers_next
      · exact answers_next

theorem answers_adapterPublish (tag : BitVec 32) (result : AdapterEnd) : Answers (execAdapterPublish tag result s) := by
  unfold execAdapterPublish
  refine answers_prefenRow fun _ => ?_
  split
  · exact answers_next
  · refine answers_ite answers_next ?_
    split
    · exact answers_next
    · exact answers_next
    · extract_lets
      split
      · exact answers_next
      · refine answers_ite answers_next (answers_ite answers_next ?_)
        split
        · exact answers_next
        · exact answers_next

theorem answers_attach (p : Fin 12) (f : Frame) : Answers (execAttach p f s) := by
  unfold execAttach
  exact answers_received

theorem answers_attachAck (p : Fin 12) (f : Frame) : Answers (execAttachAck p f s) := by
  unfold execAttachAck
  exact answers_received

theorem answers_nak (p : Fin 12) (f : Frame) : Answers (execNak p f s) := by
  unfold execNak
  exact answers_received

theorem answers_retransmitTimeout (pid : Fin 255) : Answers (execRetransmitTimeout pid s) := by
  unfold execRetransmitTimeout
  refine answers_live ?_
  extract_lets
  split
  · exact answers_branch
  · exact answers_next

theorem answers_linkRecovery : Answers (execLinkRecovery s) := by
  unfold execLinkRecovery
  refine answers_ite answers_next ?_
  split
  exact answers_next

theorem answers_msixUnmask (v : Option (Fin 2048)) : Answers (execMsixUnmask v s) := by
  unfold execMsixUnmask
  split
  · exact answers_hostBar (answers_liveWrite answers_next)
  · exact answers_branch

theorem answers_counterSubtract (w : CountWrite) (v : BitVec 32) : Answers (execCounterSubtract w v s) := by
  unfold execCounterSubtract
  refine answers_live ?_
  split
  · exact answers_bellCsr
  · exact answers_branch

theorem answers_setPending (p : PendWrite) : Answers (execSetPending p s) := by
  unfold execSetPending
  split
  · exact answers_liveWrite answers_next
  · exact answers_live answers_bellCsr

theorem answers_emberRound (raw : List Int) (protection : Bool) : Answers (execEmberRound raw protection s) := by
  unfold execEmberRound
  refine answers_emberLive ?_
  extract_lets
  split
  extract_lets
  split
  refine answers_ite answers_next ?_
  split
  · exact answers_next
  · exact answers_next

theorem answers_hoodBoot (a b : Image) (common : Bool) : Answers (execHoodBoot a b common s) := by
  unfold execHoodBoot
  refine answers_live (answers_ite answers_next ?_)
  extract_lets
  split
  · exact answers_next
  · exact answers_next

theorem answers_quenchFreeze : Answers (execQuenchFreeze s) := by
  unfold execQuenchFreeze
  refine answers_ite answers_next ?_
  extract_lets
  split
  exact answers_next

theorem answers_registerWrite (who : RegAgent) (d : RegDest) (v : Word) : Answers (execRegisterWrite who d v s) := by
  unfold execRegisterWrite
  split
  · refine answers_ite answers_next ?_
    split
    · exact answers_hostBar answers_next
    · exact answers_live answers_next
    · exact answers_live answers_next
    · exact answers_next
  · exact answers_live answers_bellCsr
  · exact answers_branch
  · exact answers_branch

theorem answers_foreignFrame (p : Fin 12) (kind : Fin 3) : Answers (execForeignFrame p kind s) := by
  unfold execForeignFrame
  refine answers_live (answers_ite answers_next ?_)
  split
  · exact answers_next
  · exact answers_next
  · exact answers_next

end Rows

/-- Settles O6: each command is one of the combinators above over next states, so the cases are grouped by that shape. -/
theorem everyCommandAnswers : Obligations.EveryCommandAnswers := by
  intro c s
  show Answers (exec c s)
  cases c with
  | coreLoad | coreStore | ldV | fenceAcq =>
    exact answers_coreStep
  | fenceRel | atomicMemoryOperation | loadReserved | storeConditional =>
    exact answers_coreStepRel
  | h2dSnoop | flr | hotReset | perstAssert | busMasterDisable | memorySpaceDisable | d3hotEntry | hdmDecoderCommit
  | hardwareTrip | interlockOpen | emberBoot | testHoldWrite | roshift | spiprogRead | spiprogProgram | spiprogErase | bypass
  | quenchRelease | hostLinkUp | pcieLoopback | busMasterEnable | d3hotExit =>
    exact answers_branch
  | htrkRecallAll | srRequest | srExitRequest | validBitClear | errInfoClear | remapMove | eccRawRead | eccRawWrite
  | eccDecodedRead | eccEncodedWrite | mpWrite | mpWenWrite | hammerRun | clusterHalt | traceEnable | tongsAbort | channelBind
  | tongsHalt | doorbell | faultRingConsume | portEnableWrite | tuyCtlWrite | hostLoopStart | hostLoopStop | ucieTestStart =>
    exact answers_liveWrite answers_next
  | mainPathBurst | narrowPortAccess | yieldPoint | laneRecentre | srEntryDone | srExitDone | srIdleReentry | tgRunDone
  | validBitClearStart | validBitClearDone | storedErrorService | remapMoveDone | mergeAbort | swageTimeout | directPush
  | bellowsPush | hostAccessError | hmCompletionTimeout | waitTimeoutExpiry | queueTableWriteback | sleepEntered | wake
  | helloSend | ackTimer | nakTimer | portLinkChange | coalesceTimeout | ucieTestDone =>
    exact answers_live answers_branch
  | refreshCommand | swageMerge | mergeExchangeReceive | queueNop | waitPoll | wakeDone | conflictExpiry | prefenStartup =>
    exact answers_live (answers_ite answers_next answers_branch)
  | tgStart | tgStop | scrubStart =>
    exact answers_liveWrite answers_branch
  | scrubRow | tongsCommit | waitSatisfied =>
    exact answers_live (answers_ite answers_next (answers_ite answers_next answers_branch))
  | swageNop | endCmd | yld | setl | loop | ownl | lenl | skip | aclr | mvm | psnd | cwr | dots | mclr | smax | sexp | swageVacc
  | part =>
    exact answers_live answers_unitStep
  | mma | vadd | vsub | vmul | vdiv | vmax | vmin | vsqrt | vexp | vscl | vcvt | vfill | vrsum | vrmaxf | vamax | vimax | vacc
  | acvt | araw | racc | rcvt | aquo | mcpy | mtrn =>
    exact answers_live answers_engineRun
  | engineNop =>
    exact answers_live (answers_ite answers_bellowsRun answers_engineRun)
  | load | store =>
    exact answers_live answers_loadStore
  | bar =>
    exact answers_live answers_bellowsRun
  | tongsCopy | tongsGather | tongsScatter =>
    exact answers_live answers_tongsRow
  | qadvTaken | qadvDone | flagAdd | flagSet | waitGe | waitEq | waitCensus | partnerDeparture | clearPending
  | sourceLevelChange | bellSourceWrite | sensorFlagClear =>
    exact answers_live answers_next
  | cancel =>
    exact answers_prefenRow fun _ => answers_queueCmd
  | abort | park | resume | close | exportCmd | importCmd =>
    exact answers_prefenRow fun _ => answers_eitherCmd
  | stepStamp | stepCommit =>
    exact answers_prefenRow fun _ => answers_ite answers_next (answers_ite answers_next answers_branch)
  | sparkMaxExchange | sparkCandidateExchange =>
    exact answers_live answers_msgIn
  | groupPulse | memberAck | groupPrepare | groupCommit | groupAbandon | groupLeave =>
    exact answers_prefenRow fun _ => answers_msgIn
  | forwardedCommand | stepForward | parkForward =>
    exact answers_prefenRow fun _ => answers_ite answers_next answers_msgIn
  | billetCrc =>
    exact answers_prefenRow fun _ => answers_next
  | sleep | fwUpdate =>
    exact answers_live answers_mbCmd
  | mailboxDoorbell =>
    exact answers_hostBar (answers_liveWrite answers_next)
  | partnerLossHoldExpiry | leadLossExpiry =>
    exact answers_prefenRow fun _ => answers_branch
  | hostIfWrite =>
    exact answers_hostBar (answers_ite answers_next (answers_liveWrite answers_next))
  | mbNop | version | eventRing | modelLoad | modelUnload | modelQuery | adapterLoad | adapterRemove | adapterQuery
  | queueEnable | queueDisable | queueResume | queueFlush | ringRegister | ringUnregister | sessionQuery | requestQuery
  | groupForm | groupDissolve | groupQuery =>
    exact answers_prefenRow fun _ => answers_mbCmd
  | moduleReset =>
    exact answers_live (answers_ite answers_mbCmd answers_next)
  | hearthResetEnter | hearthResetLeave =>
    exact answers_live answers_hearthRow
  | eccTestRead | eccTestAdd | eccTestAddTwo | eccTestPoison | eccTestZero =>
    exact answers_live answers_eccTest
  | helloReceive =>
    exact answers_live (answers_ite answers_next (answers_ite answers_branch answers_next))
  | bye | ack =>
    exact answers_received
  | poisonRecovery =>
    exact answers_prefenRow fun _ => answers_ite answers_next (answers_ite answers_next (answers_ite answers_next answers_branch))
  | perstDeassert | latchRelease | interlockClose | fruRead | extest | idcode | samplePreload | quenchPinChange
  | standbySupplyLoss =>
    exact answers_next
  | bellClaim | bellComplete =>
    exact answers_live answers_bellCsr
  | throttleApply | railRampDone | fastPowerLimit | convertersRestart | mainConvertersOn =>
    exact answers_emberLive answers_branch
  | clearFaults =>
    exact answers_emberLive answers_next
  | coefficients | statusWord | statusInput | statusTemperature | readEin | readVin | readIin | readPin | readTemperature1
  | readTemperature2 | readTemperature3 | pmbusRevision =>
    exact answers_pmAnswer
  | regacc =>
    exact answers_ite answers_next answers_branch
  | freezeWrite | readoutGo =>
    exact answers_qchWrite answers_next
  | readoutStop | readoutDone =>
    exact answers_qchWrite answers_branch
  | fenceI core => exact answers_fenceI core
  | fenceFull f => exact answers_fenceFull f
  | hostSmRead o want => exact answers_hostSmRead o want
  | hostSmWrite o data poisoned e => exact answers_hostSmWrite o data poisoned e
  | backInvalidateResponse line data keep => exact answers_backInvalidateResponse line data keep
  | hostCoherenceTimeout line => exact answers_hostCoherenceTimeout line
  | swageCommandTake n => exact answers_swageCommandTake n
  | swagePrologue n => exact answers_swagePrologue n
  | attentionMerge n => exact answers_attentionMerge n
  | run a c => exact answers_run a c
  | bellowsRelease a c => exact answers_bellowsRelease a c
  | wordComplete a c k eng => exact answers_wordComplete a c k eng
  | engineWaitTimeout a c k eng => exact answers_engineWaitTimeout a c k eng
  | pushStallTimeout a c => exact answers_pushStallTimeout a c
  | clTagRead a c => exact answers_clTagRead a c
  | generate q => exact answers_generate q
  | requestRetire tag => exact answers_requestRetire tag
  | sparkSample a u row j space addr fmt dest => exact answers_sparkSample a u row j space addr fmt dest
  | anchorExchange src key anchor => exact answers_anchorExchange src key anchor
  | parkAccept sid => exact answers_parkAccept sid
  | exportCommit tag => exact answers_exportCommit tag
  | importCommit tag => exact answers_importCommit tag
  | billetCrcDone n => exact answers_billetCrcDone n
  | mailboxTake m => exact answers_mailboxTake m
  | hearthTable m => exact answers_hearthTable m
  | modelLoadCommit tag mp => exact answers_modelLoadCommit tag mp
  | adapterPublish tag result => exact answers_adapterPublish tag result
  | attach p f => exact answers_attach p f
  | attachAck p f => exact answers_attachAck p f
  | nak p f => exact answers_nak p f
  | retransmitTimeout pid => exact answers_retransmitTimeout pid
  | linkRecovery => exact answers_linkRecovery
  | msixUnmask v => exact answers_msixUnmask v
  | counterSubtract w v => exact answers_counterSubtract w v
  | setPending p => exact answers_setPending p
  | emberRound raw protection => exact answers_emberRound raw protection
  | hoodBoot a b common => exact answers_hoodBoot a b common
  | quenchFreeze => exact answers_quenchFreeze
  | registerWrite who d v => exact answers_registerWrite who d v
  | foreignFrame p kind => exact answers_foreignFrame p kind
  | write | readReq | readRsp | flag => exact answers_received

end Sys2Proof.Proofs
